-- ==== Sys2Proof/Word.lean ====
section
/-! DEFINITION. The plainest data of the model: bytes, sparse tables and exact numbers. -/

namespace Sys2Proof

/-- A byte of memory, of a frame or of a datagram. -/
abbrev Byte := BitVec 8

/-- A sparse table: pairs of a key and a value, keys strictly rising. -/
abbrev Sp (α : Type) := List (Nat × α)

/-- An exact number, or one of the special values of R35 to R37.
`num neg m e` is m × 2^e, negated when `neg`; m = 0 keeps the sign of zero (R34). -/
inductive FV where
  | nan
  | inf (neg : Bool)
  | num (neg : Bool) (m : Nat) (e : Int)
  deriving DecidableEq, Repr

/-- Rounding modes: to nearest even (R51), or stochastic with its 32-bit random word (R52). -/
inductive Rm where
  | rne
  | sr (u : Nat)
  deriving DecidableEq, Repr

/-- A binary floating format of Table 2.2: exponent bits, fraction bits, bias. -/
structure Flt where
  eb : Nat
  fb : Nat
  bias : Nat
  deriving DecidableEq, Repr

end Sys2Proof
end

