-- ==== Sys2Proof/Syntax.lean ====
section
/-! DEFINITION. The commands and events of the module: one constructor per row of the table of operations and events, with the values each carries. -/

namespace Sys2Proof

/-- A YCP datagram with an assigned opcode: where it came from, its header fields (Table 15.1), its parameters as a
little-endian number of `plen` bytes, and its tag. The opcode is the row's. -/
structure Datagram where
  port : Nat
  srcIp : Nat
  srcUdp : Nat
  major : Nat
  minor : Nat
  retry : Bool
  fence : Bool
  rsv : Nat
  sid : Nat
  seq : Nat
  hostTag : Nat
  plen : Nat
  params : Nat
  tag : Nat
  deriving DecidableEq, Repr

/-- A YCP datagram as it arrives, with nothing checked: the fields of `Datagram` and those that a refusal can rest on. -/
structure RawDatagram where
  d : Datagram
  opcode : Nat
  magic : Nat
  hlen : Nat
  resp : Bool
  udpLen : Nat
  dstUdp : Nat
  sumOk : Bool
  deriving DecidableEq, Repr

/-- A GFT frame (R278, Table 11.3). `tspec` holds header bits 255 to 128; `good` says that FCS and FEC are good and the
frame is not stomped; `version` and `size` head the GFT header, and `ethDst` and `ethSrc` are the Ethernet addresses, high byte
first, which the switch ignores on receipt; `lenOk` that its length matches `plen`. -/
structure Frame where
  etype : Nat
  good : Bool
  lenOk : Bool
  ftype : Nat
  cls : Nat
  sub : Bool
  mcast : Bool
  hops : Nat
  dst : Nat
  src : Nat
  lseq : Nat
  lack : Nat
  lackValid : Bool
  crdVc : Nat
  crdCells : Nat
  resent : Bool
  redo : Bool
  flow : Nat
  tspec : Nat
  payload : List Byte
  version : Nat := 1
  size : Nat := 32
  ethDst : Nat := 0
  ethSrc : Nat := 0
  deriving DecidableEq, Repr

/-- Kinds of PTP message that a time port meets (R300). -/
inductive PtpKind where
  | sync
  | followUp
  | pdelayReq
  | pdelayResp
  | pdelayRespFollowUp
  deriving DecidableEq, Repr

/-- A PTP message: the port's receive timestamp and the carried time, in units of 2^-16 ns, and its domain number. -/
structure PtpMsg where
  kind : PtpKind
  seq : Nat
  rxTime : Nat
  carried : Nat
  correction : Int
  domain : Nat := 0
  deriving DecidableEq, Repr

/-- A RoCE v2 request packet on a host port (R306). `inSubset` and `icrcOk` give the transport's own checks. -/
structure RdmaReq where
  qpn : Nat
  psn : Nat
  rkey : Nat
  addr : Nat
  length : Nat
  ce : Bool
  inSubset : Bool
  icrcOk : Bool
  data : List Byte
  deriving DecidableEq, Repr

/-- A federation datagram (R345): header of Table 15.15, data and tag as little-endian numbers. -/
structure FedDgram where
  srcIp : Nat
  header : Nat
  data : Nat
  dataLen : Nat
  tag : Nat
  deriving DecidableEq, Repr

/-- What link training finds on a port: the mask of locked lanes and the neighbour's FEC mode, module ID, port (R275) and
receive buffer cells per channel (R289). -/
structure Training where
  lanes : Nat
  peerFec : Nat
  peerId : Nat
  peerPort : Nat
  peerCells : List Nat
  deriving DecidableEq, Repr

/-- What the start-up stages meet (R520 to R523): the modulus that the PUF yields, whether each firmware bank's signature
and key verify, whether each bank's firmware reaches command-ready in time, the valid stored maps, the parts that
quick BIST fails (indices into the map), the DDR5 channels that fail training, and the result of training per port. -/
structure BootInputs where
  idModulus : Nat
  bankOk : List Bool
  bankReady : List Bool
  mapOk : List Bool
  bistFails : List Nat
  ddrFails : List Nat
  training : List (Nat × Training)
  locked : Bool
  deriving DecidableEq, Repr

/-- Sensor readings of one evaluation of the power cap (R472, R542): watts, inlet temperature in °C, input current, and whether any warning sensor is at its threshold. -/
structure Sensors where
  powerW : Nat
  inletC : Nat
  inputMa : Nat
  warnAny : Bool
  deriving DecidableEq, Repr

/-- Outcome of one read of a memory unit by the scrubber (R256, R260, R262). -/
inductive ScrubResult where
  | clean
  | corrected
  | uncorrectable
  deriving DecidableEq, Repr

/-- One constructor per row of the table. YCP commands carry their datagram; completions and expiries carry the session
and handle, port or unit they concern; frames carry the frame; unit operations carry the logical unit. -/
inductive Instr where
  | sessionHello (d : Datagram)
  | sessionOpen (d : Datagram)
  | sessionClose (d : Datagram)
  | sessionPing (d : Datagram)
  | opStatus (d : Datagram)
  | opPartial (d : Datagram)
  | opAbort (d : Datagram)
  | abortTakesEffect (sid handle : Nat)
  | capRead (d : Datagram)
  | identRead (d : Datagram)
  | attest (d : Datagram)
  | cfgHostPort (d : Datagram)
  | cfgYcp (d : Datagram)
  | cfgGrade (d : Datagram)
  | cfgRead (d : Datagram)
  | qpCreate (d : Datagram)
  | qpDestroy (d : Datagram)
  | memRegister (d : Datagram)
  | memHostKey (d : Datagram)
  | memDeregister (d : Datagram)
  | tensorImport (d : Datagram)
  | tensorImportComplete (sid handle : Nat)
  | tensorExport (d : Datagram)
  | tensorExportComplete (sid handle : Nat)
  | memCopy (d : Datagram)
  | memCopyComplete (sid handle : Nat)
  | imageLoad (d : Datagram)
  | imageLoadComplete (sid handle : Nat)
  | imageUnload (d : Datagram)
  | imageState (d : Datagram)
  | run (d : Datagram)
  | runStartTime (sid handle : Nat)
  | runComplete (sid handle : Nat)
  | scaleHistRead (d : Datagram)
  | scaleHistWrite (d : Datagram)
  | adapterSet (d : Datagram)
  | groupSet (d : Datagram)
  | caravanPeriod (d : Datagram)
  | caravanSet (d : Datagram)
  | topoWrite (d : Datagram)
  | routeWrite (d : Datagram)
  | mcastWrite (d : Datagram)
  | fabricCommit (d : Datagram)
  | fabricRead (d : Datagram)
  | timeSet (d : Datagram)
  | cmpInstall (d : Datagram)
  | cmpInstallComplete (sid handle : Nat)
  | fedMapSet (d : Datagram)
  | fedKeySet (d : Datagram)
  | moduleRetire (d : Datagram)
  | retireDeadlineExpiry (sid handle : Nat)
  | kvPoolCreate (d : Datagram)
  | kvPoolDestroy (d : Datagram)
  | kvSeqCreate (d : Datagram)
  | kvFork (d : Datagram)
  | kvPageWrite (d : Datagram)
  | kvTruncate (d : Datagram)
  | kvSeqRetire (d : Datagram)
  | kvSeqSet (d : Datagram)
  | kvTableRead (d : Datagram)
  | kvPageRead (d : Datagram)
  | telemRead (d : Datagram)
  | normRead (d : Datagram)
  | faultRead (d : Datagram)
  | accountRead (d : Datagram)
  | pwrTolSet (d : Datagram)
  | pwrBoundsSet (d : Datagram)
  | pwrCapSet (d : Datagram)
  | pwrModeSet (d : Datagram) (avsOnBoard : Bool)
  | pwrRead (d : Datagram)
  | mirageRead (d : Datagram)
  | mirageWrite (d : Datagram)
  | mirageWriteComplete (sid handle : Nat)
  | bistRun (d : Datagram)
  | bistComplete (sid handle : Nat) (fails : List Nat)
  | diagRead (d : Datagram)
  | serviceWindow (d : Datagram)
  | serviceWindowEnd
  | haboobClear (d : Datagram)
  | calibrate (d : Datagram)
  | calibrateComplete (sid handle : Nat) (ok : Bool) (results : List (Nat × Nat))
  | certEnroll (d : Datagram)
  | certPartTimeout
  | certRevoke (d : Datagram)
  | certList (d : Datagram)
  | auditRead (d : Datagram)
  | auditHead (d : Datagram)
  | fwInstall (d : Datagram)
  | fwInstallComplete (sid handle : Nat)
  | fwActivate (d : Datagram)
  | fwRead (d : Datagram)
  | mfgTest (d : Datagram)
  | sessionIdleExpiry (sid : Nat)
  | provisionalSessionExpiry (sid : Nat)
  | preemptionHold (sid handle kind unit : Nat)
  | preemptionRelease (sid handle kind unit : Nat)
  | mm (me : Nat)
  | mmTwin (me : Nat)
  | mmWin (me : Nat)
  | mmSplit (me : Nat)
  | drain (me : Nat)
  | chain (ve : Nat)
  | core (gc : Nat)
  | ttFence (gc ht : Nat)
  | ctrWait (gc ht rs1 rs2 : Nat)
  | ctrWaitEnd (gc ht : Nat)
  | carWait (gc ht rs1 rd : Nat)
  | carWaitEnd (gc ht : Nat)
  | descXlt (gc ht rs1 rs2 rd : Nat)
  | amoaddW (gc ht rs1 rs2 rd : Nat)
  | ecall (gc ht : Nat)
  | lend (kind unit : Nat)
  | attFwd (as : Nat)
  | attBwd (as : Nat)
  | attAppend (as : Nat)
  | attCommit (as : Nat)
  | flush (seq stream : Nat)
  | elementPass (uu : Nat)
  | factorPass (uu : Nat)
  | repeatedElementPasses (uu : Nat)
  | stemEmbed (st : Nat)
  | stemWeightGradient (st : Nat)
  | copy (xe : Nat)
  | spill (xe : Nat)
  | fill (xe : Nat)
  | zero (xe : Nat)
  | tileThreadCommit (thread : Nat)
  | deadlockDetected
  | stepBoundary
  | caravanDeparture (entry : Nat)
  | wakeHoldExpiry
  | wgbDrain (me slot : Nat)
  | stragglerLeaf (coll chunk leaf : Nat)
  | modulePartial (coll chunk : Nat)
  | graceSubstitution (coll chunk : Nat)
  | reduceFrame (f : Frame)
  | replayReq (f : Frame)
  | deliver (f : Frame)
  | chunkAck (f : Frame)
  | recordItemsSend (coll : Nat)
  | normRec (f : Frame)
  | shardPublication (pub shard : Nat)
  | publish (f : Frame)
  | bwdAckSend
  | bwdAck (f : Frame)
  | checkpointCopy (pair : Nat)
  | stageLinkSend (link : Nat)
  | stageLinkFrame (f : Frame)
  | recutMovesSend (list : Nat)
  | recutMoveFrame (f : Frame)
  | recutStageCopy (list : Nat)
  | federationDeltaSend (range slice : Nat)
  | delta (port : Nat) (g : FedDgram)
  | federationCombine (range slice : Nat)
  | result (port : Nat) (g : FedDgram)
  | federationResultTimeout (range slice : Nat)
  | federationResendTimer (range slice : Nat)
  | ack (port : Nat) (g : FedDgram)
  | frameForward (port : Nat) (f : Frame)
  | link (port : Nat) (f : Frame)
  | retryRequest (port : Nat) (f : Frame)
  | replayTimeout (port : Nat)
  | lackReportTimer (port : Nat)
  | creditReturnTimer (port : Nat)
  | linkTraining (port : Nat) (t : Training)
  | trainingRetryTimer (port : Nat)
  | laneFailure (port lane : Nat)
  | laneSubstitution (port : Nat) (f : Frame)
  | slotReport (port : Nat) (f : Frame)
  | slotReportTimer (port : Nat)
  | release (port : Nat) (f : Frame)
  | releaseTimer (port : Nat)
  | width (port : Nat) (f : Frame)
  | widthAnswerTimeout (port : Nat)
  | quiet (port : Nat) (f : Frame)
  | wakeBurst (port : Nat)
  | ptpMessage (port : Nat) (m : PtpMsg)
  | syncTimeout (port : Nat)
  | rdmaWrite (port : Nat) (r : RdmaReq)
  | rdmaRead (port : Nat) (r : RdmaReq)
  | roceAckTimeout (qpn : Nat)
  | cnp (qpn : Nat)
  | rateIncreaseTimer (qpn : Nat)
  | arpRequest (port ip senderIp senderMac : Nat)
  | neighbourSolicitation (port ip senderIp senderMac : Nat)
  | echoRequest (port srcIp dstIp ident seqNo : Nat) (data : List Byte)
  | dwellExpiry
  | wakeEvent (source : Nat)
  | caravanWakeLead
  | powerCapEval (r : Sensors)
  | voltageSettled (die milliV : Nat)
  | avsTimeout (die : Nat)
  | thermalWarning (kind index tempC : Nat)
  | thermalRelease
  | thermalCritical (kind index tempC : Nat)
  | unitFaultDetected (kind scope phys : Nat)
  | noProgressTimeout (kind scope phys : Nat)
  | wgbCopyComplete (me : Nat)
  | bankFailure (field bank : Nat)
  | bankRebuildComplete (field bank : Nat)
  | pseudoChannelFailure (stack pc : Nat)
  | pseudoChannelRebuildDone (stack pc : Nat)
  | stackMigrationStart (stack : Nat)
  | stackMigrationComplete (stack : Nat)
  | stackLoss (stack : Nat)
  | regulatorPhaseFault (rail phase : Nat)
  | ddr5ChannelFailure (channel : Nat)
  | peerLossDeclared (peer : Nat)
  | loss (f : Frame)
  | retire (f : Frame)
  | retireAck (f : Frame)
  | mirageMapFlashWrite
  | scrub (tier addr : Nat) (r : ScrubResult)
  | spareBist (fails : List Nat)
  | fullMemoryTest (fails : List Nat)
  | powerGood (b : BootInputs)
  | bootWatchdog
  | rstNRise (lowNs : Nat) (b : BootInputs)
  | presentMate (inputMv : Nat)
  | presentBreak
  | undervoltage (inputMv : Nat)
  | overcurrentTrip (inputMa : Nat)
  | ycpDatagramRefused (r : RawDatagram)
  | otherHostPortFrame (port : Nat)
  | roceAcknowledge (qpn psn : Nat) (syndrome : Nat)
  | pfcPause (port priority quanta : Nat)
  | hostPortFailure (port : Nat)
  | overvoltage (inputMv : Nat)
  | reducedCap (inputMv inputMa : Nat)
  | mfgTestComplete (sid handle : Nat)
  | checkpointComplete
  | avsRetry (die : Nat)
  | pmbAlert (die status : Nat)
  deriving DecidableEq, Repr

end Sys2Proof
end

