-- ==== Sys2Proof/Decode.lean ====
section
/-! DEFINITION. The table of operations and events gives no row any bits, so a table word spells no command. -/

namespace Sys2Proof

/-- No row of the table has an encoding: commands arrive as the datagrams, frames and events of `Instr`. -/
def decodeTableWord (_nbits _w : Nat) : Option Instr := none

end Sys2Proof
end

