-- ==== Sys2Proof/Machine/Bits.lean ====
section
/-! DEFINITION. Bit fields, byte order, sparse tables and small integer helpers (R10, R11). -/

namespace Sys2Proof.Machine

/-- Bits [lo+w-1 : lo] of n, bit 0 least significant. -/
def bits (n lo w : Nat) : Nat := (n >>> lo) % 2 ^ w

/-- Bit i of n. -/
def bitAt (n i : Nat) : Bool := (n >>> i) % 2 == 1

/-- A word built from fields (lowest bit, width, value); fields do not overlap. -/
def pack : List (Nat × Nat × Nat) → Nat
  | [] => 0
  | (lo, w, v) :: r => ((v % 2 ^ w) <<< lo) + pack r

/-- 1 for true. -/
def b2n (b : Bool) : Nat := if b then 1 else 0

/-- The k low bytes of n, lowest first (R10). -/
def leBytes : Nat → Nat → List Byte
  | 0, _ => []
  | k + 1, n => BitVec.ofNat 8 n :: leBytes k (n >>> 8)

/-- The number whose little-endian bytes are given. -/
def ofLe : List Byte → Nat
  | [] => 0
  | b :: r => b.toNat + (ofLe r <<< 8)

/-- The number whose big-endian bytes are given. -/
def ofBe (l : List Byte) : Nat := l.foldl (fun a b => (a <<< 8) + b.toNat) 0

/-- The k low bytes of n, highest first. -/
def beBytes (k n : Nat) : List Byte := (leBytes k n).reverse

def ceilDiv (a b : Nat) : Nat := (a + b - 1) / b

/-- The least k with n ≤ 2^k. -/
def ceilLog2 (n : Nat) : Nat := if n ≤ 1 then 0 else Nat.log2 (n - 1) + 1

/-- Two's complement reading of the low w bits. -/
def toSigned (w n : Nat) : Int :=
  let v := n % 2 ^ w
  if v < 2 ^ (w - 1) then (v : Int) else (v : Int) - (2 ^ w : Nat)

/-- Two's complement encoding in w bits. -/
def ofSigned (w : Nat) (i : Int) : Nat := (i % (2 ^ w : Nat)).toNat

/-- i clamped to [lo, hi]. -/
def clampI (lo hi i : Int) : Int := if i < lo then lo else if i > hi then hi else i

/-- A count in w bits that saturates (R452). -/
def satAdd (w a b : Nat) : Nat := min (a + b) (2 ^ w - 1)

/-- A count in w bits that wraps (R434). -/
def wrapAdd (w a b : Nat) : Nat := (a + b) % 2 ^ w

/-! Sparse tables. -/

def spGet? {α : Type} (k : Nat) : Sp α → Option α
  | [] => none
  | (j, v) :: r => if j == k then some v else spGet? k r

def spGet {α : Type} (d : α) (k : Nat) (l : Sp α) : α := (spGet? k l).getD d

def spSet {α : Type} (k : Nat) (v : α) : Sp α → Sp α
  | [] => [(k, v)]
  | (j, w) :: r =>
    if k < j then (k, v) :: (j, w) :: r
    else if k == j then (k, v) :: r
    else (j, w) :: spSet k v r

def spDel {α : Type} (k : Nat) (l : Sp α) : Sp α := l.filter (fun p => p.1 != k)

/-- Store v, or remove the entry when v is the table's default. -/
def spPut {α : Type} [BEq α] (d : α) (k : Nat) (v : α) (l : Sp α) : Sp α :=
  if v == d then spDel k l else spSet k v l

def spMod {α : Type} [BEq α] (d : α) (k : Nat) (f : α → α) (l : Sp α) : Sp α :=
  spPut d k (f (spGet d k l)) l

/-- Keys strictly rising. -/
def spSorted {α : Type} : Sp α → Bool
  | [] => true
  | [_] => true
  | (i, _) :: (j, v) :: r => decide (i < j) && spSorted ((j, v) :: r)

/-- The smallest number at or above n that is not in the list, found within its length. -/
def freshFrom (n : Nat) (used : List Nat) : Nat :=
  ((List.range (used.length + 1)).map (fun i => n + i)).find? (fun x => !used.contains x) |>.getD n

/-- Replace element i of a list, when there is one. -/
def setAt {α : Type} (l : List α) (i : Nat) (v : α) : List α := l.set i v

/-- Keep the k newest elements of a list that is oldest first. -/
def keepLast {α : Type} (k : Nat) (l : List α) : List α := l.drop (l.length - k)

/-- The permutation of [0, n) that a code names (factorial number system). -/
def permOf : Nat → List Nat → Nat → List Nat
  | 0, _, _ => []
  | n + 1, rest, code =>
    let k := code % rest.length
    match rest[k]? with
    | none => []
    | some x => x :: permOf n (rest.eraseIdx k) (code / rest.length)

/-- l in the order that a code names: every order has a code. -/
def reorder {α : Type} (code : Nat) (l : List α) : List α :=
  (permOf l.length (List.range l.length) code).filterMap (fun i => l[i]?)

end Sys2Proof.Machine
end

