-- ==== Sys2Proof/Machine/Types.lean ====
section
/-! DEFINITION. The parts of the module's state, each a plain record of the chapter that names it. Tables the spec lays out
by bits are held as little-endian numbers and read by `bits`. -/

namespace Sys2Proof.Machine

/-- One memory tier: sorted cells, an unlisted byte reads 0. -/
abbrev Mem := List Host.Cell

/-! Identity, settings, certificates, firmware and logs (chapters 15, 16, 19 to 21). -/

/-- What manufacture and signed flash fix, and the settings kept across power-off (R4, R305, R509, R519). -/
structure Settings where
  serial : Nat
  macH0 : Nat
  macH1 : Nat
  macM0 : Nat
  idE : Nat
  idN : Nat
  mfgGrade : Nat
  grade : Nat
  hostPorts : List Nat
  ycpUdp : Nat
  idleS : Nat
  deriving DecidableEq, Repr

/-- One firmware bank: its image as numbers of the header fields, its trust payload and SHA-256 (R513, R514). -/
structure FwBank where
  valid : Bool
  writing : Bool
  version : Nat
  floorSet : Nat
  keyIndex : Nat
  buildDate : Nat
  hash : Nat
  trust : List (List Byte)
  hasTrust : Bool
  failedBoot : Bool
  deriving DecidableEq, Repr

structure Firmware where
  bankA : FwBank
  bankB : FwBank
  active : Nat
  next : Nat
  floor : Nat
  deriving DecidableEq, Repr

/-- A certificate held in an area of signed flash (R506, R507); role 1 operator, 2 installer, 3 maker. -/
structure Cert where
  fp : Nat
  role : Nat
  key : Nat
  notBefore : Nat
  notAfter : Nat
  revoked : Bool
  deriving DecidableEq, Repr

/-- A certificate part staged by CERT_ENROLL (R437). -/
structure CertPart where
  sid : Nat
  time : Nat
  data : List Byte
  deriving DecidableEq, Repr

structure Security where
  trust : List Cert
  enrol : List Cert
  trustedDate : Nat
  staged : Option CertPart
  windowEnd : Option Nat
  deriving DecidableEq, Repr

/-- The audit chain: entries as numbers of 128 bytes, oldest first, the next index, and whether it can be written (R515 to R517). -/
structure Audit where
  entries : List Nat
  next : Nat
  chain : Nat
  writable : Bool
  deriving DecidableEq, Repr

/-- A fault log entry: the fields of Table 19.5 and the body with its length (R500, R501). -/
structure FaultEntry where
  seq : Nat
  event : Nat
  kind : Nat
  scope : Nat
  phys : Nat
  logical : Nat
  time : Nat
  step : Nat
  body : Nat
  bodyLen : Nat
  deriving DecidableEq, Repr

/-- The fault log, oldest first, and the next sequence number (R500, R501). -/
structure FaultLog where
  entries : List FaultEntry
  next : Nat
  deriving DecidableEq, Repr

/-! Sessions and operations (chapters 15 and 17). -/

/-- A reply as sent: head fields, body and its length in bytes. -/
structure Reply where
  code : Nat
  warn : Bool
  handle : Nat
  body : Nat
  blen : Nat
  deriving DecidableEq, Repr

/-- What leaves the module, oldest first. -/
inductive Emission where
  | ycp (port ip udp sid seq opcode hostTag : Nat) (r : Reply) (tag : Nat)
  | frame (port : Nat) (f : Frame)
  | ptp (port kind seq : Nat) (time clockId domain : Nat) (arb : Bool)
  | rdmaAck (port qpn psn syndrome : Nat)
  | rdmaData (port qpn psn : Nat) (data : List Byte)
  | rdmaWrite (port qpn psn rkey addr : Nat) (data : List Byte)
  | cnp (port qpn : Nat)
  | fed (port ip udp header : Nat) (data : Nat) (dataLen tag : Nat)
  | arpReply (port ip mac toIp toMac : Nat)
  | echoReply (port ip toIp ident seqNo : Nat) (data : List Byte)
  | wakeBurst (port : Nat)
  | avsWrite (die milliV : Nat)
  deriving DecidableEq, Repr

/-- A provisional session (R391, R392). -/
structure ProvSession where
  sid : Nat
  port : Nat
  ip : Nat
  udp : Nat
  role : Nat
  prio : Nat
  fp : Nat
  nH : Nat
  nM : Nat
  major : Nat
  minor : Nat
  helloParams : Nat
  replyParams : Nat
  expires : Nat
  deriving DecidableEq, Repr

/-- A recorded command number with its cached reply, none until it is sent (R397, R398). -/
structure SeqRec where
  seq : Nat
  opcode : Nat
  hostTag : Nat
  reply : Option Reply
  deriving DecidableEq, Repr

/-- A long operation (R402 to R404); `state` as Table 15.6 numbers it. It stays here after its session ends until an abort
has taken effect. `queuedAwake` is the time outside the low states at which its waiting began (R456); `holds` are the units that it holds as
a pre-emptor, and `holdBy` the pre-emptors that hold it, each as session, handle and the time at which the hold took effect (R452). -/
structure Op where
  sid : Nat
  handle : Nat
  prio : Nat
  role : Nat
  cert : Nat
  opcode : Nat
  order : Nat
  state : Nat
  progress : Nat
  code : Nat
  warn : Bool
  moreWarns : Nat
  part : Bool
  aborting : Bool
  slotHeld : Bool
  params : Nat
  queuedAt : Nat
  queuedAwake : Nat
  started : Bool
  holds : List (Nat × Nat)
  holdBy : List (Nat × Nat × Nat)
  haboobHeld : Bool
  deriving DecidableEq, Repr

/-- A registered key: region key, window key or host key (R307, R421, Table 16.4). -/
structure RKey where
  key : Nat
  kind : Nat
  r : Bool
  w : Bool
  addr : Nat
  length : Nat
  qpn : Nat
  valid : Bool
  deriving DecidableEq, Repr

/-- The accounting record of a session (Table 17.2). -/
structure Account where
  sid : Nat
  role : Nat
  prio : Nat
  live : Bool
  opened : Nat
  commands : Nat
  longOps : Nat
  queueNs : Nat
  preempts : Nat
  preemptsCaused : Nat
  lostNs : Nat
  windowFull : Nat
  deriving DecidableEq, Repr

/-- A live session (R393 to R402). `fenced` holds accepted commands that wait (R400). -/
structure Session where
  sid : Nat
  port : Nat
  ip : Nat
  udp : Nat
  role : Nat
  prio : Nat
  fp : Nat
  major : Nat
  minor : Nat
  kHm : Nat
  kMh : Nat
  hi : Nat
  recs : List SeqRec
  slots : Nat
  nextHandle : Nat
  keys : List RKey
  lastAuth : Nat
  acct : Account
  fenced : List Instr
  deriving DecidableEq, Repr

structure Sessions where
  live : List Session
  prov : List ProvSession
  ended : List Account
  ops : List Op
  helloTimes : List Nat
  opOrder : Nat
  resuming : Bool
  deriving DecidableEq, Repr

/-! Host ports (R305 to R309). -/

/-- A RoCE v2 queue pair (R306, R308). -/
structure Qp where
  qpn : Nat
  sid : Nat
  port : Nat
  pmtu : Nat
  timeout : Nat
  retry : Nat
  peerQpn : Nat
  peerGid : Nat
  peerMac : Nat
  sendPsn : Nat
  recvPsn : Nat
  retries : Nat
  inFlight : List (Nat × Nat × Nat × List Byte)
  rate : Nat
  lastCnp : Nat
  failed : Bool
  deriving DecidableEq, Repr

/-- A host port's state and its telemetry (block 3 of Table 16.13). `paused` holds the priorities that a peer has paused, with the
fabric time at which each pause ends, and `held` the RoCE v2 packets that wait meanwhile (Table 11.10). -/
structure HostPort where
  up : Bool
  paused : Sp Nat
  held : List Emission := []
  ycpDiscards : Nat
  accessErrors : Nat
  naksSent : Nat
  cnpsSent : Nat
  cnpsReceived : Nat
  fedDiscards : Nat
  otherDiscards : Nat
  deriving DecidableEq, Repr

structure HostIo where
  ports : List HostPort
  qps : List Qp
  deriving DecidableEq, Repr

/-! Memory and repair (chapters 10 and 19). -/

/-- The tiers' bytes and the units that fail to read (R249, R262): bad units are HBM code words, scratchpad lines and DDR5 64-byte
words; `lostGroups` are code groups (logical stack, group) with two segments missing (R256), `ddrOut` the dies whose half of
the DDR5 tier is out of service (R261), `rewritten` the code words of lost groups that a write has since covered whole,
`corrected` the correctable code words read by logical stack, and `spadCorrected` the single-bit errors of the scratchpad (R260). -/
structure Memory where
  lostGroups : List (Nat × Nat)
  rewritten : List Nat
  spad : Mem
  hbm : Mem
  ddr : Mem
  badSpad : List Nat
  badHbm : List Nat
  badDdr : List Nat
  corrected : Sp Nat
  spadCorrected : Nat
  ddrOut : List Nat
  deriving DecidableEq, Repr

/-- A copy of the mirage map: generation, SUB_STOP, LAST_FAULT, and the entries that differ from the unsubstituted placement
as (logical, state) by part (R477, R478). -/
structure MapCopy where
  gen : Nat
  subStop : Bool
  lastFault : Nat
  entries : Sp (Nat × Nat)
  deriving DecidableEq, Repr

/-- The mirage map in force, the copies in the two repair areas, the map that MIRAGE_WRITE has written, the bytes it has
staged, and whether a changed map waits for flash (R476, R479, R480, R436). -/
structure Mirage where
  gen : Nat
  subStop : Bool
  lastFault : Nat
  entries : Sp (Nat × Nat)
  dirty : Bool
  writing : Bool
  staged : List Byte
  written : Option MapCopy
  stored : List (Option MapCopy)
  deriving DecidableEq, Repr

/-- Repairs under way and the haboob condition (R257, R258, R486, R489, R497 to R499). `degraded`: stack and failed pseudo-channel;
`rebuilding`: stack, pseudo-channel, spare; `bankRebuild`: field and bank; `migrating`: stack and spare; `wgbCopy`: engines
whose WGB is being copied; `faultTimes`: time and log number of each counted fault; `pending`: parts that failed while the
condition stands, as kind, scope and logical index; `unsub`: logical parts with nothing in their place; `corrRecent`: correctable
code words of a stack within the last 24 hours, as time and number (R490); `calib`: calibration results by target (R502). -/
structure Repair where
  degraded : List (Nat × Nat)
  rebuilding : List (Nat × Nat × Nat)
  bankRebuild : List (Nat × Nat)
  migrating : List (Nat × Nat)
  wgbCopy : List Nat
  faultTimes : List (Nat × Nat)
  haboob : Bool
  pending : List (Nat × Nat × Nat)
  unsub : List (Nat × Nat)
  corrRecent : Sp (List (Nat × Nat))
  calib : Sp (List (Nat × Nat))
  deriving DecidableEq, Repr

/-! The step image (chapters 5 to 10, 12, 14, 16). -/

/-- A queue of tile-thread entries, each a number of 512 bits (R116, R118). -/
structure Queue where
  kind : Nat
  unit : Nat
  entries : List Nat
  deriving DecidableEq, Repr

/-- A re-cut list: head, tensor entries and move entries as numbers (R370). -/
structure Recut where
  head : Nat
  tensors : List Nat
  moves : List Nat
  deriving DecidableEq, Repr

/-- The caravan section (R310, R312, R316, R338, R342, R343). -/
structure CaravanSec where
  period : Nat
  entries : List Nat
  colls : List Nat
  groups : List (List Nat)
  pubs : List Nat
  ckpts : List (List Nat)
  fedHead : Nat
  fedRanges : List Nat
  deriving DecidableEq, Repr

/-- A resident step image, its sections decoded (R24, R424). `doubles` lists the descriptors double-buffered by version, and
`states` those that clip mode 2 adds (R554). -/
structure Image where
  tag : Nat
  hash : Nat
  regions : List Nat
  queues : List Queue
  chainArea : List Byte
  descs : List Nat
  owners : List (List Nat × List Nat)
  mapHead : Nat
  links : List Nat
  recuts : List Recut
  experts : List Nat
  readers : List Nat
  car : CaravanSec
  recipes : Sp (List Byte)
  groupHead : Nat
  groups : List Nat
  wgbMap : List (List Nat)
  funcs : Sp (List Byte)
  ledger : List Nat
  adapters : List Nat
  scaleInit : List (Nat × List Byte)
  doubles : List Nat
  states : List Nat
  deriving DecidableEq, Repr

/-! The run (chapters 5, 10, 12, 16). -/

/-- A step record of Table 16.9. -/
structure StepRec where
  step : Nat
  code : Nat
  warn : Bool
  valid : Bool
  reduced : Bool
  origin : Nat
  endNs : Nat
  late : Nat
  replays : Nat
  deriving DecidableEq, Repr

/-- A unit's queue position: next entry to issue, issued entries that a spare issues again (R485), STEP_END retired, and the oldest
executing thread, for whose commit an entry waits that met the unit's limit (R119). -/
structure QPos where
  next : Nat
  again : List Nat
  retired : Bool
  behind : Option Nat := none
  deriving DecidableEq, Repr

/-- A write that a tile thread makes at its commit (R484): bytes at device virtual addresses. -/
structure Write where
  addr : Nat
  bytes : List Byte
  deriving DecidableEq, Repr

/-- A WGB read-modify-write held in the commit buffer: slot and the 4,096 P40 products of a chunk. -/
structure WgbAdd where
  me : Nat
  slot : Nat
  vals : List Nat
  deriving DecidableEq, Repr

/-- A finished or executing tile thread (R119, R484): where it came from, what it writes, what it adds in P40 at addresses (in order),
what it records, and its outcome; the rows that an attention thread appends or the area that a fill
restores, an accept list, and its masses as pool, page and m16. -/
structure InFlight where
  thread : Nat
  kind : Nat
  unit : Nat
  qidx : Nat
  entry : Nat
  done : Bool
  writes : List Write
  wgb : List WgbAdd
  adds : List (Nat × Nat)
  amax : List (Nat × Nat)
  nf : Sp Nat
  sat : Sp Nat
  replays : Sp Nat
  warn : Nat
  fail : Nat
  failAddr : Nat
  failCause : Nat
  rows : List (List Byte)
  accept : List Nat
  masses : List (Nat × Nat × Nat)
  deriving DecidableEq, Repr

/-- A general core's hardware thread (R137, R138): registers, wait state, the reservation of `LR` as address, size and value,
and the counters it has added to (R143). -/
structure HThread where
  thread : Nat
  pc : Nat
  x : List Nat
  f : List Nat
  v : List Nat
  fcsr : Nat
  vcsr : Nat
  vl : Nat
  vtype : Nat
  vstart : Nat
  cycle : Nat
  instret : Nat
  waitCtr : Option (Nat × Nat)
  waitCar : Option (Nat × Nat)
  resv : Option (Nat × Nat × Nat)
  adds : Sp Nat
  deriving DecidableEq, Repr

/-- The run in progress or last ended, with the run-scoped state of R427; `lastBegun` is the last step number begun (Table 16.7);
`lends` are engines on loan, as kind, unit, thread and borrowing sequencer (R122); `htNext` the hardware thread from which a core looks
for the next that is ready (R138), and `vls` the VL register of each vector engine (R128). -/
structure RunState where
  active : Bool
  sid : Nat
  handle : Nat
  seed : Nat
  step0 : Nat
  steps : Nat
  n : Nat
  origin : Nat
  step : Nat
  count : Nat
  lastBegun : Nat
  begun : Bool
  finishing : Bool
  lastN : Nat
  lastOk : Bool
  everRun : Bool
  queues : List QPos
  inflight : List InFlight
  threads : Sp HThread
  lends : List (Nat × Nat × Nat × Nat)
  htNext : Sp Nat
  vls : Sp Nat
  counters : Sp Nat
  totals : Sp (Sp Nat)
  ledger : Sp (Nat × Nat)
  records : List StepRec
  stepCode : Nat
  stepWarn : Bool
  late : Nat
  replays : Nat
  wrote : Bool
  emptyView : Bool
  retireAt : Option Nat
  deriving DecidableEq, Repr

/-- Scales while a step runs: amax per tensor in P40, per-tile overflow events, telemetry of block 4, tensors that have appended, the saturation counts of the
step's tiles, tensors that the step has converted into, and those whose entries have been exchanged since their history was cleared
(R54, R65, R66, R68, R69, R73, R74, R100). -/
structure Scales where
  amax : Sp Nat
  events : Sp Nat
  appended : List Nat
  nextScale : Sp Nat
  replays : Sp Nat
  nonfinite : Sp Nat
  saturated : Sp Nat
  tileSats : Sp Nat
  converted : List Nat
  exchanged : List Nat
  formatErrors : Nat
  extraWarnings : Nat
  shortResets : Nat
  deriving DecidableEq, Repr

/-! Matrix engines (chapter 4 and 8). -/

/-- A WGB slot: state of Table 8.3, DONE, contents as P40 encodings, drain progress and acknowledged chunks. -/
structure WgbSlot where
  st : Nat
  done : Nat
  vals : List Nat
  acked : List Nat
  ssq : Nat
  late : Bool
  addedBy : List (Nat × Nat)
  deriving DecidableEq, Repr

/-- A pass in the accumulator sets of the two arrays (R103, R104): their words in P40 or INT32, and the clamps of each tile. -/
structure LivePass where
  thread : Nat
  entry : Nat
  set0 : List Nat
  set1 : List (List Nat)
  sat : List Nat
  deriving DecidableEq, Repr

/-- U of one M tile in the adapter lane (R108, R111): the A operand and its orientation, the M tile, the variant entry, and U in BF16
by row and rank column. -/
structure UBuf where
  a : Nat
  trans : Bool
  mt : Nat
  variant : Nat
  vals : List (List Nat)
  deriving DecidableEq, Repr

/-- The window front end (Table 6.1): the view whose lines it holds, the two halves of the line store, as source index and raw unit, and the half that feeds; the
frame slots by temporal tap, as source frame and lines held; the two banks of the window register, as raw units, and the one that feeds. -/
structure WindowFront where
  view : Nat
  halves : List (List (Nat × Nat))
  half : Nat
  slots : List (Nat × List Nat)
  banks : List (List Nat)
  bank : Nat
  deriving DecidableEq, Repr

/-- One logical matrix engine (Table 4.1): the pass in its live sets and the one last taken into its shadow sets, its U buffers, its
window front end, and its weight-gradient buffer. A swap makes the live pass the shadow one and clears the live sets (R103). -/
structure MatrixEngine where
  live : Option LivePass
  shadow : Option LivePass
  ubufs : List UBuf
  front : WindowFront
  wgb : Sp WgbSlot
  deriving DecidableEq, Repr

/-! Attention and KV (chapter 7). -/

/-- A page-state entry (Table 7.11). -/
structure PageState where
  ref : Nat
  score : Nat
  free : Bool
  lastEpoch : Nat
  deriving DecidableEq, Repr

/-- A defined pool: its record, page states that differ from reset, and table units in use with their deferred frees (R183, R194). -/
structure Pool where
  record : Nat
  pages : Sp PageState
  units : Nat
  deferred : List (Nat × Nat × Nat)
  deriving DecidableEq, Repr

/-- A live sequence: record of Table 7.12, its leaves, each a list of page entries per stream (R184), and the first unit of 256 B of each
leaf in the pool's table area. -/
structure KvSeq where
  pool : Nat
  gen : Nat
  hostTag : Nat
  budget : Nat
  sink : Nat
  recent : Nat
  dir : Nat
  leaves : List (List Nat)
  leafAt : List Nat
  deriving DecidableEq, Repr

/-- A walk pin: thread, sequence, stream, epoch stamp (R187). -/
structure Pin where
  thread : Nat
  seq : Nat
  stream : Nat
  epoch : Nat
  deriving DecidableEq, Repr

/-- A committing thread that edits cisterns (R189 to R192): the stream it fills and the rows still to enter, or the streams
still to commit with the accepted candidates. -/
structure KvWait where
  thread : Nat
  seq : Nat
  stream : Nat
  rows : List (List Byte)
  streams : List Nat
  accept : List Nat
  deriving DecidableEq, Repr

structure KvState where
  pools : Sp Pool
  seqs : Sp KvSeq
  epoch : Nat
  pins : List Pin
  masses : List (Nat × Nat × Nat × Nat)
  waiting : List KvWait
  deriving DecidableEq, Repr

/-! Reductions, records, publication and versions (chapters 12 and 14). -/

/-- A partial of a chunk in P40 or Q16: values, block exponents and flags, and the sums that travel with it (Table 12.6). -/
structure Partial where
  q16 : Bool
  vals : List Nat
  exps : List Nat
  flags : List Nat
  maxe : Nat
  ssq : Nat
  ncont : Nat
  nstale : Nat
  deriving DecidableEq, Repr

/-- A defer accumulator taken into a partial: P40 values, sum of squares, contributions (R318, R333). -/
structure Carry where
  vals : List Nat
  ssq : Nat
  count : Nat
  deriving DecidableEq, Repr

/-- One chunk of a collective on this module (R316 to R334). `own0`, `own1`, `rho` and `absent` (positions) are fixed at LAUNCH
(R373), with the place `ring` in the exponent history; `leaves` have drained, or were ready when their step ended, in order; `done` says that the module's own partial, of the leaves `used`, is in the tree;
`late` leaves are stragglers that are settled; `parts` are the partials held here by node (first position, level), in arrival
order, with the module's own among them, and `subst` the nodes that this site substituted; `formed` that the highest node of this site has left or is the root; the `rpl` fields
are those of a block replay (exponent 0 for none). -/
structure ChunkRt where
  coll : Nat
  chunk : Nat
  step : Nat
  launched : Bool
  own0 : Nat
  own1 : Nat
  rho : Nat
  absent : List Nat
  ring : Nat
  exp : Nat
  leaves : List Nat
  done : Bool
  used : List Nat
  late : List Nat
  carry : Option Carry
  parts : List (Nat × Nat × Partial)
  halves : List (Nat × Nat × Nat × List Nat)
  subst : List (Nat × Nat)
  formed : Bool
  redo : Bool
  rplExp : Nat
  rplBlocks : Nat
  rplParts : List (Nat × Nat × Partial)
  rplFormed : Bool
  rootPart : Option Partial
  replayed : Bool
  landed : Bool
  acked : Bool
  delivered : List (Nat × List Byte)
  deriving DecidableEq, Repr

/-- A collective of a step: launched, its deadline's departure, whether its acknowledgement has been counted; for a record
collective, the frames seen (source, number, last), the items received, and its own entries as they were sent: tensor, number of
entries, ring head (R67, R336, R337). -/
structure CollRt where
  coll : Nat
  step : Nat
  launched : Bool
  deadline : Option Nat
  ackDone : Bool
  itemsSent : Bool
  frames : List (Nat × Nat × Bool)
  items : List Nat
  snap : List (Nat × Nat × Nat × List Nat)
  complete : Bool
  deriving DecidableEq, Repr

/-- A chunk's defer accumulator: the deferred leaves with their values and sums of squares (R333). -/
structure Deferred where
  coll : Nat
  chunk : Nat
  vals : Sp (List Nat)
  ssq : Sp Nat
  deriving DecidableEq, Repr

/-- A step that the module has left while departures of it are due (R314, R315): its number, count and origin, the caravan entries in
force, and the memory sources, as collective and leaf, whose counters had reached their values. -/
structure PastStep where
  step : Nat
  count : Nat
  origin : Nat
  entries : List Nat
  ready : List (Nat × Nat)
  deriving DecidableEq, Repr

/-- Reductions: `past` are steps left with departures due, oldest first; `lost` and `retired` are modules treated as absent, and `leaving` those that retire at a step to come; `departures` are entries departed with their step and time;
`early` are entries of the next step whose action waits for the boundary (R315); `ring` counts reducing steps since load. -/
structure Reductions where
  colls : List CollRt
  chunks : List ChunkRt
  deferred : List Deferred
  lost : List Nat
  retired : List Nat
  leaving : List (Nat × Nat)
  departures : List (Nat × Nat × Nat)
  past : List PastStep
  early : List Nat
  ring : Nat
  deriving DecidableEq, Repr

/-- Version state of a shard (Table 14.7); the version of the stream that is landing, its frames as offset and bytes, and its length once
known (R341); the shard's owner table entry and version at its `PUBLISH` departure, and whether it has been published (R373). -/
structure ShardVer where
  pub : Nat
  shard : Nat
  cur : Nat
  pubStep : Nat
  half0 : Nat
  half1 : Nat
  rxVer : Nat
  frames : List (Nat × Nat)
  total : Option Nat
  departed : Option Nat
  pver : Nat
  sent : Bool
  deriving DecidableEq, Repr

/-- Update, norm and noise state (chapter 8). -/
structure NormEntry where
  group : Nat
  wValid : Bool
  gValid : Bool
  uValid : Bool
  rValid : Bool
  step : Nat
  wNorm : Nat
  gNorm : Nat
  uNorm : Nat
  ratio : Nat
  deriving DecidableEq, Repr

structure NoiseEntry where
  group : Nat
  samples : Nat
  step : Nat
  g2 : Nat
  tr : Nat
  bNoise : Nat
  rawG2 : Nat
  rawTr : Nat
  deriving DecidableEq, Repr

/-- Updates of a step: `counts` is t of each group and `counted` the groups that have counted this step (R213); `g2` is G² in P40 once
every record has come, with the factor `clip`; `repeats` are the units that have run their repeated passes (R220); then the norm
table's header, the two tables, and the sums of shards with their publication as publish entry, shard, version, W and Δw (R223 to R226). -/
structure UpdateState where
  counts : List Nat
  counted : List Nat
  g2 : Option Nat
  clip : Nat
  repeats : List Nat
  normStep : Nat
  gGlobal : Nat
  clipC : Nat
  clips : Nat
  redone : Nat
  oldFactors : Sp (List Nat)
  valid : Bool
  norms : List NormEntry
  noise : List NoiseEntry
  pubNorms : List (Nat × Nat × Nat × Nat × Nat)
  deriving DecidableEq, Repr

structure Versions where
  shards : List ShardVer
  expected : Sp Nat
  local_ : Sp Nat
  cur : Sp Nat
  acks : Sp Nat
  ackSent : Bool
  deriving DecidableEq, Repr

/-- Pending changes of tables taken at a boundary or origin (R429, R431). -/
structure Pending where
  groupSets : List Nat
  adapterSets : List Nat
  caravanOps : List (Nat × Nat × Nat × Nat)
  deriving DecidableEq, Repr

/-- A stream of `BULK` frames that comes in: the stage link or move, its step, frames as offset and bytes, and its length once known. -/
structure Stream where
  idx : Nat
  step : Nat
  frames : List (Nat × Nat)
  total : Option Nat
  deriving DecidableEq, Repr

/-- Stage links and re-cuts of the current and next step (R367 to R374): links sent, as link and step, and the streams coming in;
re-cut lists departed, with their moves sent, and done, as list and step, and the moves coming in. -/
structure Mapping where
  linkSent : List (Nat × Nat)
  links : List Stream
  recutDep : List (Nat × Nat)
  recutSent : List (Nat × Nat)
  moves : List Stream
  recutDone : List (Nat × Nat)
  deriving DecidableEq, Repr

/-- Checkpoints (R342): the list in progress with its next pair, its step and the number of reducing steps since load with it, the lists
that wait for it as list, step and that number, and telemetry block 9. -/
structure Ckpt where
  active : Option (Nat × Nat × Nat × Nat)
  waiting : List (Nat × Nat × Nat)
  completed : Nat
  lastStep : Nat
  deriving DecidableEq, Repr

/-- One slice of the federation in an exchange (R344): its range and index, its departure, the version that its step writes, the Δ received and deferred by site as P40
values, what this module sends (kind and values) and the owners (site, module) that have still to acknowledge it. -/
structure Slice where
  range : Nat
  slice : Nat
  departed : Nat
  ver : Nat
  deltas : List (Nat × List Nat)
  late : List (Nat × List Nat)
  sent : Option (Nat × List Nat)
  combined : Bool
  done : Bool
  resend : List (Nat × Nat)
  deriving DecidableEq, Repr

/-- The federation (R343 to R346): addresses as site, module, UDP port and IP; the key; the exchange count; slices of the exchange
under way; the last 64 pairs of offset and round trip by peer site; `TX_TIME` and arrival of the last datagram by site. -/
structure Federation where
  addrs : List (Nat × Nat × Nat × Nat)
  key : Nat
  xchg : Nat
  slices : List Slice
  peers : Sp (List (Int × Int))
  lastTx : Sp (Nat × Nat)
  deriving DecidableEq, Repr

/-! The fabric (chapters 11, 13, 18). -/

/-- Compression counters of one direction (Table 13.8). -/
structure CmpCount where
  uBytes : Nat
  wBytes : Nat
  coded : Nat
  stored : Nat
  recoded : Nat
  decErr : Nat
  deriving DecidableEq, Repr

/-- A frame queued for a port or held in its replay buffer: as sent, with the generation its blocks are coded with, and
the receive buffer cells it occupies (port, channel, cells, copy identity) when it is in transit; `ingress` and `sub0` are the
port it came on, none for a frame of this module, and its `SUB` there, from which each egress forms its own (R295). -/
structure Held where
  f : Frame
  gen : Option Nat
  cells : Option (Nat × Nat × Nat × Nat)
  ingress : Option Nat := none
  sub0 : Bool := false
  deriving DecidableEq, Repr

/-- One fabric port. `lanes` is the mask of good lanes, `subst` the lane that L8 stands for, `training` says that training is
due; `queue` waits for arbitration, `again` for a resend in order, `replay` for acknowledgement; `resends` counts the resends
of the oldest frame; `credit` may fall below 0 while returns for resent frames are under way (R289); `owed` cells wait for
return; `cells` is the neighbour's division of its buffer at link-up; `served` bytes by class; `slot` fields are the receive
direction's decode slots and `peer` fields the neighbour's last report; the rest are telemetry blocks 1 and 2. -/
structure Port where
  up : Bool
  failed : Bool
  training : Bool
  lanes : Nat
  subst : Option Nat
  width : Nat
  wantWidth : Nat
  quiet : Bool
  wantQuiet : Bool
  queue : List Held
  again : List Held
  replay : List Held
  resends : Nat
  txSeq : Nat
  rxSeq : Nat
  rxAny : Bool
  retrySent : Bool
  lackDue : Bool
  credit : List Int
  owed : List Nat
  cells : List Nat
  served : List Nat
  slotGen : List Nat
  slotValid : List Bool
  peerGen : List Nat
  peerValid : List Bool
  sendGen : Option Nat
  releasing : Option Nat
  rxc : CmpCount
  txc : CmpCount
  discards : Nat
  badFrames : Nat
  retries : Nat
  resendCount : Nat
  failures : Nat
  laneSubs : Nat
  noRoute : Nat
  duplicates : Nat
  substitutions : Nat
  deriving DecidableEq, Repr

/-- Fabric tables: topology header and port entries, routes, multicast entries (R292 to R296). -/
structure FabTables where
  topo : Option (Nat × List Nat)
  routes : Sp Nat
  routed : Bool
  mcast : Sp Nat
  deriving DecidableEq, Repr

/-- The switch: ports, tables in force and staged, frames delivered here with their ingress port (32 for this module's own),
copies of transit frames made so far, compression generations and the one being installed (session, handle, generation), the
modules whose routes are treated as failed (R493); `present` is the number of fabric ports of the presented grade (R273). -/
structure Fabric where
  ports : List Port
  present : Nat
  force : FabTables
  staged : FabTables
  inbox : List (Nat × Frame)
  copies : Nat
  tables : Sp (List Byte)
  newest : Nat
  installing : Option (Nat × Nat × Nat)
  peerRoutes : List Nat
  deriving DecidableEq, Repr

/-- Fabric time (R300 to R304), in units of 2^-16 ns. `state` as Table 11.9; `start` is the value of `TIME_SET`; `stepped` that
the one step has been made; `parent` 0 primary, 1 alternate; `good` counts Syncs within 10 ns; by port: Syncs missed and
delivered in a row, the Sync that waits for its Follow_Up, the delay, and the Pdelay exchange under way. -/
structure TimeState where
  now : Nat
  state : Nat
  master : Bool
  start : Option Nat
  stepped : Bool
  offset : Int
  freqPpb : Int
  frac : Nat
  good : Nat
  changes : Nat
  parent : Nat
  syncMiss : Sp Nat
  syncRun : Sp Nat
  rx : Sp (Nat × Nat)
  pd : Sp (Nat × Nat × Nat × Nat)
  pdelay : Sp Int
  deriving DecidableEq, Repr

/-! Power, boot and pins (chapters 18, 21, 22). -/

/-- The power ladder (R454 to R474, R544). `ps` 0 to 2; `pointW` and `pointE` are the frequency points of the dies and `target`
the points their voltages move to; `capPoint` and `hotPoint` are the points that the cap and the thermal demand require;
`handover` lists the dies at point 0 voltage while the rails change hands; `lowNs` is the time spent in PS1 and PS2 so far, and `lowSince`
when the present stay began (R456). -/
structure Power where
  ps : Nat
  tolNs : Nat
  dwellUs : Nat
  tolMin : Nat
  tolMax : Nat
  dwellMin : Nat
  capW : Nat
  compat : Bool
  toCompat : Option Bool
  handover : List Nat
  powerW : Nat
  wake : Nat
  holdEnd : Option Nat
  idleSince : Nat
  lowNs : Nat
  lowSince : Nat
  pointW : Nat
  pointE : Nat
  target : List Nat
  capPoint : Nat
  hotPoint : Nat
  thermal : Bool
  underCap : Nat
  phasesLost : Sp Nat
  avsWait : List Nat
  reduced : Bool
  hotHold : Bool
  deriving DecidableEq, Repr

/-- Start-up state and pins (R520 to R533, R545). `stage` 0 off, 1 to 7 as Table 21.1, 8 command-ready, 9 stopped. -/
structure Boot where
  stage : Nat
  present : Bool
  inputMv : Nat
  converters : Bool
  retired : Bool
  critical : Bool
  memTest : Bool
  deriving DecidableEq, Repr

/-- Indications of Table 22.7. -/
inductive Indication where
  | amber
  | amberBlink
  | blue
  | greenBlink
  | green
  | off
  deriving DecidableEq, Repr

end Sys2Proof.Machine
end

