-- ==== Sys2Proof/Machine/State.lean ====
section
/-! DEFINITION. The whole state of the module, the reasons a step can stop, and the state after a cold reset with nothing placed. -/

namespace Sys2Proof.Machine

/-- The module. `pending` is the queue of commands, first in, first out; `out` is what left the module, oldest first;
`free` is the model's own counter of free values taken. -/
structure State where
  settings : Settings
  firmware : Firmware
  security : Security
  audit : Audit
  faultLog : FaultLog
  sessions : Sessions
  host : HostIo
  memory : Memory
  mirage : Mirage
  repair : Repair
  image : Option Image
  run : RunState
  scales : Scales
  engines : Sp MatrixEngine
  kv : KvState
  reductions : Reductions
  update : UpdateState
  versions : Versions
  changes : Pending
  mapping : Mapping
  ckpt : Ckpt
  federation : Federation
  fabric : Fabric
  time : TimeState
  power : Power
  boot : Boot
  out : List Emission
  pending : List Instr
  free : Nat
  deriving DecidableEq, Repr

/-- Reasons to stop with a fault. -/
inductive Fault where
  /-- Raised by no meaning: the spec gives every command of the table an effect, and an event whose condition does not
  hold changes nothing. Safe. -/
  | noEffect
  deriving DecidableEq, Repr

/-- Reasons to refuse. -/
inductive Refusal where
  /-- Raised by `exec` for a command whose meaning is not written; its mnemonic. Safe. -/
  | notModelled (mnemonic : String)
  deriving DecidableEq, Repr

/-- Factory settings. DESIGN CHOICE (log entry 2): serial number, addresses and identity modulus 0, grade A. -/
def Settings.factory : Settings :=
  { serial := 0, macH0 := 0, macH1 := 0, macM0 := 0, idE := 65537, idN := 0, mfgGrade := 1, grade := 1,
    hostPorts := [0, 0, 0], ycpUdp := 43600, idleS := 600 }

/-- A bank with no image. -/
def FwBank.empty : FwBank :=
  { valid := false, writing := false, version := 0, floorSet := 0, keyIndex := 0, buildDate := 0, hash := 0, trust := [],
    hasTrust := false, failedBoot := false }

/-- Factory firmware: bank A valid. DESIGN CHOICE (log entry 2): version, hash and floor 0. -/
def Firmware.factory : Firmware :=
  { bankA := { FwBank.empty with valid := true }, bankB := FwBank.empty, active := 0, next := 0, floor := 0 }

/-- The chain hash of entry 0 of the audit log: SHA-256 of 32 zero bytes and of the entry's 72 bytes (R515). -/
def Audit.chain0 : Nat := 0x9D4F219A1F77C8B99234FB22C576A4B8DC194CC727E695A2C2E6230B81A1EAC1

/-- The audit log with entry 0, written at manufacture. DESIGN CHOICE (log entry 2): its fields after `SIZE` are 0. -/
def Audit.factory : Audit :=
  { entries := [0x00800001 + Audit.chain0 * 2 ^ 576], next := 1, chain := Audit.chain0, writable := true }

/-- The factory map at generation 1 in the repair area of bank 1, nothing substituted. DESIGN CHOICE (log entry 2). -/
def Mirage.factory : Mirage :=
  { gen := 1, subStop := false, lastFault := 0, entries := [], dirty := false, writing := false, staged := [], written := none,
    stored := [none, some { gen := 1, subStop := false, lastFault := 0, entries := [] }] }

def HostPort.reset : HostPort :=
  { up := true, paused := [], ycpDiscards := 0, accessErrors := 0, naksSent := 0, cnpsSent := 0, cnpsReceived := 0,
    fedDiscards := 0, otherDiscards := 0 }

def CmpCount.zero : CmpCount := { uBytes := 0, wBytes := 0, coded := 0, stored := 0, recoded := 0, decErr := 0 }

/-- A fabric port held down, with nothing in flight. -/
def Port.reset : Port :=
  { up := false, failed := false, training := false, lanes := 0, subst := none, width := 8, wantWidth := 8, quiet := false,
    wantQuiet := false, queue := [], again := [], replay := [], resends := 0, txSeq := 0, rxSeq := 0, rxAny := false,
    retrySent := false, lackDue := false, credit := [], owed := [], cells := [], served := [], slotGen := [0, 0],
    slotValid := [true, false], peerGen := [0, 0], peerValid := [true, false], sendGen := some 0, releasing := none,
    rxc := CmpCount.zero, txc := CmpCount.zero, discards := 0, badFrames := 0, retries := 0, resendCount := 0, failures := 0,
    laneSubs := 0, noRoute := 0, duplicates := 0, substitutions := 0 }

def FabTables.none : FabTables := { topo := Option.none, routes := [], routed := false, mcast := [] }

def Fabric.reset : Fabric :=
  { ports := List.replicate 32 Port.reset, present := 32, force := FabTables.none, staged := FabTables.none, inbox := [], copies := 0, tables := [],
    newest := 0, installing := none, peerRoutes := [] }

def TimeState.reset : TimeState :=
  { now := 0, state := 0, master := false, start := none, stepped := false, offset := 0, freqPpb := 0, frac := 0, good := 0,
    changes := 0, parent := 0, syncMiss := [], syncRun := [], rx := [], pd := [], pdelay := [] }

/-- Power at power-up (R457, R472): tolerance 0, dwell 1,000 µs, bounds open, cap 3,800 W, native regulators, point 15. -/
def Power.reset : Power :=
  { ps := 0, tolNs := 0, dwellUs := 1000, tolMin := 0, tolMax := 0xFFFFFFFF, dwellMin := 0, capW := 3800, compat := false,
    toCompat := none, handover := [], powerW := 0, wake := 0, holdEnd := none, idleSince := 0, lowNs := 0, lowSince := 0, pointW := 15, pointE := 15,
    target := [15, 15], capPoint := 15, hotPoint := 15, thermal := false, underCap := 0, phasesLost := [], avsWait := [], reduced := false, hotHold := false }

def RunState.reset : RunState :=
  { active := false, sid := 0, handle := 0, seed := 0, step0 := 0, steps := 0, n := 1, origin := 0, step := 0, count := 0,
    lastBegun := 0, begun := false, finishing := false, lastN := 0, lastOk := true, everRun := false, queues := [], inflight := [],
    threads := [], lends := [], htNext := [], vls := [], counters := [], totals := [], ledger := [], records := [], stepCode := 0, stepWarn := false,
    late := 0, replays := 0, wrote := false, emptyView := false, retireAt := none }

def Scales.reset : Scales :=
  { amax := [], events := [], appended := [], nextScale := [], replays := [], nonfinite := [],
    saturated := [], tileSats := [], converted := [], exchanged := [], formatErrors := 0, extraWarnings := 0, shortResets := 0 }

def UpdateState.reset : UpdateState :=
  { counts := [], counted := [], g2 := none, clip := 0, repeats := [], normStep := 0, gGlobal := 0, clipC := 0, clips := 0,
    redone := 0, oldFactors := [], valid := false, norms := [], noise := [], pubNorms := [] }

/-- A matrix engine with nothing in it. -/
def MatrixEngine.idle : MatrixEngine :=
  { live := none, shadow := none, ubufs := [], wgb := []
    front := { view := 0, halves := [[], []], half := 0, slots := [], banks := [[], []], bank := 0 } }

def Repair.reset : Repair :=
  { degraded := [], rebuilding := [], bankRebuild := [], migrating := [], wgbCopy := [], faultTimes := [], haboob := false,
    pending := [], unsub := [], corrRecent := [], calib := [] }

def Reductions.reset : Reductions :=
  { colls := [], chunks := [], deferred := [], lost := [], retired := [], leaving := [], departures := [], past := [], early := [], ring := 0 }

/-- The module after a cold reset, before power-good (stage 0 of Table 21.1): flash as from the factory, memory with
nothing listed, no session, no image, fabric ports held down, fabric time `FREE` at 0. -/
def State.reset : State :=
  { settings := Settings.factory
    firmware := Firmware.factory
    security := { trust := [], enrol := [], trustedDate := 0, staged := none, windowEnd := none }
    audit := Audit.factory
    faultLog := { entries := [], next := 0 }
    sessions := { live := [], prov := [], ended := [], ops := [], helloTimes := [], opOrder := 0, resuming := false }
    host := { ports := List.replicate 3 HostPort.reset, qps := [] }
    memory := { lostGroups := [], rewritten := [], spad := [], hbm := [], ddr := [], badSpad := [], badHbm := [], badDdr := [], corrected := [], spadCorrected := 0, ddrOut := [] }
    mirage := Mirage.factory
    repair := Repair.reset
    image := none
    run := RunState.reset
    scales := Scales.reset
    engines := []
    kv := { pools := [], seqs := [], epoch := 0, pins := [], masses := [], waiting := [] }
    reductions := Reductions.reset
    update := UpdateState.reset
    versions := { shards := [], expected := [], local_ := [], cur := [], acks := [], ackSent := false }
    changes := { groupSets := [], adapterSets := [], caravanOps := [] }
    mapping := { linkSent := [], links := [], recutDep := [], recutSent := [], moves := [], recutDone := [] }
    ckpt := { active := none, waiting := [], completed := 0, lastStep := 0 }
    federation := { addrs := [], key := 0, xchg := 0, slices := [], peers := [], lastTx := [] }
    fabric := Fabric.reset
    time := TimeState.reset
    power := Power.reset
    boot := { stage := 0, present := false, inputMv := 0, converters := false, retired := false, critical := false,
              memTest := false }
    out := []
    pending := []
    free := 0 }

/-- What a command's own part answers: the state it leaves; the reply's code, warning flag, handle, body and body length; the
state in which its long operation starts, if it starts one; the sessions that end after the reply; the audit events that
follow its own, with their `ARG`; and the operations that it then aborts, by session and handle. -/
structure Answer where
  st : State
  code : Nat
  warn : Bool
  handle : Nat
  body : Nat
  blen : Nat
  long : Option Nat
  ends : List Nat
  events : List (Nat × Nat)
  aborts : List (Nat × Nat)

end Sys2Proof.Machine
end

