-- ==== Sys2Proof/Machine/Flags.lean ====
section
/-! DEFINITION. Status flags: the kinds of status code, the status word of an operation, warnings, and counters. -/

namespace Sys2Proof.Machine

/-- The four warnings (R411). -/
def isWarning (code : Nat) : Bool := [0x0401, 0x0409, 0x0501, 0x0507].contains code

/-- Codes 0x0000 to 0x00FF are successes (R409). -/
def isSuccess (code : Nat) : Bool := code < 0x0100

/-- A refusal under R396: 0x0101 to 0x0105 and 0x0201. It takes no slot and is not recorded. -/
def isRefusal (code : Nat) : Bool := [0x0101, 0x0102, 0x0103, 0x0104, 0x0105, 0x0201].contains code

/-- Final states (R404). -/
def opFinal (st : Nat) : Bool := st == 4 || st == 5 || st == 6

/-- The status word of Table 15.5. `PROGRESS` saturates. -/
def statusWord (o : Op) : Nat :=
  pack [(0, 32, min o.progress 0xFFFFFFFF), (32, 16, o.code), (58, 1, b2n o.warn), (59, 1, b2n o.part), (60, 4, o.state)]

/-- Record a warning: `WARN` sticks and the first warning keeps `CODE` (R404). -/
def opWarn (o : Op) (w : Nat) : Op :=
  if o.warn then { o with moreWarns := o.moreWarns + 1 } else { o with warn := true, code := w }

/-- Whether an operation is the one named. -/
def opIs (sid handle : Nat) (o : Op) : Bool := o.sid == sid && o.handle == handle

/-- The operation named, if its record is kept. -/
def findOp (ss : Sessions) (sid handle : Nat) : Option Op := ss.ops.find? (opIs sid handle)

/-- Replace the operation named. -/
def modOp (ss : Sessions) (sid handle : Nat) (f : Op → Op) : Sessions :=
  { ss with ops := ss.ops.map (fun o => if opIs sid handle o then f o else o) }

/-- A live session by its identifier. -/
def findSession (ss : Sessions) (sid : Nat) : Option Session := ss.live.find? (fun x => x.sid == sid)

/-- Replace a live session. -/
def modSession (ss : Sessions) (sid : Nat) (f : Session → Session) : Sessions :=
  { ss with live := ss.live.map (fun x => if x.sid == sid then f x else x) }

/-- Change a session's accounting record. -/
def modAcct (ss : Sessions) (sid : Nat) (f : Account → Account) : Sessions :=
  modSession ss sid (fun x => { x with acct := f x.acct })

/-- Change a host port's record. -/
def modHostPort (h : HostIo) (p : Nat) (f : HostPort → HostPort) : HostIo :=
  match h.ports[p]? with
  | none => h
  | some x => { h with ports := h.ports.set p (f x) }

/-- A 64-bit telemetry count (R434). -/
def tick64 (n : Nat) : Nat := wrapAdd 64 n 1

/-- A discarded YCP datagram is counted on its host port (R396). -/
def ycpDiscard (p : Nat) (s : State) : State :=
  { s with host := modHostPort s.host p (fun x => { x with ycpDiscards := tick64 x.ycpDiscards }) }

/-- Fabric time in whole nanoseconds. -/
def nowNs (s : State) : Nat := s.time.now >>> 16

end Sys2Proof.Machine
end

