-- ==== Sys2Proof/Machine/Hash.lean ====
section
/-! DEFINITION. SHA-256, HMAC-SHA-256 and CRC-32C, which the spec names for tags, chains and frames (R396, R515, R279). -/

namespace Sys2Proof.Machine

def rotr32 (x n : Nat) : Nat := ((x >>> n) ||| (x <<< (32 - n))) % 2 ^ 32

/-- The eight 32-bit words of a 256-bit number, the most significant first. -/
def words256 (n : Nat) : List Nat := (List.range 8).map (fun i => bits n (224 - 32 * i) 32)

/-- The round constants, eight to a number: the first 32 bits of the fractional parts of the cube roots of the first 64 primes. -/
def shaKRows : List Nat :=
  [ 0x428a2f9871374491b5c0fbcfe9b5dba53956c25b59f111f1923f82a4ab1c5ed5
  , 0xd807aa9812835b01243185be550c7dc372be5d7480deb1fe9bdc06a7c19bf174
  , 0xe49b69c1efbe47860fc19dc6240ca1cc2de92c6f4a7484aa5cb0a9dc76f988da
  , 0x983e5152a831c66db00327c8bf597fc7c6e00bf3d5a7914706ca635114292967
  , 0x27b70a852e1b21384d2c6dfc53380d13650a7354766a0abb81c2c92e92722c85
  , 0xa2bfe8a1a81a664bc24b8b70c76c51a3d192e819d6990624f40e3585106aa070
  , 0x19a4c1161e376c082748774c34b0bcb5391c0cb34ed8aa4a5b9cca4f682e6ff3
  , 0x748f82ee78a5636f84c878148cc7020890befffaa4506cebbef9a3f7c67178f2
  ]

def shaK : List Nat := shaKRows.flatMap words256

/-- The initial hash value, likewise of the square roots of the first eight primes. -/
def shaInit : Nat := 0x6a09e667bb67ae853c6ef372a54ff53a510e527f9b05688c1f83d9ab5be0cd19

/-- Message schedule: the last 16 words, newest first, extended by k words; all words oldest first. -/
def shaSched : Nat → List Nat → List Nat → List Nat
  | 0, _, acc => acc.reverse
  | k + 1, w, acc =>
    let w15 := w.getD 14 0
    let w2 := w.getD 1 0
    let x := (w.getD 15 0 + ((rotr32 w15 7 ^^^ rotr32 w15 18) ^^^ (w15 >>> 3)) + w.getD 6 0 + ((rotr32 w2 17 ^^^ rotr32 w2 19) ^^^ (w2 >>> 10))) % 2 ^ 32
    shaSched k ((x :: w).take 16) (x :: acc)

/-- XOR of three rotations of a word. -/
def rot3 (x a b c : Nat) : Nat := (rotr32 x a ^^^ rotr32 x b) ^^^ rotr32 x c

/-- The working words a to h. -/
structure Sha where
  a : Nat
  b : Nat
  c : Nat
  d : Nat
  e : Nat
  f : Nat
  g : Nat
  h : Nat
  deriving DecidableEq, Repr

def Sha.ofList : List Nat → Sha
  | [a, b, c, d, e, f, g, h] => ⟨a, b, c, d, e, f, g, h⟩
  | _ => ⟨0, 0, 0, 0, 0, 0, 0, 0⟩

def Sha.toList (s : Sha) : List Nat := [s.a, s.b, s.c, s.d, s.e, s.f, s.g, s.h]

/-- A round with the sum of its constant and schedule word. -/
def shaStep (s : Sha) (kw : Nat) : Sha :=
  let choose := (s.e &&& s.f) ^^^ ((s.e ^^^ 0xFFFFFFFF) &&& s.g)
  let majority := (s.a &&& (s.b ^^^ s.c)) ^^^ (s.b &&& s.c)
  let t := s.h + rot3 s.e 6 11 25 + choose + kw
  ⟨(t + rot3 s.a 2 13 22 + majority) % 2 ^ 32, s.a, s.b, s.c, (s.d + t) % 2 ^ 32, s.e, s.f, s.g⟩

def shaRounds : List Nat → List Nat → Sha → Sha
  | k :: ks, w :: ws, s => shaRounds ks ws (shaStep s (k + w))
  | _, _, s => s

/-- One block of 16 words taken into the hash. -/
def shaBlock (s : Sha) (ws : List Nat) : Sha :=
  let r := shaRounds shaK (shaSched 48 ws.reverse ws.reverse) s
  Sha.ofList (List.zipWith (fun x y => (x + y) % 2 ^ 32) s.toList r.toList)

/-- Big-endian 32-bit words of a byte list. -/
def beWords : Nat → List Byte → List Nat
  | 0, _ => []
  | k + 1, l => ofBe (l.take 4) :: beWords k (l.drop 4)

def shaBlocks : Nat → List Byte → Sha → Sha
  | 0, _, h => h
  | n + 1, l, h => shaBlocks n (l.drop 64) (shaBlock h (beWords 16 (l.take 64)))

def shaPad (m : List Byte) : List Byte :=
  let z := (119 - m.length % 64) % 64
  m ++ [0x80] ++ List.replicate z 0 ++ beBytes 8 (8 * m.length)

/-- SHA-256 of a message: 32 bytes. -/
def sha256 (m : List Byte) : List Byte :=
  let p := shaPad m
  (shaBlocks (p.length / 64) p (Sha.ofList (words256 shaInit))).toList.flatMap (beBytes 4)

/-- HMAC-SHA-256 under a key of at most 64 bytes. -/
def hmac256 (key m : List Byte) : List Byte :=
  let k0 := if 64 < key.length then sha256 key else key
  let k := k0 ++ List.replicate (64 - k0.length) 0
  sha256 (k.map (· ^^^ 0x5c) ++ sha256 (k.map (· ^^^ 0x36) ++ m))

/-- A hash or tag held as the number whose first byte is its lowest byte. -/
def shaNat (m : List Byte) : Nat := ofLe (sha256 m)

/-- First 16 bytes of an HMAC, as a little-endian number. -/
def tag16 (key : Nat) (m : List Byte) : Nat := ofLe ((hmac256 (leBytes 32 key) m).take 16)

/-- Eight steps of the reflected CRC-32C polynomial. -/
def crcBits : Nat → Nat → Nat
  | 0, c => c
  | n + 1, c => crcBits n (if c % 2 == 1 then (c >>> 1) ^^^ 0x82F63B78 else c >>> 1)

/-- CRC-32C (Castagnoli), reflected, initial and final value all ones. -/
def crc32c (m : List Byte) : Nat :=
  (m.foldl (fun c b => crcBits 8 (c ^^^ b.toNat)) 0xFFFFFFFF) ^^^ 0xFFFFFFFF

end Sys2Proof.Machine
end

