-- ==== Sys2Proof/Machine/Compress.lean ====
section
/-! DEFINITION. Block framing and Huffman coding of compressible payloads (chapter 13). -/

namespace Sys2Proof.Machine

/-- A table set as bytes; none stands for generation 0 (R356). -/
abbrev GenSet := Option (List Byte)

/-- A field of a table set (Tables 13.4 to 13.6). -/
def setField (l : List Byte) (lo w : Nat) : Nat := bits (ofLe ((l.drop (lo / 8)).take (w / 8 + 2))) (lo % 8) w

/-- `FMT_PROFILE` of a format code. -/
def genProfile (g : GenSet) (fmt : Nat) : Nat :=
  match g with
  | none => if fmt == 0x0E then 0 else 0xF
  | some l => setField l (64 + 4 * fmt) 4

/-- Width of a profile. -/
def genWidth (g : GenSet) (prof : Nat) : Nat :=
  match g with
  | none => if prof == 0 then 2 else if prof == 1 then 1 else 0
  | some l => setField l (512 + 64 * prof) 4

/-- Code table of plane j of a profile. -/
def genTable (g : GenSet) (prof j : Nat) : Nat :=
  match g with
  | none => if prof == 0 && j == 1 then 1 else 0
  | some l => setField l (512 + 64 * prof + 8 + 4 * j) 4

/-- Code lengths of a table, by byte value. -/
def genLens (g : GenSet) (tbl : Nat) : List Nat :=
  (List.range 256).map (fun k =>
    match g with
    | none =>
      if tbl == 0 then 8
      else if k == 0 || k == 255 then 2
      else if k ≤ 7 || 0xF8 ≤ k then 5
      else 12
    | some l => setField l (1024 + 1024 * tbl + 4 * k) 4)

/-- First code of each length, lengths 1 to 15 (RFC 1951, 3.2.2). -/
def firstCodes (lens : List Nat) : Nat → Nat → List Nat
  | 0, _ => []
  | k + 1, code => code :: firstCodes lens k ((code + (lens.filter (· == 15 - k)).length) * 2)

/-- Codes of a table as (byte value, length, code), values ascending. -/
def assignCodes : List Nat → Nat → List Nat → List (Nat × Nat × Nat)
  | [], _, _ => []
  | l :: r, k, next =>
    if l == 0 then assignCodes r (k + 1) next
    else (k, l, next.getD (l - 1) 0) :: assignCodes r (k + 1) (next.set (l - 1) (next.getD (l - 1) 0 + 1))

def tableCodes (lens : List Nat) : List (Nat × Nat × Nat) := assignCodes lens 0 (firstCodes lens 15 0)

/-- Bits of a code, most significant first. -/
def codeBits (len code : Nat) : List Bool := (List.range len).map (fun i => bitAt code (len - 1 - i))

/-- A byte from at most eight bits, the first in the least significant place. -/
def bitsByte (l : List Bool) : Byte := BitVec.ofNat 8 ((l.zipIdx.map (fun p => b2n p.1 <<< p.2)).foldl (· + ·) 0)

/-- n bytes from a bit stream; zero bits fill the last byte. -/
def packBytes : Nat → List Bool → List Byte
  | 0, _ => []
  | n + 1, l => bitsByte (l.take 8) :: packBytes n (l.drop 8)

def packBits (l : List Bool) : List Byte := packBytes (ceilDiv l.length 8) l

def unpackBits (l : List Byte) : List Bool := l.flatMap (fun b => (List.range 8).map (fun i => bitAt b.toNat i))

/-- Bytes of plane j of a block whose first byte has index x0 in the payload. -/
def planeBytes (w j x0 : Nat) (bs : List Byte) : List Byte :=
  (bs.zipIdx.filter (fun p => (x0 + p.2) % w == j)).map (·.1)

/-- Codes of one plane, none where a byte has no code. -/
def codePlane (cs : List (Nat × Nat × Nat)) : List Byte → Option (List Bool)
  | [] => some []
  | b :: r =>
    match cs.find? (fun c => c.1 == b.toNat), codePlane cs r with
    | some c, some t => some (codeBits c.2.1 c.2.2 ++ t)
    | _, _ => none

/-- Codes of every plane in order (R353). -/
def codePlanes (g : GenSet) (prof w x0 : Nat) (bs : List Byte) : List Nat → Option (List Bool)
  | [] => some []
  | j :: r =>
    match codePlane (tableCodes (genLens g (genTable g prof j))) (planeBytes w j x0 bs), codePlanes g prof w x0 bs r with
    | some a, some b => some (a ++ b)
    | _, _ => none

/-- A block header (Table 13.3) and body. -/
def blockOf (stored : Bool) (gen prof ulen : Nat) (body : List Byte) : List Byte :=
  leBytes 8 (pack [(0, 32, crc32c body), (32, 13, body.length), (45, 13, ulen), (58, 1, b2n stored), (59, 1, gen % 2),
                   (60, 3, prof)]) ++ body

/-- One block coded with a generation and profile, or stored by R352 and R354. -/
def encodeBlock (g : GenSet) (gen prof x0 : Nat) (bs : List Byte) : List Byte × Bool :=
  let stored := (blockOf true gen (if prof == 0xF then 0 else prof) bs.length bs, false)
  if bs.length < 256 || prof == 0xF then stored
  else
    let w := genWidth g prof
    match codePlanes g prof w x0 bs (List.range w) with
    | none => stored
    | some bl =>
      let body := packBits bl
      if 103 * body.length ≤ 100 * bs.length then (blockOf false gen prof bs.length body, true) else stored

/-- The payload cut into blocks and coded, with the number of coded and of stored blocks. -/
def encodePayload (g : GenSet) (gen prof : Nat) : Nat → Nat → List Byte → List Byte × Nat × Nat
  | 0, _, _ => ([], 0, 0)
  | n + 1, x0, bs =>
    if bs.isEmpty then ([], 0, 0)
    else
      let b := encodeBlock g gen prof x0 (bs.take 4096)
      let r := encodePayload g gen prof n (x0 + 4096) (bs.drop 4096)
      (b.1 ++ r.1, b2n b.2 + r.2.1, b2n (!b.2) + r.2.2)

/-- One symbol from the front of a bit stream. -/
def decodeSym (cs : List (Nat × Nat × Nat)) : Nat → Nat → Nat → List Bool → Option (Nat × List Bool)
  | 0, _, _, _ => none
  | _, _, _, [] => none
  | k + 1, len, code, b :: r =>
    let code' := 2 * code + b2n b
    match cs.find? (fun c => c.2.1 == len + 1 && c.2.2 == code') with
    | some c => some (c.1, r)
    | none => decodeSym cs k (len + 1) code' r

def decodePlane (cs : List (Nat × Nat × Nat)) : Nat → List Bool → Option (List Byte × List Bool)
  | 0, bl => some ([], bl)
  | n + 1, bl =>
    match decodeSym cs 15 0 0 bl with
    | none => none
    | some (v, r) =>
      match decodePlane cs n r with
      | none => none
      | some (l, q) => some (BitVec.ofNat 8 v :: l, q)

/-- Every plane's bytes, plane 0 first, and the bits left. -/
def decodePlanes (g : GenSet) (prof w x0 ulen : Nat) : List Nat → List Bool → Option (List (List Byte) × List Bool)
  | [], bl => some ([], bl)
  | j :: r, bl =>
    let n := ((List.range ulen).filter (fun i => (x0 + i) % w == j)).length
    match decodePlane (tableCodes (genLens g (genTable g prof j))) n bl with
    | none => none
    | some (l, q) =>
      match decodePlanes g prof w x0 ulen r q with
      | none => none
      | some (ls, q') => some (l :: ls, q')

/-- Interleave the planes back into payload order. -/
def joinPlanes (w x0 ulen : Nat) (pl : List (List Byte)) : List Byte :=
  (List.range ulen).map (fun i =>
    let j := (x0 + i) % w
    let before := ((List.range i).filter (fun k => (x0 + k) % w == j)).length
    ((pl.getD j []).getD before 0))

/-- One block's bytes, none where R362 fails it; a stored block reads no slot (log entry 43). The slots are (valid, generation number,
set). -/
def decodeBlock (slots : List (Bool × Nat × GenSet)) (x0 hdr : Nat) (body : List Byte) : Option (List Byte) :=
  let ulen := bits hdr 45 13
  if crc32c body != bits hdr 0 32 || ulen == 0 then none
  else if bitAt hdr 58 then (if body.length == ulen then some body else none)
  else
    match slots[bits hdr 59 1]? with
    | none => none
    | some (valid, _, g) =>
      let prof := bits hdr 60 3
      let w := genWidth g prof
      if !valid || w == 0 then none
      else
        match decodePlanes g prof w x0 ulen (List.range w) (unpackBits body) with
        | none => none
        | some (pl, rest) => if rest.length < 8 && rest.all (!·) then some (joinPlanes w x0 ulen pl) else none

/-- A block-framed payload decoded: bytes, coded blocks and stored blocks. -/
def decodePayload (slots : List (Bool × Nat × GenSet)) : Nat → Nat → List Byte → Option (List Byte × Nat × Nat)
  | 0, _, l => if l.isEmpty then some ([], 0, 0) else none
  | n + 1, x0, l =>
    if l.isEmpty then some ([], 0, 0)
    else
      let hdr := ofLe (l.take 8)
      let clen := bits hdr 32 13
      if l.length < 8 + clen || clen == 0 then none
      else
        match decodeBlock slots x0 hdr ((l.drop 8).take clen),
              decodePayload slots n (x0 + bits hdr 45 13) (l.drop (8 + clen)) with
        | some b, some (r, c, st) => some (b ++ r, c + b2n (!bitAt hdr 58), st + b2n (bitAt hdr 58))
        | _, _ => none

/-- Whether some block of a block-framed payload is coded, and with which slot and profile. -/
def codedWith : Nat → List Byte → Option (Nat × Nat)
  | 0, _ => none
  | n + 1, l =>
    if l.length < 8 then none
    else
      let hdr := ofLe (l.take 8)
      if bitAt hdr 58 then codedWith n (l.drop (8 + bits hdr 32 13)) else some (bits hdr 59 1, bits hdr 60 3)

/-- Blocks a payload of at most 9,166 bytes can hold. -/
def maxBlocks : Nat := 1200

/-- Σ 2^(−length) ≤ 1 over nonzero lengths, in units of 2^-15. -/
def kraftOk (lens : List Nat) : Bool :=
  decide (((lens.filter (· != 0)).map (fun l => 2 ^ (15 - l))).foldl (· + ·) 0 ≤ 2 ^ 15)

/-- The successor of a generation (R355). -/
def genSucc (g : Nat) : Nat := if g == 65534 then 1 else g + 1

/-- The rules of R355 for a set, given the generation in force. -/
def genSetOk (cur : Nat) (l : List Byte) : Bool :=
  let t := setField l 48 5
  setField l 16 16 == 128 + 128 * t && 1 ≤ t && t ≤ 16 && setField l 32 16 == genSucc cur &&
  (List.range t).all (fun i => kraftOk (genLens (some l) i)) &&
  (List.range 8).all (fun p => 1 ≤ genWidth (some l) p && genWidth (some l) p ≤ 8 &&
    (List.range 8).all (fun j => genTable (some l) p j < t && (j < genWidth (some l) p || genTable (some l) p j == 0))) &&
  (List.range 32).all (fun f => genProfile (some l) f ≤ 7 || genProfile (some l) f == 0xF)

/-- Reserved bits of a set are zero (R13). -/
def genSetReserved (l : List Byte) : Bool :=
  setField l 53 11 == 0 && setField l 192 320 == 0 &&
  (List.range 8).all (fun p => setField l (512 + 64 * p + 4) 4 == 0 && setField l (512 + 64 * p + 40) 24 == 0)

end Sys2Proof.Machine
end

