-- ==== Sys2Proof/Machine/Link.lean ====
section
/-! DEFINITION. Fabric ports: topology and routes, egress queues and arbitration, credit, replay buffers and the origination of
frames (R278 to R298, R358). Everything here acts on the `Fabric` record and lists what it sends. -/

namespace Sys2Proof.Machine

/-! Topology, routing and multicast tables in force. -/

/-- The header with no table written: `GFT_ETYPE` and `MAX_HOPS` at their reset values, and zeros where Table 11.5 gives none. -/
def resetHdr : Nat := pack [(48, 16, 0x88B5), (80, 8, 64)]

def topoHdr (f : Fabric) : Nat := (f.force.topo.map (·.1)).getD resetHdr
def portEntry (f : Fabric) (p : Nat) : Nat := ((f.force.topo.map (·.2)).getD []).getD p 0
def peFec (e : Nat) : Nat := bits e 2 1
def peDateline (e : Nat) : Bool := bitAt e 3
def peTime (e : Nat) : Nat := bits e 4 2
def peGroup (e : Nat) : Nat := bits e 8 4
def peDim (e : Nat) : Nat := bits e 12 2
def pePeer (e : Nat) : Nat := bits e 16 16
def pePeerPort (e : Nat) : Nat := bits e 32 5
def peAsym (e : Nat) : Int := toSigned 16 (bits e 48 16)

/-- A port of the presented grade that the topology table puts in use (`MODE` 1). -/
def inUse (f : Fabric) (p : Nat) : Bool := p < f.present && bits (portEntry f p) 0 2 == 1

/-- Module ID in force, 0xFFFF with no table (Table 16.2). -/
def myId (f : Fabric) : Nat := if f.force.topo.isNone then 0xFFFF else bits (topoHdr f) 32 16

/-- GFT EtherType, 0x88B5 by default (R279). -/
def gftEtype (f : Fabric) : Nat := bits (topoHdr f) 48 16

def maxHops (f : Fabric) : Nat := bits (topoHdr f) 80 8
def timeRole (f : Fabric) : Nat := bits (topoHdr f) 88 2
def cellsOf (f : Fabric) (v : Nat) : Nat := bits (topoHdr f) (96 + 12 * v) 12
def weightOf (f : Fabric) (cls : Nat) : Nat := bits (topoHdr f) (192 + 8 * (cls - 1)) 8

def portsInUse (f : Fabric) : List Nat := (List.range 32).filter (inUse f)

def getPort (f : Fabric) (p : Nat) : Option Port := f.ports[p]?

def modPort (f : Fabric) (p : Nat) (g : Port → Port) : Fabric :=
  match f.ports[p]? with
  | none => f
  | some x => { f with ports := f.ports.set p (g x) }

def portServes (f : Fabric) (p : Nat) : Bool :=
  inUse f p && (match getPort f p with
    | some x => x.up && !x.failed
    | none => false)

/-- Members of a bond group in service, ports ascending (R293). -/
def groupMembers (f : Fabric) (g : Nat) : List Nat :=
  (List.range 32).filter (fun p => portServes f p && peGroup (portEntry f p) == g)

/-- The member of a group that a flow leaves on. -/
def groupMember (f : Fabric) (g flow : Nat) : Option Nat :=
  let m := groupMembers f g
  if m.isEmpty then none else m[flow % m.length]?

/-- The bond group toward a module: the primary while it has a member in service, else the alternate (R294). -/
def routeGroup (f : Fabric) (dst : Nat) : Option Nat :=
  let e := spGet 0 dst f.force.routes
  if f.peerRoutes.contains dst then none
  else if bitAt e 8 && !(groupMembers f (bits e 0 4)).isEmpty then some (bits e 0 4)
  else if bitAt e 9 && !(groupMembers f (bits e 4 4)).isEmpty then some (bits e 4 4)
  else none

def mcastEntry (f : Fabric) (g : Nat) : Nat := spGet 0 g f.force.mcast
def mcastValid (f : Fabric) (g : Nat) : Bool := bitAt (mcastEntry f g) 17
def mcastLocal (f : Fabric) (g : Nat) : Bool := bitAt (mcastEntry f g) 16
def mcastGroups (f : Fabric) (g : Nat) : List Nat := (List.range 16).filter (bitAt (mcastEntry f g))

/-! Frames. -/

/-- Bytes from destination address through FCS, padded to 64 (R278). -/
def wireLen (f : Frame) : Nat := max 64 (14 + 32 + f.payload.length + 4)
def cellsFor (f : Frame) : Nat := ceilDiv (wireLen f) 256
/-- Virtual channel 2 × `CLASS` + `SUB` (R288). -/
def chanOf (f : Frame) : Nat := 2 * f.cls + b2n f.sub

/-- Class of a frame type (Table 11.4); none for reserved types. -/
def typeClass (t : Nat) : Option Nat := [some 0, some 1, some 2, some 2, some 0, some 0, some 3, some 0].getD t none

/-- Whether the payload is block-framed (Table 13.1): `REDUCE`, `DELIVER`, `PUBLISH`, and `BULK` with `CMP`. -/
def blockFramed (f : Frame) : Bool := f.ftype == 1 || f.ftype == 2 || f.ftype == 3 || (f.ftype == 6 && bitAt f.tspec 4)

/-- A type-specific field by its bit in the header (bits 128 to 255). -/
def tsp (f : Frame) (lo w : Nat) : Nat := bits f.tspec (lo - 128) w

/-- Ethernet destination and source addresses (R278), high byte first. -/
def ethDstOf (mcast : Bool) (dst : Nat) : Nat := (if mcast then 0x03 else 0x02) <<< 40 + dst % 65536
def ethSrcOf (src : Nat) : Nat := 0x02 <<< 40 + src % 65536

/-- The GFT header of a frame (Table 11.3). -/
def gftHeader (f : Frame) : Nat :=
  pack [(0, 8, f.version), (8, 8, f.size), (16, 4, f.ftype), (20, 2, f.cls), (22, 1, b2n f.sub), (23, 1, b2n f.mcast),
        (24, 8, f.hops), (32, 16, f.dst), (48, 16, f.src), (64, 12, f.lseq), (76, 12, f.lack), (88, 1, b2n f.lackValid),
        (89, 3, f.crdVc), (92, 12, f.crdCells), (104, 14, f.payload.length), (118, 1, b2n f.resent), (119, 1, b2n f.redo),
        (120, 8, f.flow), (128, 128, f.tspec)]

/-- The bytes of a frame from destination address to payload, padded so that 64 B leave with the FCS (R278). -/
def frameBytes (f : Frame) : List Byte :=
  let l := beBytes 6 f.ethDst ++ beBytes 6 f.ethSrc ++ beBytes 2 f.etype ++ leBytes 32 (gftHeader f) ++ f.payload
  l ++ List.replicate (60 - l.length) 0

/-- A structure version that the module does not implement: such a frame is discarded (R15, log entry 90). -/
def newerFrame (f : Frame) : Bool := 1 < f.version

/-- `clockIdentity` of the module (R300). -/
def clockIdent (f : Fabric) : Nat := 0x020000FFFE00 <<< 16 + myId f

/-- A timestamp at the resolution of 1/16 ns (R300). -/
def stamp16 (t : Nat) : Nat := t / 4096 * 4096

/-- A PTP message of this module: domain 0, timescale ARB (R300). -/
def ptpOut (f : Fabric) (port kind seq time : Nat) : Emission := .ptp port kind seq (stamp16 time) (clockIdent f) 0 true

/-- A frame of this module, before the switch stamps it. -/
def mkFrame (fab : Fabric) (ftype : Nat) (mcast : Bool) (dst flow : Nat) (tspec : List (Nat × Nat × Nat))
    (payload : List Byte) : Frame :=
  { etype := gftEtype fab, good := true, lenOk := true, ftype := ftype, cls := (typeClass ftype).getD 0, sub := false,
    mcast := mcast, hops := 0, dst := dst, src := myId fab, lseq := 0, lack := 0, lackValid := false, crdVc := 0,
    crdCells := 0, resent := false, redo := false, flow := flow,
    tspec := pack (tspec.map (fun t => (t.1 - 128, t.2.1, t.2.2))), payload := payload, version := 1, size := 32,
    ethDst := ethDstOf mcast dst, ethSrc := ethSrcOf (myId fab) }

/-- The decode slots of a port's receive direction with their sets. -/
def slotsOf (f : Fabric) (p : Port) : List (Bool × Nat × GenSet) :=
  (List.range 2).map (fun i =>
    let g := p.slotGen.getD i 0
    (p.slotValid.getD i false, g, if g == 0 then none else spGet? g f.tables))

def genSet (f : Fabric) (g : Nat) : GenSet := if g == 0 then none else spGet? g f.tables

/-! Egress. -/

/-- Bytes held in a replay buffer. -/
def replayBytes (p : Port) : Nat := (p.replay.map (fun h => wireLen h.f)).foldl (· + ·) 0

/-- The first queued frame of a channel. -/
def headOf (p : Port) (v : Nat) : Option Held := p.queue.find? (fun h => chanOf h.f == v)

/-- Whether the head of a channel may be sent: credit for the whole frame, and room in the replay buffer (R284, R289). -/
def mayGo (p : Port) (v : Nat) : Bool :=
  match headOf p v with
  | none => false
  | some h => decide ((cellsFor h.f : Int) ≤ p.credit.getD v 0) && p.replay.length < 2047 && replayBytes p + wireLen h.f ≤ 262144

/-- Of two classes that may send, whether the first has had less of its share. -/
def lessServed (f : Fabric) (p : Port) (a b : Nat) : Bool :=
  decide (p.served.getD a 0 * weightOf f b ≤ p.served.getD b 0 * weightOf f a)

/-- The channel of a class to send from: sub-channel 1 first. -/
def classChan (p : Port) (c : Nat) : Option Nat :=
  if mayGo p (2 * c + 1) then some (2 * c + 1) else if mayGo p (2 * c) then some (2 * c) else none

/-- The channel that arbitration takes next (R288). DESIGN CHOICE (log entry 12): least served bytes by weight. -/
def nextChan (f : Fabric) (p : Port) : Option Nat :=
  match classChan p 0 with
  | some v => some v
  | none =>
    let cs := [1, 2, 3].filter (fun c => (classChan p c).isSome)
    match cs.find? (fun c => cs.all (fun d => d == c || lessServed f p c d)) with
    | some c => classChan p c
    | none => (cs.head?).bind (classChan p)

/-- The first channel with a credit return waiting, and its cells (R291). -/
def creditDue (p : Port) : Option (Nat × Nat) :=
  ((List.range 8).find? (fun v => decide (0 < p.owed.getD v 0))).map (fun v => (v, min 2048 (p.owed.getD v 0)))

/-- Put the link's acknowledgement and credit return on a frame (R280). -/
def stampLink (p : Port) (f : Frame) : Frame × Port :=
  let f1 := { f with lack := (p.rxSeq + 4095) % 4096, lackValid := p.rxAny }
  match creditDue p with
  | none => ({ f1 with crdVc := 0, crdCells := 0 }, { p with lackDue := false })
  | some (v, n) =>
    ({ f1 with crdVc := v, crdCells := n }, { p with lackDue := false, owed := p.owed.set v (p.owed.getD v 0 - n) })

/-- Whether some port still holds a copy of a transit frame. -/
def copyHeld (f : Fabric) (uid : Nat) : Bool :=
  f.ports.any (fun p => p.queue.any (fun h => match h.cells with
    | some (_, _, _, u) => u == uid
    | none => false))

/-- Cells of a receive buffer that have been freed wait for return (R289). -/
def owe (f : Fabric) (port v n : Nat) : Fabric :=
  modPort f port (fun p => { p with owed := p.owed.set v (p.owed.getD v 0 + n) })

/-- Send again the first frame that waits for a resend, with its number, once its channel has credit (R286, R289). It reports
the acknowledgement of now (R284) and the credit return of its first sending (log entry 87). -/
def resendOne (fab : Fabric) (n : Nat) (p : Port) (h : Held) : Option (Fabric × Emission) :=
  let v := chanOf h.f
  if p.credit.getD v 0 < (cellsFor h.f : Int) then none
  else
    let f1 := { h.f with lack := (p.rxSeq + 4095) % 4096, lackValid := p.rxAny }
    let p1 := { p with again := p.again.drop 1, replay := p.replay ++ [{ h with f := f1 }], lackDue := false, resendCount := wrapAdd 64 p.resendCount 1,
                       credit := p.credit.set v (p.credit.getD v 0 - cellsFor h.f) }
    some (modPort fab n (fun _ => p1), .frame n f1)

/-- Send one frame from a port, if there is one: a resend first, else what arbitration finds, numbered, stamped, held for replay
and debited. -/
def sendOne (fab : Fabric) (n : Nat) : Option (Fabric × Emission) :=
  match getPort fab n with
  | none => none
  | some p =>
    if !p.up || p.failed || p.quiet then none
    else
      match p.again with
      | h :: _ => resendOne fab n p h
      | [] =>
      match nextChan fab p with
      | none => none
      | some v =>
        match headOf p v with
        | none => none
        | some h =>
          let (f1, p1) := stampLink p { h.f with lseq := p.txSeq }
          let c := v / 2
          let p2 := { p1 with
            queue := p1.queue.erase h
            replay := p1.replay ++ [{ h with f := f1, cells := none }]
            txSeq := (p1.txSeq + 1) % 4096
            credit := p1.credit.set v (p1.credit.getD v 0 - cellsFor h.f)
            served := if c == 0 then p1.served else p1.served.set c (p1.served.getD c 0 + wireLen h.f) }
          let fab1 := modPort fab n (fun _ => p2)
          let fab2 := match h.cells with
            | some (ip, iv, k, u) => if copyHeld fab1 u then fab1 else owe fab1 ip iv k
            | none => fab1
          some (fab2, .frame n f1)

/-- Send what a port may send. -/
def pumpPort : Nat → Fabric → Nat → Fabric × List Emission
  | 0, fab, _ => (fab, [])
  | k + 1, fab, n =>
    match sendOne fab n with
    | none => (fab, [])
    | some (fab1, e) =>
      let r := pumpPort k fab1 n
      (r.1, e :: r.2)

def pumpOne (fab : Fabric) (n : Nat) : Fabric × List Emission :=
  pumpPort (match getPort fab n with
    | some p => p.queue.length + p.again.length
    | none => 0) fab n

/-- A `LINK` frame: no sequence, no credit, never replayed (R282). -/
def linkSend (fab : Fabric) (n : Nat) (lop : Nat) (fields : List (Nat × Nat × Nat)) : Fabric × List Emission :=
  match getPort fab n with
  | none => (fab, [])
  | some p =>
    if !p.up || p.failed || p.quiet then (fab, [])
    else
      let (f, p1) := stampLink p (mkFrame fab 0 false 0 0 ((128, 8, lop) :: fields) [])
      (modPort fab n (fun _ => p1), [.frame n f])

/-- A port with 32 cells of one channel to return (R291). -/
def returnPort (fab : Fabric) : Option Nat :=
  (List.range 32).find? (fun n => portServes fab n && (match getPort fab n with
    | some p => !p.quiet && p.owed.any (fun k => 32 ≤ k)
    | none => false))

/-- Credit returns that have come due on any port leave on the next frame, or on `LINK` frames where none is ready (R291). -/
def returnDue : Nat → Fabric → Fabric × List Emission
  | 0, fab => (fab, [])
  | k + 1, fab =>
    match returnPort fab with
    | none => (fab, [])
    | some n =>
      let (f1, e1) := pumpOne fab n
      let (f2, e2) := if returnPort f1 == some n then linkSend f1 n 0 [] else (f1, [])
      let (f3, e3) := returnDue k f2
      (f3, e1 ++ e2 ++ e3)

/-- Send what a port may send, and what the cells so freed owe elsewhere. -/
def pump (fab : Fabric) (n : Nat) : Fabric × List Emission :=
  let (f1, e1) := pumpOne fab n
  let (f2, e2) := returnDue 256 f1
  (f2, e1 ++ e2)

/-- Good lanes of a port, L8 among them (R276). -/
def goodLanes (p : Port) : Nat := ((List.range 9).filter (bitAt p.lanes)).length

/-- The widest width that a port's good lanes allow, 0 for a failed port (R276). -/
def fullWidth (p : Port) : Nat := if 8 ≤ goodLanes p then 8 else if 4 ≤ goodLanes p then 4 else 0

/-- A port leaves quiet with a wake burst on L0, and regains full width (R468). -/
def wakeQuiet (fab : Fabric) (n : Nat) : Fabric × List Emission :=
  match getPort fab n with
  | none => (fab, [])
  | some p =>
    if p.quiet then (modPort fab n (fun q => { q with quiet := false, wantQuiet := false, width := fullWidth q, wantWidth := fullWidth q }), [.wakeBurst n])
    else (fab, [])

/-- `SUB` on egress (R295): cleared where the dimension changes, then set by a dateline. -/
def egressSub (fab : Fabric) (ingress : Option Nat) (egress : Nat) (sub : Bool) : Bool :=
  let keep := match ingress with
    | none => false
    | some q => sub && peDim (portEntry fab q) == peDim (portEntry fab egress)
  keep || peDateline (portEntry fab egress)

/-- The profile for a payload's format under a generation, or the one given when the format is not known here. -/
def profileFor (g : GenSet) (fmt : Option Nat) (prof : Nat) : Nat := (fmt.map (genProfile g)).getD prof

/-- The format of a frame's full-size payload where the frame alone gives it (Table 13.1): `DELIVER`, and `REDUCE` by its length,
since a half chunk in P40 has 5,120 B and no Q16 payload has (R322, R327). -/
def headerFmt (f : Frame) : Option Nat :=
  if f.ftype == 1 then some (if f.payload.length == 5120 then 0x0C else 0x0E) else if f.ftype == 2 then some 0x0C else none

/-- Code a payload of this module for a port (R358), and count it. -/
def codeFor (fab : Fabric) (n : Nat) (fmt : Option Nat) (f : Frame) : Frame × Option Nat × (CmpCount → CmpCount) :=
  match getPort fab n with
  | none => (f, none, id)
  | some p =>
    if !blockFramed f then (f, none, id)
    else
      let n := p.sendGen.getD 0
      let g := genSet fab n
      let e := encodePayload g n (if p.sendGen.isNone then 0xF else profileFor g fmt 0xF) maxBlocks 0 f.payload
      ({ f with payload := e.1 }, if e.2.1 == 0 then none else some n,
       fun c => { c with uBytes := wrapAdd 64 c.uBytes f.payload.length, wBytes := wrapAdd 64 c.wBytes e.1.length,
                         coded := wrapAdd 32 c.coded e.2.1, stored := wrapAdd 32 c.stored e.2.2 })

/-- Queue a frame on an egress port and send what may be sent. Leaving a quiet port sends a wake burst first. -/
def enqueue (fab : Fabric) (n : Nat) (h : Held) : Fabric × List Emission :=
  let (fab0, e0) := wakeQuiet fab n
  let fab1 := modPort fab0 n (fun p => { p with queue := p.queue ++ [h] })
  let (fab2, e2) := pump fab1 n
  (fab2, e0 ++ e2)

/-- A frame of this module leaves on a port: coded, counted, hops 1. -/
def originate (fab : Fabric) (n : Nat) (fmt : Option Nat) (f : Frame) : Fabric × List Emission :=
  let (f1, g, cnt) := codeFor fab n fmt { f with sub := egressSub fab none n false, hops := f.hops + 1 }
  enqueue (modPort fab n (fun p => { p with txc := cnt p.txc })) n { f := f1, gen := g, cells := none }

def noRouteCount (fab : Fabric) (n : Nat) : Fabric := modPort fab n (fun p => { p with noRoute := wrapAdd 64 p.noRoute 1 })

/-- Copies of a multicast frame of this module, one to each group of the mask (R296). -/
def originateGroups (fmt : Option Nat) (f : Frame) : List Nat → Fabric → Fabric × List Emission
  | [], fab => (fab, [])
  | g :: r, fab =>
    let (fab1, e1) := match groupMember fab g f.flow with
      | some n => originate fab n fmt f
      | none =>
        match (List.range 32).find? (fun p => inUse fab p && peGroup (portEntry fab p) == g) with
        | some n => (noRouteCount fab n, [])
        | none => (fab, [])
    let (fab2, e2) := originateGroups fmt f r fab1
    (fab2, e1 ++ e2)

/-- Send a frame of this module. A frame for this module, and a multicast one with `LOCAL`, is delivered here with its payload
at full size. None where no route is usable (R294, R296). -/
def fabricSend (fab : Fabric) (fmt : Option Nat) (f : Frame) : Option (Fabric × List Emission) :=
  if f.mcast then
    if !mcastValid fab f.dst then none
    else
      let (fab1, e) := originateGroups fmt f (mcastGroups fab f.dst) fab
      some (if mcastLocal fab f.dst then { fab1 with inbox := fab1.inbox ++ [(32, f)] } else fab1, e)
  else if f.dst == myId fab then some ({ fab with inbox := fab.inbox ++ [(32, f)] }, [])
  else
    match (routeGroup fab f.dst).bind (fun g => groupMember fab g f.flow) with
    | none => none
    | some n => some (originate fab n fmt f)

/-- Send several frames; the flag says that every one found a route. -/
def fabricSendAll (fab : Fabric) : List (Option Nat × Frame) → Fabric × List Emission × Bool
  | [] => (fab, [], true)
  | (fmt, f) :: r =>
    match fabricSend fab fmt f with
    | none =>
      let q := fabricSendAll fab r
      (q.1, q.2.1, false)
    | some (fab1, e) =>
      let q := fabricSendAll fab1 r
      (q.1, e ++ q.2.1, q.2.2)

end Sys2Proof.Machine
end

