-- ==== Sys2Proof/Machine/Operands.lean ====
section
/-! DEFINITION. The operand forms of commands: the YCP header (Table 15.1), each opcode's roles, parameter length and
reserved parameter bits (Tables 16.1 to 16.18), and the bytes that a tag covers. -/

namespace Sys2Proof.Machine

/-- The fields of a record that parameters carry from a bit on. -/
def fieldsAt (base : Nat) (fs : List (Nat × Nat)) : List (Nat × Nat) := fs.map (fun f => (base + f.1, f.2))

/-- Named bits of the records that commands carry: a caravan entry (Table 12.2), an adapter entry (Table 4.8), a scale history record
(Table 3.3), a KV pool record (Table 7.10), a topology table (Tables 11.5 and 11.6), routing and multicast entries (R294, R296). -/
def caravanFields : List (Nat × Nat) := [(0, 4), (8, 24), (64, 128)]
def adapterFields : List (Nat × Nat) := [(0, 8), (32, 24), (64, 24), (96, 32)]
def histFields : List (Nat × Nat) := [(0, 88), (96, 544)]
def poolFields : List (Nat × Nat) := [(0, 80), (96, 296), (416, 32)]
def topoFields : List (Nat × Nat) :=
  [(0, 90), (96, 120)] ++ (List.range 32).flatMap (fun i => fieldsAt (512 + 128 * i) [(0, 6), (8, 6), (16, 21), (48, 16)])
def routeFields : List (Nat × Nat) := (List.range 256).map (fun i => (32 + 32 * i, 10))
def mcastFields : List (Nat × Nat) := (List.range 128).map (fun i => (64 + 64 * i, 18))

/-- An opcode's roles, `PLEN` and named parameter bits as (lowest bit, width). -/
abbrev OpForm := List Nat × Nat × List (Nat × Nat)

def rolesAll : List Nat := [1, 2, 3]

def formsSession : List (Nat × OpForm) := [
  (0x0001, [], 80, [(0, 36), (128, 512)]),
  (0x0002, [], 768, [(0, 6144)]),
  (0x0003, rolesAll, 0, []),
  (0x0004, rolesAll, 0, []),
  (0x0010, rolesAll, 8, [(0, 32)]),
  (0x0011, rolesAll, 32, [(0, 32), (64, 160)]),
  (0x0012, rolesAll, 8, [(0, 32)]),
  (0x0100, rolesAll, 0, []),
  (0x0101, rolesAll, 0, []),
  (0x0102, rolesAll, 32, [(0, 256)]),
  (0x0200, [2], 32, [(0, 5), (8, 20), (32, 8), (64, 32), (128, 128)]),
  (0x0201, [2], 8, [(0, 16), (32, 32)]),
  (0x0202, [2], 8, [(0, 8)]),
  (0x0203, rolesAll, 8, [(0, 2)])]

def formsMemory : List (Nat × OpForm) := [
  (0x0300, [1, 2], 48, [(0, 1), (2, 2), (8, 5), (16, 3), (32, 24), (64, 24), (128, 176)]),
  (0x0301, [1, 2], 8, [(0, 24)]),
  (0x0302, [1, 2], 32, [(0, 3), (64, 48), (128, 48)]),
  (0x0303, [1, 2], 32, [(0, 56), (64, 128)]),
  (0x0304, [1, 2], 8, [(0, 33)]),
  (0x0305, [1], 32, [(0, 24), (32, 8), (64, 32), (128, 48)]),
  (0x0306, [1, 3], 64, [(0, 24), (32, 8), (64, 32), (128, 256)]),
  (0x0307, [1], 16, [(0, 48), (64, 24)])]

def formsImage : List (Nat × OpForm) := [
  (0x0400, [1], 16, [(0, 48), (64, 48)]),
  (0x0401, [1], 0, []),
  (0x0402, rolesAll, 0, []),
  (0x0403, [1], 32, [(0, 216)]),
  (0x0404, [1, 2], 8, [(0, 24)]),
  (0x0405, [1], 88, (0, 24) :: fieldsAt 64 histFields),
  (0x0406, [1], 24, (0, 8) :: fieldsAt 64 adapterFields),
  (0x0407, [1], 56, [(0, 12), (16, 11), (32, 2), (64, 320)])]

def formsFabric : List (Nat × OpForm) := [
  (0x0500, [1], 8, [(0, 48)]),
  (0x0501, [1], 40, (0, 12) :: fieldsAt 64 caravanFields),
  (0x0502, [2], 576, topoFields),
  (0x0503, [2], 1032, (0, 32) :: routeFields),
  (0x0504, [2], 1032, (0, 32) :: mcastFields),
  (0x0505, [2], 8, [(0, 3)]),
  (0x0506, rolesAll, 8, [(0, 3), (16, 16)]),
  (0x0507, [2], 16, [(0, 80)]),
  (0x0508, [1], 8, [(0, 48)]),
  (0x0509, [2], 32, [(0, 4), (16, 32), (128, 128)]),
  (0x050A, [2], 384, [(0, 3072)]),
  (0x050B, [2], 8, [(0, 32)])]

def formsKv : List (Nat × OpForm) := [
  (0x0600, [1], 72, (0, 4) :: fieldsAt 64 poolFields),
  (0x0601, [1], 8, [(0, 4)]),
  (0x0602, [1], 16, [(0, 12), (16, 5), (32, 64)]),
  (0x0603, [1], 16, [(0, 12), (16, 28), (64, 32)]),
  (0x0604, [1], 24, [(0, 12), (16, 32), (64, 40), (144, 48)]),
  (0x0605, [1], 16, [(0, 12), (16, 16), (64, 32)]),
  (0x0606, [1], 8, [(0, 12), (16, 16)]),
  (0x0607, [1], 16, [(0, 12), (16, 80)]),
  (0x0608, [1], 8, [(0, 12)]),
  (0x0609, [1], 16, [(0, 4), (32, 40)])]

def formsOther : List (Nat × OpForm) := [
  (0x0700, rolesAll, 8, [(0, 8), (32, 32)]),
  (0x0701, rolesAll, 8, [(0, 1), (32, 16)]),
  (0x0702, rolesAll, 8, [(0, 32)]),
  (0x0703, rolesAll, 8, [(0, 32)]),
  (0x0800, [1, 2], 8, [(0, 64)]),
  (0x0801, [2], 16, [(0, 96)]),
  (0x0802, [2], 8, [(0, 16)]),
  (0x0803, [2], 8, [(0, 1)]),
  (0x0804, rolesAll, 0, []),
  (0x0900, rolesAll, 8, [(0, 32)]),
  (0x0901, [3], 1288, [(0, 49), (64, 10240)]),
  (0x0902, [2, 3], 8, [(0, 8)]),
  (0x0903, rolesAll, 16, [(0, 8), (32, 80)]),
  (0x0904, [2], 8, [(0, 16)]),
  (0x0905, [2], 8, [(0, 1)]),
  (0x0906, [3], 8, [(0, 8)]),
  (0x0A00, [2], 1352, [(0, 2), (16, 16), (64, 10752)]),
  (0x0A01, [2], 32, [(0, 256)]),
  (0x0A02, [2, 3], 8, [(0, 16)]),
  (0x0A03, rolesAll, 8, [(0, 64)]),
  (0x0A04, rolesAll, 0, []),
  (0x0B00, [2], 16, [(0, 48), (64, 48)]),
  (0x0B01, [2], 8, [(0, 1)]),
  (0x0B02, [2], 0, []),
  (0x8000, [3], 8, [(0, 16)])]

/-- Roles, length and named bits of an opcode; none where version 1.0 assigns none (R439). -/
def opForm (opc : Nat) : Option OpForm :=
  spGet? opc (formsSession ++ formsMemory ++ formsImage ++ formsFabric ++ formsKv ++ formsOther)

/-- The bits of n inside a list of fields. -/
def maskFields (n : Nat) (fs : List (Nat × Nat)) : Nat :=
  (fs.map (fun f => (bits n f.1 f.2) <<< f.1)).foldl (· + ·) 0

/-- Every bit of n outside the named fields is 0 (R13, R412). -/
def reservedZero (n : Nat) (fs : List (Nat × Nat)) : Bool := n == maskFields n fs

/-- Reading order: the command kinds that are only reads, with `SESSION_PING` (event 1 of Table 20.5 leaves them out). -/
def opReads : List Nat :=
  [0x0001, 0x0002, 0x0004, 0x0010, 0x0011, 0x0100, 0x0101, 0x0102, 0x0203, 0x0402, 0x0404, 0x0506, 0x0608, 0x0609, 0x0700,
   0x0701, 0x0702, 0x0703, 0x0804, 0x0900, 0x0903, 0x0A02, 0x0A03, 0x0A04, 0x0B02]

/-- Operations whose acceptance and final state are audit events 3 and 4 (Table 20.5). -/
def opJob : List Nat := [0x0400, 0x0401, 0x0403, 0x0306]

/-- The audit event of a command's acceptance, 0 for none. -/
def auditEvent (opc role : Nat) : Nat :=
  if opJob.contains opc && (role == 1 || opc == 0x0306) then 3
  else if role == 1 || opReads.contains opc then 0
  else 1

/-- Header of Table 15.1 as a number of 32 bytes. -/
def ycpHeader (d : Datagram) (opc : Nat) : Nat :=
  pack [(0, 16, 0x4359), (16, 8, d.major), (24, 8, d.minor), (32, 16, 32), (49, 1, b2n d.retry), (50, 1, b2n d.fence),
        (51, 13, d.rsv), (64, 32, d.sid), (96, 32, d.seq), (128, 16, opc), (144, 16, d.rsv >>> 13), (160, 32, d.plen),
        (192, 64, d.hostTag)]

/-- The bytes that a command's tag covers (R389). -/
def ycpBytes (d : Datagram) (opc : Nat) : List Byte := leBytes 32 (ycpHeader d opc) ++ leBytes d.plen d.params

/-- The tag of a command under a host key (R389). -/
def cmdTag (key : Nat) (d : Datagram) (opc : Nat) : Nat := tag16 key (ycpBytes d opc)

/-- The header and parameters of a reply (R387): the head of Table 15.2, then the body. -/
def replyBytes (sid seq opc hostTag : Nat) (major minor : Nat) (r : Reply) : List Byte :=
  leBytes 32 (pack [(0, 16, 0x4359), (16, 8, major), (24, 8, minor), (32, 16, 32), (48, 1, 1), (64, 32, sid), (96, 32, seq),
                    (128, 16, opc), (160, 32, 8 + r.blen), (192, 64, hostTag)]) ++
  leBytes 8 (pack [(0, 16, r.code), (16, 1, b2n r.warn), (32, 32, r.handle)]) ++ leBytes r.blen r.body

/-- A session's two keys from the secret, its `SID` and the two nonces (R389). -/
def sessionKey (label : List Byte) (k : List Byte) (sid nH nM : Nat) : Nat :=
  ofLe (hmac256 k (label ++ leBytes 4 sid ++ leBytes 32 nH ++ leBytes 32 nM))

/-- "YCP1 host" and "YCP1 module" in ASCII. -/
def labelHost : List Byte := [0x59, 0x43, 0x50, 0x31, 0x20, 0x68, 0x6F, 0x73, 0x74]
def labelModule : List Byte := [0x59, 0x43, 0x50, 0x31, 0x20, 0x6D, 0x6F, 0x64, 0x75, 0x6C, 0x65]

/-- A parameter field. -/
def prm (d : Datagram) (lo w : Nat) : Nat := bits d.params lo w

end Sys2Proof.Machine
end

