-- ==== Sys2Proof/Machine/Ops.lean ====
section
/-! DEFINITION. Operations over memory, translation, wake, the two logs and the fabric, shared by every meaning. -/

namespace Sys2Proof.Machine

/-! Memory of one tier. -/

def memGet (m : Mem) (a : Nat) : Byte := spGet 0 a m

/-- Write one byte; writing 0 removes the cell, so that equal memories are equal lists. -/
def memSet (m : Mem) (a : Nat) (b : Byte) : Mem := spPut 0 a b m

def memRead (m : Mem) (a n : Nat) : List Byte := (List.range n).map (fun i => memGet m (a + i))

def memWrite (m : Mem) (a : Nat) : List Byte → Mem
  | [] => m
  | b :: r => memWrite (memSet m a b) (a + 1) r

/-- Canonical form: addresses strictly rising and no cell holding 0. -/
def memWf (m : Mem) : Bool := spSorted m && m.all (fun c => c.2 != 0)

def tierMem (m : Memory) (tier : Nat) : Mem := if tier == 0 then m.spad else if tier == 1 then m.hbm else m.ddr

def setTier (m : Memory) (tier : Nat) (x : Mem) : Memory :=
  if tier == 0 then { m with spad := x } else if tier == 1 then { m with hbm := x } else { m with ddr := x }

/-- Bytes of one protected unit: scratchpad line, HBM code word, DDR5 word (R256, R260, R261). -/
def unitBytes (tier : Nat) : Nat := if tier == 0 then 128 else if tier == 1 then 512 else 64

def badUnits (m : Memory) (tier : Nat) : List Nat :=
  if tier == 0 then m.badSpad else if tier == 1 then m.badHbm else m.badDdr

def setBad (m : Memory) (tier : Nat) (l : List Nat) : Memory :=
  if tier == 0 then { m with badSpad := l } else if tier == 1 then { m with badHbm := l } else { m with badDdr := l }

/-- Logical stack and code group of an HBM code word (R252). -/
def stackOfHbm (a : Nat) : Nat := 4 * (a / 0x6000000000) + a % 0x6000000000 / 4096 % 4
def groupOfHbm (a : Nat) : Nat := ((a % 0x6000000000 / 4096 / 4) * 4096 + a % 4096) / 512 % 4

/-- Bytes of a stack's offset s in R252's decode of an HBM address: the field's window is 384 GiB, with granules over four stacks. -/
def stackOff (a : Nat) : Nat := (a % 0x6000000000 / 4096 / 4) * 4096 + a % 4096

/-- Physical data pseudo-channel of a byte, and its offset there (R252). -/
def pcOf (a : Nat) : Nat := 17 * groupOfHbm a + stackOff a % 512 / 32
def pcOff (a : Nat) : Nat := stackOff a / 512 / 4 * 32 + stackOff a % 32

/-- Check pseudo-channel of a byte's code group, and the byte's row (R252). -/
def checkPc (a : Nat) : Nat := 17 * groupOfHbm a + 16
def rowOfHbm (a : Nat) : Nat := stackOff a / 512 / 4

/-- Field, logical bank and line of a scratchpad address (R251). -/
def spadField (a : Nat) : Nat := a / 0x10000000
def spadBank (a : Nat) : Nat := a % 0x10000000 / 128 % 64
def spadLine (a : Nat) : Nat := a % 0x10000000 / 8192

/-- Channel and byte within it of a DDR5 address (R253). -/
def ddrChannel (a : Nat) : Nat := 8 * (a / 0x20000000000) + a % 0x20000000000 / 4096 % 8
def ddrByte (a : Nat) : Nat := a % 0x20000000000 / 32768 * 4096 + a % 4096

/-- A code word of a group that has lost two segments (R256), not rewritten since (R262). The placement repeats every 64 code words. -/
def lostWord (m : Memory) (a n : Nat) : Option Nat :=
  if m.lostGroups.isEmpty || n == 0 then none
  else
    let k0 := a / 512
    ((List.range (min (64 * (m.rewritten.length + 1)) ((a + n - 1) / 512 - k0 + 1))).map (k0 + ·)).find? (fun k =>
      m.lostGroups.contains (stackOfHbm (512 * k), groupOfHbm (512 * k)) && !m.rewritten.contains k)

/-- Code words of lost groups that a range covers whole join those that read again (R262). -/
def rewriteWords (m : Memory) (a n : Nat) : Memory :=
  if m.lostGroups.isEmpty then m
  else
    let k0 := ceilDiv a 512
    let ks := ((List.range ((a + n) / 512 - k0)).map (k0 + ·)).filter (fun k =>
      m.lostGroups.contains (stackOfHbm (512 * k), groupOfHbm (512 * k)) && !m.rewritten.contains k)
    { m with rewritten := m.rewritten ++ ks }

/-- The first failed unit that a range of a tier touches. -/
def badIn (m : Memory) (tier a n : Nat) : Option Nat :=
  let u := unitBytes tier
  match (badUnits m tier).find? (fun k => decide (k * u < a + n) && decide (a < (k + 1) * u)) with
  | some k => some k
  | none => if tier == 1 then lostWord m a n else none

/-- Write a range of a tier. A unit that the write covers whole is good again (R262). -/
def writeTier (m : Memory) (tier a : Nat) (bs : List Byte) : Memory :=
  let u := unitBytes tier
  let n := bs.length
  let m1 := setTier m tier (memWrite (tierMem m tier) a bs)
  let m2 := if tier == 1 then rewriteWords m1 a n else m1
  setBad m2 tier ((badUnits m tier).filter (fun k => !(decide (a ≤ k * u) && decide ((k + 1) * u ≤ a + n))))

/-- Bytes of a tier (R249). -/
def tierSize (tier : Nat) : Nat :=
  if tier == 0 then 0x80000000 else if tier == 1 then 0x30000000000 else if tier == 2 then 0x40000000000 else 0x40000

/-- The DDR5 half of an address (R253) is out of service (R261). -/
def ddrDown (m : Memory) (a : Nat) : Bool := m.ddrOut.contains (a / 0x20000000000)

/-! Regions (R239, R240). -/

def rgBase (r : Nat) : Nat := bits r 0 48
def rgLen (r : Nat) : Nat := 65536 * bits r 64 32
def rgTier (r : Nat) : Nat := bits r 96 3
def rgPbase (r : Nat) : Nat := bits r 128 48
/-- Rights as a mask: 1 R, 2 W, 4 X, 8 HOST, 16 PEER. -/
def rgRights (r : Nat) : Nat := bits r 99 5

def regionAt (rs : List Nat) (va : Nat) : Option Nat :=
  rs.find? (fun r => decide (rgBase r ≤ va) && decide (va < rgBase r + rgLen r))

/-- A virtual range as pieces (tier, tier-relative address, length), or the code of the first failure. -/
def translate (m : Memory) (rs : List Nat) (need : Nat) : Nat → Nat → Nat → Except Nat (List (Nat × Nat × Nat))
  | 0, _, n => if n == 0 then .ok [] else .error 0x0303
  | k + 1, va, n =>
    if n == 0 then .ok []
    else
      match regionAt rs va with
      | none => .error 0x0303
      | some r =>
        let pa := rgPbase r + (va - rgBase r)
        let len := min n (rgBase r + rgLen r - va)
        if rgRights r &&& need != need || (rgTier r == 3 && need != 0) then .error 0x0304
        else if rgTier r == 2 && (ddrDown m pa || ddrDown m (pa + len - 1)) then .error 0x0306
        else
          match translate m rs need k (va + len) (n - len) with
          | .error c => .error c
          | .ok ps => .ok ((rgTier r, pa, len) :: ps)

def readPieces (m : Memory) : List (Nat × Nat × Nat) → Except Nat (List Byte)
  | [] => .ok []
  | (t, a, n) :: r =>
    if (badIn m t a n).isSome then .error 0x0601
    else
      match readPieces m r with
      | .error c => .error c
      | .ok l => .ok (memRead (tierMem m t) a n ++ l)

def writePieces (m : Memory) : List (Nat × Nat × Nat) → List Byte → Memory
  | [], _ => m
  | (t, a, n) :: r, bs => writePieces (writeTier m t a (bs.take n)) r (bs.drop n)

/-- Read n bytes at a device virtual address, or the code of the failure. -/
def vaRead (m : Memory) (rs : List Nat) (need va n : Nat) : Except Nat (List Byte) :=
  match translate m rs need (rs.length + 1) va n with
  | .error c => .error c
  | .ok ps => readPieces m ps

/-- Write bytes at a device virtual address, or the code of the failure. -/
def vaWrite (m : Memory) (rs : List Nat) (need va : Nat) (bs : List Byte) : Except Nat Memory :=
  match translate m rs need (rs.length + 1) va bs.length with
  | .error c => .error c
  | .ok ps => .ok (writePieces m ps bs)

/-- Write where the range translates, else leave memory: for ranges that load has checked. -/
def vaPut (m : Memory) (rs : List Nat) (va : Nat) (bs : List Byte) : Memory :=
  match translate m rs 0 (rs.length + 1) va bs.length with
  | .error _ => m
  | .ok ps => writePieces m ps bs

/-- The first byte of a range that cannot be read; its start where none is. -/
def faultAt (m : Memory) (rs : List Nat) (va n : Nat) : Nat :=
  (((List.range n).map (va + ·)).find? (fun a => match vaRead m rs 0 a 1 with
    | .error _ => true
    | .ok _ => false)).getD va

/-- The first of some ranges whose bytes cannot be read, as code and address (R261, R263). -/
def rangesFault (m : Memory) (rs : List Nat) (l : List (Nat × Nat)) : Option (Nat × Nat) :=
  l.findSome? (fun r => match vaRead m rs 0 r.1 r.2 with
    | .error c => some (c, faultAt m rs r.1 r.2)
    | .ok _ => none)

/-- Read where the range translates, whatever the units hold; zeros elsewhere: for what `rangesFault` has let pass. -/
def vaPeek (m : Memory) (rs : List Nat) (va n : Nat) : List Byte :=
  match translate m rs 0 (rs.length + 1) va n with
  | .error _ => List.replicate n 0
  | .ok ps => ps.flatMap (fun p => memRead (tierMem m p.1) p.2.1 p.2.2)

/-! What leaves the module, wake and logs. -/

def emit (es : List Emission) (s : State) : State := { s with out := s.out ++ es }

/-- A port goes back to full width: a wake burst if it is quiet, and a width request (R467, R468). -/
def widenPort (fab : Fabric) (n : Nat) : Fabric × List Emission :=
  match getPort fab n with
  | none => (fab, [])
  | some p =>
    if !p.up || p.failed || (p.width == fullWidth p && !p.quiet) then (fab, [])
    else
      let (f1, e1) := wakeQuiet fab n
      let (f3, e3) := if p.quiet then (f1, [])
        else linkSend (modPort f1 n (fun q => { q with wantWidth := fullWidth p })) n 5 [(136, 4, fullWidth p)]
      let (f4, e4) := pump f3 n
      (f4, e1 ++ e3 ++ e4)

def widenAll : List Nat → Fabric → Fabric × List Emission
  | [], fab => (fab, [])
  | n :: r, fab =>
    let (f1, e1) := widenPort fab n
    let (f2, e2) := widenAll r f1
    (f2, e1 ++ e2)

/-- Fabric time outside PS1 and PS2, in ns: what waiting and pre-emption are measured in (R456). -/
def awakeNs (s : State) : Nat := nowNs s - s.power.lowNs - (if s.power.ps == 0 then 0 else nowNs s - s.power.lowSince)

/-- A wake (R463, R466): PS1 and PS2 end, the source is recorded, every port goes back to full width, and the dwell restarts. -/
def wakeUp (record : Option Nat) (s : State) : State :=
  if s.power.ps == 0 then { s with power := { s.power with idleSince := nowNs s } }
  else
    let r := widenAll (List.range 32) s.fabric
    { s with
      power := { s.power with ps := 0, wake := record.getD s.power.wake, idleSince := nowNs s,
                              lowNs := s.power.lowNs + (nowNs s - s.power.lowSince) }
      fabric := r.1
      out := s.out ++ r.2 }

/-- Step number in force, all ones outside a run (Table 19.5). -/
def stepInForce (s : State) : Nat := if s.run.active && s.run.begun then s.run.step else 0xFFFFFFFF

/-- Enter a fault in the log; it is a wake source (R500). -/
def addFault (event kind scope phys logical body blen : Nat) (s : State) : State :=
  wakeUp (some 6)
    { s with faultLog :=
        { entries := keepLast 65536 (s.faultLog.entries ++
            [{ seq := s.faultLog.next + 1, event := event, kind := kind, scope := scope, phys := phys, logical := logical,
               time := nowNs s, step := stepInForce s, body := body, bodyLen := blen }])
          next := s.faultLog.next + 1 } }

/-- A module-wide event with no part. -/
def addEvent (event body blen : Nat) (s : State) : State := addFault event 0 0 0 0xFFFF body blen s

/-- Event 6: a tile thread failed, with its thread, code, cause, counter and address or PC (Table 19.6). -/
def addThreadFault (kind logical thread code cause ctr addr : Nat) (s : State) : State :=
  addFault 6 kind 0 0 logical
    (pack [(0, 32, thread), (32, 16, code), (48, 8, cause), (64, 16, ctr), (128, 64, addr)]) 32 s

/-- Bytes of a fault log entry (Table 19.5). -/
def faultBytes (e : FaultEntry) : List Byte :=
  leBytes 32 (pack [(0, 16, 1), (16, 16, 32 + e.bodyLen), (32, 32, e.seq), (64, 8, e.event), (72, 8, e.kind), (80, 8, e.scope),
    (88, 16, e.phys), (104, 16, e.logical), (128, 64, e.time), (192, 32, e.step)]) ++ leBytes e.bodyLen e.body

/-- The first 72 bytes of an audit entry (Table 20.4). -/
def auditHead (opc code index time sid role event cert arg : Nat) : Nat :=
  pack [(0, 16, 1), (16, 16, 128), (32, 16, opc), (48, 16, code), (64, 64, index), (128, 64, time), (192, 32, sid),
        (224, 2, role), (232, 8, event), (256, 64, cert), (320, 256, arg)]

/-- Append an entry to the audit chain (R515, R517). -/
def auditPush (a : Audit) (opc code time sid role event cert arg : Nat) : Audit :=
  let h := auditHead opc code a.next time sid role event cert arg
  let c := shaNat (leBytes 32 a.chain ++ leBytes 72 h)
  { a with entries := keepLast 524288 (a.entries ++ [h + (c <<< 576)]), next := a.next + 1, chain := c }

/-- An audit entry of a session's command or operation; one that cannot be written leaves a fault entry 14 (R516). -/
def auditEntry (opc code sid role event cert arg : Nat) (s : State) : State :=
  if s.audit.writable then { s with audit := auditPush s.audit opc code (nowNs s) sid role event cert arg }
  else addEvent 14 (pack [(0, 16, opc), (16, 16, code), (32, 32, sid)]) 8 s

/-- An audit entry of a module event. -/
def auditModule (event arg : Nat) (s : State) : State := auditEntry 0 0 0 0 event 0 arg s

/-- First 8 bytes of a fingerprint. -/
def certTag (fp : Nat) : Nat := fp % 2 ^ 64

/-! The fabric. -/

/-- Send frames; the flag says that every one found a route. -/
def sendFrames (fs : List (Option Nat × Frame)) (s : State) : State × Bool :=
  let r := fabricSendAll s.fabric fs
  ({ s with fabric := r.1, out := s.out ++ r.2.1 }, r.2.2)

/-- A value that the spec leaves open; the counter moves on (log entry 3). -/
def takeFree (s : State) : Nat × State := (s.free, { s with free := s.free + 1 })

/-- Take a delivered frame out of the inbox. -/
def takeFrame (f : Frame) (s : State) : State :=
  { s with fabric := { s.fabric with inbox := s.fabric.inbox.eraseP (fun x => x.2 == f) } }

/-- A frame row acts on frames of its own type alone: `TYPE`, and the operation that the type's fields name. -/
def ofType (f : Frame) (ty : Nat) (sub : Option (Nat × Nat)) (t s : State) : State :=
  if f.ftype == ty && (match sub with
      | none => true
      | some (w, v) => bits f.tspec 0 w == v) then t else s

/-- The port on which a frame came; for one that is not in the inbox, the lowest port in use. -/
def portOf (s : State) (f : Frame) : Nat :=
  match s.fabric.inbox.find? (fun x => x.2 == f) with
  | some x => x.1
  | none => (portsInUse s.fabric).headD 0

/-- Change a port's record. -/
def onPort (n : Nat) (g : Port → Port) (s : State) : State := { s with fabric := modPort s.fabric n g }

/-- A frame discarded on a port is counted there (telemetry block 1). -/
def discardOn (n : Nat) (s : State) : State := onPort n (fun p => { p with discards := tick64 p.discards }) s

/-- A second copy of a frame is discarded and counted (R323). -/
def duplicate (f : Frame) (s : State) : State :=
  takeFrame f (onPort (portOf s f) (fun p => { p with duplicates := tick64 p.duplicates }) s)

def dayNs : Nat := 86400000000000

/-- What a stack has corrected within the last 24 hours, as time and number. -/
def recentCorrected (s : State) (stack : Nat) : List (Nat × Nat) :=
  (spGet [] stack s.repair.corrRecent).filter (fun r => decide (nowNs s < r.1 + dayNs))

/-- Correctable code words read are counted on their stack, with the time (R256, R490). -/
def addCorrected (stack k : Nat) (s : State) : State :=
  { s with
    memory := { s.memory with corrected := spSet stack (wrapAdd 64 (spGet 0 stack s.memory.corrected) k) s.memory.corrected }
    repair := { s.repair with corrRecent := spSet stack (recentCorrected s stack ++ [(nowNs s, k)]) s.repair.corrRecent } }

/-- Whether the module is command-ready (stage 8 of Table 21.1). -/
def ready (s : State) : Bool := s.boot.stage == 8

/-- Grade A has every capability; capability bits by presented grade (Table 0.2). -/
def capWord (grade : Nat) : Nat := if grade == 1 then 0xFF else if grade == 2 then 0xF8 else 0xC0
def hasCap (s : State) (b : Nat) : Bool := bitAt (capWord s.settings.grade) b

/-- Regions of the resident image. -/
def regionsOf (s : State) : List Nat := (s.image.map (·.regions)).getD []

end Sys2Proof.Machine
end

