-- ==== Sys2Proof/Machine/Num.lean ====
section
/-! DEFINITION. Exact arithmetic and the number formats of Tables 2.1 to 2.3, with the two rounding modes (R33 to R38, R51, R52). -/

namespace Sys2Proof.Machine

def fp32 : Flt := ⟨8, 23, 127⟩
def bf16 : Flt := ⟨8, 7, 127⟩
def fp16 : Flt := ⟨5, 10, 15⟩
def e4m3 : Flt := ⟨4, 3, 7⟩
def e5m2 : Flt := ⟨5, 2, 15⟩
def p40 : Flt := ⟨8, 31, 127⟩
def fp64 : Flt := ⟨11, 52, 1023⟩

def FV.zero : FV := .num false 0 0
def FV.one : FV := .num false 1 0

def fvNat (n : Nat) : FV := .num false n 0
def fvInt (i : Int) : FV := .num (decide (i < 0)) i.natAbs 0

def fvIsNan : FV → Bool
  | .nan => true
  | _ => false

def fvIsInf : FV → Bool
  | .inf _ => true
  | _ => false

/-- Neither NaN nor infinite. -/
def fvFinite : FV → Bool
  | .num _ _ _ => true
  | _ => false

def fvIsZero : FV → Bool
  | .num _ m _ => m == 0
  | _ => false

def fvNegB : FV → Bool
  | .nan => false
  | .inf n => n
  | .num n _ _ => n

def fvNeg : FV → FV
  | .nan => .nan
  | .inf n => .inf !n
  | .num n m e => .num (!n) m e

def fvAbs : FV → FV
  | .nan => .nan
  | .inf _ => .inf false
  | .num _ m e => .num false m e

/-- x × 2^k, exact. -/
def fvScale (k : Int) : FV → FV
  | .num n m e => .num n m (e + k)
  | v => v

/-- Signed significand of a number at the exponent e0 ≤ its own. -/
def sigAt (e0 : Int) (n : Bool) (m : Nat) (e : Int) : Int :=
  let s : Int := (m <<< (e - e0).toNat : Nat)
  if n then -s else s

/-- Exact sum. Opposite infinities give NaN (R102); a zero sum of opposite signs is +0. -/
def fvAdd : FV → FV → FV
  | .nan, _ => .nan
  | _, .nan => .nan
  | .inf a, .inf b => if a == b then .inf a else .nan
  | .inf a, .num _ _ _ => .inf a
  | .num _ _ _, .inf b => .inf b
  | .num n1 m1 e1, .num n2 m2 e2 =>
    let e0 := min e1 e2
    let s := sigAt e0 n1 m1 e1 + sigAt e0 n2 m2 e2
    if s == 0 then .num (n1 && n2) 0 0 else .num (decide (s < 0)) s.natAbs e0

def fvSub (a b : FV) : FV := fvAdd a (fvNeg b)

/-- Exact product. Infinity times zero gives NaN (R102). -/
def fvMul : FV → FV → FV
  | .nan, _ => .nan
  | _, .nan => .nan
  | .inf a, .inf b => .inf (a != b)
  | .inf a, .num n m _ => if m == 0 then .nan else .inf (a != n)
  | .num n m _, .inf b => if m == 0 then .nan else .inf (n != b)
  | .num n1 m1 e1, .num n2 m2 e2 => .num (n1 != n2) (m1 * m2) (e1 + e2)

/-- Bits carried below the leading bit of a quotient or root before its sticky bit. -/
def guardBits : Nat := 160

/-- A quotient to `guardBits` bits with a sticky bit: it rounds to nearest even as the exact quotient does. -/
def fvDiv : FV → FV → FV
  | .nan, _ => .nan
  | _, .nan => .nan
  | .inf _, .inf _ => .nan
  | .inf a, .num n _ _ => .inf (a != n)
  | .num n _ _, .inf b => .num (n != b) 0 0
  | .num n1 m1 e1, .num n2 m2 e2 =>
    if m2 == 0 then (if m1 == 0 then .nan else .inf (n1 != n2))
    else
      let k := guardBits + Nat.log2 m2
      let q := (m1 <<< k) / m2
      let r := (m1 <<< k) % m2
      .num (n1 != n2) (2 * q + b2n (r != 0)) (e1 - e2 - k - 1)

/-- Integer square root by bisection on `k` bits. -/
def isqrtAux (x : Nat) : Nat → Nat → Nat
  | 0, r => r
  | k + 1, r =>
    let t := r + 2 ^ k
    isqrtAux x k (if t * t ≤ x then t else r)

def isqrt (x : Nat) : Nat := isqrtAux x (Nat.log2 x / 2 + 1) 0

/-- m × 2^e with an even exponent and a significand of at least 2 × `guardBits` bits. -/
def evenSig (m : Nat) (e : Int) : Nat × Int :=
  let m1 := m <<< (2 * guardBits)
  let e1 := e - 2 * guardBits
  if e1 % 2 == 0 then (m1, e1) else (2 * m1, e1 - 1)

/-- Square root with a sticky bit; NaN below −0. -/
def fvSqrt : FV → FV
  | .nan => .nan
  | .inf n => if n then .nan else .inf false
  | .num n m e =>
    if m == 0 then .num n 0 0
    else if n then .nan
    else
      let (x, ex) := evenSig m e
      let r := isqrt x
      .num false (2 * r + b2n (r * r != x)) (ex / 2 - 1)

/-- 1 ÷ √a with a sticky bit; +infinity for +0 (R212). -/
def fvRsqrt : FV → FV
  | .nan => .nan
  | .inf n => if n then .nan else .num false 0 0
  | .num n m e =>
    if m == 0 then .inf n
    else if n then .nan
    else
      let e1 := if e % 2 == 0 then e else e - 1
      let m1 := if e % 2 == 0 then m else 2 * m
      let k := 2 * guardBits + 2 * Nat.log2 m1
      let r := isqrt ((1 <<< (2 * k)) / m1)
      .num false (2 * r + b2n (r * r * m1 != 1 <<< (2 * k))) (-(e1 / 2) - k - 1)

/-- Order of two numbers: none when either is NaN; −0 equals +0. -/
def fvCmp (a b : FV) : Option Ordering :=
  match a, b with
  | .nan, _ => none
  | _, .nan => none
  | .inf x, .inf y => some (if x == y then .eq else if x then .lt else .gt)
  | .inf x, .num _ _ _ => some (if x then .lt else .gt)
  | .num _ _ _, .inf y => some (if y then .gt else .lt)
  | .num n1 m1 e1, .num n2 m2 e2 =>
    let e0 := min e1 e2
    some (compare (sigAt e0 n1 m1 e1) (sigAt e0 n2 m2 e2))

def fvLt (a b : FV) : Bool := fvCmp a b == some .lt
def fvLe (a b : FV) : Bool := fvCmp a b == some .lt || fvCmp a b == some .eq
def fvEq (a b : FV) : Bool := fvCmp a b == some .eq

/-- Larger; NaN if either is NaN; +0 over −0 (R126, R130). -/
def fvMax (a b : FV) : FV :=
  match fvCmp a b with
  | none => .nan
  | some .lt => b
  | some .gt => a
  | some .eq => if fvNegB a then b else a

/-- Smaller; NaN if either is NaN; −0 over +0 (R126, R130). -/
def fvMin (a b : FV) : FV :=
  match fvCmp a b with
  | none => .nan
  | some .lt => a
  | some .gt => b
  | some .eq => if fvNegB a then a else b

/-- Exponent of the leading bit of a nonzero m × 2^e: the k with 2^k ≤ value < 2^(k+1). -/
def leadExp (m : Nat) (e : Int) : Int := (Nat.log2 m : Int) + e

/-- ceil(log2 v) of a positive number m × 2^e, exact. -/
def ceilLog2Fv (m : Nat) (e : Int) : Int :=
  if m == 2 ^ Nat.log2 m then leadExp m e else leadExp m e + 1

/-- Round m × 2^e to a multiple of 2^q: the multiple's coefficient. -/
def roundQ (rm : Rm) (neg : Bool) (m : Nat) (e q : Int) : Nat :=
  if q ≤ e then m <<< (e - q).toNat
  else
    let s := (q - e).toNat
    let lo := m >>> s
    let rem := m % 2 ^ s
    match rm with
    | .rne => if 2 * rem > 2 ^ s || (2 * rem == 2 ^ s && lo % 2 == 1) then lo + 1 else lo
    | .sr u =>
      -- R52 orders lo < hi on the number line, so a negative input measures from below.
      if rem == 0 then lo
      else
        let f := if neg then ((2 ^ s - rem) <<< 32) / 2 ^ s else (rem <<< 32) / 2 ^ s
        let takeHi := decide (u < f)
        if neg then (if takeHi then lo else lo + 1) else (if takeHi then lo + 1 else lo)

/-- Least exponent of a normal number. -/
def minExp (f : Flt) : Int := 1 - (f.bias : Int)

/-- Largest exponent of a finite number of an IEEE-shaped format. -/
def maxExp (f : Flt) : Int := (2 ^ f.eb - 2 : Nat) - (f.bias : Int)

/-- A magnitude above the largest finite of an IEEE-shaped format. -/
def aboveTop (f : Flt) (m : Nat) (e : Int) : Bool := fvLt (.num false (2 ^ (f.fb + 1) - 1) (maxExp f - f.fb)) (.num false m e)

/-- Round an exact number to an IEEE-shaped format, with gradual underflow; infinity beyond the largest finite. Above the largest finite,
SR measures the magnitude from it (Table 2.11), so the sign plays no part there (R54). -/
def roundTo (f : Flt) (rm : Rm) : FV → FV
  | .nan => .nan
  | .inf n => .inf n
  | .num n m e =>
    if m == 0 then .num n 0 0
    else
      let k := max (leadExp m e) (minExp f)
      let q := k - f.fb
      let c := roundQ rm (n && !aboveTop f m e) m e q
      if c == 0 then .num n 0 0
      else if maxExp f < leadExp c q then .inf n
      else .num n c q

/-- The encoding of a number that the format represents exactly; NaN is the canonical NaN (R37). -/
def encodeFlt (f : Flt) : FV → Nat
  | .nan => ((2 ^ f.eb - 1) <<< f.fb) + 2 ^ (f.fb - 1)
  | .inf n => (b2n n <<< (f.eb + f.fb)) + ((2 ^ f.eb - 1) <<< f.fb)
  | .num n m e =>
    if m == 0 then b2n n <<< (f.eb + f.fb)
    else
      let k := max (leadExp m e) (minExp f)
      let c := roundQ .rne n m e (k - f.fb)
      let body := if c < 2 ^ f.fb then c else (((k + f.bias).toNat) <<< f.fb) + (c - 2 ^ f.fb)
      (b2n n <<< (f.eb + f.fb)) + body

/-- The value of an encoding of an IEEE-shaped format (R34 to R36). -/
def decodeFlt (f : Flt) (w : Nat) : FV :=
  let n := bitAt w (f.eb + f.fb)
  let ex := bits w f.fb f.eb
  let fr := bits w 0 f.fb
  if ex == 2 ^ f.eb - 1 then (if fr == 0 then .inf n else .nan)
  else if ex == 0 then .num n fr (minExp f - f.fb)
  else .num n (2 ^ f.fb + fr) ((ex : Int) - f.bias - f.fb)

/-- FP8-E4M3 has no infinity: 0x7F and 0xFF are NaN and every other encoding is finite (R35). -/
def decodeE4m3 (w : Nat) : FV :=
  let n := bitAt w 7
  let ex := bits w 3 4
  let fr := bits w 0 3
  if ex == 15 && fr == 7 then .nan
  else if ex == 0 then .num n fr (-9)
  else .num n (8 + fr) ((ex : Int) - 10)

/-- The encoding of a number that FP8-E4M3 represents exactly. -/
def encodeE4m3 : FV → Nat
  | .nan => 0x7F
  | .inf n => (b2n n <<< 7) + 0x7E
  | .num n m e =>
    if m == 0 then b2n n <<< 7
    else
      let k := max (leadExp m e) (-6)
      let c := roundQ .rne n m e (k - 3)
      (b2n n <<< 7) + (if c < 8 then c else (((k + 7).toNat) <<< 3) + (c - 8))

/-- Largest finite magnitude of FP8-E4M3, and the scaling maximum of the Slauc formats (Table 2.9). -/
def max448 : FV := .num false 448 0
def max57344 : FV := .num false 57344 0

/-- Round to an FP8 form; beyond the largest finite the largest finite is written and an overflow event raised (Table 2.11). -/
def roundFp8 (isE4 : Bool) (rm : Rm) (v : FV) : FV × Bool :=
  let top := if isE4 then max448 else max57344
  match v with
  | .nan => (.nan, false)
  | .inf n => if isE4 then (.nan, false) else (.inf n, false)
  | .num n m e =>
    if fvLt top (.num false m e) then (if n then fvNeg top else top, true)
    else
      let f := if isE4 then e4m3 else e5m2
      if m == 0 then (.num n 0 0, false)
      else
        let k := max (leadExp m e) (minExp f)
        let q := k - f.fb
        (.num n (roundQ rm n m e q) q, false)

/-- Round to an integer in [lo, hi]; the flag says that the rounded value was clamped (R47). -/
def roundInt (lo hi : Int) (rm : Rm) : FV → Int × Bool
  | .nan => (0, true)
  | .inf n => (if n then lo else hi, true)
  | .num n m e =>
    let c : Int := roundQ rm n m e 0
    let i := if n then -c else c
    (clampI lo hi i, decide (i < lo) || decide (hi < i))

/-! Operations that round once to nearest even. -/

def r32 (v : FV) : FV := roundTo fp32 .rne v
def r40 (v : FV) : FV := roundTo p40 .rne v
def rBf (v : FV) : FV := roundTo bf16 .rne v
def r64 (v : FV) : FV := roundTo fp64 .rne v

def add40 (a b : FV) : FV := r40 (fvAdd a b)
def mul40 (a b : FV) : FV := r40 (fvMul a b)
def add32 (a b : FV) : FV := r32 (fvAdd a b)
def mul32 (a b : FV) : FV := r32 (fvMul a b)
/-- A running P40 sum with one exact product added: one rounding. -/
def mac40 (s a b : FV) : FV := r40 (fvAdd s (fvMul a b))
def fma32 (a b c : FV) : FV := r32 (fvAdd (fvMul a b) c)

def dec40 (w : Nat) : FV := decodeFlt p40 w
def enc40 (v : FV) : Nat := encodeFlt p40 (r40 v)
def dec32 (w : Nat) : FV := decodeFlt fp32 w
def enc32 (v : FV) : Nat := encodeFlt fp32 (r32 v)

/-- Smallest FP32 not below v; beyond the largest finite, the largest finite (R65). -/
def up32 (v : FV) : FV :=
  match v with
  | .num false m e =>
    if m == 0 then v
    else
      let k := max (leadExp m e) (minExp fp32)
      let q := k - 23
      let c := if q ≤ e then m <<< (e - q).toNat else ceilDiv m (2 ^ (q - e).toNat)
      if maxExp fp32 < leadExp c q then .num false (2 ^ 24 - 1) 104 else .num false c q
  | _ => v

/-- A positive normal FP32 encoding (R50). -/
def posNormal32 (w : Nat) : Bool := w < 2 ^ 31 && 0 < bits w 23 8 && bits w 23 8 < 255

/-- 2^k as an FP32 encoding, for a normal exponent. -/
def pow2Enc32 (k : Int) : Nat := ((k + 127).toNat) <<< 23

/-- Canonical tree of R82: 2^k leaves, left plus right, an absent child passes the other through. -/
def treeSum {α : Type} (op : α → α → α) : Nat → List (Option α) → Option α
  | 0, l => match l with
    | [] => none
    | x :: _ => x
  | k + 1, l =>
    match treeSum op k (l.take (2 ^ k)), treeSum op k (l.drop (2 ^ k)) with
    | some a, some b => some (op a b)
    | some a, none => some a
    | none, b => b

/-- Canonical sum in P40 of the present leaves; +0 when none is present. -/
def sum40 (l : List (Option FV)) : FV := (treeSum add40 (ceilLog2 l.length) l).getD FV.zero

def sum40all (l : List FV) : FV := sum40 (l.map some)

end Sys2Proof.Machine
end

