-- ==== Sys2Proof/Machine/Slauc.lean ====
section
/-! DEFINITION. Format codes, Slauc blocks, conversion between formats and the rounding generator (R30 to R60, R553). -/

namespace Sys2Proof.Machine

/-- Assigned format codes of Table 2.1, the host-only code 0x20 apart (R30, R31). -/
def fmtAssigned (c : Nat) : Bool :=
  [1, 2, 3, 4, 5, 6, 8, 9, 10, 12, 13, 14].contains c

/-- Bytes of one element of a scalar format (Table 2.1). -/
def fmtBytes (c : Nat) : Nat :=
  if c == 1 || c == 13 then 4
  else if c == 2 || c == 3 then 2
  else if c == 12 then 5
  else if c == 0x20 then 8
  else 1

/-- S4F, S4I and S2T are stored in blocks of 64. -/
def fmtBlock (c : Nat) : Bool := c == 8 || c == 9 || c == 10

/-- Bytes of one Slauc block (R39). -/
def blockBytes (c : Nat) : Nat := if c == 10 then 20 else 36

/-- Formats that use a tensor scale (Table 2.1). -/
def fmtScaled (c : Nat) : Bool := [4, 5, 6, 8, 9, 10].contains c

/-- Scaling maxima of Table 2.9. -/
def scalingMax (c : Nat) : Nat := if c == 5 then 57344 else if c == 6 then 127 else 448

/-- Value of an S4F code, doubled (Table 2.5); −0 reads as +0 (Table 2.7). -/
def s4fDoubled (c : Nat) : Int :=
  let m := [0, 1, 2, 3, 4, 6, 8, 12].getD (c % 8) 0
  if 8 ≤ c % 16 then -(m : Int) else m

/-- Integer of an S2T code; 0b10 reads as 0 (Table 2.7). -/
def s2tVal (c : Nat) : Int := if c % 4 == 1 then 1 else if c % 4 == 3 then -1 else 0

/-- The engine integer of a code: doubled for S4F, the code value otherwise (R40, R98). -/
def codeInt (fmt c : Nat) : Int :=
  if fmt == 8 then s4fDoubled c else if fmt == 9 then toSigned 4 c else s2tVal c

/-- Code of element i of a block given as a little-endian number (Table 2.4). -/
def blockCode (fmt blk i : Nat) : Nat :=
  if fmt == 10 then bits blk (2 * i) 2 else bits blk (4 * i) 4

/-- Block scale byte, escape valid bit, index and value (Tables 2.4, 2.6). -/
def blockScale (fmt blk : Nat) : Nat := bits blk (if fmt == 10 then 128 else 256) 8
def escField (fmt blk : Nat) : Nat := bits blk (if fmt == 10 then 136 else 264) 16
def escValid (f : Nat) : Bool := bitAt f 14
def escIndex (f : Nat) : Nat := bits f 8 6
def escValue (f : Nat) : FV := decodeE4m3 (bits f 0 8)

/-- c × 2^(b − 127) for a code integer, halved again for doubled S4F (R42). -/
def codeFv (fmt : Nat) (c : Int) (b : Nat) : FV :=
  fvScale ((b : Int) - 127 - (if fmt == 8 then 1 else 0)) (fvInt c)

/-- Element i of a block, decoded without the tensor scale (R42 to R44). -/
def blockElem (fmt blk i : Nat) : FV :=
  let b := blockScale fmt blk
  let e := escField fmt blk
  if b == 255 then .nan
  else if escValid e && escIndex e == i then escValue e
  else codeFv fmt (codeInt fmt (blockCode fmt blk i)) b

/-- S2T codes 0b10 in a block: each counts in the format-error counter (Table 2.7). -/
def blockFormatErrors (fmt blk : Nat) : Nat :=
  if fmt == 10 && blockScale fmt blk != 255 then
    ((List.range 64).filter (fun i => blockCode fmt blk i == 2 &&
      !(escValid (escField fmt blk) && escIndex (escField fmt blk) == i))).length
  else 0

/-- A scalar element decoded without the tensor scale (R33 to R38). -/
def scalarElem (fmt w : Nat) : FV :=
  if fmt == 1 then decodeFlt fp32 w
  else if fmt == 2 then decodeFlt bf16 w
  else if fmt == 3 then decodeFlt fp16 w
  else if fmt == 4 then decodeE4m3 w
  else if fmt == 5 then decodeFlt e5m2 w
  else if fmt == 6 then fvInt (toSigned 8 w)
  else if fmt == 12 then decodeFlt p40 w
  else if fmt == 13 then fvInt (toSigned 32 w)
  else if fmt == 0x20 then decodeFlt fp64 w
  else .nan

/-- What a conversion reports beside its bytes (R54, R72): nonfinite inputs, saturations, and the excess of an overflow event. -/
structure CFlag where
  nf : Nat := 0
  sat : Nat := 0
  exc : Option Nat := none
  deriving DecidableEq, Repr

def optMax (a b : Option Nat) : Option Nat :=
  match a, b with
  | some x, some y => some (max x y)
  | some x, none => some x
  | none, y => y

def cfMerge (a b : CFlag) : CFlag := ⟨a.nf + b.nf, a.sat + b.sat, optMax a.exc b.exc⟩

/-- Excess of a magnitude above the scaling maximum (Table 3.4); a magnitude that no offset can bring back takes 255. -/
def excessOf (sm : Nat) (v : FV) : Nat :=
  match fvDiv (fvAbs v) (fvNat sm) with
  | .num _ m e => if m == 0 then 0 else (ceilLog2Fv m e).toNat
  | _ => 255

/-- R53, first two lines, and R553: rt = rne_fp32(1 / T), y = rne_p40(x × rt). -/
def scaleIn (t : FV) (x : FV) : FV := r40 (fvMul x (r32 (fvDiv FV.one t)))

/-- Rounding into FP32, BF16, FP16, P40 and FP64 with the nonfinite count (Table 2.11). -/
def convIeee (f : Flt) (rm : Rm) (x : FV) : Nat × CFlag :=
  let v := roundTo f rm x
  (encodeFlt f v, { nf := b2n (!fvFinite v) })

/-- FP8 with the outcomes of Table 2.11. x is the value before scaling, y after. -/
def convFp8 (isE4 : Bool) (rm : Rm) (x y : FV) : Nat × CFlag :=
  let enc := fun v => if isE4 then encodeE4m3 v else encodeFlt e5m2 v
  let top := if isE4 then max448 else max57344
  let sm := if isE4 then 448 else 57344
  if fvFinite x && !fvFinite y then
    (enc (if fvNegB y then fvNeg top else top), { exc := some 255 })
  else
    let (v, o) := roundFp8 isE4 rm y
    (enc v, { nf := b2n (!fvFinite y), exc := if o then some (excessOf sm y) else none })

/-- Integer targets clamp and write NaN as 0. The saturation flag is set for NaN and for a value that lies outside the range before it is
rounded, such as 127.3 in INT8 (Table 2.11). -/
def convInt (w : Nat) (rm : Rm) (y : FV) : Nat × CFlag :=
  let lo : Int := -(2 ^ (w - 1) : Nat)
  let hi : Int := (2 ^ (w - 1) - 1 : Nat)
  (ofSigned w (roundInt lo hi rm y).1, { sat := b2n (fvIsNan y || fvLt y (fvInt lo) || fvLt (fvInt hi) y) })

/-- Convert one value into a scalar format under effective scale t (R53, R54, R553). -/
def convScalar (fmt : Nat) (t : FV) (rm : Rm) (x : FV) : Nat × CFlag :=
  if fmt == 1 then convIeee fp32 rm x
  else if fmt == 2 then convIeee bf16 rm x
  else if fmt == 3 then convIeee fp16 rm x
  else if fmt == 4 then convFp8 true rm x (scaleIn t x)
  else if fmt == 5 then convFp8 false rm x (scaleIn t x)
  else if fmt == 6 then convInt 8 rm (scaleIn t x)
  else if fmt == 12 then convIeee p40 rm x
  else if fmt == 13 then convInt 32 rm x
  else if fmt == 0x20 then convIeee fp64 rm x
  else (0, {})

/-- Index of the grid point chosen for x, all in one unit: nearest with ties to an even index, or stochastic (R51, R52). -/
def gridRound (rm : Rm) (neg : Bool) (x : Nat) (i : Nat) : List Nat → Nat
  | [] => i
  | [_] => i
  | a :: b :: r =>
    if b ≤ x then gridRound rm neg x (i + 1) (b :: r)
    else if x ≤ a then i
    else match rm with
      | .rne =>
        if 2 * x < a + b then i
        else if 2 * x > a + b then i + 1
        else if i % 2 == 0 then i else i + 1
      | .sr u =>
        let f := if neg then ((b - x) <<< 32) / (b - a) else ((x - a) <<< 32) / (b - a)
        if neg then (if u < f then i else i + 1) else (if u < f then i + 1 else i)

/-- Magnitudes of the codes of a Slauc format, doubled, in code order (Table 2.5). -/
def codeGrid (fmt : Nat) : List Nat :=
  if fmt == 8 then [0, 1, 2, 3, 4, 6, 8, 12]
  else if fmt == 9 then [0, 2, 4, 6, 8, 10, 12, 14]
  else [0, 2]

/-- Largest code magnitude used by the choice of the block exponent (R53). -/
def codeMax (fmt : Nat) : Nat := if fmt == 8 then 6 else if fmt == 9 then 7 else 1

/-- round_code of R53 for y ÷ 2^(e − 127): the code bits. -/
def roundCode (fmt : Nat) (rm : Rm) : FV → Nat
  | .num n m e =>
    let sh := e + 1
    let x := if 0 ≤ sh then m <<< sh.toNat else m
    let u := if 0 ≤ sh then 1 else 2 ^ (-sh).toNat
    let i := gridRound rm n x 0 ((codeGrid fmt).map (· * u))
    if i == 0 then 0
    else if fmt == 8 then (if n then 8 + i else i)
    else if fmt == 9 then (if n then 16 - i else i)
    else (if n then 3 else 1)
  | _ => 0

/-- Position of the largest magnitude, lowest position on a tie. -/
def argMaxAbs : List FV → Nat → Nat → FV → Nat
  | [], _, best, _ => best
  | x :: r, i, best, bv =>
    if fvLt bv (fvAbs x) then argMaxAbs r (i + 1) i (fvAbs x) else argMaxAbs r (i + 1) best bv

/-- Largest finite magnitude of a list, 0 for none (R65). -/
def amaxOf (l : List FV) : FV :=
  l.foldl (fun a x => if fvFinite x && fvLt a (fvAbs x) then fvAbs x else a) FV.zero

/-- Assemble a block from its codes, scale byte and escape field (Table 2.4). -/
def packBlock (fmt : Nat) (codes : List Nat) (b esc : Nat) : Nat :=
  let w := if fmt == 10 then 2 else 4
  let cs := codes.foldr (fun c a => c % 2 ^ w + a <<< w) 0
  cs + (b <<< (64 * w)) + (esc <<< (64 * w + 8))

/-- R53: one Slauc block from up to 64 inputs (elements beyond the row's end are absent, R46); rm gives each position its rounding.
A finite input whose y overflows P40 takes the NaN block of R53, adds nothing to the nonfinite count and raises no overflow event (log
entry 74). -/
def convBlock (fmt : Nat) (t : FV) (rm : Nat → Rm) (xs : List FV) : Nat × CFlag :=
  let ys := xs.map (scaleIn t)
  if ys.any (fun y => !fvFinite y) then
    (packBlock fmt [] 255 0, { nf := (xs.filter (fun x => !fvFinite x)).length })
  else
    let k := argMaxAbs ys 0 0 FV.zero
    let yk := ys.getD k FV.zero
    if fvIsZero yk then (packBlock fmt [] 127 0, {})
    else
      let (ev, eo) := roundFp8 true (rm k) yk
      let m := amaxOf (ys.eraseIdx k)
      let e0 : Int := match fvDiv m (fvNat (codeMax fmt)) with
        | .num _ mm me => if mm == 0 then 127 else 127 + ceilLog2Fv mm me
        | _ => 127
      let e1 := max e0 0
      let e := min e1 254
      let codes := (List.range ys.length).map (fun i =>
        if i == k then 0 else roundCode fmt (rm i) (fvScale (127 - e) (ys.getD i FV.zero)))
      let x1 := if eo then some (excessOf 448 yk) else none
      let x2 := if 254 < e1 then some (e1 - 254).toNat else none
      (packBlock fmt codes e.toNat (encodeE4m3 ev + (k <<< 8) + (1 <<< 14)), { exc := optMax x1 x2 })

/-- Effective scale T × 2^k of a tile (R61). -/
def effScale (t32 : Nat) (k : Int) : FV := fvScale k (dec32 t32)

/-- A T_t that is a normal FP32 number (R71). -/
def effNormal (t32 : Nat) (k : Int) : Bool :=
  match effScale t32 k with
  | .num _ m e => m != 0 && decide (-126 ≤ leadExp m e) && decide (leadExp m e ≤ 127)
  | _ => false

/-- TILE_EXP of a scouted tile (R69): none where R71 fails it. -/
def scoutExp (fmt h t32 : Nat) (a : FV) : Option Int :=
  match fvDiv (fvScale h a) (fvMul (fvNat (scalingMax fmt)) (dec32 t32)) with
  | .num _ m e =>
    if m == 0 then some 0
    else
      let k := ceilLog2Fv m e
      if -127 ≤ k && k ≤ 127 && effNormal t32 k then some k else none
  | _ => none

/-- New tensor scale after an exchange (R68): A is the largest entry. -/
def newScale (fmt h t32 : Nat) (a : FV) : Nat :=
  match fvDiv (fvScale h a) (fvNat (scalingMax fmt)) with
  | .num _ m e => if m == 0 then t32 else pow2Enc32 (clampI (-126) 127 (ceilLog2Fv m e))
  | _ => t32

/-! The rounding generator (R55 to R57). -/

/-- One Philox round and the key step before the next. -/
def philoxRound (c : Nat × Nat × Nat × Nat) (k : Nat × Nat) : Nat × Nat × Nat × Nat :=
  let p0 := 0xD2511F53 * c.1
  let p1 := 0xCD9E8D57 * c.2.2.1
  (((p1 >>> 32) ^^^ c.2.1) ^^^ k.1, p1 % 2 ^ 32, ((p0 >>> 32) ^^^ c.2.2.2) ^^^ k.2, p0 % 2 ^ 32)

def philoxLoop : Nat → Nat × Nat × Nat × Nat → Nat × Nat → Nat × Nat × Nat × Nat
  | 0, c, _ => c
  | n + 1, c, k =>
    philoxLoop n (philoxRound c k) ((k.1 + 0x9E3779B9) % 2 ^ 32, (k.2 + 0xBB67AE85) % 2 ^ 32)

/-- Philox-4x32-10 (R55). -/
def philox (c : Nat × Nat × Nat × Nat) (k : Nat × Nat) : Nat × Nat × Nat × Nat := philoxLoop 10 c k

/-- Random word u of an element: seed, step, tensor, element index, sequence, stream (R55, R56). -/
def srWord (seed step tensor idx seq stream : Nat) : Nat :=
  let c1 := pack [(0, 14, idx >>> 34), (14, 16, seq), (30, 2, stream)]
  let o := philox (bits idx 2 32, c1, step % 2 ^ 32, tensor % 2 ^ 32)
    (seed % 2 ^ 32, bits seed 32 32)
  match idx % 4 with
  | 0 => o.1
  | 1 => o.2.1
  | 2 => o.2.2.1
  | _ => o.2.2.2

end Sys2Proof.Machine
end

