-- ==== Sys2Proof/Machine/Desc.lean ====
section
/-! DEFINITION. Tensor descriptors: fields, logical indices, addresses, owner tables, scales, and the reading and storing of
elements with tile replay (R227 to R248, R61 to R75). -/

namespace Sys2Proof.Machine

/-- What a unit sees of the module when it reads a tensor; `exch` holds the tensors whose scale entries have been exchanged (R69). -/
structure Env where
  mem : Memory
  im : Image
  ver : Versions
  id : Nat
  seed : Nat
  step : Nat
  exch : List Nat := []
  deriving DecidableEq, Repr

/-! Fields of a descriptor (Table 9.1). -/

def dKind (d : Nat) : Nat := bits d 32 4
def dClass (d : Nat) : Nat := bits d 36 4
def dFmt (d : Nat) : Nat := bits d 40 8
def dMode (d : Nat) : Nat := bits d 48 2
def dHead (d : Nat) : Nat := bits d 50 2
def dLayout (d : Nat) : Nat := bits d 52 4
def dRank (d : Nat) : Nat := bits d 56 3
def dBlockAxis (d : Nat) : Nat := bits d 60 3
def dTid (d : Nat) : Nat := bits d 64 32
def dScale (d : Nat) : Nat := bits d 96 32
def dBase (d : Nat) : Nat := bits d 128 48
def dOwners (d : Nat) : Nat := bits d 176 16
def dPartner (d : Nat) : Nat := bits d 192 24
def dDual (d : Nat) : Nat := bits d 216 24
def dAux (d : Nat) : Nat := bits d 256 48
def dPerm (d j : Nat) : Nat := bits d (320 + 3 * j) 3
def dPitch (d : Nat) : Nat := bits d 352 32
def dDim (d i : Nat) : Nat := bits d (384 + 32 * i) 32
def dRecord (d : Nat) : Nat := bits d 576 256

/-- Descriptor i of the image; 0 where there is none. -/
def descOf (im : Image) (i : Nat) : Nat := if i == 0 then 0 else im.descs.getD (i - 1) 0

/-- Gather record fields (Table 9.6). -/
def gSrc (r : Nat) : Nat := bits r 32 24
def gList (r : Nat) : Nat := bits r 64 48
def gRows (r : Nat) : Nat := bits r 128 32
def gCols (r : Nat) : Nat := bits r 160 32

/-- Extents of the logical axes, outermost first. -/
def dDims (d : Nat) : List Nat :=
  if dKind d == 2 then [64 * gRows (dRecord d), 64 * gCols (dRecord d)] else (List.range (dRank d)).map (dDim d)

def prod (l : List Nat) : Nat := l.foldl (· * ·) 1

def elemCount (d : Nat) : Nat := prod (dDims d)

/-- Row-major coordinates of an index. -/
def coordsOf : List Nat → Nat → List Nat
  | [], _ => []
  | _ :: r, i => (i / prod r) :: coordsOf r (i % prod r)

/-- Row-major index of coordinates. -/
def indexOf : List Nat → List Nat → Nat
  | _ :: r, c :: cs => c * prod r + indexOf r cs
  | _, _ => 0

/-- Shape seen by the logical tiling: rank 1 as [1, D] (R234). -/
def tileShape (d : Nat) : List Nat :=
  match dDims d with
  | [n] => [1, n]
  | l => l

def tileRows (d : Nat) : Nat := let l := tileShape d; ceilDiv (l.getD (l.length - 2) 1) 64
def tileCols (d : Nat) : Nat := let l := tileShape d; ceilDiv (l.getD (l.length - 1) 1) 64

/-- Logical tiles of a tensor. -/
def tileCount (d : Nat) : Nat := let l := tileShape d; prod (l.take (l.length - 2)) * tileRows d * tileCols d

/-- Logical tile of an element (R234). -/
def tileOf (d idx : Nat) : Nat :=
  let l := tileShape d
  let c := coordsOf l idx
  let n := l.length
  (indexOf (l.take (n - 2)) (c.take (n - 2)) * tileRows d + c.getD (n - 2) 0 / 64) * tileCols d + c.getD (n - 1) 0 / 64

/-- Element (row r, column c) of a logical tile, none beyond the extent. -/
def tileElem (d tile r c : Nat) : Option Nat :=
  let l := tileShape d
  let n := l.length
  let tc := tile % tileCols d
  let tr := tile / tileCols d % tileRows d
  let o := tile / (tileCols d * tileRows d)
  let rr := 64 * tr + r
  let cc := 64 * tc + c
  if rr < l.getD (n - 2) 1 && cc < l.getD (n - 1) 1 then
    some ((o * l.getD (n - 2) 1 + rr) * l.getD (n - 1) 1 + cc)
  else none

/-! Storage (R232, R233, R245). -/

/-- Bytes of a unit of storage along memory axis 0: an element or a block. -/
def unitSize (d : Nat) : Nat := if fmtBlock (dFmt d) then blockBytes (dFmt d) else fmtBytes (dFmt d)

/-- Extent of memory axis j. -/
def memDim (d j : Nat) : Nat := if j < dRank d then dDim d (dPerm d j) else 1

/-- Units along memory axis 0. -/
def units0 (d : Nat) : Nat := if fmtBlock (dFmt d) then ceilDiv (memDim d 0) 64 else memDim d 0

def stride1 (d : Nat) : Nat := if dPitch d == 0 then units0 d * unitSize d else dPitch d

/-- Coordinate on memory axis j of logical coordinates. -/
def memCoord (d : Nat) (cs : List Nat) (j : Nat) : Nat := cs.getD (dPerm d j) 0

/-- Strides of memory axes 2 upward from that of axis 1. -/
def linearOff (d : Nat) (cs : List Nat) : Nat → Nat → Nat → Nat
  | 0, _, _ => 0
  | k + 1, j, st =>
    let st' := st * memDim d (j - 1)
    memCoord d cs j * st' + linearOff d cs k (j + 1) st'

def tileBytes (d : Nat) : Nat := if fmtBlock (dFmt d) then 64 * unitSize d else 4096 * unitSize d

/-- Byte offset of an element or of its block from `BASE` (R233), and the memory tile in `TILED` layout. -/
def elemOff (d : Nat) (cs : List Nat) : Nat × Nat × Nat :=
  let u := unitSize d
  let sl := fmtBlock (dFmt d)
  let x0 := memCoord d cs 0
  let x1 := if dRank d < 2 then 0 else memCoord d cs 1
  if dLayout d == 0 then
    ((if sl then x0 / 64 else x0) * u + x1 * stride1 d + linearOff d cs (dRank d - 2) 2 (stride1 d), 0, 0)
  else
    let n0 := ceilDiv (memDim d 0) 64
    let n1 := ceilDiv (memDim d 1) 64
    let l := ((List.range (dRank d - 2)).reverse.map (· + 2)).foldl (fun l j => l * memDim d j + memCoord d cs j) 0
    let t := (l * n1 + x1 / 64) * n0 + x0 / 64
    let inner := if sl then (x1 % 64) * u else ((x1 % 64) * 64 + x0 % 64) * u
    (t * tileBytes d + inner, t, inner)

/-- Shards of the table in force of an owner pair (R244). -/
def ownShards (e : Env) (pair : Nat) : List Nat :=
  let p := e.im.owners.getD (pair - 1) ([], [])
  if spGet 0 pair e.ver.cur == 0 then p.1 else p.2

/-- The table that a re-cut fixes for a descriptor, 0 for A (R370): the old one under A and the new one under B for `PHASE` 0, reversed
for `PHASE` 1. -/
def recutTable (im : Image) (d : Nat) : Option Nat :=
  im.recuts.findSome? (fun l => l.tensors.findSome? (fun t =>
    if descOf im (bits t 0 24) == d then some (bits l.head 32 1)
    else if descOf im (bits t 24 24) == d then some (1 - bits l.head 32 1)
    else none))

/-- Shards under which a descriptor is addressed (R245, R370). -/
def shardsOf (e : Env) (d : Nat) : List Nat :=
  match recutTable e.im d with
  | some t => let p := e.im.owners.getD (dOwners d - 1) ([], [])
              if t == 0 then p.1 else p.2
  | none => ownShards e (dOwners d)

def shFirst (sh : Nat) : Nat := bits sh 0 40
def shTiles (sh : Nat) : Nat := bits sh 40 24
def shOwner0 (sh : Nat) : Nat := bits sh 64 16
def shOwner1 (sh : Nat) : Nat := bits sh 80 16

/-- Whether a module owns a shard; 0xFFFF owns none (R297). -/
def shOwns (id sh : Nat) : Bool := id != 0xFFFF && (shOwner0 sh == id || shOwner1 sh == id)

/-- Position of a logical tile among the tiles held here, none for a tile owned elsewhere (R245). -/
def localTile (id : Nat) : List Nat → Nat → Nat → Option Nat
  | [], _, _ => none
  | sh :: r, t, pos =>
    if shFirst sh ≤ t && t < shFirst sh + shTiles sh then
      (if shOwns id sh then some (pos + (t - shFirst sh)) else none)
    else localTile id r t (if shOwns id sh then pos + shTiles sh else pos)

/-- Tiles of a spread tensor held here. -/
def heldTiles (id : Nat) (shs : List Nat) : Nat := ((shs.filter (shOwns id)).map shTiles).foldl (· + ·) 0

/-- Bytes that a tensor occupies on this module (R235, R245). -/
def occupied (e : Env) (d : Nat) : Nat :=
  if dOwners d != 0 then heldTiles e.id (shardsOf e d) * tileBytes d
  else if dLayout d == 0 then
    units0 d * unitSize d +
      (if dRank d < 2 then 0 else
        (memDim d 1 - 1) * stride1 d + linearOff d ((dDims d).map (· - 1)) (dRank d - 2) 2 (stride1 d))
  else
    ceilDiv (memDim d 0) 64 * ceilDiv (memDim d 1) 64 * prod ((List.range (dRank d - 2)).map (fun j => memDim d (j + 2))) *
      tileBytes d

/-- Offset of half v mod 2 of a tensor double-buffered by version (R554). -/
def halfOff (e : Env) (d v : Nat) : Nat := if v % 2 == 0 then 0 else ceilDiv (occupied e d) 65536 * 65536

/-- The tensor behind a view; a plain tensor itself (R146, R242). -/
def baseOf (im : Image) (i : Nat) : Nat :=
  let d := descOf im i
  if dKind d == 2 then gSrc (dRecord d) else if dKind d == 1 then bits (dRecord d) 160 24 else i

/-- The descriptor that stands for a tensor and its dual: the lower index (R237). -/
def pairKey (im : Image) (b : Nat) : Nat := let x := dDual (descOf im b); if x == 0 then b else min b x

/-- Whether the image lists an index as double-buffered by version (R554). -/
def listedDouble (im : Image) (i : Nat) : Bool :=
  im.doubles.contains i || (bits im.groupHead 48 2 == 2 && im.states.contains i)

/-- The listed descriptor that stands for the tensor behind an index: itself or its dual, whose blocks share its versions (R237). -/
def verKey (im : Image) (i : Nat) : Nat :=
  let b := baseOf im i
  let x := dDual (descOf im b)
  if !listedDouble im b && x != 0 && listedDouble im x then x else b

/-- Whether an index names a tensor double-buffered by version, or a view or the dual of one (R237, R554). -/
def doubled (im : Image) (i : Nat) : Bool := listedDouble im (verKey im i)

/-- The version of a tensor that a reader reads: that of its publication or its own (R379, R554). -/
def verOf (e : Env) (i : Nat) : Nat := spGet 0 (verKey e.im i) e.ver.local_

/-- The half of a tensor in force. -/
def curHalf (e : Env) (i : Nat) : Nat := if doubled e.im i then verOf e i else 0

/-- Device virtual address of an element or of its block, none where its logical tile is not held here (R233, R244, R245). -/
def elemAddr (e : Env) (d half idx : Nat) : Option Nat :=
  let cs := coordsOf (dDims d) idx
  let (off, _, inner) := elemOff d cs
  if dOwners d == 0 then some (dBase d + halfOff e d half + off)
  else
    (localTile e.id (shardsOf e d) (tileOf d idx) 0).map (fun k => dBase d + halfOff e d half + k * tileBytes d + inner)

/-! Scale in force (R61, R62, Table 3.3). -/

def peekN (e : Env) (va n : Nat) : Nat := ofLe (vaPeek e.mem e.im.regions va n)

/-- T of a tensor: `SCALE` of its history record, 1.0 without a tensor scale. -/
def scaleT (e : Env) (d : Nat) : Nat := if fmtScaled (dFmt d) then peekN e (dAux d + 12) 4 else 0x3F800000

/-- k_t of a logical tile. -/
def tileExp (e : Env) (d tile : Nat) : Int :=
  if fmtScaled (dFmt d) then toSigned 8 (peekN e (dAux d + 80 + tile) 1) else 0

/-- What stops the reading of a tile's scale: of its tensor's T, and of its offset (R263). -/
def scaleFault (e : Env) (d tile : Nat) : Option (Nat × Nat) :=
  if fmtScaled (dFmt d) then rangesFault e.mem e.im.regions [(dAux d + 12, 4), (dAux d + 80 + tile, 1)] else none

def histCount (e : Env) (d : Nat) : Nat := peekN e (dAux d + 8) 1
def histHead (e : Env) (d : Nat) : Nat := peekN e (dAux d + 9) 1
def histExchanged (e : Env) (d : Nat) : Nat := peekN e (dAux d + 10) 1

/-- A tensor in mode 0 is scouted until its first exchange (R69, log entry 93). -/
def scouted (e : Env) (i : Nat) : Bool :=
  let d := descOf e.im i
  fmtScaled (dFmt d) && dMode d == 0 && histExchanged e d == 0 && !e.exch.contains (pairKey e.im i)

/-- The image with `SCALE` of a tensor's resident descriptor, and of its dual's, at a value (R228). -/
def setScale (im : Image) (i t : Nat) : Image :=
  let put := fun (d : Nat) => bits d 0 96 + t % 2 ^ 32 * 2 ^ 96 + (d >>> 128) * 2 ^ 128
  let x := dDual (descOf im i)
  { im with descs := im.descs.zipIdx.map (fun d => if d.2 + 1 == i || (x != 0 && d.2 + 1 == x) then put d.1 else d.1) }

/-- Bootstrap (R76). -/
def inBootstrap (e : Env) (d : Nat) : Bool :=
  if fmtScaled (dFmt d) then histCount e d < 4 else e.step < 4

/-! Reading elements. -/

/-- A gather entry: the source tile it names, none for the zero tile; a failure code otherwise (R242). -/
def gatherTile (e : Env) (d tile : Nat) : Except Nat (Option Nat) :=
  match vaRead e.mem e.im.regions 1 (gList (dRecord d) + 8 * tile) 8 with
  | .error c => .error c
  | .ok l =>
    let t := bits (ofLe l) 0 40
    if t == 0xFFFFFFFFFF then .ok none
    else if tileCount (descOf e.im (gSrc (dRecord d))) ≤ t then .error 0x0305
    else .ok (some t)

/-- The plain descriptor and index behind an element of a plain tensor or a gather view; none reads as zero. -/
def locate (e : Env) (d idx : Nat) : Except Nat (Option (Nat × Nat)) :=
  if dKind d == 2 then
    let cols := 64 * gCols (dRecord d)
    let r := idx / cols
    let c := idx % cols
    match gatherTile e d (r / 64 * gCols (dRecord d) + c / 64) with
    | .error x => .error x
    | .ok none => .ok none
    | .ok (some t) =>
      let s := descOf e.im (gSrc (dRecord d))
      .ok ((tileElem s t (r % 64) (c % 64)).map (fun i => (s, i)))
  else .ok (some (d, idx))

/-- The raw block or element at an index, as a number; with its tile's scale it must be readable (R263). -/
def readRaw (e : Env) (d half idx : Nat) : Except Nat Nat :=
  match elemAddr e d half idx with
  | none => .error 0x0303
  | some a =>
    match vaRead e.mem e.im.regions 1 a (unitSize d), scaleFault e d (tileOf d idx) with
    | .error c, _ => .error c
    | .ok _, some x => .error x.1
    | .ok l, none => .ok (ofLe l)

/-- Where a failing element of a plain tensor lies: its scale's address where that is what fails. -/
def faultAddr (e : Env) (d half idx : Nat) : Nat :=
  let a := (elemAddr e d half idx).getD (dBase d)
  match vaRead e.mem e.im.regions 1 a (unitSize d), scaleFault e d (tileOf d idx) with
  | .ok _, some x => x.2
  | _, _ => faultAt e.mem e.im.regions a (unitSize d)

/-- The value behind a raw unit without the tensor scale. -/
def rawValue (d raw idx : Nat) : FV :=
  if fmtBlock (dFmt d) then
    blockElem (dFmt d) raw (memCoord d (coordsOf (dDims d) idx) 0 % 64)
  else scalarElem (dFmt d) raw

/-- Format errors of Table 2.7 in the unit that holds an element, counted once per block at its first element. -/
def rawErrors (d raw idx : Nat) : Nat :=
  if fmtBlock (dFmt d) && memCoord d (coordsOf (dDims d) idx) 0 % 64 == 0 then blockFormatErrors (dFmt d) raw else 0

/-- The value of an element: its decoded value times T_t (R42, R61). -/
def readPlain (e : Env) (d half idx : Nat) : Except Nat FV :=
  match readRaw e d half idx with
  | .error c => .error c
  | .ok raw =>
    let v := rawValue d raw idx
    .ok (if fmtScaled (dFmt d) then fvMul v (effScale (scaleT e d) (tileExp e d (tileOf d idx))) else v)

def readElem (e : Env) (i idx : Nat) : Except Nat FV :=
  let d := descOf e.im i
  match locate e d idx with
  | .error c => .error c
  | .ok none => .ok FV.zero
  | .ok (some (s, k)) => readPlain e s (curHalf e i) k

def readElems (e : Env) (i : Nat) : List Nat → Except Nat (List FV)
  | [] => .ok []
  | x :: r =>
    match readElem e i x with
    | .error c => .error c
    | .ok v =>
      match readElems e i r with
      | .error c => .error c
      | .ok l => .ok (v :: l)

/-! Accesses that fail (R261, R263). -/

/-- The first element of a list that cannot be read, as code and address. -/
def readFault (e : Env) (d half : Nat) (idxs : List Nat) : Option (Nat × Nat) :=
  idxs.findSome? (fun x => match readRaw e d half x with
    | .error c => some (c, faultAddr e d half x)
    | .ok _ => none)

/-- The first of some ranges that cannot be reached under the rights needed, as code and address (R240). -/
def rangeFault (e : Env) (need : Nat) (l : List (Nat × Nat)) : Option (Nat × Nat) :=
  l.findSome? (fun r => match translate e.mem e.im.regions need (e.im.regions.length + 1) r.1 r.2 with
    | .error c => some (c, r.1)
    | .ok _ => none)

/-! Storing elements. -/

/-- What a store yields: the bytes to write at commit, the nonfinite count, the saturations by tile, amax in P40, replays, overflow
events by tile, a failure code with its address. -/
structure Stored where
  writes : List Write := []
  nf : Nat := 0
  sat : List (Nat × Nat) := []
  amax : FV := FV.zero
  replays : Nat := 0
  events : List (Nat × Nat) := []
  fail : Nat := 0
  failAddr : Nat := 0
  deriving DecidableEq, Repr

def stMerge (a b : Stored) : Stored :=
  { writes := a.writes ++ b.writes, nf := a.nf + b.nf, sat := a.sat ++ b.sat, amax := fvMax a.amax b.amax,
    replays := a.replays + b.replays, events := a.events ++ b.events, fail := if a.fail != 0 then a.fail else b.fail, failAddr := if a.fail != 0 then a.failAddr else b.failAddr }

/-- Rounding of a conversion into a tensor by its class (Table 9.3), for an element. -/
def classRm (e : Env) (d seq idx : Nat) : Rm :=
  if dClass d == 1 || dClass d == 3 then .sr (srWord e.seed e.step (dTid d) idx seq 0) else .rne

/-- Logical indices of the elements of the block that holds an element, none beyond the row's end. -/
def blockElems (d idx : Nat) : List (Option Nat) :=
  let dims := dDims d
  let cs := coordsOf dims idx
  let ax := dPerm d 0
  let x0 := cs.getD ax 0 / 64 * 64
  (List.range 64).map (fun i => if x0 + i < dims.getD ax 0 then some (indexOf dims (cs.set ax (x0 + i))) else none)

/-- Convert the listed elements of one descriptor under one offset: bytes and flags. A block that the list covers in part keeps
the values of its other elements (log entry 16). -/
def convUnits (e : Env) (d half : Nat) (t : FV) (rm : Nat → Rm) (vals : Sp FV) : List Nat → List Write × CFlag × Bool
  | [] => ([], {}, true)
  | idx :: r =>
    let (ws, fl, ok) := convUnits e d half t rm vals r
    match elemAddr e d half idx with
    | none => (ws, fl, false)
    | some a =>
      if fmtBlock (dFmt d) then
        let els := blockElems d idx
        let present := els.filterMap id
        if (present.find? (fun j => (spGet? j vals).isSome)) != some idx then (ws, fl, ok)
        else
          let xs := present.map (fun j => match spGet? j vals with
            | some v => v
            | none => match readPlain e d half j with
              | .ok v => v
              | .error _ => FV.zero)
          let (b, f) := convBlock (dFmt d) t (fun i => rm (present.getD i 0)) xs
          ({ addr := a, bytes := leBytes (unitSize d) b } :: ws, cfMerge f fl, ok)
      else
        let (w, f) := convScalar (dFmt d) t (rm idx) (spGet FV.zero idx vals)
        ({ addr := a, bytes := leBytes (unitSize d) w } :: ws, cfMerge f fl, ok)

/-- Convert a tile with replay (R72 to R74); `n` overflow events are still allowed. -/
def convTile (e : Env) (ds : List Nat) (half t32 : Nat) (rm : Nat → Rm) (vals : Sp FV) (idxs : List Nat) :
    Nat → Int → List Write × CFlag × Int × Nat × Nat
  | n, k =>
    let r := ds.map (fun d => convUnits e d half (effScale t32 k) rm vals idxs)
    let fl := (r.map (fun x => x.2.1)).foldl cfMerge {}
    let ws := (r.map (fun x => x.1)).flatten
    if r.any (fun x => !x.2.2) then (ws, fl, k, 0, 0x0303)
    else
      match fl.exc with
      | none => (ws, fl, k, 0, 0)
      | some x =>
        let k1 := k + (x : Int) + 1
        match n with
        | 0 => (ws, fl, k, 1, 0x0402)
        | m + 1 =>
          if 127 < k1 || !effNormal t32 k1 then (ws, fl, k, 1, 0x0402)
          else
            let q := convTile e ds half t32 rm vals idxs m k1
            (q.1, q.2.1, q.2.2.1, q.2.2.2.1 + 1, q.2.2.2.2)

/-- Store values into the elements of one logical tile: scout, conversion and replay. `prior` is the number of overflow events
the tile has had in this step. -/
def storeTile (e : Env) (i half tile prior : Nat) (rm : Nat → Rm) (vals : Sp FV) : Stored :=
  let d := descOf e.im i
  let ds := if dDual d == 0 then [d] else [d, descOf e.im (dDual d)]
  let idxs := vals.map (·.1)
  let a := (vals.map (fun p => if fvFinite p.2 then fvAbs p.2 else FV.zero)).foldl fvMax FV.zero
  let t32 := scaleT e d
  let k0 := tileExp e d tile
  let k : Option Int := if scouted e i then scoutExp (dFmt d) (dHead d) t32 a
    else some k0
  match scaleFault e d tile, k with
  | some x, _ => { fail := x.1, failAddr := x.2 }
  | none, none => { amax := a, fail := 0x0402 }
  | none, some k =>
    let q := convTile e ds half t32 rm vals idxs (4 - prior) k
    let off := if fmtScaled (dFmt d) && q.2.2.1 != k0 then
        [{ addr := dAux d + 80 + tile, bytes := leBytes 1 (ofSigned 8 q.2.2.1) : Write }] else []
    { writes := q.1 ++ off, nf := q.2.1.nf, sat := if q.2.1.sat == 0 then [] else [(tile, q.2.1.sat)], amax := a, replays := q.2.2.2.1,
      events := if q.2.2.2.1 == 0 then [] else [(tile, q.2.2.2.1)], fail := q.2.2.2.2,
      failAddr := if q.2.2.2.2 != 0x0303 then 0
        else (idxs.findSome? (fun x => if (elemAddr e d half x).isNone then some (dBase d) else none)).getD 0 }

/-- Values grouped by logical tile, tiles ascending. -/
def groupTiles (d : Nat) (vals : List (Nat × FV)) : Sp (Sp FV) :=
  vals.foldl (fun m v => spSet (tileOf d v.1) (spSet v.1 v.2 (spGet [] (tileOf d v.1) m)) m) []

/-- Store values by logical index into a plain tensor. `events` gives the overflow events of (descriptor, tile) in this step. -/
def storeVals (e : Env) (events : Sp Nat) (i half : Nat) (rm : Nat → Rm) (vals : List (Nat × FV)) : Stored :=
  ((groupTiles (descOf e.im i) vals).map (fun g =>
    storeTile e i half g.1 (spGet 0 (i * 2 ^ 48 + g.1) events) rm g.2)).foldl stMerge {}

/-- What stops a scatter of elements through a gather view: a list entry that fails, or a source tile named twice (R242, R243). -/
def scatterFault (e : Env) (d : Nat) (idxs : List Nat) : Option (Nat × Nat) :=
  let cols := 64 * gCols (dRecord d)
  let tileIn := fun (x : Nat) => x / cols / 64 * gCols (dRecord d) + x % cols / 64
  match idxs.findSome? (fun x => match locate e d x with
    | .error c => some (c, gList (dRecord d) + 8 * tileIn x)
    | .ok _ => none) with
  | some x => some x
  | none =>
    let names := (idxs.map tileIn).eraseDups.filterMap (fun t => match gatherTile e d t with
      | .ok x => x
      | .error _ => none)
    if names.eraseDups.length != names.length then some (0x0806, 0) else none

/-- A scatter's or a plain store's target for an element of an output: a gather view scatters (R242, R243). -/
def storeInto (e : Env) (events : Sp Nat) (i half : Nat) (rm : Nat → Nat → Rm) (vals : List (Nat × FV)) : Stored :=
  let d := descOf e.im i
  if dKind d == 2 then
    match scatterFault e d (vals.map (·.1)) with
    | some (c, a) => { fail := c, failAddr := a }
    | none =>
      let s := gSrc (dRecord d)
      storeVals e events s half (rm (descOf e.im s)) (vals.filterMap (fun v => match locate e d v.1 with
        | .ok (some (_, k)) => some (k, v.2)
        | _ => none))
  else storeVals e events i half (rm d) vals

/-! Records (Table 3.3). -/

/-- An amax in FP32, rounded toward +infinity and at most the largest finite value (R65). -/
def amaxEnc (v : FV) : Nat := encodeFlt fp32 (up32 v)

end Sys2Proof.Machine
end

