-- ==== Sys2Proof/Config.lean ====
section
/-! DEFINITION. What the spec leaves to the part or to a standard that it does not restate: opaque constants, so that no
proof can see a value. Each is named in a log entry. -/

namespace Sys2Proof

/-- A value that the spec leaves open, indexed by the state's counter `free`. -/
opaque Config.free : Nat → Nat

/-- RSASSA-PSS signature with SHA-256 under the identity key of modulus `n` over a message (R391). -/
opaque Config.pssSign (n : Nat) (msg : List Byte) : Nat

/-- Whether a PSS signature verifies under a public modulus (R391, R513). -/
opaque Config.pssVerify (n : Nat) (msg : List Byte) (sig : Nat) : Bool

/-- RSAES-OAEP decryption under the identity key, none where it fails (R390). -/
opaque Config.oaep (n : Nat) (cipher : Nat) : Option (List Byte)

/-- The reading of a DER certificate under the rules of R506: role, key modulus, notBefore and notAfter in days; none
for one that breaks a rule. -/
opaque Config.x509 (der : List Byte) : Option (Nat × Nat × Nat × Nat)

/-- SHA-256 hashes of the maker signing keys in boot ROM (R513). -/
opaque Config.romKeyHash : Nat → Nat

/-- The order in which an engine adds the terms of an element of a logical tile, as a permutation code: a function of the tile and
of its inputs, whose sizes `terms` gives as P40 encodings (R80). -/
opaque Config.sumOrder (tile : Nat) (terms : List Nat) : Nat

/-- The random word of a score gradient of `ATT_BWD`, by query row and key position: R182 gives its stream, and no tensor or element
index. -/
opaque Config.scoreWord (seed step micro row key : Nat) : Nat

/-- First SID, QPN, PSN or R_KEY tried for the k-th one made (R306, R307, R391 give no numbers). -/
opaque Config.firstId : Nat → Nat → Nat

/-- n_r of a group's noise sample where the chunks landed here do not agree on one number, or none is held (R225). -/
opaque Config.noiseCount : List Nat → Nat

end Sys2Proof
end

