-- ==== Sys2Proof/Machine/Ycp.lean ====
section
/-! DEFINITION. The life of a command: checks of R396, the window and the reply cache, acceptance, fences, replies, long
operations and the end of a session (chapters 15 and 17). Every command row calls `ycp` with its own part. -/

namespace Sys2Proof.Machine

/-! Sequence numbers (R397). -/

/-- Distance from h to q modulo 2^32, signed. -/
def seqDist (q h : Nat) : Int := toSigned 32 (q + 2 ^ 32 - h % 2 ^ 32)

def recorded (x : Session) (q : Nat) : Bool := x.recs.any (fun r => r.seq == q)

/-- 0 outside the window, 1 new, 2 a repeat. Number 0 is never used (R397). -/
def seqClass (x : Session) (q : Nat) : Nat :=
  let d := seqDist q x.hi
  if q == 0 then 0
  else if 0 < d && d ≤ 64 then 1
  else if -127 ≤ d && d ≤ 0 then (if recorded x q then 2 else 1)
  else 0

/-- Record a number and raise H; take a slot; count the command. -/
def acceptSeq (x : Session) (q opc tag : Nat) : Session :=
  let hi := if 0 < seqDist q x.hi then q else x.hi
  { x with
    hi := hi
    recs := (x.recs ++ [SeqRec.mk q opc tag none]).filter (fun r => decide (-190 ≤ seqDist r.seq hi))
    slots := x.slots + 1
    acct := { x.acct with commands := satAdd 32 x.acct.commands 1 } }

/-- Whether every number that precedes q, back to q − 63 or to 1, has sent its reply (R400). -/
def fenceOpen (x : Session) (q : Nat) : Bool :=
  (List.range (min 63 (q - 1))).all (fun i => x.recs.any (fun r => r.seq == q - 1 - i && r.reply.isSome))

/-- The datagram of a waiting command. -/
def instrDatagram : Instr → Option Datagram
  | .sessionClose d | .sessionPing d | .opStatus d | .opPartial d | .opAbort d
  | .capRead d | .identRead d | .attest d | .cfgHostPort d | .cfgYcp d | .cfgGrade d | .cfgRead d | .qpCreate d
  | .qpDestroy d | .memRegister d | .memHostKey d | .memDeregister d | .tensorImport d | .tensorExport d | .memCopy d
  | .imageLoad d | .imageUnload d | .imageState d | .run d | .scaleHistRead d | .scaleHistWrite d | .adapterSet d
  | .groupSet d | .caravanPeriod d | .caravanSet d | .topoWrite d | .routeWrite d | .mcastWrite d | .fabricCommit d
  | .fabricRead d | .timeSet d | .cmpInstall d | .fedMapSet d | .fedKeySet d | .moduleRetire d | .kvPoolCreate d
  | .kvPoolDestroy d | .kvSeqCreate d | .kvFork d | .kvPageWrite d | .kvTruncate d | .kvSeqRetire d | .kvSeqSet d
  | .kvTableRead d | .kvPageRead d | .telemRead d | .normRead d | .faultRead d | .accountRead d | .pwrTolSet d
  | .pwrBoundsSet d | .pwrCapSet d | .pwrModeSet d _ | .pwrRead d | .mirageRead d | .mirageWrite d | .bistRun d
  | .diagRead d | .serviceWindow d | .haboobClear d | .calibrate d | .certEnroll d | .certRevoke d | .certList d
  | .auditRead d | .auditHead d | .fwInstall d | .fwActivate d | .fwRead d | .mfgTest d => some d
  | _ => none

/-- A number that goes ahead of the commands that wait: the fence of the first of them counts back to it, or the fence of one that
precedes the first (R400). -/
def goesAhead (x : Session) (q : Nat) : Bool :=
  let seqOf := fun (c : Instr) => ((instrDatagram c).map (·.seq)).getD 0
  let first := (x.fenced.head?.map seqOf).getD 0
  x.fenced.any (fun c => match instrDatagram c with
    | some w => w.fence && decide (seqDist q w.seq < 0) && decide (-63 ≤ seqDist q w.seq) && decide (seqDist w.seq first ≤ 0)
    | none => false)

/-- Whether a newly accepted number must wait: its own fence is closed, or commands accepted before it wait and it does not go ahead of
them (R400). -/
def mustWait (x : Session) (q : Nat) (fence : Bool) : Bool :=
  (fence && !fenceOpen x q) || (!x.fenced.isEmpty && !goesAhead x q)

/-! Answers. -/

def ansCode (s : State) (c : Nat) : Answer :=
  { st := s, code := c, warn := false, handle := 0, body := 0, blen := 0, long := none, ends := [], events := [], aborts := [] }
def ansOk (s : State) : Answer := ansCode s 0
def ansBody (s : State) (body blen : Nat) : Answer := { ansOk s with body := body, blen := blen }
/-- A long operation starts in a state of Table 15.6. -/
def ansLong (s : State) (state : Nat) : Answer := { ansOk s with long := some state }
/-- A reply body from bytes. -/
def ansBytes (s : State) (l : List Byte) : Answer := ansBody s (ofLe l) l.length

/-! Operations. -/

/-- Progress only rises, and saturates (Table 15.5). -/
def setProgress (n : Nat) (o : Op) : Op := { o with progress := max o.progress (min n 0xFFFFFFFF) }

/-- An operation enters `RUNNING` for the first time: its time in `QUEUED` ends (R452). -/
def beginOp (sid h : Nat) (s : State) : State :=
  match findOp s.sessions sid h with
  | none => s
  | some o =>
    let ss := modOp s.sessions sid h (fun o => { o with state := 2, started := true })
    if o.started then { s with sessions := ss }
    else { s with sessions := modAcct ss sid (fun a => { a with queueNs := satAdd 64 a.queueNs (awakeNs s - o.queuedAwake) }) }

/-- Window keys become invalid (R421). -/
def dropWindowKeys (ss : Sessions) : Sessions :=
  { ss with live := ss.live.map (fun x => { x with keys := x.keys.filter (fun k => k.kind != 1) }) }

/-- The run is over: nothing stays in flight. -/
def endRun (ok : Bool) (s : State) : State :=
  { s with
    run := { s.run with active := false, begun := false, finishing := false, inflight := [], threads := [], lends := [],
                        lastOk := ok, lastN := s.run.n, everRun := true, retireAt := none }
    engines := s.engines.map (fun e => (e.1, { e.2 with live := none }))
    kv := { s.kv with pins := [], waiting := [] }
    power := { s.power with idleSince := nowNs s } }

/-- What an operation leaves when it does not end `DONE`: the run stops, window keys end, a bank being written is marked
invalid (R421, R438). -/
def undoOp (o : Op) (s : State) : State :=
  if o.opcode == 0x0403 then endRun false s
  else if o.opcode == 0x0400 then { s with sessions := dropWindowKeys s.sessions }
  else if o.opcode == 0x0B00 then
    let f := s.firmware
    let bad := fun (b : FwBank) => if b.writing then { b with valid := false, writing := false } else b
    { s with sessions := dropWindowKeys s.sessions, firmware := { f with bankA := bad f.bankA, bankB := bad f.bankB } }
  else if o.opcode == 0x0901 then { s with mirage := { s.mirage with writing := false, staged := [] } }
  else if o.opcode == 0x050B then { s with run := { s.run with retireAt := none } }
  else if o.opcode == 0x0508 then { s with fabric := { s.fabric with installing := none } }
  else s

/-- Keep the records of a session's 64 latest finished operations; the slot of one that is dropped returns (R402). -/
def trimOps (sid : Nat) (ss : Sessions) : Sessions :=
  let fin := ss.ops.filter (fun o => o.sid == sid && opFinal o.state)
  if fin.length ≤ 64 then ss
  else
    match fin.head? with
    | none => ss
    | some o =>
      modSession { ss with ops := ss.ops.erase o } sid (fun x => if o.slotHeld then { x with slots := x.slots - 1 } else x)

/-- Time lost to a pre-emption, from the instant its hold took effect (R452). -/
def lostTo (now since sid : Nat) (ss : Sessions) : Sessions := modAcct ss sid (fun a => { a with lostNs := satAdd 64 a.lostNs (now - since) })

/-- An operation reaches a final state (R404, R406): its code, its audit entry (R516), its records. -/
def finishOp (sid h st code : Nat) (s : State) : State :=
  match findOp s.sessions sid h with
  | none => s
  | some o =>
    if opFinal o.state then s
    else
      let o1 := { o with state := st, code := if st == 4 && o.warn then o.code else code,
                         warn := if st == 4 then o.warn else false, aborting := false, holdBy := [], haboobHeld := false }
      let rest := s.sessions.ops.filter (fun p => !opIs sid h p)
      let live := (findSession s.sessions sid).isSome
      let ss := trimOps sid { s.sessions with ops := if live then rest ++ [o1] else rest }
      let s1 := { s with sessions := o.holdBy.foldl (fun t b => lostTo (awakeNs s) b.2.2 sid t) ss }
      let s2 := if st == 4 then s1 else undoOp o s1
      let ev := auditEvent o.opcode o.role
      let plen := ((opForm o.opcode).map (fun f => f.2.1)).getD 0
      if ev == 0 then s2
      else auditEntry o.opcode o1.code sid o.role (ev + 1) o.cert (shaNat (leBytes plen o.params)) s2

/-- Abort an operation (R408): at once in `IDLE` or `QUEUED`, else at its next boundary. -/
def abortOp (o : Op) (s : State) : State :=
  if opFinal o.state then s
  else if o.state ≤ 1 then finishOp o.sid o.handle 6 0 s
  else { s with sessions := modOp s.sessions o.sid o.handle (fun o => { o with aborting := true }) }

def abortAll : List Op → State → State
  | [], s => s
  | o :: r, s => abortAll r (abortOp o s)

/-- A session ends (R401): its operations are aborted, its handles, keys, slots and replies go, its record is kept among the
16 latest ended ones (R451), and the audit log says so (event 5). -/
def endSession (sid : Nat) (s : State) : State :=
  match findSession s.sessions sid with
  | none => s
  | some x =>
    let s1 := abortAll (s.sessions.ops.filter (fun o => o.sid == sid)) s
    let ss := s1.sessions
    let acct := ((findSession ss sid).map (·.acct)).getD x.acct
    let s2 := { s1 with
      sessions := { ss with live := ss.live.filter (fun y => y.sid != sid)
                            ended := keepLast 16 (ss.ended ++ [{ acct with live := false }])
                            ops := ss.ops.filter (fun o => !(o.sid == sid && opFinal o.state)) }
      host := { s1.host with qps := s1.host.qps.filter (fun q => q.sid != sid) } }
    auditEntry 0 0 sid x.role 5 (certTag x.fp) 0 s2

def endSessions : List Nat → State → State
  | [], s => s
  | i :: r, s => endSessions r (endSession i s)

/-! Acceptance and reply. -/

/-- A session's reply to a command, recorded for repeats and sent with its tag (R387, R389, R398). -/
def sendReply (sid port seq opc tag : Nat) (r : Reply) (s : State) : State :=
  match findSession s.sessions sid with
  | none => s
  | some x =>
    { s with out := s.out ++
        [.ycp port x.ip x.udp sid seq opc tag r (tag16 x.kMh (replyBytes sid seq opc tag x.major x.minor r))] }

/-- Abort the operations of a list of sessions and handles. -/
def abortNamed (l : List (Nat × Nat)) (s : State) : State :=
  abortAll (s.sessions.ops.filter (fun o => l.contains (o.sid, o.handle))) s

/-- The command's own part has answered: its audit entries, the operations it aborts, its own operation, its reply, its slot, and
the sessions it ends. The entry of a command precedes those of the operations that it ends (R516). -/
def conclude (x : Session) (d : Datagram) (opc : Nat) (a : Answer) (s : State) : State :=
  let ev := auditEvent opc x.role
  let s1 := if ev == 0 || !a.st.audit.writable then a.st
    else { a.st with audit := auditPush a.st.audit opc a.code (nowNs s) x.sid x.role ev (certTag x.fp)
                                (shaNat (leBytes d.plen d.params)) }
  let s2 := a.events.foldl (fun t e => auditEntry opc a.code x.sid x.role e.1 (certTag x.fp) e.2 t) s1
  let s2 := abortNamed a.aborts s2
  let h := x.nextHandle
  let s3 := match a.long with
    | none => s2
    | some st =>
      let o : Op := { sid := x.sid, handle := h, prio := x.prio, role := x.role, cert := certTag x.fp, opcode := opc,
                      order := s2.sessions.opOrder, state := st, progress := 0, code := 0, warn := false, moreWarns := 0,
                      part := false, aborting := false, slotHeld := true, params := d.params,
                      queuedAt := nowNs s, queuedAwake := awakeNs s, started := st == 2, holds := [], holdBy := [],
                      haboobHeld := false }
      let ss := { s2.sessions with ops := s2.sessions.ops ++ [o], opOrder := s2.sessions.opOrder + 1 }
      let up := fun (y : Session) =>
        { y with nextHandle := h + 1, acct := { y.acct with longOps := satAdd 32 y.acct.longOps 1 } }
      { s2 with sessions := modSession ss x.sid up }
  let r : Reply := { code := a.code, warn := a.warn, handle := if a.long.isSome then h else a.handle, body := a.body,
                     blen := a.blen }
  let s4 := { s3 with sessions := modSession s3.sessions x.sid (fun y =>
    { y with recs := y.recs.map (fun q => if q.seq == d.seq then { q with reply := some r } else q)
             slots := if a.long.isSome then y.slots else y.slots - 1 }) }
  endSessions a.ends (sendReply x.sid d.port d.seq opc d.hostTag r s4)

/-- A command's own part: the state, the session and the datagram give an answer. -/
abbrev Part := State → Session → Datagram → Answer

/-- A refusal under R396 or a full window: answered, not recorded, no slot. -/
def refuse (x : Session) (d : Datagram) (opc code : Nat) (s : State) : State :=
  sendReply x.sid d.port d.seq opc d.hostTag { code := code, warn := false, handle := 0, body := 0, blen := 0 } s

/-- Carry out an accepted command. One that must enter an audit entry that cannot be written has no effect (R516). -/
def carryOut (x : Session) (d : Datagram) (opc : Nat) (part : Part) (s : State) : State :=
  if auditEvent opc x.role != 0 && !s.audit.writable then conclude x d opc { ansCode s 0x0A03 with events := [] } s
  else if opc == 0x0804 then
    let a := part s x d
    conclude x d opc { a with st := wakeUp none a.st } s
  else
    let s1 := wakeUp (some 1) s
    conclude x d opc (part s1 x d) s1

/-- The rows of R396 from the reserved header bits to the parameters' reserved bits; 0 where all pass. -/
def formCheck (x : Session) (d : Datagram) (opc : Nat) : Nat :=
  if d.rsv != 0 then 0x0103
  else
    match opForm opc with
    | none => 0x0101
    | some (roles, plen, fields) =>
      if !roles.contains x.role then 0x0201
      else if d.plen != plen then 0x0102
      else if !reservedZero d.params fields then 0x0103
      else 0

/-- A repeat is answered from the cache, byte for byte, or discarded while its reply has not been sent (R398). -/
def answerRepeat (x : Session) (d : Datagram) (s : State) : State :=
  match x.recs.find? (fun r => r.seq == d.seq) with
  | none => s
  | some r =>
    match r.reply with
    | none => ycpDiscard d.port s
    | some p => sendReply x.sid d.port d.seq r.opcode r.hostTag p s

/-- The whole of a command (R396 to R400), `c` being the command itself for a fence that keeps it waiting. -/
def ycp (opc : Nat) (c : Instr) (part : Part) (d : Datagram) (s : State) : State :=
  if !ready s then s
  else
    match findSession s.sessions d.sid with
    | none => ycpDiscard d.port s
    | some x =>
      if s.sessions.resuming && x.fenced.contains c then
        let s0 := { s with sessions := modSession { s.sessions with resuming := false } x.sid (fun y =>
          { y with fenced := y.fenced.erase c }) }
        carryOut x d opc part s0
      else if d.tag != cmdTag x.kHm d opc then ycpDiscard d.port s
      else if d.major != x.major || d.minor != x.minor || d.srcIp != x.ip || d.srcUdp != x.udp then ycpDiscard d.port s
      else
        let s0 := { s with sessions := modSession s.sessions x.sid (fun y => { y with lastAuth := nowNs s }) }
        let k := seqClass x d.seq
        if k == 0 then ycpDiscard d.port s0
        else if k == 2 then answerRepeat x d s0
        else
          let f := formCheck x d opc
          let v := if f != 0 then f
            else
              let a := (part s0 x d).code
              if isRefusal a then a else 0
          if v != 0 then refuse x d opc v s0
          else if 64 ≤ x.slots then
            refuse x d opc 0x0108 { s0 with sessions := modAcct s0.sessions x.sid (fun a =>
              { a with windowFull := satAdd 32 a.windowFull 1 }) }
          else
            let s1 := { s0 with sessions := modSession s0.sessions x.sid (fun y => acceptSeq y d.seq opc d.hostTag) }
            let x1 := acceptSeq x d.seq opc d.hostTag
            if mustWait x1 d.seq d.fence then
              { s1 with sessions := modSession s1.sessions x.sid (fun y => { y with fenced := y.fenced ++ [c] }) }
            else carryOut x1 d opc part s1

/-- Whether a waiting command may start: its fence is open, and it is the first that waits or goes ahead of it. -/
def mayStart (x : Session) (c : Instr) : Bool :=
  match instrDatagram c with
  | none => false
  | some d =>
    (!d.fence || fenceOpen x d.seq) && (x.fenced.head? == some c || goesAhead x d.seq)

/-- The first waiting command that may start now, with the state in which it starts. -/
def nextFenced (s : State) : Option (Instr × State) :=
  match s.sessions.live.find? (fun x => x.fenced.any (mayStart x)) with
  | none => none
  | some x => (x.fenced.find? (mayStart x)).map (fun c => (c, { s with sessions := { s.sessions with resuming := true } }))

end Sys2Proof.Machine
end

