-- ==== Sys2Proof/Machine/Host.lean ====
section
/-! DEFINITION. Host ports: queue pairs, keys, RoCE v2 as responder and requester, and the frames a host port answers
(R305 to R309, Table 16.4). -/

namespace Sys2Proof.Machine

def envOf (s : State) : Option Env :=
  s.image.map (fun im => { mem := s.memory, im := im, ver := s.versions, id := myId s.fabric, seed := s.run.seed,
                           step := s.run.step, exch := s.scales.exchanged })

/-! Queue pairs. -/

def findQp (h : HostIo) (qpn : Nat) : Option Qp := h.qps.find? (fun q => q.qpn == qpn)

def modQp (h : HostIo) (qpn : Nat) (f : Qp → Qp) : HostIo :=
  { h with qps := h.qps.map (fun q => if q.qpn == qpn then f q else q) }

def pmtuBytes (c : Nat) : Nat := 1024 * 2 ^ c

/-- Packets of a message, with their numbers and addresses. -/
def cutPackets (mtu : Nat) : Nat → Nat → Nat → List Byte → List (Nat × Nat × List Byte)
  | 0, _, _, _ => []
  | n + 1, psn, addr, data =>
    if data.isEmpty then []
    else (psn, addr, data.take mtu) :: cutPackets mtu n ((psn + 1) % 2 ^ 24) (addr + mtu) (data.drop mtu)

/-- RoCE v2 packets leave a port, or wait while it is paused (Table 11.10). -/
def roceOut (port : Nat) (es : List Emission) (s : State) : State :=
  if ((s.host.ports[port]?.map (fun p => !p.paused.isEmpty)).getD false) then
    { s with host := modHostPort s.host port (fun p => { p with held := p.held ++ es }) }
  else emit es s

/-- Pauses whose time has come end, and a port with none left sends what has waited. -/
def resumePort (now : Nat) (port : Nat) (s : State) : State :=
  match s.host.ports[port]? with
  | none => s
  | some p =>
    let l := p.paused.filter (fun v => decide (now < v.2))
    if p.paused.isEmpty || !l.isEmpty then { s with host := modHostPort s.host port (fun p => { p with paused := l }) }
    else emit p.held { s with host := modHostPort s.host port (fun p => { p with paused := [], held := [] }) }

/-- An RDMA WRITE to the host on a queue pair: its packets leave and wait for acknowledgement (R306). -/
def rdmaSend (qpn rkey addr : Nat) (data : List Byte) (s : State) : State :=
  match findQp s.host qpn with
  | none => s
  | some q =>
    let mtu := pmtuBytes q.pmtu
    let ps := cutPackets mtu (data.length / mtu + 1) q.sendPsn addr data
    roceOut q.port (ps.map (fun p => .rdmaWrite q.port qpn p.1 rkey p.2.1 p.2.2))
      { s with host := modQp s.host qpn (fun q => { q with sendPsn := (q.sendPsn + ps.length) % 2 ^ 24,
                                                           inFlight := q.inFlight ++ ps.map (fun p => (p.1, rkey, p.2.1, p.2.2)) }) }

/-- A key of a session by number and kind: 0 region, 1 window, 2 host. -/
def findKey (x : Session) (key kind : Nat) : Option RKey := x.keys.find? (fun k => k.key == key && k.kind == kind)

/-- Every key number that the module has issued and still holds. -/
def usedKeys (ss : Sessions) : List Nat := ss.live.flatMap (fun x => (x.keys.filter (fun k => k.kind != 2)).map (·.key))

/-- `QP_CREATE`. -/
def qpCreatePart : Part := fun s x d =>
  let pm := prm d 2 2
  let tmo := prm d 8 5
  if pm == 3 || tmo < 8 || 20 < tmo then ansCode s 0x0105
  else if 64 ≤ s.host.qps.length || 4 ≤ (s.host.qps.filter (fun q => q.sid == x.sid)).length then ansCode s 0x0307
  else
    let n := s.free
    let qpn := freshFrom (1 + Config.firstId 1 n % (2 ^ 24 - 128)) (s.host.qps.map (·.qpn))
    let psn := Config.firstId 2 n % 2 ^ 24
    let q : Qp := { qpn := qpn, sid := x.sid, port := prm d 0 1, pmtu := pm, timeout := tmo, retry := prm d 16 3,
                    peerQpn := prm d 32 24, peerGid := prm d 128 128, peerMac := prm d 256 48, sendPsn := psn,
                    recvPsn := prm d 64 24, retries := 0, inFlight := [], rate := 800000, lastCnp := 0, failed := false }
    ansBody { s with host := { s.host with qps := s.host.qps ++ [q] }, free := s.free + 1 }
      (pack [(0, 24, qpn), (32, 24, psn)]) 8

/-- `QP_DESTROY`. -/
def qpDestroyPart : Part := fun s x d =>
  match findQp s.host (prm d 0 24) with
  | none => ansCode s 0x0308
  | some q =>
    if q.sid != x.sid then ansCode s 0x0308
    else ansOk { s with host := { s.host with qps := s.host.qps.filter (fun p => p.qpn != q.qpn) } }

/-- The region that a key's range lies in. -/
def regionOver (rs : List Nat) (a n : Nat) : Option Nat :=
  rs.find? (fun r => decide (rgBase r ≤ a) && decide (a + n ≤ rgBase r + rgLen r))

/-- `MEM_REGISTER`. -/
def memRegisterPart : Part := fun s x d =>
  let window := prm d 0 1 == 1
  let r := prm d 1 1 == 1
  let w := prm d 2 1 == 1
  let a := prm d 64 48
  let n := prm d 128 48
  let bad : Nat :=
    if window then (if s.image.isSome || r || tierSize 1 < a + n then 0x0105 else 0)
    else if x.role == 2 then 0x0201
    else
      match regionOver (regionsOf s) a n with
      | some g => if rgRights g &&& 8 == 0 then 0x0304 else 0
      | none => match translate s.memory (regionsOf s) 0 ((regionsOf s).length + 1) a n with
        | .error _ => 0x0303
        | .ok _ => 0x0105
  if bad != 0 then ansCode s bad
  else if 256 ≤ x.keys.length then ansCode s 0x0307
  else
    let key := freshFrom (1 + Config.firstId 3 s.free % (2 ^ 32 - 8192)) (usedKeys s.sessions)
    let k : RKey := { key := key, kind := b2n window, r := r, w := w, addr := a, length := n, qpn := 0, valid := true }
    ansBody { s with sessions := modSession s.sessions x.sid (fun y => { y with keys := y.keys ++ [k] }), free := s.free + 1 }
      key 8

/-- `MEM_HOST_KEY`. -/
def memHostKeyPart : Part := fun s x d =>
  match findQp s.host (prm d 32 24) with
  | none => ansCode s 0x0308
  | some q =>
    if q.sid != x.sid then ansCode s 0x0308
    else if 256 ≤ x.keys.length then ansCode s 0x0307
    else
      let k : RKey := { key := prm d 0 32, kind := 2, r := false, w := true, addr := prm d 64 64, length := prm d 128 64,
                        qpn := q.qpn, valid := true }
      ansOk { s with sessions := modSession s.sessions x.sid (fun y => { y with keys := y.keys ++ [k] }) }

/-- `MEM_DEREGISTER`. -/
def memDeregisterPart : Part := fun s x d =>
  let host := prm d 32 1 == 1
  let hit := fun (k : RKey) => k.key == prm d 0 32 && (k.kind == 2) == host
  match x.keys.find? hit with
  | none => ansCode s 0x0308
  | some k => ansOk { s with sessions := modSession s.sessions x.sid (fun y => { y with keys := y.keys.erase k }) }

def execQpCreate (d : Datagram) (s : State) : Host.Outcome State Fault Refusal := .next (ycp 0x0300 (.qpCreate d) qpCreatePart d s)
def execQpDestroy (d : Datagram) (s : State) : Host.Outcome State Fault Refusal :=
  .next (ycp 0x0301 (.qpDestroy d) qpDestroyPart d s)
def execMemRegister (d : Datagram) (s : State) : Host.Outcome State Fault Refusal :=
  .next (ycp 0x0302 (.memRegister d) memRegisterPart d s)
def execMemHostKey (d : Datagram) (s : State) : Host.Outcome State Fault Refusal :=
  .next (ycp 0x0303 (.memHostKey d) memHostKeyPart d s)
def execMemDeregister (d : Datagram) (s : State) : Host.Outcome State Fault Refusal :=
  .next (ycp 0x0304 (.memDeregister d) memDeregisterPart d s)

/-! Memory errors (R263, Table 10.4). -/

/-- Unit named by a memory-error record: field, logical stack or channel (R251 to R253). -/
def errUnit (tier a : Nat) : Nat :=
  if tier == 0 then spadField a else if tier == 1 then stackOfHbm a else ddrChannel a

/-- Elements of plain descriptor i that a failed unit holds, in either half, as the first and last logical index (Table 10.4). -/
def errSpan (e : Env) (i tier lo n : Nat) : Option (Nat × Nat) :=
  let d := descOf e.im i
  let hit := fun (idx : Nat) => (if doubled e.im i then [0, 1] else [0]).any (fun half => match elemAddr e d half idx with
    | none => false
    | some a => match translate e.mem e.im.regions 0 (e.im.regions.length + 1) a (unitSize d) with
      | .error _ => false
      | .ok ps => ps.any (fun p => p.1 == tier && decide (p.2.1 < lo + n) && decide (lo < p.2.1 + p.2.2)))
  let l := (List.range (elemCount d)).filter hit
  match l.head?, l.getLast? with
  | some a, some b => some (a, b)
  | _, _ => none

/-- The body of a memory-error record for a failed unit. -/
def memErrorBody (s : State) (tier k thread : Nat) : Nat :=
  let u := unitBytes tier
  let cover : Option (Nat × Nat × Nat) := (envOf s).bind (fun e =>
    ((List.range e.im.descs.length).map (· + 1)).findSome? (fun i =>
      if dKind (descOf e.im i) != 0 then none else (errSpan e i tier (k * u) u).map (fun p => (dTid (descOf e.im i), p))))
  let (tid, lo, hi) := cover.getD (0xFFFFFFFF, k * u, k * u + u - 1)
  pack [(0, 16, 1), (16, 16, 32), (32, 2, tier), (40, 8, errUnit tier (k * u)), (64, 32, tid), (96, 48, lo), (144, 48, hi),
        (192, 32, stepInForce s), (224, 32, thread)]

/-- Enter a memory error of a unit in the fault log (event 5). -/
def addMemError (tier k thread : Nat) (s : State) : State := addEvent 5 (memErrorBody s tier k thread) 32 s

/-- The failed unit that a virtual range meets first. -/
def badOf (s : State) (va n : Nat) : Option (Nat × Nat) :=
  match translate s.memory (regionsOf s) 0 ((regionsOf s).length + 1) va n with
  | .error _ => none
  | .ok ps => ps.findSome? (fun p => (badIn s.memory p.1 p.2.1 p.2.2).map (fun k => (p.1, k)))

/-- A command's read of n bytes at a fails: it answers the code, and a memory error is logged with no thread (R263). -/
def ansFault (s : State) (c a n : Nat) : Answer :=
  ansCode (if c == 0x0601 then (match badOf s a n with
    | some (t, k) => addMemError t k 0xFFFFFFFF s
    | none => s) else s) c

/-! RoCE v2 as responder. -/

def nakInvalid : Nat := 0x61
def nakAccess : Nat := 0x62
def nakOperational : Nat := 0x63
def nakSequence : Nat := 0x60

/-- A NAK, counted on its port. -/
def sendNak (port : Nat) (q : Qp) (psn syn : Nat) (s : State) : State :=
  roceOut port [.rdmaAck port q.qpn psn syn]
    { s with host := modHostPort s.host port (fun p =>
        { p with naksSent := tick64 p.naksSent, accessErrors := if syn == nakAccess then tick64 p.accessErrors else p.accessErrors }) }

/-- A packet marked Congestion Experienced is answered by a CNP, at most one per queue pair per 50 µs (R308). -/
def maybeCnp (port : Nat) (q : Qp) (ce : Bool) (s : State) : State :=
  if ce && (q.lastCnp == 0 || q.lastCnp + 50000 ≤ nowNs s) then
    roceOut port [.cnp port q.qpn]
      { s with host := modHostPort (modQp s.host q.qpn (fun q => { q with lastCnp := nowNs s })) port
                         (fun p => { p with cnpsSent := tick64 p.cnpsSent }) }
  else s

/-- Where a request may go: tier pieces, or a syndrome (R241, R307, R421). -/
def keyPieces (s : State) (x : Session) (r : RdmaReq) (write : Bool) : Except Nat (List (Nat × Nat × Nat)) :=
  match x.keys.find? (fun k => k.key == r.rkey && k.kind != 2 && k.valid) with
  | none => .error nakAccess
  | some k =>
    if r.addr < k.addr || k.addr + k.length < r.addr + r.length || !(if write then k.w else k.r) then .error nakAccess
    else if k.kind == 1 then (if s.image.isSome || !write then .error nakAccess else .ok [(1, r.addr, r.length)])
    else
      match regionOver (regionsOf s) k.addr k.length,
            translate s.memory (regionsOf s) ((if write then 2 else 1) + 8) ((regionsOf s).length + 1) r.addr r.length with
      | some _, .ok ps => .ok ps
      | some _, .error 0x0306 => .error nakOperational
      | _, _ => .error nakAccess

/-- A frame that a host port does not accept is discarded and counted (R305, R306). -/
def otherFrame (port : Nat) (s : State) : State :=
  { s with host := modHostPort s.host port (fun p => { p with otherDiscards := tick64 p.otherDiscards }) }

/-- The packets of a READ's reply, each at most the PMTU (R306). -/
def readReply (port : Nat) (q : Qp) (psn : Nat) (data : List Byte) : List Emission :=
  let mtu := pmtuBytes q.pmtu
  if data.isEmpty then [.rdmaData port q.qpn psn []]
  else (cutPackets mtu (data.length / mtu + 1) psn 0 data).map (fun p => .rdmaData port q.qpn p.1 p.2.2)

/-- Correctable code words of groups in degraded decoding that a read of HBM meets, counted on their stacks (R256). -/
def countDegraded (s : State) (ps : List (Nat × Nat × Nat)) : State :=
  if s.repair.degraded.isEmpty then s
  else
    let words := ps.flatMap (fun p => if p.1 != 1 || p.2.2 == 0 then [] else
      (List.range ((p.2.1 + p.2.2 - 1) / 512 - p.2.1 / 512 + 1)).map (fun i => 512 * (p.2.1 / 512 + i)))
    let hits := words.filter (fun a => s.repair.degraded.any (fun g => g.1 == stackOfHbm a && g.2 / 17 == groupOfHbm a))
    hits.foldl (fun t a => addCorrected (stackOfHbm a) 1 t) s

/-- The checks that a request meets before its key: the port, the subset and the packet number (R306). A packet that has no queue
pair, or a bad ICRC, allows no reply: it is discarded and counted. -/
def rdmaRequest (port : Nat) (r : RdmaReq) (write : Bool) (s : State) : State :=
  if !ready s then s
  else if !r.icrcOk then otherFrame port s
  else
    match findQp s.host r.qpn with
    | none => otherFrame port s
    | some q =>
      if q.port != port || q.failed then otherFrame port s
      else if !r.inSubset then sendNak port q r.psn nakInvalid s
      else
        let s0 := maybeCnp port q r.ce s
        let ahead := (r.psn + 2 ^ 24 - q.recvPsn) % 2 ^ 24
        if 0 < ahead && ahead < 2 ^ 23 then sendNak port q q.recvPsn nakSequence s0
        else
          match findSession s0.sessions q.sid with
          | none => s0
          | some x =>
            match keyPieces s0 x r write with
            | .error syn => sendNak port q r.psn syn s0
            | .ok ps =>
              let s1 := wakeUp (some 2) s0
              if write then
                let s2 := { s1 with
                  memory := if ahead == 0 then writePieces s1.memory ps r.data else s1.memory
                  host := if ahead == 0 then modQp s1.host q.qpn (fun q => { q with recvPsn := (r.psn + 1) % 2 ^ 24 }) else s1.host }
                roceOut port [.rdmaAck port q.qpn r.psn 0] s2
              else
                match readPieces s1.memory ps with
                | .error _ =>
                  let s2 := sendNak port q r.psn nakOperational s1
                  match ps.findSome? (fun p => (badIn s1.memory p.1 p.2.1 p.2.2).map (fun k => (p.1, k))) with
                  | some (t, k) => addMemError t k 0xFFFFFFFF s2
                  | none => s2
                | .ok data =>
                  let n := max 1 (ceilDiv r.length (pmtuBytes q.pmtu))
                  let s2 := if ahead == 0 then
                      { s1 with host := modQp s1.host q.qpn (fun q => { q with recvPsn := (r.psn + n) % 2 ^ 24 }) } else s1
                  roceOut port (readReply port q r.psn data) (countDegraded s2 ps)

def execRdmaWrite (port : Nat) (r : RdmaReq) (s : State) : Host.Outcome State Fault Refusal := .next (rdmaRequest port r true s)
def execRdmaRead (port : Nat) (r : RdmaReq) (s : State) : Host.Outcome State Fault Refusal := .next (rdmaRequest port r false s)

/-! RoCE v2 as requester. -/

/-- Every packet still unacknowledged is sent again, oldest first (go-back-N). -/
def resendQp (q : Qp) (s : State) : State :=
  let drop := fun (p : HostPort) => { p with held := p.held.filter (fun e => match e with
    | .rdmaWrite _ n _ _ _ _ => n != q.qpn
    | _ => true) }
  roceOut q.port (q.inFlight.map (fun p => .rdmaWrite q.port q.qpn p.1 p.2.1 p.2.2.1 p.2.2.2))
    { s with host := modHostPort s.host q.port drop }

/-- The Local ACK Timeout: go back, or give the queue pair up when its retry count is spent (Table 11.10). -/
def ackTimeout (qpn : Nat) (s : State) : State :=
  match findQp s.host qpn with
  | none => s
  | some q =>
    if q.inFlight.isEmpty || q.failed then s
    else if q.retry ≤ q.retries then { s with host := modQp s.host qpn (fun q => { q with failed := true, inFlight := [] }) }
    else resendQp q { s with host := modQp s.host qpn (fun q => { q with retries := q.retries + 1 }) }

/-- An acknowledgement covers every packet up to its number; a NAK of sequence goes back from its number; another NAK ends
the transfer. -/
def roceAckSt (qpn psn syn : Nat) (s : State) : State :=
  match findQp s.host qpn with
  | none => s
  | some q =>
    let covered := fun (k : Nat) => decide ((psn + 2 ^ 24 - k) % 2 ^ 24 < 2 ^ 23)
    if syn < 0x20 then
      { s with host := modQp s.host qpn (fun q =>
        { q with inFlight := q.inFlight.filter (fun p => !covered p.1), retries := 0 }) }
    else if syn == nakSequence then
      let rest := q.inFlight.filter (fun p => !(covered p.1 && p.1 != psn))
      resendQp { q with inFlight := rest } { s with host := modQp s.host qpn (fun q => { q with inFlight := rest }) }
    else if 0x60 < syn then { s with host := modQp s.host qpn (fun q => { q with failed := true, inFlight := [] }) }
    else s

/-- A CNP received halves the rate, down to 1 Gb/s (R308). Rates are in Mb/s. -/
def cnpSt (qpn : Nat) (s : State) : State :=
  match findQp s.host qpn with
  | none => s
  | some q =>
    let h := modQp s.host qpn (fun q => { q with rate := max 1000 (q.rate / 2) })
    { s with host := modHostPort h q.port (fun p => { p with cnpsReceived := tick64 p.cnpsReceived }) }

/-- 55 µs without a CNP raise the rate by 5 % of the port rate, up to the port rate (R308). -/
def rateUp (qpn : Nat) (s : State) : State :=
  { s with host := modQp s.host qpn (fun q => { q with rate := min 800000 (q.rate + 40000) }) }

def execRoceAckTimeout (qpn : Nat) (s : State) : Host.Outcome State Fault Refusal := .next (ackTimeout qpn s)
def execRoceAcknowledge (qpn psn syndrome : Nat) (s : State) : Host.Outcome State Fault Refusal :=
  .next (roceAckSt qpn psn syndrome s)
def execCnp (qpn : Nat) (s : State) : Host.Outcome State Fault Refusal := .next (cnpSt qpn s)
def execRateIncreaseTimer (qpn : Nat) (s : State) : Host.Outcome State Fault Refusal := .next (rateUp qpn s)

/-! Addresses and other frames (R305, R309). -/

def portMac (s : State) (port : Nat) : Nat :=
  if port == 0 then s.settings.macH0 else if port == 1 then s.settings.macH1 else s.settings.macM0

def portCfg (s : State) (port : Nat) : Nat := s.settings.hostPorts.getD port 0

/-- The link-local address that a MAC gives (modified EUI-64). -/
def linkLocal (mac : Nat) : Nat :=
  (0xFE80 <<< 112) + (((bits mac 24 24) ^^^ 0x020000) <<< 40) + (0xFFFE <<< 24) + bits mac 0 24

/-- An IPv4 address as the 16 bytes of its IPv4-mapped IPv6 form. -/
def mapped4 (v4 : Nat) : Nat := (0xFFFF <<< 32) + v4

/-- The addresses a port answers to: IPv6 and IPv4-mapped. The configured values are little-endian fields. -/
def portAddrs (s : State) (port : Nat) : List Nat :=
  let c := portCfg s port
  [linkLocal (portMac s port)] ++ (if bitAt c 2 then [bits c 128 128] else []) ++
    (if bitAt c 3 then [mapped4 (bits c 64 32)] else [])

def portUp (s : State) (port : Nat) : Bool := (s.host.ports[port]?.map (·.up)).getD false

def arpSt (port ip senderIp senderMac : Nat) (s : State) : State :=
  if ready s && portUp s port && bitAt (portCfg s port) 3 && ip == bits (portCfg s port) 64 32 then
    emit [.arpReply port ip (portMac s port) senderIp senderMac] s
  else if ready s && portUp s port then otherFrame port s
  else s

def neighbourSt (port ip senderIp senderMac : Nat) (s : State) : State :=
  if ready s && portUp s port && (portAddrs s port).contains ip then
    emit [.arpReply port ip (portMac s port) senderIp senderMac] s
  else if ready s && portUp s port then otherFrame port s
  else s

def echoSt (port srcIp dstIp ident seqNo : Nat) (data : List Byte) (s : State) : State :=
  if ready s && portUp s port && (portAddrs s port).contains dstIp then emit [.echoReply port dstIp srcIp ident seqNo data] s
  else if ready s && portUp s port then otherFrame port s
  else s

/-- The time of a pause: quanta of 512 bit times at 800 Gb/s (IEEE 802.1Qbb), in units of 2^-16 ns. -/
def pauseTime (quanta : Nat) : Nat := quanta * 512 * 65536 / 800

/-- Priority flow control: a nonzero quanta pauses the priority for its time, zero resumes it (Table 11.10). DESIGN CHOICE (log
entry 91): the pause of any priority holds the port's RoCE v2 packets, since no command names the priority that the installer chose. -/
def pfcSt (port priority quanta : Nat) (s : State) : State :=
  let now := s.time.now
  resumePort now port { s with host := modHostPort s.host port (fun p =>
    { p with paused := if quanta == 0 then spSet priority now p.paused else spSet priority (now + pauseTime quanta) p.paused }) }

/-- A host port whose lanes fail goes down and its sessions end (R482). -/
def hostPortDown (port : Nat) (s : State) : State :=
  let ids := (s.sessions.live.filter (fun x => x.port == port)).map (·.sid)
  endSessions ids { s with host := modHostPort s.host port (fun p => { p with up := false }) }

def execArpRequest (port ip senderIp senderMac : Nat) (s : State) : Host.Outcome State Fault Refusal :=
  .next (arpSt port ip senderIp senderMac s)
def execNeighbourSolicitation (port ip senderIp senderMac : Nat) (s : State) : Host.Outcome State Fault Refusal :=
  .next (neighbourSt port ip senderIp senderMac s)
def execEchoRequest (port srcIp dstIp ident seqNo : Nat) (data : List Byte) (s : State) : Host.Outcome State Fault Refusal :=
  .next (echoSt port srcIp dstIp ident seqNo data s)
def execOtherHostPortFrame (port : Nat) (s : State) : Host.Outcome State Fault Refusal := .next (otherFrame port s)
def execPfcPause (port priority quanta : Nat) (s : State) : Host.Outcome State Fault Refusal := .next (pfcSt port priority quanta s)
def execHostPortFailure (port : Nat) (s : State) : Host.Outcome State Fault Refusal := .next (hostPortDown port s)

end Sys2Proof.Machine
end

