-- ==== Sys2Proof/Machine/Session.lean ====
section
/-! DEFINITION. Sessions: opening, status, partial results, abort, expiry, refused datagrams, and pre-emption
(chapters 15 and 17). -/

namespace Sys2Proof.Machine

def secondNs : Nat := 1000000000

/-! Opening. -/

/-- (MAJOR, MINOR) of version 1.0 lies between the host's bounds (R395). -/
def versionOk (p : Nat) : Bool :=
  let lo := bits p 0 8 * 256 + bits p 8 8
  let hi := bits p 16 8 * 256 + bits p 24 8
  decide (lo ≤ 256) && decide (256 ≤ hi)

/-- The code of a hello before any session is made (R391, R395, R396). -/
def helloCode (d : Datagram) : Nat :=
  if d.rsv != 0 then 0x0103
  else if d.plen != 80 then 0x0102
  else if !reservedZero d.params [(0, 36), (128, 512)] then 0x0103
  else if bits d.params 32 2 == 0 then 0x0105
  else if !versionOk d.params then 0x0106
  else 0

/-- A hello's reply body: version chosen, the module's highest, `SID`, nonce and signature (Table 15.3). -/
def helloBody (s : State) (d : Datagram) (code sid nM : Nat) : Nat :=
  let fields := pack [(0, 8, 1), (8, 8, 0), (16, 8, 1), (24, 8, 0), (32, 32, sid), (64, 256, nM)]
  let signed := leBytes 80 d.params ++ leBytes 8 code ++ leBytes 40 fields
  fields + ((Config.pssSign s.settings.idN signed % 2 ^ 3072) <<< 320)

def helloReply (d : Datagram) (r : Reply) : Emission := .ycp d.port d.srcIp d.srcUdp 0 d.seq 0x0001 d.hostTag r 0

/-- `SESSION_HELLO` (R391, R392, R526). -/
def helloSt (d : Datagram) (s : State) : State :=
  if !ready s then s
  else
    let recent := s.sessions.helloTimes.filter (fun t => decide (nowNs s < t + secondNs))
    if 64 ≤ recent.length then ycpDiscard d.port s
    else
      let s0 := { s with sessions := { s.sessions with helloTimes := recent ++ [nowNs s] } }
      let code := helloCode d
      if code == 0x0106 then
        emit [helloReply d { code := code, warn := false, handle := 0, body := helloBody s0 d code 0 0, blen := 432 }] s0
      else if code != 0 then emit [helloReply d { code := code, warn := false, handle := 0, body := 0, blen := 0 }] s0
      else
        let old := (s0.sessions.live.filter (fun x => x.ip == d.srcIp && x.udp == d.srcUdp)).map (·.sid)
        let s1 := endSessions old (wakeUp (some 1) s0)
        let held := s1.sessions.prov.filter (fun p => decide (nowNs s1 < p.expires))
        let held := if 16 ≤ held.length then held.drop 1 else held
        let used := held.map (·.sid) ++ s1.sessions.live.map (·.sid) ++ s1.sessions.ops.map (·.sid)
        let n := s1.free
        let sid := freshFrom (1 + Config.firstId 0 n % (2 ^ 32 - 8192)) used
        let nM := Config.free n % 2 ^ 256
        let body := helloBody s1 d 0 sid nM
        let p : ProvSession := { sid := sid, port := d.port, ip := d.srcIp, udp := d.srcUdp, role := bits d.params 32 2,
                                 prio := bits d.params 34 2, fp := bits d.params 128 256, nH := bits d.params 384 256, nM := nM,
                                 major := 1, minor := 0, helloParams := d.params, replyParams := body <<< 64,
                                 expires := nowNs s1 + secondNs }
        emit [helloReply d { code := 0, warn := false, handle := 0, body := body, blen := 432 }]
          { s1 with sessions := { s1.sessions with prov := held ++ [p] }, free := n + 1 }

def dropProv (sid : Nat) (s : State) : State :=
  { s with sessions := { s.sessions with prov := s.sessions.prov.filter (fun p => p.sid != sid) } }

/-- The certificate that a fingerprint names, in either area (R507). -/
def findCert (s : State) (fp : Nat) : Option Cert := (s.security.trust ++ s.security.enrol).find? (fun c => c.fp == fp)

/-- A certificate that is out of date (R508). -/
def certExpired (s : State) (c : Cert) : Bool := decide (c.notAfter < s.security.trustedDate)

/-- Whether a provisional session's certificate proves its role (Table 15.4, third row). -/
def roleProved (s : State) (p : ProvSession) (wrapped sig : Nat) : Bool :=
  match findCert s p.fp with
  | none => false
  | some c =>
    !c.revoked && !certExpired s c && c.role == p.role &&
    Config.pssVerify c.key (sha256 (leBytes 80 p.helloParams ++ leBytes 440 p.replyParams ++ leBytes 384 wrapped)) sig

/-- `SESSION_OPEN` (R393, Table 15.4). -/
def openSt (d : Datagram) (s : State) : State :=
  if !ready s then s
  else
    match s.sessions.prov.find? (fun p => p.sid == d.sid && decide (nowNs s < p.expires)) with
    | none => ycpDiscard d.port s
    | some p =>
      if p.ip != d.srcIp || p.udp != d.srcUdp then ycpDiscard d.port s
      else
        let wrapped := bits d.params 0 3072
        match Config.oaep s.settings.idN wrapped with
        | none => ycpDiscard d.port (dropProv p.sid s)
        | some k =>
          let kHm := sessionKey labelHost k p.sid p.nH p.nM
          let kMh := sessionKey labelModule k p.sid p.nH p.nM
          let answer := fun (code body blen : Nat) (t : State) =>
            let r : Reply := { code := code, warn := false, handle := 0, body := body, blen := blen }
            emit [.ycp d.port p.ip p.udp p.sid d.seq 0x0002 d.hostTag r
              (tag16 kMh (replyBytes p.sid d.seq 0x0002 d.hostTag p.major p.minor r))] t
          let arg := shaNat (leBytes d.plen d.params)
          if d.tag != cmdTag kHm d 0x0002 then ycpDiscard d.port (dropProv p.sid s)
          else if d.major != p.major || d.minor != p.minor then ycpDiscard d.port s
          else if d.rsv != 0 then answer 0x0103 0 0 s
          else if d.plen != 768 then answer 0x0102 0 0 s
          else if !s.audit.writable then answer 0x0A03 0 0 (dropProv p.sid s)
          else
            let s1 := dropProv p.sid (wakeUp (some 1) s)
            if !roleProved s1 p wrapped (bits d.params 3072 3072) then
              let s2 := match findCert s1 p.fp with
                | some c => if certExpired s1 c then auditEntry 0x0002 0x0202 p.sid 0 6 (certTag p.fp) arg s1 else s1
                | none => s1
              answer 0x0202 0 0 (auditEntry 0x0002 0x0202 p.sid 0 5 (certTag p.fp) arg s2)
            else if 16 ≤ s1.sessions.live.length then
              answer 0x0107 0 0 (auditEntry 0x0002 0x0107 p.sid 0 5 (certTag p.fp) arg s1)
            else
              let acct : Account := { sid := p.sid, role := p.role, prio := p.prio, live := true, opened := nowNs s1,
                                      commands := 0, longOps := 0, queueNs := 0, preempts := 0, preemptsCaused := 0,
                                      lostNs := 0, windowFull := 0 }
              let x : Session := { sid := p.sid, port := p.port, ip := p.ip, udp := p.udp, role := p.role, prio := p.prio,
                                   fp := p.fp, major := p.major, minor := p.minor, kHm := kHm, kMh := kMh, hi := 0, recs := [],
                                   slots := 0, nextHandle := 1, keys := [], lastAuth := nowNs s1, acct := acct, fenced := [] }
              let s2 := { s1 with sessions := { s1.sessions with live := s1.sessions.live ++ [x] } }
              answer 0 p.sid 4 (auditEntry 0x0002 0 p.sid p.role 5 (certTag p.fp) arg s2)

def execSessionHello (d : Datagram) (s : State) : Host.Outcome State Fault Refusal := .next (helloSt d s)
def execSessionOpen (d : Datagram) (s : State) : Host.Outcome State Fault Refusal := .next (openSt d s)

/-! In a session. -/

/-- `SESSION_CLOSE` ends the session once its reply has been sent (R401). -/
def sessionClosePart : Part := fun s x _ => { ansOk s with ends := [x.sid] }

/-- `SESSION_PING` only refreshes the session. -/
def sessionPingPart : Part := fun s _ _ => ansOk s

/-- `OP_STATUS` (R405): reading a final state returns the operation's slot, once (R399). -/
def opStatusPart : Part := fun s x d =>
  let h := prm d 0 32
  match findOp s.sessions x.sid h with
  | none => ansCode s 0x0109
  | some o =>
    let ss := if opFinal o.state && o.slotHeld then
        modSession (modOp s.sessions x.sid h (fun o => { o with slotHeld := false })) x.sid
          (fun y => { y with slots := y.slots - 1 })
      else s.sessions
    { ansBody { s with sessions := ss } (statusWord o) 8 with handle := h }

/-- A step record as 32 bytes (Table 16.9). -/
def recordBytes (r : StepRec) : List Byte :=
  leBytes 32 (pack [(0, 32, r.step), (32, 16, r.code), (48, 1, b2n r.warn), (49, 1, b2n r.valid), (50, 1, b2n r.reduced),
    (64, 64, r.origin), (128, 64, r.endNs), (192, 32, r.late), (224, 32, r.replays)])

/-- A host key's range covers another (R407). -/
def hostKeyFor (x : Session) (key addr len : Nat) : Option RKey :=
  x.keys.find? (fun k => k.key == key && k.kind == 2 && decide (k.addr ≤ addr) && decide (addr + len ≤ k.addr + k.length))

/-- `OP_PARTIAL` (R407, R428): the checkpointed step records of a run, written to the host. -/
def opPartialPart : Part := fun s x d =>
  let h := prm d 0 32
  match findOp s.sessions x.sid h with
  | none => ansCode s 0x0109
  | some o =>
    if !o.part then ansCode s 0x0001
    else
      match hostKeyFor x (prm d 64 32) (prm d 96 64) (prm d 160 64) with
      | none => ansCode s 0x0304
      | some k =>
        let recs := keepLast 65536 s.run.records
        let data := (recs.flatMap recordBytes).take (prm d 160 64)
        let upto := min 0xFFFFFFFF (o.progress + (if o.state == 5 then 1 else 0))
        ansBody (rdmaSend k.qpn k.key (prm d 96 64) data s) (pack [(0, 64, data.length), (64, 32, upto)]) 12

/-- `OP_ABORT` (R408). -/
def opAbortPart : Part := fun s x d =>
  match findOp s.sessions x.sid (prm d 0 32) with
  | none => ansCode s 0x0109
  | some o => if opFinal o.state then ansCode s 0x0002 else { ansOk s with aborts := [(o.sid, o.handle)] }

/-- An accepted abort takes effect at the operation's next tile-thread boundary (R408). -/
def abortEffect (sid h : Nat) (s : State) : State :=
  match findOp s.sessions sid h with
  | none => s
  | some o => if o.aborting && !opFinal o.state then finishOp sid h 6 0 s else s

/-- The idle time has passed with no authenticated command (R401). -/
def idleExpiry (sid : Nat) (s : State) : State :=
  match findSession s.sessions sid with
  | none => s
  | some x => if x.lastAuth + s.settings.idleS * secondNs ≤ nowNs s then endSession sid s else s

/-- A provisional session expires 1 s after its hello reply (R392). -/
def provExpiry (sid : Nat) (s : State) : State :=
  { s with sessions := { s.sessions with prov := s.sessions.prov.filter (fun p => p.sid != sid || decide (nowNs s < p.expires)) } }

def execSessionClose (d : Datagram) (s : State) : Host.Outcome State Fault Refusal :=
  .next (ycp 0x0003 (.sessionClose d) sessionClosePart d s)
def execSessionPing (d : Datagram) (s : State) : Host.Outcome State Fault Refusal :=
  .next (ycp 0x0004 (.sessionPing d) sessionPingPart d s)
def execOpStatus (d : Datagram) (s : State) : Host.Outcome State Fault Refusal := .next (ycp 0x0010 (.opStatus d) opStatusPart d s)
def execOpPartial (d : Datagram) (s : State) : Host.Outcome State Fault Refusal :=
  .next (ycp 0x0011 (.opPartial d) opPartialPart d s)
def execOpAbort (d : Datagram) (s : State) : Host.Outcome State Fault Refusal := .next (ycp 0x0012 (.opAbort d) opAbortPart d s)
def execAbortTakesEffect (sid handle : Nat) (s : State) : Host.Outcome State Fault Refusal := .next (abortEffect sid handle s)
def execSessionIdleExpiry (sid : Nat) (s : State) : Host.Outcome State Fault Refusal := .next (idleExpiry sid s)
def execProvisionalSessionExpiry (sid : Nat) (s : State) : Host.Outcome State Fault Refusal := .next (provExpiry sid s)

/-! Datagrams that a check turns away. -/

/-- The fate of a datagram under R384, R385 and R396: discarded and counted, a repeat answered from the cache, or refused with a
code; a datagram that passes every check is left for its own row. -/
def refusedSt (r : RawDatagram) (s : State) : State :=
  let d := r.d
  if !ready s || r.dstUdp != s.settings.ycpUdp then s
  else if !r.sumOk || r.udpLen < 48 || 1432 < r.udpLen || r.magic != 0x4359 || r.hlen != 32 || r.resp ||
      d.plen + 48 != r.udpLen then ycpDiscard d.port s
  else if r.opcode == 0x0001 || r.opcode == 0x0002 then s
  else
    match findSession s.sessions d.sid with
    | none => ycpDiscard d.port s
    | some x =>
      if d.tag != cmdTag x.kHm d r.opcode then ycpDiscard d.port s
      else if d.major != x.major || d.minor != x.minor || d.srcIp != x.ip || d.srcUdp != x.udp then ycpDiscard d.port s
      else
        let s0 := { s with sessions := modSession s.sessions x.sid (fun y => { y with lastAuth := nowNs s }) }
        let k := seqClass x d.seq
        if k == 0 then ycpDiscard d.port s0
        else if k == 2 then answerRepeat x d s0
        else
          let f := formCheck x d r.opcode
          if f != 0 then refuse x d r.opcode f s0 else s

def execYcpDatagramRefused (r : RawDatagram) (s : State) : Host.Outcome State Fault Refusal := .next (refusedSt r s)

/-! Pre-emption of a transfer engine (R446 to R452). -/

/-- The run's operation, if a run is in progress. -/
def runOp (s : State) : Option Op := if s.run.active then findOp s.sessions s.run.sid s.run.handle else none

/-- Whether an operation holds a queue. -/
def queueHeld (s : State) (kind unit : Nat) : Bool := s.sessions.ops.any (fun o => o.holds.contains (kind, unit))

/-- Entries of a unit's queue that have issued and not committed. -/
def unitBusy (s : State) (kind unit : Nat) : Bool := s.run.inflight.any (fun i => i.kind == kind && i.unit == unit)

/-- Die that serves a tier-relative address (R251 to R253). -/
def dieOf (tier a : Nat) : Nat :=
  if tier == 0 then a / 0x40000000 else if tier == 1 then a / 0x18000000000 else a / 0x20000000000

/-- Die of a tensor's first byte. -/
def tensorDie (s : State) (desc : Nat) : Nat :=
  match s.image with
  | none => 0
  | some im =>
    match translate s.memory im.regions 0 (im.regions.length + 1) (dBase (descOf im desc)) 1 with
    | .ok ((t, a, _) :: _) => dieOf t a % 2
    | _ => 0

/-- A pre-empting export that waits for a transfer engine. -/
def isPreemptor (s : State) (o : Op) (kind unit : Nat) : Bool :=
  kind == 7 && o.opcode == 0x0306 && o.state == 1 && !o.aborting && tensorDie s (bits o.params 0 24) == unit

/-- An operation that a pre-emptor sets aside on a transfer engine: the run when its queue directory names it, though another pre-emptor may
hold it already (R449), or an export in progress there; in both cases with a lower priority. -/
def isVictim (s : State) (p : Op) (unit : Nat) (o : Op) : Bool :=
  o.prio < p.prio &&
  ((o.opcode == 0x0403 && (o.state == 2 || (o.state == 3 && !o.holdBy.isEmpty)) && ((s.image.map (·.queues)).getD []).any (fun q => q.kind == 7 && q.unit == unit)) ||
   (o.opcode == 0x0306 && o.state == 2 && tensorDie s (bits o.params 0 24) == unit))

/-- A hold takes effect once every item that the unit had issued has committed (R447): the victims pause, the pre-emptor runs,
and both are counted (R452). -/
def holdSt (sid h kind unit : Nat) (s : State) : State :=
  match findOp s.sessions sid h with
  | none => s
  | some p =>
    if !isPreemptor s p kind unit || unitBusy s kind unit then s
    else
      let vs := s.sessions.ops.filter (isVictim s p unit)
      if vs.isEmpty then s
      else
        let ss1 := { s.sessions with ops := s.sessions.ops.map (fun o =>
          if isVictim s p unit o then { o with state := 3, holdBy := o.holdBy ++ [(sid, h, awakeNs s)] } else o) }
        let ss2 := modOp ss1 sid h (fun o => { o with holds := o.holds ++ [(kind, unit)] })
        let ss3 := vs.foldl (fun ss v => modAcct (modAcct ss v.sid (fun a => { a with preempts := satAdd 32 a.preempts 1 })) sid
          (fun a => { a with preemptsCaused := satAdd 32 a.preemptsCaused 1 })) ss2
        beginOp sid h { s with sessions := ss3 }

/-- Whether a pre-emptor has no more work: it is over or gone. -/
def preemptorDone (s : State) (sid h : Nat) : Bool :=
  match findOp s.sessions sid h with
  | none => true
  | some o => opFinal o.state

/-- A hold is released when the pre-emptor has no item ready; a victim that no other hold keeps runs again at the entry where it stopped (R447,
R449), and the time lost is counted. -/
def releaseSt (sid h kind unit : Nat) (s : State) : State :=
  if !preemptorDone s sid h then s
  else
    let mine := fun (b : Nat × Nat × Nat) => b.1 == sid && b.2.1 == h
    let ss1 := { s.sessions with ops := s.sessions.ops.map (fun o =>
      if o.holdBy.any mine then
        let rest := o.holdBy.filter (fun b => !mine b)
        { o with state := if o.state == 3 && !o.haboobHeld && rest.isEmpty then 2 else o.state, holdBy := rest }
      else if opIs sid h o then { o with holds := o.holds.filter (· != (kind, unit)) }
      else o) }
    { s with sessions := s.sessions.ops.foldl (fun ss v =>
      (v.holdBy.filter mine).foldl (fun t b => lostTo (awakeNs s) b.2.2 v.sid t) ss) ss1 }

def execPreemptionHold (sid handle kind unit : Nat) (s : State) : Host.Outcome State Fault Refusal :=
  .next (holdSt sid handle kind unit s)
def execPreemptionRelease (sid handle kind unit : Nat) (s : State) : Host.Outcome State Fault Refusal :=
  .next (releaseSt sid handle kind unit s)

end Sys2Proof.Machine
end

