-- ==== Sys2Proof/Machine/Parts.lean ====
section
/-! DEFINITION. Physical parts and the mirage map: the unsubstituted placement (Tables 1.3, 1.4, 19.1), the map in force, its
bytes, and substitution (R475 to R485, R497, R498). -/

namespace Sys2Proof.Machine

/-! Parts. A part is named by `partKey kind scope phys`; kinds as Table 19.3. -/

def partKey (kind scope phys : Nat) : Nat := kind * 2 ^ 24 + scope * 2 ^ 16 + phys
def partKind (k : Nat) : Nat := bits k 24 8
def partScope (k : Nat) : Nat := bits k 16 8
def partPhys (k : Nat) : Nat := bits k 0 16

/-- Scopes of a kind. -/
def kindScopes (kind : Nat) : Nat :=
  [0, 8, 8, 8, 2, 2, 2, 1, 8, 1, 34, 32, 6].getD kind 0

/-- Core, HBM and SerDes rails by turns on each die. -/
def railPhases (rail : Nat) : Nat × Nat := if rail % 3 == 0 then (32, 36) else (5, 6)

/-- Logical and physical parts in a scope (Table 19.1). -/
def kindCount (kind scope : Nat) : Nat × Nat :=
  if kind == 12 then railPhases scope
  else ([(0, 0), (4, 5), (2, 3), (32, 36), (4, 5), (2, 3), (1, 2), (2, 2), (64, 68), (32, 34), (68, 72), (8, 9)]).getD kind (0, 0)

/-- Physical position of a logical stack when no stack is substituted (Table 1.4). -/
def stackHome (l : Nat) : Nat :=
  let f := l % 16 / 4
  let r := l % 4
  17 * (l / 16) + (if r < 2 then (if f < 2 then 2 * f else 2 * f + 1) + r else 9 + 2 * f + (r - 2))

/-- Logical index and state of a part in the unsubstituted map: parts in logical order, then spares; the spare bank of a group
is its parity bank (R489). DESIGN CHOICE (log entry 5): which physical parts are the spares. -/
def partHome (k : Nat) : Nat × Nat :=
  let kind := partKind k
  let p := partPhys k
  if kind == 9 then
    match (List.range 32).find? (fun l => stackHome l == p) with
    | some l => (l, 0)
    | none => (0xFFFF, 1)
  else if p < (kindCount kind (partScope k)).1 then (p, 0)
  else if kind == 8 then (p - 64, 3)
  else (0xFFFF, 1)

/-- Logical index and state of a part under a map. -/
def partOf (m : Sp (Nat × Nat)) (k : Nat) : Nat × Nat := (spGet? k m).getD (partHome k)

def partIn (s : State) (k : Nat) : Nat × Nat := partOf s.mirage.entries k

/-- Change a part; an entry that says what the unsubstituted map says is not kept. -/
def setPart (m : Sp (Nat × Nat)) (k : Nat) (v : Nat × Nat) : Sp (Nat × Nat) :=
  if v == partHome k then spDel k m else spSet k v m

/-- Every part of a scope. -/
def scopeParts (kind scope : Nat) : List Nat :=
  (List.range (kindCount kind scope).2).map (partKey kind scope)

/-- Every part in the map's order (R478). -/
def allParts : List Nat :=
  ((List.range 13).drop 1).flatMap (fun kind => (List.range (kindScopes kind)).flatMap (scopeParts kind))

/-- The physical part that serves a logical one. -/
def servedBy (s : State) (kind scope logical : Nat) : Option Nat :=
  (scopeParts kind scope).find? (fun k => let v := partIn s k; v.1 == logical && (v.2 == 0 || v.2 == 4))

/-- Scope and logical index of a unit named module-wide (Table 1.3). -/
def unitScope (kind unit : Nat) : Nat × Nat :=
  let n := (kindCount kind 0).1
  if kind == 7 then (0, unit) else (unit / n, unit % n)

/-- Module-wide number of a logical unit in its scope. -/
def unitName (kind scope logical : Nat) : Nat := if kind == 7 then logical else scope * (kindCount kind 0).1 + logical

/-- Die of a part's scope, for spares that serve one die. -/
def partDie (k : Nat) : Nat :=
  if partKind k == 9 then partPhys k / 17 else if partKind k == 7 then partPhys k else 0

/-- The lowest-numbered free spare for a part, on its die for a stack. -/
def freeSpare (m : Sp (Nat × Nat)) (k : Nat) : Option Nat :=
  (scopeParts (partKind k) (partScope k)).find? (fun j => (partOf m j).2 == 1 && partDie j == partDie k)

/-- A failed part gives its logical index to a spare, and is marked failed. -/
def replacePart (m : Sp (Nat × Nat)) (k spare : Nat) : Sp (Nat × Nat) :=
  setPart (setPart m spare ((partOf m k).1, 0)) k (0xFFFF, 2)

/-- A part is marked failed with nothing in its place. -/
def failPart (m : Sp (Nat × Nat)) (k : Nat) : Sp (Nat × Nat) := setPart m k (0xFFFF, 2)

/-! The bytes of a map (Tables 19.2 and 19.3). -/

def mapHeader (c : MapCopy) : Nat :=
  pack [(0, 16, 1), (16, 16, 64), (32, 32, c.gen), (64, 16, 3784), (80, 1, b2n c.subStop), (96, 32, c.lastFault)]

def mapEntry (m : Sp (Nat × Nat)) (k : Nat) : Nat :=
  let v := partOf m k
  pack [(0, 8, partKind k), (8, 8, partScope k), (16, 16, partPhys k), (32, 16, v.1), (48, 3, v.2)]

/-- Header, entries and signature under the identity key: 30,720 B (R477). -/
def mapBytes (s : State) (c : MapCopy) : List Byte :=
  let l := leBytes 64 (mapHeader c) ++ allParts.flatMap (fun k => leBytes 8 (mapEntry c.entries k))
  l ++ leBytes 384 (Config.pssSign s.settings.idN l)

def mapInForce (s : State) : MapCopy :=
  { gen := s.mirage.gen, subStop := s.mirage.subStop, lastFault := s.mirage.lastFault, entries := s.mirage.entries }

/-- A part may serve a logical index only on its own die (R18, R478). -/
def dieOk (k l : Nat) : Bool := partKind k != 9 || partDie k == l / 16

/-- In each scope, each logical index appears in exactly one entry in service, on its own die (R18, R478). -/
def mapServes (m : Sp (Nat × Nat)) : Bool :=
  ((List.range 13).drop 1).all (fun kind => (List.range (kindScopes kind)).all (fun sc =>
    let serving := ((scopeParts kind sc).map (partOf m)).filter (fun v => v.2 == 0 || v.2 == 4)
    let n := (kindCount kind sc).1
    (scopeParts kind sc).all (fun k => let v := partOf m k; (v.2 != 0 && v.2 != 4) || dieOk k v.1) && serving.length == n && (List.range n).all (fun i => serving.any (fun v => v.1 == i))))

/-- The map read from the bytes of header and entries, none where a rule of R478 fails. -/
def mapOfBytes (l : List Byte) : Option MapCopy :=
  let h := ofLe (l.take 64)
  let vs := allParts.zipIdx.map (fun p => (p.1, ofLe ((l.drop (64 + 8 * p.2)).take 8)))
  let ok := vs.all (fun p => bits p.2 0 8 == partKind p.1 && bits p.2 8 8 == partScope p.1 && bits p.2 16 16 == partPhys p.1 &&
    bits p.2 48 3 ≤ 4 && p.2 >>> 51 == 0 && (bits p.2 48 3 != 4 || partKind p.1 == 9))
  let m := vs.foldl (fun m p => setPart m p.1 (bits p.2 32 16, bits p.2 48 3)) []
  if bits h 0 16 == 1 && bits h 16 16 == 64 && bits h 64 16 == 3784 && ok && mapServes m && 64 + 8 * 3784 ≤ l.length then
    some { gen := bits h 32 32, subStop := bitAt h 80, lastFault := bits h 96 32, entries := m }
  else none

/-! The map that quick BIST builds (R479, log entry 86). -/

/-- Parts that stand in for one another in a built map, with their first logical index and the number of logical parts. -/
def buildGroup (k : Nat) : List Nat × Nat × Nat :=
  let p := partPhys k
  if partKind k == 8 then
    let j := if p < 64 then p / 16 else p - 64
    ((List.range 16).map (fun i => partKey 8 (partScope k) (16 * j + i)) ++ [partKey 8 (partScope k) (64 + j)], 16 * j, 16)
  else (scopeParts (partKind k) (partScope k), 0, (kindCount (partKind k) (partScope k)).1)

/-- The parts of a group that pass take its logical indices in order; those left are spares, and those that fail are in state 2. -/
def placeGroup (bad : List Nat) (g : List Nat × Nat × Nat) (m : Sp (Nat × Nat)) : Sp (Nat × Nat) :=
  let good := (g.1.filter (fun k => !bad.contains k)).zipIdx
  let m1 := good.foldl (fun m x => setPart m x.1 (if x.2 < g.2.2 then (g.2.1 + x.2, 0) else (0xFFFF, 1))) m
  (g.1.filter bad.contains).foldl failPart m1

/-- A stack that fails gives its logical stack to its die's spare, if that passes; stacks have places of their own (Table 1.4). -/
def placeStacks (bad : List Nat) (m : Sp (Nat × Nat)) : Sp (Nat × Nat) :=
  let m1 := (bad.filter (fun k => (partOf m k).2 == 1)).foldl failPart m
  (bad.filter (fun k => (partOf m k).2 == 0)).foldl (fun m k => match freeSpare m k with
    | some sp => replacePart m k sp
    | none => failPart m k) m1

/-- The map built with the parts that fail. -/
def builtMap (bad : List Nat) : Sp (Nat × Nat) :=
  let nine := bad.filter (fun k => partKind k == 9)
  (((bad.filter (fun k => partKind k != 9)).map buildGroup).eraseDups).foldl (fun m g => placeGroup bad g m) (placeStacks nine [])

/-- Logical parts that a built map leaves with nothing in their place. -/
def builtGaps (bad : List Nat) (m : Sp (Nat × Nat)) : List (Nat × Nat) :=
  ((bad.map (fun k => (partKind k, partScope k))).eraseDups).flatMap (fun c =>
    let serving := ((scopeParts c.1 c.2).map (partOf m)).filter (fun v => v.2 == 0)
    ((List.range (kindCount c.1 c.2).1).filter (fun l => !serving.any (fun v => v.1 == l))).map (fun l => (c.1, unitName c.1 c.2 l)))

/-! Changes of the map in force. A change goes into the written map too, while one waits (R480). -/

def changeMap (f : Sp (Nat × Nat) → Sp (Nat × Nat)) (s : State) : State :=
  let m := s.mirage
  { s with mirage := { m with
      entries := f m.entries
      lastFault := s.faultLog.next
      dirty := true
      written := m.written.map (fun w => { w with entries := f w.entries }) } }

/-- Whether substitution has stopped (R497, R499). -/
def subStopped (s : State) : Bool := s.mirage.subStop

/-- A logical part with nothing in its place (R483). -/
def unservedPart (s : State) (kind logical : Nat) : Bool := s.repair.unsub.contains (kind, logical)

end Sys2Proof.Machine
end

