-- ==== Sys2Proof/Machine/Issue.lean ====
section
/-! DEFINITION. Tile-thread entries and their queues: fields, what a unit may issue, entries in flight, the failure of a step,
warnings and step records (R116 to R123, R404, R428). -/

namespace Sys2Proof.Machine

/-! Fields of a tile-thread entry (Table 5.1). -/

def tClass (e : Nat) : Nat := bits e 32 8
def tStepEnd (e : Nat) : Bool := bitAt e 40
def tWait (e : Nat) : Nat := bits e 48 16
def tWaitVal (e : Nat) : Nat := bits e 64 32
def tWait2 (e : Nat) : Nat := bits e 96 16
def tWait2Val (e : Nat) : Nat := bits e 112 32
def tSig (e : Nat) : Nat := bits e 144 16
def tInc (e : Nat) : Nat := bits e 160 16
def tThread (e : Nat) : Nat := bits e 176 32
def tMicro (e : Nat) : Nat := bits e 208 16
/-- The operation word. -/
def tOp (e : Nat) : Nat := e >>> 256

/-! Steps of a run (R29, R311). -/

/-- A federation map stands in the caravan section. -/
def isFederated (im : Image) : Bool := im.car.fedHead != 0

/-- The step is one that R29 selects. -/
def selectedStep (r : RunState) : Bool := (r.count + 1) % r.n == 0

/-- A domain-reduction step. -/
def reducesStep (s : State) : Bool := (s.image.map isFederated).getD false || selectedStep s.run

/-- An exchange step. -/
def exchangeStep (s : State) : Bool := (s.image.map isFederated).getD false && selectedStep s.run

/-- The step's origin in whole nanoseconds. -/
def originNs (s : State) : Nat := s.run.origin >>> 16

/-- The record of the step in progress (Table 16.9). -/
def stepRecord (s : State) (code : Nat) (warn valid : Bool) : StepRec :=
  { step := s.run.step, code := code, warn := warn, valid := valid, reduced := reducesStep s, origin := originNs s,
    endNs := nowNs s, late := min s.run.late 0xFFFFFFFF, replays := min s.run.replays 0xFFFFFFFF }

/-- The running step fails: its record is the last one written, and the run ends in `FAILED` with the code (R426, R428). -/
def failRun (code : Nat) (s : State) : State :=
  if !s.run.active then s
  else
    let r := { s.run with records := keepLast 65536 (s.run.records ++ [stepRecord s code false false]) }
    let s1 := { s with run := r }
    let s2 := { s1 with sessions := modOp s1.sessions r.sid r.handle (fun o => { o with part := true }) }
    finishOp r.sid r.handle 5 code s2

/-- A warning of the step: the first one keeps its code in the step record and the status word (R404, R411). -/
def warnRun (w : Nat) (s : State) : State :=
  let more := match runOp s with
    | some o => o.warn
    | none => false
  { s with
    run := { s.run with stepCode := if s.run.stepWarn then s.run.stepCode else w, stepWarn := true }
    sessions := modOp s.sessions s.run.sid s.run.handle (fun o => opWarn o w)
    scales := if more then { s.scales with extraWarnings := tick64 s.scales.extraWarnings } else s.scales }

/-! Counters (R120). -/

def ctrAt (s : State) (n : Nat) : Nat := spGet 0 n s.run.counters

/-- Whether a counter has reached a value, compared unsigned; 0xFFFF waits on nothing. -/
def waitMet (s : State) (n v : Nat) : Bool := n == 0xFFFF || v ≤ ctrAt s n

/-- Add to a counter. An addition that would carry it beyond 32 bits fails the command, and the counter keeps its value. -/
def addCtr (n v : Nat) (s : State) : State :=
  if n == 0xFFFF then s
  else if 2 ^ 32 ≤ ctrAt s n + v then failRun 0x0404 s
  else { s with run := { s.run with counters := spPut 0 n (ctrAt s n + v) s.run.counters } }

/-! Queues. -/

/-- The queue of a unit with its place in the directory. -/
def queueOf (s : State) (kind unit : Nat) : Option (Nat × Queue × QPos) :=
  match s.image with
  | none => none
  | some im =>
    match im.queues.zipIdx.find? (fun q => q.1.kind == kind && q.1.unit == unit) with
    | none => none
    | some (q, i) => (s.run.queues[i]?).map (fun p => (i, q, p))

/-- The position of a queue at its first entry. -/
def QPos.start : QPos := { next := 0, again := [], retired := false }

/-- Counters 0, queues at their first entry, ledger entries idle: as at image load (Table 21.3). -/
def freshRun (im : Image) (r : RunState) : RunState :=
  { r with queues := im.queues.map (fun _ => QPos.start), inflight := [], threads := [], lends := [], htNext := [], vls := [], counters := [], totals := [],
           ledger := [] }

/-- Entries of a unit in flight. -/
def flightOf (s : State) (kind unit : Nat) : List InFlight := s.run.inflight.filter (fun i => i.kind == kind && i.unit == unit)

/-- A transfer engine has failed and the other one serves both queues (R488). -/
def engineShared (s : State) : Bool := (scopeParts 7 0).any (fun k => (partIn s k).2 == 2)

/-- Work in flight that a unit may have (R119). -/
def unitLimit (s : State) (kind : Nat) : Nat :=
  if kind == 7 then (if engineShared s then 2 else 4) else [0, 2, 2, 8, 2, 4, 2].getD kind 0

/-- An engine that a `LEND` entry has handed over (R122). -/
def isLent (s : State) (kind unit : Nat) : Bool := s.run.lends.any (fun l => l.1 == kind && l.2.1 == unit)

/-- A step is in progress and its run is neither held by the haboob condition nor about to abort. -/
def runGoes (s : State) : Bool :=
  s.run.active && s.run.begun && !s.run.finishing && (match runOp s with
    | some o => (o.state == 2 || o.state == 3) && !o.aborting && !o.haboobHeld
    | none => false)

/-- A queue held by pre-emption, or one whose unit has a waiting pre-emptor (R447). -/
def unitHeld (s : State) (kind unit : Nat) : Bool :=
  queueHeld s kind unit ||
  (match runOp s with
   | some r => s.sessions.ops.any (fun o => isPreemptor s o kind unit && r.prio < o.prio)
   | none => false)

/-- The entry that a queue stands at: one to issue again, or the next, none after `STEP_END`. -/
def queueHead (q : Queue) (p : QPos) : Option (Nat × Nat) :=
  match p.again with
  | i :: _ => (q.entries[i]?).map (fun e => (i, e))
  | [] =>
    if p.next != 0 && tStepEnd (q.entries.getD (p.next - 1) 0) then none
    else (q.entries[p.next]?).map (fun e => (p.next, e))

/-- Whether an entry's two counters let it issue; an update entry of a step that does not reduce waits on neither (R222). -/
def waitsMet (s : State) (kind e : Nat) : Bool :=
  (kind == 5 && !reducesStep s) || (waitMet s (tWait e) (tWaitVal e) && waitMet s (tWait2 e) (tWait2Val e))

/-- An entry that met its unit's limit waits for the oldest entry then executing (R119). -/
def limitHeld (s : State) (p : QPos) : Bool :=
  match p.behind with
  | none => false
  | some t => s.run.inflight.any (fun i => i.thread == t)

/-- The entry that a unit may issue now, with its queue and index (R119). -/
def issuable (s : State) (kind unit : Nat) : Option (Nat × Nat × Nat) :=
  if !runGoes s || unitHeld s kind unit || isLent s kind unit || unservedPart s kind unit ||
      (kind == 1 && s.repair.wgbCopy.contains unit) then none
  else
    match queueOf s kind unit with
    | none => none
    | some (qi, q, p) =>
      match queueHead q p with
      | none => none
      | some (i, e) =>
        if (flightOf s kind unit).length < unitLimit s kind && waitsMet s kind e && !limitHeld s p then some (qi, i, e)
        else none

/-- Every unit that the directory names. -/
def directory (s : State) : List (Nat × Nat) := ((s.image.map (·.queues)).getD []).map (fun q => (q.kind, q.unit))

/-- A queue that has an entry to issue waits on a counter. -/
def headWaits (s : State) (kind unit : Nat) : Bool :=
  match queueOf s kind unit with
  | none => false
  | some (_, q, p) =>
    match queueHead q p with
    | none => false
    | some (_, e) => !waitsMet s kind e

/-- An entry in flight, with nothing yet in the commit buffer. -/
def flight (kind unit i e : Nat) : InFlight :=
  { thread := tThread e, kind := kind, unit := unit, qidx := i, entry := e, done := false, writes := [], wgb := [], adds := [], amax := [],
    nf := [], sat := [], replays := [], warn := 0, fail := 0, failAddr := 0, failCause := 0, rows := [], accept := [],
    masses := [] }

/-- The queue moves past an entry that issues. -/
def stepQueue (qi i : Nat) (s : State) : State :=
  match s.run.queues[qi]? with
  | none => s
  | some p =>
    let p1 := if p.again.head? == some i then { p with again := p.again.drop 1 } else { p with next := i + 1 }
    { s with run := { s.run with queues := s.run.queues.set qi p1 } }

/-- When an entry other than the oldest of a full unit commits, the entry that waits to issue still waits for the oldest (R119). -/
def noteLimit (x : InFlight) (s : State) : State :=
  let fl := flightOf s x.kind x.unit
  match fl.head?, queueOf s x.kind x.unit with
  | some h, some (qi, q, p) =>
    match queueHead q p with
    | none => s
    | some (_, e) =>
      if h.thread != x.thread && fl.length == unitLimit s x.kind && waitsMet s x.kind e && (p.behind.isNone || !limitHeld s p) then
        { s with run := { s.run with queues := s.run.queues.set qi { p with behind := some h.thread } } }
      else s
  | _, _ => s

/-- The correctable code words that a thread's reads have met in groups in degraded decoding are counted on their stacks (R256). How often a
unit reads a code word is not stated: a free value (log entry 92). -/
def countUnitReads (s : State) : State :=
  s.repair.degraded.foldl (fun s g =>
    let n := takeFree s
    addCorrected g.1 (Config.free n.1) n.2) s

/-- Issue an entry: it is in flight from now on. -/
def issue (kind unit qi i e : Nat) (s : State) : State :=
  let s1 := stepQueue qi i s
  { s1 with run := { s1.run with inflight := s1.run.inflight ++ [flight kind unit i e] } }

/-- Change an entry in flight. -/
def modFlight (thread : Nat) (f : InFlight → InFlight) (s : State) : State :=
  { s with run := { s.run with inflight := s.run.inflight.map (fun i => if i.thread == thread then f i else i) } }

def findFlight (s : State) (thread : Nat) : Option InFlight := s.run.inflight.find? (fun i => i.thread == thread)

/-- A tile thread fails and does not commit: its fault log entry, then the command fails (R123, R141, R241). A memory error is
logged by its record (R263); 3 and 4 are translation and protection. -/
def failThread (kind unit thread code cause ctr addr : Nat) (s : State) : State :=
  let s1 :=
    if code == 0x0601 then
      match badOf s addr 1 with
      | some (t, k) => addMemError t k thread s
      | none => s
    else if code == 0x0303 then addThreadFault kind unit thread code 3 ctr addr s
    else if code == 0x0304 then addThreadFault kind unit thread code 4 ctr addr s
    else if cause != 0 then addThreadFault kind unit thread code cause ctr addr s
    else s
  failRun code s1

/-- An access of n bytes for a thread fails the run; a memory error is logged (R261, R263). -/
def failAccess (thread c a n : Nat) (s : State) : State :=
  failRun c (if c == 0x0601 then (match badOf s a n with
    | some (t, k) => addMemError t k thread s
    | none => s) else s)

/-- The same for no tile thread. -/
def failBytes (c a n : Nat) (s : State) : State := failAccess 0xFFFFFFFF c a n s

end Sys2Proof.Machine
end

