-- ==== Sys2Proof/Machine/Power.lean ====
section
/-! DEFINITION. The power ladder: commands, idleness, entry and wake, operating points and thermal demand (chapter 18, R539 to R545). -/

namespace Sys2Proof.Machine

/-! Commands (Table 16.14). -/

def pwrCapSetPart : Part := fun s _ d =>
  let c := prm d 0 16
  if c < 800 || 3800 < c then ansCode s 0x0105 else ansOk { s with power := { s.power with capW := c } }

/-- Nominal millivolts of an operating point (Table 18.5). -/
def nominalMv (point : Nat) : Nat :=
  [600, 630, 660, 690, 720, 750, 780, 810, 840, 855, 863, 870, 878, 885, 893, 900].getD point 900

/-- Clock of an operating point in MHz (Table 18.5). -/
def pointMhz (point : Nat) : Nat :=
  [1100, 1320, 1540, 1760, 1980, 2200, 2420, 2640, 2860, 2970, 3025, 3080, 3135, 3190, 3245, 3300].getD point 3300

/-- Calibrated millivolts of a die's point, nominal until calibrated (R470). -/
def voltOf (s : State) (die point : Nat) : Nat :=
  match (spGet [] 1 s.repair.calib).find? (fun r => r.1 == 16 * die + point) with
  | some r => r.2
  | none => nominalMv point

def diePoint (p : Power) (die : Nat) : Nat := if die == 0 then p.pointW else p.pointE
def dieTarget (p : Power) (die : Nat) : Nat := p.target.getD die 15
def setDiePoint (p : Power) (die v : Nat) : Power := if die == 0 then { p with pointW := v } else { p with pointE := v }

/-- A die moves to a point (R471): down, the frequency goes first and the voltage follows; up, the voltage goes first. -/
def movePoint (die v : Nat) (s : State) : State :=
  let p := s.power
  let p1 := { p with target := p.target.set die v }
  let p2 := if v < diePoint p die then setDiePoint p1 die v else p1
  let s1 := { s with power := p2 }
  if p.compat && v != dieTarget p die then emit [.avsWrite die (voltOf s die v)] s1 else s1

/-- `PWR_MODE_SET` (R474): both dies first move to point 0. -/
def pwrModeSetPart (avs : Bool) : Part := fun s _ d =>
  if s.run.active then ansCode s 0x0408
  else if !avs then ansCode s 0x0802
  else
    let s1 := movePoint 1 0 (movePoint 0 0 s)
    ansOk { s1 with power := { s1.power with toCompat := some (prm d 0 1 == 1), handover := [], capPoint := 0, underCap := 0 } }

/-- `PWR_READ` (Table 16.14). It is answered with the state from which the module woke (R466). -/
def pwrReadPart : Part := fun s _ _ =>
  let p := s.power
  ansBody s (pack [(0, 2, p.ps), (2, 1, b2n p.compat), (8, 4, p.wake), (32, 32, p.tolNs), (64, 32, p.dwellUs), (96, 16, p.capW),
    (112, 16, p.powerW), (128, 32, p.tolMin), (160, 32, p.tolMax)]) 32

def execPwrCapSet (d : Datagram) (s : State) : Host.Outcome State Fault Refusal := .next (ycp 0x0802 (.pwrCapSet d) pwrCapSetPart d s)
def execPwrModeSet (d : Datagram) (avsOnBoard : Bool) (s : State) : Host.Outcome State Fault Refusal :=
  .next (ycp 0x0803 (.pwrModeSet d avsOnBoard) (pwrModeSetPart avsOnBoard) d s)
def execPwrRead (d : Datagram) (s : State) : Host.Outcome State Fault Refusal := .next (ycp 0x0804 (.pwrRead d) pwrReadPart d s)

/-! Idleness (R458). -/

/-- Lead of a departure's wake (R464). -/
def wakeLead : Nat := 3264

/-- Entry time of a state (Table 18.3). -/
def entryNs (ps : Nat) : Nat := if ps == 2 then 1200 else 40

def carOffset (e : Nat) : Nat := bits e 64 48 * 65536 + bits e 112 16

/-- The next departure of any caravan entry at or after now, in units of 2^-16 ns. -/
def nextDeparture (s : State) : Option Nat :=
  match s.image with
  | none => none
  | some im =>
    if !s.run.active then none
    else
      let per := im.car.period * 65536
      let now := s.time.now
      let ahead := im.car.entries.map (fun e =>
        let d := s.run.origin + carOffset e
        if now ≤ d || per == 0 then d else d + ceilDiv (now - d) per * per)
      let left := s.reductions.past.flatMap (fun p => (p.entries.map (fun e => p.origin + carOffset e)).filter (now ≤ ·))
      (left ++ ahead).foldl
        (fun m d => some (match m with
          | none => d
          | some x => min x d)) none

/-- A hardware thread stalled on a wait instruction. -/
def stalled (s : State) (thread : Nat) : Bool :=
  s.run.threads.any (fun t => t.2.thread == thread && (t.2.waitCtr.isSome || t.2.waitCar.isSome))

/-- No unit executes or can issue; waiting and stalled threads do not count. -/
def unitsIdle (s : State) : Bool :=
  s.run.inflight.all (fun i => stalled s i.thread) && (directory s).all (fun u => (issuable s u.1 u.2).isNone)

/-- A long operation moves data in a transfer engine. -/
def transferRuns (s : State) : Bool :=
  s.sessions.ops.any (fun o => o.state == 2 && [0x0305, 0x0306, 0x0307, 0x0400, 0x0B00].contains o.opcode)

/-- A frame of this module waits to leave or to be delivered. -/
def localFrames (s : State) : Bool :=
  !s.fabric.inbox.isEmpty || s.fabric.ports.any (fun p => p.queue.any (fun h => h.cells.isNone))

def holdInForce (s : State) : Bool :=
  match s.power.holdEnd with
  | some t => decide (nowNs s < t)
  | none => false

/-- Idle apart from departures (R458). -/
def moduleIdle (s : State) : Bool :=
  unitsIdle s && !transferRuns s && s.host.qps.all (fun q => q.inFlight.isEmpty) && !localFrames s && !holdInForce s &&
  !s.power.hotHold

/-- Whether entry into a state, with the lead of the next departure's wake, would end before that departure (R459). -/
def fitsBefore (s : State) (ps : Nat) : Bool :=
  match nextDeparture s with
  | none => true
  | some d => decide ((nowNs s + entryNs ps + wakeLead) * 65536 < d)

/-- The state that the tolerance selects; one that does not fit is skipped for the next shallower (R459). -/
def selectState (s : State) : Nat :=
  if s.power.tolNs < 32 then 0
  else if 320 ≤ s.power.tolNs && fitsBefore s 2 then 2
  else if fitsBefore s 1 then 1
  else 0

/-- A port is asked to narrow to width 1, or to go quiet (R467, R468). -/
def lowPort (fab : Fabric) (ps n : Nat) : Fabric × List Emission :=
  match getPort fab n with
  | none => (fab, [])
  | some p =>
    if !p.up || p.failed then (fab, [])
    else
      let fab1 := modPort fab n (fun q => { q with wantWidth := 1 })
      let (fab2, e2) := linkSend fab1 n 5 [(136, 4, 1)]
      if ps == 2 && peTime (portEntry fab n) == 0 then
        let (fab3, e3) := linkSend (modPort fab2 n (fun q => { q with wantQuiet := true })) n 6 []
        (fab3, e2 ++ e3)
      else (fab2, e2)

def lowPorts (ps : Nat) : List Nat → Fabric → Fabric × List Emission
  | [], fab => (fab, [])
  | n :: r, fab =>
    let (f1, e1) := lowPort fab ps n
    let (f2, e2) := lowPorts ps r f1
    (f2, e1 ++ e2)

/-- Entry into PS1 or PS2, or from PS1 into PS2. -/
def enterLow (ps : Nat) (s : State) : State :=
  let r := lowPorts ps (List.range 32) s.fabric
  { s with
    power := { s.power with ps := ps, lowSince := if s.power.ps == 0 then nowNs s else s.power.lowSince }
    fabric := r.1
    out := s.out ++ r.2 }

/-- The dwell has passed without a break: entry into the state selected. The stages of Table 18.2 are taken as one act, since an
abandoned entry touches nothing (R462; log entry 21). -/
def dwellSt (s : State) : State :=
  if !ready s || s.power.ps != 0 || !moduleIdle s || nowNs s < s.power.idleSince + 1000 * s.power.dwellUs then s
  else if selectState s == 0 then s
  else enterLow (selectState s) s

/-- Exit time of a low state in ns (Table 18.1). -/
def exitNs (ps : Nat) : Nat := if ps == 2 then 320 else 32

/-- A tolerance comes into force (R460). One below the exit time of the state held is a wake; one raised to 320 or more in PS1 takes the
entry on into PS2, unless that state is skipped for the next departure (R459). A command wakes the module at its acceptance, so that it
meets a low state here only where it waited behind a fence. -/
def setTol (tol : Nat) (s : State) : State :=
  let s1 := { s with power := { s.power with tolNs := tol } }
  if s.power.ps != 0 && tol < exitNs s.power.ps then wakeUp (some 7) s1
  else if s.power.ps == 1 && s.power.tolNs < tol && 320 ≤ tol && fitsBefore s1 2 then enterLow 2 s1
  else s1

/-- `PWR_TOL_SET`: an operator keeps within the installer's bounds. -/
def pwrTolSetPart : Part := fun s x d =>
  let t := prm d 0 32
  let w := prm d 32 32
  let p := s.power
  if x.role == 1 && (t < p.tolMin || p.tolMax < t || w < p.dwellMin) then ansCode s 0x0801
  else ansOk (setTol t { s with power := { p with dwellUs := w } })

/-- `PWR_BOUNDS_SET` moves a tolerance outside the new bounds to the nearer one (R435). -/
def pwrBoundsSetPart : Part := fun s _ d =>
  let lo := prm d 0 32
  let hi := prm d 32 32
  let p := s.power
  if hi < lo then ansCode s 0x0105
  else
    let s1 := { s with power := { p with tolMin := lo, tolMax := hi, dwellMin := prm d 64 32 } }
    ansOk (if p.tolNs < lo || hi < p.tolNs then setTol (max lo (min hi p.tolNs)) s1 else s1)

def execPwrTolSet (d : Datagram) (s : State) : Host.Outcome State Fault Refusal := .next (ycp 0x0800 (.pwrTolSet d) pwrTolSetPart d s)
def execPwrBoundsSet (d : Datagram) (s : State) : Host.Outcome State Fault Refusal :=
  .next (ycp 0x0801 (.pwrBoundsSet d) pwrBoundsSetPart d s)

/-- A wake source ends PS1, PS2 or an entry, and restarts the dwell (R462, R463). -/
def wakeEventSt (source : Nat) (s : State) : State :=
  if !ready s || source == 0 || 7 < source then s else wakeUp (some source) s

/-- Exit begins 3,264 ns before a departure (R464). -/
def wakeLeadSt (s : State) : State :=
  match nextDeparture s with
  | none => s
  | some d => if s.power.ps != 0 && d ≤ (nowNs s + wakeLead) * 65536 then wakeUp (some 4) s else s

/-- A `WAKE` hold ends (R465). -/
def holdExpirySt (s : State) : State :=
  match s.power.holdEnd with
  | some t => if t ≤ nowNs s then { s with power := { s.power with holdEnd := none, idleSince := nowNs s } } else s
  | none => s

def execDwellExpiry (s : State) : Host.Outcome State Fault Refusal := .next (dwellSt s)
def execWakeEvent (source : Nat) (s : State) : Host.Outcome State Fault Refusal := .next (wakeEventSt source s)
def execCaravanWakeLead (s : State) : Host.Outcome State Fault Refusal := .next (wakeLeadSt s)
def execWakeHoldExpiry (s : State) : Host.Outcome State Fault Refusal := .next (holdExpirySt s)

/-! Operating points (R470 to R474, R540 to R544). -/

/-- The cap in force: lowered by 60 W per °C of inlet above 40 °C, up to 45 °C (R542). -/
def effectiveCap (capW inletC : Nat) : Nat := capW - 60 * (min inletC 45 - 40)

/-- Points that a die gives up for lost core-rail phases (R492). -/
def phaseLoss (p : Power) (die : Nat) : Nat := spGet 0 (3 * die) p.phasesLost

/-- The point that cap, heat and lost phases allow a die. -/
def allowedPoint (p : Power) (die : Nat) : Nat := min p.capPoint p.hotPoint - phaseLoss p die

/-- Both dies move to the points allowed, unless the rails are changing hands. -/
def applyPoints (s : State) : State :=
  if s.power.toCompat.isSome then s
  else movePoint 1 (allowedPoint s.power 1) (movePoint 0 (allowedPoint s.power 0) s)

/-- One evaluation of cap and thermal demand, every 100 µs (R472, R544). -/
def capEvalSt (r : Sensors) (s : State) : State :=
  if !ready s then s
  else
    let p := s.power
    let cap := effectiveCap p.capW r.inletC
    let cur := min p.capPoint p.hotPoint
    let above := decide (cap < r.powerW) || (p.reduced && decide (80000 < r.inputMa))
    let under := decide (20 * r.powerW ≤ 19 * cap) && !above
    let n := if under then p.underCap + 1 else 0
    let rise := decide (10 ≤ n)
    let p1 := { p with
      powerW := min r.powerW 0xFFFF
      capPoint := if above then cur - 1 else if rise then min 15 (p.capPoint + 1) else p.capPoint
      underCap := if rise then 0 else n
      hotPoint := if r.warnAny then cur - 1 else p.hotPoint
      thermal := p.thermal || r.warnAny
      hotHold := p.hotHold && r.warnAny
      idleSince := if p.hotHold && !r.warnAny then nowNs s else p.idleSince }
    applyPoints { s with power := p1 }

/-- The regulator reports a voltage. Within 5 mV of a raised target the frequency is set (R471); while rails change hands, both
dies at point 0 voltage complete the change (R474). -/
def settledSt (die milliV : Nat) (s : State) : State :=
  if 2 ≤ die then s
  else
    let p := s.power
    let t := dieTarget p die
    let v := voltOf s die t
    if v + 5 < milliV || milliV + 5 < v then s
    else
      let p1 := { setDiePoint p die t with avsWait := p.avsWait.filter (· != die) }
      match p.toCompat with
      | none => { s with power := p1 }
      | some m =>
        let h := (p.handover ++ [die]).eraseDups
        if h.length < 2 then { s with power := { p1 with handover := h } }
        else { s with power := { p1 with compat := m, toCompat := none, handover := [] } }

/-- A move up that the AVSBus regulator has not acknowledged within 10 ms: the lower frequency stays, and a fault is recorded
(R473). -/
def avsTimeoutSt (die : Nat) (s : State) : State :=
  if 2 ≤ die || !s.power.compat || dieTarget s.power die ≤ diePoint s.power die then s
  else
    addFault 12 12 (3 * die) 0 0xFFFF (pack [(0, 8, 3 * die)]) 8
      { s with power := { s.power with avsWait := (s.power.avsWait ++ [die]).eraseDups } }

/-- The voltage write is retried after 100 ms (R473). -/
def avsRetrySt (die : Nat) (s : State) : State :=
  if !s.power.avsWait.contains die then s
  else emit [.avsWrite die (voltOf s die (dieTarget s.power die))]
    { s with power := { s.power with avsWait := s.power.avsWait.filter (· != die) } }

/-- A rail fault of the external regulator is recorded (R473). -/
def pmbAlertSt (die : Nat) (s : State) : State :=
  if 2 ≤ die || !s.power.compat then s else addFault 12 12 (3 * die) 0 0xFFFF (pack [(0, 8, 3 * die)]) 8 s

/-- Warning and critical thresholds: die junction, HBM stack, DDR5 module, coolant outlet (Table 22.6). -/
def warnTemp (kind : Nat) : Nat := [95, 90, 85, 65].getD kind 0xFFFFFFFF
def criticalTemp (kind : Nat) : Nat := [105, 100, 95, 75].getD kind 0xFFFFFFFF

/-- A fault log entry that the manual calls for and gives no `EVENT`: a free value (log entry 6). -/
def addOpenEvent (kind scope phys logical : Nat) (s : State) : State :=
  let n := takeFree s
  addFault (Config.free n.1 % 256) kind scope phys logical 0 0 n.2

/-- A sensor crosses its warning threshold (R543): a wake, an entry, and thermal demand; in a low state PS0 is then held (R544). -/
def thermalWarnSt (kind index tempC : Nat) (s : State) : State :=
  if !ready s || tempC ≤ warnTemp kind then s
  else
    let low := s.power.ps != 0
    let s1 := wakeUp (some 5) s
    let s2 := { s1 with power := { s1.power with thermal := true, hotHold := s1.power.hotHold || low } }
    addOpenEvent (if kind == 1 then 9 else 0) 0 (if kind == 1 then index else 0) 0xFFFF s2

/-- Every sensor has been 5 °C below warning for 1 ms: thermal demand is released, and points rise under R472 (R543). -/
def thermalReleaseSt (s : State) : State :=
  let p := s.power
  if !p.thermal then s
  else { s with power := { p with thermal := false, capPoint := min p.capPoint p.hotPoint, hotPoint := 15, hotHold := false,
                                  idleSince := if p.hotHold then nowNs s else p.idleSince } }

/-- Input between 44 V and 48 V: points fall until the current is at or below 80 A; at 48 V or more the limit is lifted. The
limit also holds down to 42 V (Table 22.3). -/
def reducedCapSt (inputMv inputMa : Nat) (s : State) : State :=
  let s0 := { s with boot := { s.boot with inputMv := inputMv } }
  if !ready s || inputMv < 42000 then s
  else if 48000 ≤ inputMv then { s0 with power := { s.power with reduced := false } }
  else
    let p := { s.power with reduced := true }
    let p1 := if 80000 < inputMa then { p with capPoint := min p.capPoint p.hotPoint - 1, underCap := 0 } else p
    applyPoints { s0 with power := p1 }

def execPowerCapEval (r : Sensors) (s : State) : Host.Outcome State Fault Refusal := .next (capEvalSt r s)
def execVoltageSettled (die milliV : Nat) (s : State) : Host.Outcome State Fault Refusal := .next (settledSt die milliV s)
def execAvsTimeout (die : Nat) (s : State) : Host.Outcome State Fault Refusal := .next (avsTimeoutSt die s)
def execAvsRetry (die : Nat) (s : State) : Host.Outcome State Fault Refusal := .next (avsRetrySt die s)
def execPmbAlert (die _status : Nat) (s : State) : Host.Outcome State Fault Refusal := .next (pmbAlertSt die s)
def execThermalWarning (kind index tempC : Nat) (s : State) : Host.Outcome State Fault Refusal :=
  .next (thermalWarnSt kind index tempC s)
def execThermalRelease (s : State) : Host.Outcome State Fault Refusal := .next (thermalReleaseSt s)
def execReducedCap (inputMv inputMa : Nat) (s : State) : Host.Outcome State Fault Refusal := .next (reducedCapSt inputMv inputMa s)

end Sys2Proof.Machine
end

