-- ==== Sys2Proof/Machine/Admin.lean ====
section
/-! DEFINITION. Identity, capability, configuration, certificates, firmware, audit, accounting and the service window
(chapters 16 and 20). -/

namespace Sys2Proof.Machine

/-! Identity and capability. -/

def gradeC (s : State) : Bool := s.settings.grade == 3
def moduleId (s : State) : Nat := myId s.fabric

/-- `CAP_READ` reply (Table 16.2). -/
def capBody (s : State) : Nat :=
  let g := s.settings.grade
  pack [(0, 16, 1), (16, 16, 64), (32, 8, g), (40, 8, s.settings.mfgGrade), (48, 8, 32), (56, 8, 16), (64, 16, 256), (80, 8, 8),
        (88, 8, 4), (96, 8, if g == 3 then 0 else 2), (104, 8, 32), (112, 8, if g == 1 then 16 else 0),
        (120, 8, if g == 1 then 32 else 16), (128, 128, capWord g), (256, 16, moduleId s), (272, 1, b2n s.fabric.force.topo.isSome)]

def capReadPart : Part := fun s _ _ => ansBody s (capBody s) 64

/-- `IDENT_READ` reply (Table 16.3). -/
def identReadPart : Part := fun s _ _ =>
  let t := s.settings
  ansBody s (pack [(0, 128, t.serial), (128, 48, t.macH0), (176, 48, t.macH1), (224, 48, t.macM0), (288, 32, t.idE),
                   (320, 3072, t.idN)]) 432

/-- The running bank. -/
def runningBank (f : Firmware) : FwBank := if f.active == 0 then f.bankA else f.bankB

/-- The attestation report (Table 20.2). -/
def attestReport (s : State) (nonce : Nat) : Nat :=
  let f := s.firmware
  pack [(0, 16, 1), (16, 16, 256), (32, 8, s.settings.grade), (40, 8, s.settings.mfgGrade), (48, 1, f.active),
        (49, 1, b2n s.mirage.subStop), (50, 1, b2n s.security.windowEnd.isSome), (51, 1, b2n s.image.isSome),
        (64, 128, s.settings.serial), (192, 32, (runningBank f).version), (224, 32, f.floor), (256, 32, s.mirage.gen),
        (288, 16, moduleId s), (320, 256, (runningBank f).hash), (576, 256, s.audit.chain), (832, 64, s.audit.next - 1),
        (896, 64, nowNs s), (960, 64, (s.image.map (·.tag)).getD 0), (1024, 256, (s.image.map (·.hash)).getD 0),
        (1280, 256, nonce)]

def attestPart : Part := fun s _ d =>
  let r := attestReport s (prm d 0 256)
  ansBody s (r + ((Config.pssSign s.settings.idN (leBytes 256 r) % 2 ^ 3072) <<< 2048)) 640

def execCapRead (d : Datagram) (s : State) : Host.Outcome State Fault Refusal := .next (ycp 0x0100 (.capRead d) capReadPart d s)
def execIdentRead (d : Datagram) (s : State) : Host.Outcome State Fault Refusal :=
  .next (ycp 0x0101 (.identRead d) identReadPart d s)
def execAttest (d : Datagram) (s : State) : Host.Outcome State Fault Refusal := .next (ycp 0x0102 (.attest d) attestPart d s)

/-! Configuration. -/

/-- An IPv4-mapped source address. -/
def isMapped4 (ip : Nat) : Bool := ip >>> 32 == 0xFFFF
def isLinkLocal (ip : Nat) : Bool := ip >>> 118 == 0x3FA

/-- Sessions of a port whose module address a new configuration removes (R420). -/
def lostSessions (s : State) (port old new : Nat) : List Nat :=
  let v4 := bitAt old 3 && (!bitAt new 3 || bits old 64 32 != bits new 64 32)
  let v6 := bitAt old 2 && (!bitAt new 2 || bits old 128 128 != bits new 128 128)
  (s.sessions.live.filter (fun x => x.port == port &&
    (if isMapped4 x.ip then v4 else v6 && !isLinkLocal x.ip))).map (·.sid)

def cfgHostPortPart : Part := fun s _ d =>
  let p := prm d 0 2
  let bad := p == 3 || (p == 2 && prm d 4 1 == 1) || 128 < prm d 8 8 || 32 < prm d 32 8 ||
    prm d 64 32 >>> 28 == 0xE || prm d 128 128 >>> 120 == 0xFF
  if bad then ansCode s 0x0105
  else
    { ansOk { s with settings := { s.settings with hostPorts := s.settings.hostPorts.set p d.params } } with
      ends := lostSessions s p (portCfg s p) d.params }

def cfgYcpPart : Part := fun s _ d =>
  let u := prm d 0 16
  let t := prm d 32 32
  if t < 10 || 86400 < t then ansCode s 0x0105
  else
    let moved := u != 0 && u != s.settings.ycpUdp
    { ansOk { s with settings := { s.settings with ycpUdp := if u == 0 then s.settings.ycpUdp else u, idleS := t } } with
      ends := if moved then s.sessions.live.map (·.sid) else [] }

/-- A grade may be presented that is not above the manufactured one (R4): a lower grade has a higher code. -/
def gradeOk (mfg g : Nat) : Bool := mfg ≤ g && g ≤ 3

/-- Ports F16 to F31 follow the presented grade: on grades B and C they are not connected, so they go down and what they held is
discarded; presented again, those in use are to be trained (R4, R273). -/
def presentPorts (s : State) : State :=
  let n := if s.settings.grade == 1 then 32 else 16
  if n == s.fabric.present then s
  else
    { s with fabric := { s.fabric with
        present := n
        ports := s.fabric.ports.zipIdx.map (fun p => if p.2 < 16 then p.1
          else { p.1 with up := false, training := n == 32, queue := [], again := [], replay := [], quiet := false, wantQuiet := false }) } }

def cfgGradePart : Part := fun s _ d =>
  if s.run.active then ansCode s 0x0408
  else if !gradeOk s.settings.mfgGrade (prm d 0 8) then ansCode s 0x0105
  else if s.image.isSome then ansCode s 0x0302
  else ansOk (presentPorts { s with settings := { s.settings with grade := prm d 0 8 } })

def cfgReadPart : Part := fun s _ d =>
  if prm d 0 2 == 3 then ansCode s 0x0105
  else ansBody s (pack [(0, 256, portCfg s (prm d 0 2)), (256, 16, s.settings.ycpUdp), (288, 32, s.settings.idleS),
                        (320, 8, s.settings.grade)]) 72

def execCfgHostPort (d : Datagram) (s : State) : Host.Outcome State Fault Refusal :=
  .next (ycp 0x0200 (.cfgHostPort d) cfgHostPortPart d s)
def execCfgYcp (d : Datagram) (s : State) : Host.Outcome State Fault Refusal := .next (ycp 0x0201 (.cfgYcp d) cfgYcpPart d s)
def execCfgGrade (d : Datagram) (s : State) : Host.Outcome State Fault Refusal := .next (ycp 0x0202 (.cfgGrade d) cfgGradePart d s)
def execCfgRead (d : Datagram) (s : State) : Host.Outcome State Fault Refusal := .next (ycp 0x0203 (.cfgRead d) cfgReadPart d s)

/-! Certificates (R437, R506 to R508). -/

def tenSeconds : Nat := 10 * secondNs

/-- Enrol a whole DER certificate: the reply's code and the security state. -/
def enrolCert (s : State) (der : List Byte) : Nat × Security :=
  let sec := { s.security with staged := none }
  match Config.x509 der with
  | none => (0x0A01, sec)
  | some (role, key, nb, na) =>
    let fp := shaNat der
    if 2688 < der.length || role != 1 || (findCert s fp).isSome || 64 ≤ s.security.enrol.length then (0x0A01, sec)
    else
      (0, { sec with
        enrol := sec.enrol ++ [{ fp := fp, role := role, key := key, notBefore := nb, notAfter := na, revoked := false }]
        trustedDate := max sec.trustedDate nb })

def certEnrollPart : Part := fun s x d =>
  let len := prm d 16 16
  let data := (leBytes 1344 (prm d 64 10752)).take len
  let second := prm d 0 1 == 1
  let last := prm d 1 1 == 1
  if len == 0 || 1344 < len || (second && !last) then ansCode s 0x0105
  else
    let lead? : Option (List Byte) :=
      if !second then some []
      else match s.security.staged with
        | some c => if c.sid == x.sid && nowNs s ≤ c.time + tenSeconds then some c.data else none
        | none => none
    match lead? with
    | none => ansCode s 0x0105
    | some pre =>
      if !last then ansOk { s with security := { s.security with staged := some { sid := x.sid, time := nowNs s, data := data } } }
      else
        let (code, sec) := enrolCert s (pre ++ data)
        let s1 := { s with security := sec }
        if code != 0 then ansCode s1 code
        else { ansBody s1 (shaNat (pre ++ data)) 32 with events := [(6, shaNat (leBytes d.plen d.params))] }

/-- A staged part is discarded when its second part has not come within 10 s (R437). -/
def partTimeout (s : State) : State :=
  match s.security.staged with
  | some c => if c.time + tenSeconds < nowNs s then { s with security := { s.security with staged := none } } else s
  | none => s

def certRevokePart : Part := fun s x d =>
  let fp := prm d 0 256
  if x.fp == fp || !s.security.enrol.any (fun c => c.fp == fp) then ansCode s 0x0A01
  else
    { ansOk { s with security := { s.security with
        enrol := s.security.enrol.map (fun c => if c.fp == fp then { c with revoked := true } else c) } } with
      ends := (s.sessions.live.filter (fun y => y.fp == fp)).map (·.sid)
      events := [(6, shaNat (leBytes d.plen d.params))] }

def certEntry (s : State) (c : Cert) : List Byte :=
  leBytes 32 c.fp ++ leBytes 1 c.role ++ leBytes 1 (if c.revoked then 1 else if certExpired s c then 2 else 0) ++ leBytes 6 0

def certListPart : Part := fun s _ d =>
  let all := s.security.trust ++ s.security.enrol
  ansBytes s (leBytes 2 all.length ++ ((all.drop (prm d 0 16)).take 32).flatMap (certEntry s))

def execCertEnroll (d : Datagram) (s : State) : Host.Outcome State Fault Refusal :=
  .next (ycp 0x0A00 (.certEnroll d) certEnrollPart d s)
def execCertPartTimeout (s : State) : Host.Outcome State Fault Refusal := .next (partTimeout s)
def execCertRevoke (d : Datagram) (s : State) : Host.Outcome State Fault Refusal :=
  .next (ycp 0x0A01 (.certRevoke d) certRevokePart d s)
def execCertList (d : Datagram) (s : State) : Host.Outcome State Fault Refusal := .next (ycp 0x0A02 (.certList d) certListPart d s)

/-! Audit, fault log and accounting reads. -/

def auditReadPart : Part := fun s _ d =>
  let a := s.audit
  let start := max (prm d 0 64) (a.next - a.entries.length)
  if a.next ≤ prm d 0 64 then ansCode s 0x0A02
  else
    let es := (a.entries.drop (start - (a.next - a.entries.length))).take 10
    ansBytes s (leBytes 8 (start + es.length) ++ es.flatMap (leBytes 128))

def auditHeadPart : Part := fun s _ _ => ansBody s (pack [(0, 64, s.audit.next - 1), (64, 256, s.audit.chain)]) 40

/-- Whole entries within a byte budget. -/
def takeWhole : Nat → List FaultEntry → List FaultEntry
  | _, [] => []
  | budget, e :: r => if 32 + e.bodyLen ≤ budget then e :: takeWhole (budget - (32 + e.bodyLen)) r else []

def faultReadPart : Part := fun s _ d =>
  let es := takeWhole 1280 (s.faultLog.entries.filter (fun e => decide (prm d 0 32 ≤ e.seq)))
  let next := match es.getLast? with
    | some e => e.seq + 1
    | none => prm d 0 32
  ansBytes s (leBytes 4 next ++ es.flatMap faultBytes)

/-- The accounting record (Table 17.2). -/
def acctBody (a : Account) : Nat :=
  pack [(0, 16, 1), (16, 16, 64), (32, 32, a.sid), (64, 2, a.role), (66, 2, a.prio), (68, 1, b2n a.live), (96, 64, a.opened),
        (160, 32, a.commands), (192, 32, a.longOps), (224, 64, a.queueNs), (288, 32, a.preempts), (320, 32, a.preemptsCaused),
        (352, 64, a.lostNs), (416, 32, a.windowFull)]

def accountReadPart : Part := fun s x d =>
  let sid := if prm d 0 32 == 0 then x.sid else prm d 0 32
  if x.role == 1 && sid != x.sid then ansCode s 0x0201
  else
    match (s.sessions.live.map (·.acct) ++ s.sessions.ended.reverse).find? (fun a => a.sid == sid) with
    | none => ansCode s 0x0701
    | some a => ansBody s (acctBody a) 64

def execAuditRead (d : Datagram) (s : State) : Host.Outcome State Fault Refusal := .next (ycp 0x0A03 (.auditRead d) auditReadPart d s)
def execAuditHead (d : Datagram) (s : State) : Host.Outcome State Fault Refusal := .next (ycp 0x0A04 (.auditHead d) auditHeadPart d s)
def execFaultRead (d : Datagram) (s : State) : Host.Outcome State Fault Refusal := .next (ycp 0x0702 (.faultRead d) faultReadPart d s)
def execAccountRead (d : Datagram) (s : State) : Host.Outcome State Fault Refusal :=
  .next (ycp 0x0703 (.accountRead d) accountReadPart d s)

/-! Service window (R512). -/

/-- An operation that only a service window allows: a maker's export, a calibration, a manufacturing test. -/
def windowOnly (o : Op) : Bool := (o.opcode == 0x0306 && o.role == 3) || o.opcode == 0x0906 || o.opcode == 0x8000

/-- Operations that end with the window. -/
def windowOps (s : State) : List Op := s.sessions.ops.filter (fun o => windowOnly o && !opFinal o.state)

/-- The window ends: its operations stop at their next boundary. -/
def closeWindow (s : State) : State :=
  abortAll (windowOps s) { s with security := { s.security with windowEnd := none } }

def minuteNs : Nat := 60 * secondNs

def serviceWindowPart : Part := fun s _ d =>
  let m := prm d 0 16
  if 1440 < m then ansCode s 0x0105
  else if m == 0 then
    match s.security.windowEnd with
    | none => ansOk s
    | some _ =>
      { ansOk { s with security := { s.security with windowEnd := none } } with
        events := [(7, nowNs s)]
        aborts := (windowOps s).map (fun o => (o.sid, o.handle)) }
  else
    let e := nowNs s + m * minuteNs
    { ansOk { s with security := { s.security with windowEnd := some e } } with events := [(7, e)] }

/-- The window's end time has come. -/
def windowEndSt (s : State) : State :=
  match s.security.windowEnd with
  | none => s
  | some e => if e ≤ nowNs s then closeWindow (auditModule 7 e s) else s

def execServiceWindow (d : Datagram) (s : State) : Host.Outcome State Fault Refusal :=
  .next (ycp 0x0904 (.serviceWindow d) serviceWindowPart d s)
def execServiceWindowEnd (s : State) : Host.Outcome State Fault Refusal := .next (windowEndSt s)

/-- A service window is open. -/
def windowOpen (s : State) : Bool :=
  match s.security.windowEnd with
  | none => false
  | some e => decide (nowNs s < e)

/-! Firmware (R438, R513, R514). -/

/-- Certificates of a trust payload: records of a 4-byte length and DER bytes. -/
def trustRecords : Nat → List Byte → List (List Byte)
  | 0, _ => []
  | n + 1, l =>
    let k := ofLe (l.take 4)
    ((l.drop 4).take k) :: trustRecords n (l.drop (4 + k))

/-- The first bytes of the trust payload of an image. -/
def trustHead (b : List Byte) (h : Nat) : Nat := ofLe ((b.drop (512 + bits h 128 32)).take 16)

/-- A firmware image read from HBM: the bank it makes, or the code that refuses it. -/
def fwParse (s : State) (base len : Nat) : Except Nat FwBank :=
  if 384 * 2 ^ 20 < len || tierSize 1 < base + len || len < 896 then .error 0x0105
  else if (badIn s.memory 1 base len).isSome then .error 0x0601
  else
    let b := memRead s.memory.hbm base len
    let h := ofLe (b.take 128)
    let body := bits h 128 32
    let trust := bits h 160 32
    let total := 512 + body + trust
    if 1 < bits h 0 16 || (trust != 0 && total + 384 ≤ len && 1 < bits (trustHead b h) 0 16) then .error 0x0104
    else if bits h 0 16 != 1 || bits h 16 16 != 512 || len < total + 384 || bits h 32 32 < bits h 64 32 then .error 0x0105
    else
      let key := (b.drop 128).take 384
      if shaNat key != Config.romKeyHash (bits h 96 2) then .error 0x0B01
      else if !Config.pssVerify (ofLe key) (b.take total) (ofLe ((b.drop total).take 384)) then .error 0x0B01
      else if bits h 32 32 < s.firmware.floor then .error 0x0B02
      else
        let tp := (b.drop (512 + body)).take trust
        .ok { valid := true, writing := false, version := bits h 32 32, floorSet := bits h 64 32, keyIndex := bits h 96 2,
              buildDate := bits h 192 32, hash := shaNat (b.take (512 + body)),
              trust := if trust == 0 then [] else trustRecords (bits (ofLe (tp.take 16)) 32 16) (tp.drop 16),
              hasTrust := trust != 0, failedBoot := false }

def fwInstallPart : Part := fun s _ d =>
  if s.image.isSome then ansCode s 0x0302
  else
    match fwParse s (prm d 0 48) (prm d 64 48) with
    | .error c => ansCode s c
    | .ok _ =>
      let f := s.firmware
      let f1 := if f.active == 0 then { f with bankB := { f.bankB with valid := false, writing := true } }
        else { f with bankA := { f.bankA with valid := false, writing := true } }
      ansLong { s with firmware := f1 } 2

/-- The inactive bank is written and selected for the next cold reset. -/
def fwInstallDone (sid h : Nat) (s : State) : State :=
  match findOp s.sessions sid h with
  | none => s
  | some o =>
    if o.opcode != 0x0B00 || opFinal o.state || o.aborting then s
    else
      match fwParse s (bits o.params 0 48) (bits o.params 64 48) with
      | .error c => finishOp sid h 5 c s
      | .ok b =>
        let f := s.firmware
        let f1 := if f.active == 0 then { f with bankB := b, next := 1 } else { f with bankA := b, next := 0 }
        let kib := ceilDiv (bits o.params 64 48) 1024
        finishOp sid h 4 0 { s with
          firmware := f1
          sessions := modOp (dropWindowKeys s.sessions) sid h (setProgress kib) }

def fwActivatePart : Part := fun s _ d =>
  let b := if prm d 0 1 == 0 then s.firmware.bankA else s.firmware.bankB
  if !b.valid || b.writing then ansCode s 0x0B01
  else ansOk { s with firmware := { s.firmware with next := prm d 0 1 } }

def fwReadPart : Part := fun s _ _ =>
  let f := s.firmware
  ansBody s (pack [(0, 1, f.active), (1, 1, f.next), (64, 32, f.bankA.version), (96, 32, f.bankB.version), (128, 32, f.floor)]) 32

def mfgTestPart : Part := fun s _ _ =>
  if !windowOpen s then ansCode s 0x0203
  else if s.image.isSome then ansCode s 0x0302
  else ansLong s 2

def mfgTestDone (sid h : Nat) (s : State) : State :=
  match findOp s.sessions sid h with
  | none => s
  | some o =>
    if o.opcode != 0x8000 || opFinal o.state || o.aborting then s
    else finishOp sid h 4 0 { s with sessions := modOp s.sessions sid h (setProgress 100) }

def execFwInstall (d : Datagram) (s : State) : Host.Outcome State Fault Refusal := .next (ycp 0x0B00 (.fwInstall d) fwInstallPart d s)
def execFwInstallComplete (sid handle : Nat) (s : State) : Host.Outcome State Fault Refusal := .next (fwInstallDone sid handle s)
def execFwActivate (d : Datagram) (s : State) : Host.Outcome State Fault Refusal :=
  .next (ycp 0x0B01 (.fwActivate d) fwActivatePart d s)
def execFwRead (d : Datagram) (s : State) : Host.Outcome State Fault Refusal := .next (ycp 0x0B02 (.fwRead d) fwReadPart d s)
def execMfgTest (d : Datagram) (s : State) : Host.Outcome State Fault Refusal := .next (ycp 0x8000 (.mfgTest d) mfgTestPart d s)
def execMfgTestComplete (sid handle : Nat) (s : State) : Host.Outcome State Fault Refusal := .next (mfgTestDone sid handle s)

/-! Telemetry (Table 16.13). -/

/-- A telemetry block: its head and its fields as bytes (R434). -/
def telemBlock (index : Nat) (fields : List Byte) : List Byte :=
  leBytes 8 (pack [(0, 16, 1), (16, 16, 8 + fields.length), (32, 32, index)]) ++ fields

def counts (l : List Nat) : List Byte := l.flatMap (leBytes 8)

/-- A compression counter record (Table 13.8). -/
def cmpRecord (port dir : Nat) (p : Port) : List Byte :=
  let c := if dir == 0 then p.rxc else p.txc
  leBytes 64 (pack [(0, 16, 1), (16, 16, 64), (32, 5, port), (37, 1, dir), (64, 64, c.uBytes), (128, 64, c.wBytes),
    (192, 32, c.coded), (224, 32, c.stored), (256, 32, c.recoded), (288, 32, c.decErr), (320, 16, if dir == 1 then p.sendGen.getD 0 else 0),
    (336, 16, p.slotGen.getD 0 0), (352, 16, p.slotGen.getD 1 0), (368, 1, b2n (p.slotValid.getD 0 false)),
    (369, 1, b2n (p.slotValid.getD 1 false))])

/-- The fields of a block, or the code that refuses its index. -/
def telemFields (s : State) (block i : Nat) : Except Nat (List Byte) :=
  match block with
  | 1 => match getPort s.fabric i with
    | none => .error 0x0105
    | some p => if s.fabric.present ≤ i then .error 0x0301 else .ok (counts [p.discards, p.badFrames, p.retries, p.resendCount, p.failures, p.laneSubs, p.noRoute, p.duplicates,
                             p.substitutions])
  | 2 => match getPort s.fabric (i / 2) with
    | none => .error 0x0105
    | some p => if s.fabric.present ≤ i / 2 then .error 0x0301 else .ok (cmpRecord (i / 2) (i % 2) p)
  | 3 => match s.host.ports[i]? with
    | none => .error 0x0105
    | some p => .ok (counts [p.ycpDiscards, p.accessErrors, p.naksSent, p.cnpsSent, p.cnpsReceived, p.fedDiscards])
  | 4 => match s.image with
    | none => .error 0x0407
    | some im =>
      if i == 0 || im.descs.length < i then .error 0x0105
      else .ok (counts [spGet 0 i s.scales.replays, spGet 0 i s.scales.nonfinite, spGet 0 i s.scales.saturated])
  | 5 => if 32 ≤ i then .error 0x0105
    else .ok (counts [spGet 0 i s.memory.corrected, b2n (s.repair.degraded.any (fun p => p.1 / 4 == i))])
  | 6 => if i != 0 then .error 0x0105
    else .ok (counts [s.scales.formatErrors, s.scales.extraWarnings, s.scales.shortResets])
  | 7 => if i != 0 then .error 0x0105
    else .ok (counts [s.time.state, nowNs s, ofSigned 64 (s.time.offset / 4096), s.time.changes])
  | 8 => if 16 ≤ i then .error 0x0105
    else
      let l := spGet [] i s.federation.peers
      let best := l.foldl (fun (b : Option (Int × Int)) p => match b with
        | none => some p
        | some q => if p.2 < q.2 then some p else some q) none
      let (o, r) := best.getD (0, 0)
      .ok (counts [ofSigned 64 o, ofSigned 64 r])
  | 9 => if i != 0 then .error 0x0105 else .ok (counts [s.ckpt.completed, s.ckpt.lastStep])
  | _ => .error 0x0105

def telemReadPart : Part := fun s _ d =>
  match telemFields s (prm d 0 8) (prm d 32 32) with
  | .error c => ansCode s c
  | .ok l => ansBytes s (telemBlock (prm d 32 32) l)

def execTelemRead (d : Datagram) (s : State) : Host.Outcome State Fault Refusal := .next (ycp 0x0700 (.telemRead d) telemReadPart d s)

end Sys2Proof.Machine
end

