-- ==== Sys2Proof/Machine/Repair.lean ====
section
/-! DEFINITION. Faults and repair: substitution, the haboob condition, memory repair, self-tests, calibration and the mirage map's
commands (chapters 10 and 19). -/

namespace Sys2Proof.Machine

/-! Faults and substitution (R481 to R485, R497). -/

/-- The spare for a part: the group's parity bank for a scratchpad bank (R489), the other engine for a transfer engine (R488),
else the lowest-numbered free spare in scope. -/
def spareFor (m : Sp (Nat × Nat)) (k : Nat) : Option Nat :=
  if partKind k == 8 then
    (scopeParts 8 (partScope k)).find? (fun j => (partOf m j).2 == 3 && (partOf m j).1 == (partOf m k).1 / 16)
  else freeSpare m k

/-- The logical part that a physical one serves, named module-wide for units. -/
def logicalOf (s : State) (k : Nat) : Nat := unitName (partKind k) (partScope k) (partIn s k).1

/-- The entries of a failed unit that have nothing in the commit buffer are issued again, in queue order; those whose results
are whole there still commit (R484, R485, R487). -/
def replayUnit (kind unit : Nat) (s : State) : State :=
  match queueOf s kind unit with
  | none => s
  | some (qi, _, p) =>
    let lost := (flightOf s kind unit).filter (fun i => !i.done)
    let gone := fun (i : InFlight) => i.kind == kind && i.unit == unit && !i.done
    { s with
      run := { s.run with
        queues := s.run.queues.set qi { p with again := lost.map (·.qidx) ++ p.again }
        inflight := s.run.inflight.filter (fun i => !gone i)
        threads := s.run.threads.filter (fun t => !lost.any (fun i => i.thread == t.2.thread))
        lends := s.run.lends.filter (fun l => !(l.1 == kind && l.2.1 == unit)) }
      engines := if kind == 1 then (match spGet? unit s.engines with
        | some e => spSet unit { e with live := none } s.engines
        | none => s.engines) else s.engines
      kv := { s.kv with pins := s.kv.pins.filter (fun p => !lost.any (fun i => i.thread == p.thread)) } }

/-- A part that fails with nothing in its place: the running command fails with 0x0904 (R483). While the haboob condition stands
operations are held and the substitution is pending (R497 to R499). -/
def unreplaced (k : Nat) (s : State) : State :=
  let kind := partKind k
  let l := (partIn s k).1
  let name := logicalOf s k
  let s1 := addFault 2 kind (partScope k) (partPhys k) l (pack [(0, 16, 0x0904)]) 8 s
  let s2 := changeMap (fun m => failPart m k) s1
  let s3 := { s2 with repair := { s2.repair with unsub := s2.repair.unsub ++ [(kind, name)] } }
  if s.repair.haboob then { s3 with repair := { s3.repair with pending := s3.repair.pending ++ [(kind, partScope k, l)] } }
  else failRun 0x0904 s3

/-- A stack that takes a lost one's place holds zeros with a valid code throughout (R491). -/
def zeroStack (stack : Nat) (s : State) : State :=
  let mm := s.memory
  { s with
    memory := { mm with hbm := mm.hbm.filter (fun c => stackOfHbm c.1 != stack)
                        badHbm := mm.badHbm.filter (fun w => stackOfHbm (512 * w) != stack)
                        lostGroups := mm.lostGroups.filter (fun g => g.1 != stack)
                        rewritten := mm.rewritten.filter (fun k => stackOfHbm (512 * k) != stack) }
    repair := { s.repair with degraded := s.repair.degraded.filter (fun d => d.1 != stack)
                              rebuilding := s.repair.rebuilding.filter (fun d => d.1 != stack)
                              migrating := s.repair.migrating.filter (fun d => d.1 != stack) } }

/-- What a part that takes another's place begins with: a unit replays, a matrix engine waits for the WGB, a stack holds zeros (R485,
R486, R491). -/
def takesPlace (kind name : Nat) (s : State) : State :=
  if kind == 9 then zeroStack name s
  else if 7 < kind then s
  else
    let s1 := replayUnit kind name s
    if kind == 1 then { s1 with repair := { s1.repair with wgbCopy := (s1.repair.wgbCopy ++ [name]).eraseDups } } else s1

/-- A spare takes a failed part's logical index (R481): entry 1, with the interruption a free value, and the replay of a unit's
entries. A spare matrix engine first receives the WGB (R486). -/
def replaced (k spare : Nat) (s : State) : State :=
  let kind := partKind k
  let l := (partIn s k).1
  let name := logicalOf s k
  let n := takeFree s
  let s1 := addFault 1 kind (partScope k) (partPhys k) l (pack [(0, 16, partPhys spare), (32, 32, Config.free n.1)]) 8 n.2
  takesPlace kind name (changeMap (fun m => if kind == 7 then failPart m k else replacePart m k spare) s1)

/-- Faults counted within the last 1,000,000,000 ns (R497). -/
def recentFaults (s : State) : List (Nat × Nat) := s.repair.faultTimes.filter (fun t => decide (nowNs s < t.1 + 1000000000))

/-- A fault is counted with the number that its log entry takes. -/
def countFault (s : State) : State :=
  { s with repair := { s.repair with faultTimes := recentFaults s ++ [(nowNs s, s.faultLog.next + 1)] } }

/-- Operations in progress are held at their next tile-thread boundary (R497). -/
def holdOps (ss : Sessions) : Sessions :=
  { ss with ops := ss.ops.map (fun o => if o.state == 2 || o.state == 3 then { o with state := 3, haboobHeld := true } else o) }

/-- The haboob condition rises: `SUB_STOP`, entry 9, audit event 9, and every operation held (R497, Table 20.5). -/
def raiseHaboob (s : State) : State :=
  let ts := s.repair.faultTimes
  let body := pack [(0, 32, ((ts[ts.length - 5]?).map (·.2)).getD 0), (32, 32, ((ts.getLast?).map (·.2)).getD 0)]
  let s1 := addEvent 9 body 16 { s with
    mirage := { s.mirage with subStop := true, dirty := true, written := s.mirage.written.map (fun w => { w with subStop := true }) }
    repair := { s.repair with haboob := true }
    sessions := holdOps s.sessions }
  auditModule 9 1 s1

/-- A fault that causes an action of Table 19.4 is counted; the fifth within the second raises the haboob condition, which stands already
when the action is taken (R497). -/
def countedFault (act : State → State) (s : State) : State :=
  let s1 := countFault s
  if !s.repair.haboob && 5 ≤ s1.repair.faultTimes.length then raiseHaboob (act { s1 with repair := { s1.repair with haboob := true } })
  else act s1

/-- A part in service fails (R481, R497). Under the haboob condition, or with substitution stopped, it is not substituted. -/
def partFails (k : Nat) (s : State) : State :=
  let v := partIn s k
  if v.2 == 1 || v.2 == 3 then
    changeMap (fun m => failPart m k) (addFault 2 (partKind k) (partScope k) (partPhys k) 0xFFFF 0 8 s)
  else if v.2 != 0 && v.2 != 4 then s
  else
    countedFault (fun t =>
      if t.repair.haboob || subStopped t then unreplaced k t
      else
        match (if partKind k == 7 then (scopeParts 7 0).find? (fun j => j != k && (partIn t j).2 == 0) else spareFor t.mirage.entries k) with
        | none => unreplaced k t
        | some sp => replaced k sp t) s

/-- A fault detected on a unit of kinds 1 to 7 (Table 19.4). -/
def unitFaultSt (kind scope phys : Nat) (s : State) : State :=
  if !ready s || kind == 0 || 7 < kind || kindScopes kind ≤ scope || (kindCount kind scope).2 ≤ phys then s
  else partFails (partKey kind scope phys) s

/-- A unit that holds issued work makes no progress for 2 µs: it counts as faulty (R481). -/
def noProgressSt (kind scope phys : Nat) (s : State) : State :=
  let k := partKey kind scope phys
  if (flightOf s kind (logicalOf s k)).isEmpty then s else unitFaultSt kind scope phys s

/-- The spare's WGB holds the failed engine's slots; it may issue (R486). -/
def wgbCopied (me : Nat) (s : State) : State :=
  { s with repair := { s.repair with wgbCopy := s.repair.wgbCopy.filter (· != me) } }

def execUnitFaultDetected (kind scope phys : Nat) (s : State) : Host.Outcome State Fault Refusal := .next (unitFaultSt kind scope phys s)
def execNoProgressTimeout (kind scope phys : Nat) (s : State) : Host.Outcome State Fault Refusal := .next (noProgressSt kind scope phys s)
def execWgbCopyComplete (me : Nat) (s : State) : Host.Outcome State Fault Refusal := .next (wgbCopied me s)

/-! Scratchpad banks (R489). -/

/-- Substitution has stopped, and no haboob condition stands: degraded service is not entered either (R498, R499). -/
def repairStopped (s : State) : Bool := subStopped s && !s.repair.haboob

/-- A logical bank fails: service from the group's parity, and a rebuild. A bank whose group has no parity, or whose parity serves another
bank of the group, is not replaced (R482, R489). -/
def bankFails (field bank : Nat) (s : State) : State :=
  match servedBy s 8 field bank with
  | none => s
  | some k =>
    if !ready s || s.repair.bankRebuild.contains (field, bank) then s
    else
      let parity := !s.repair.bankRebuild.any (fun b => b.1 == field && b.2 / 16 == bank / 16) && (spareFor s.mirage.entries k).isSome
      countedFault (fun t =>
        if !parity || repairStopped t then unreplaced k t
        else
          let t1 := addFault 3 8 field (partPhys k) bank 0 0 t
          { t1 with repair := { t1.repair with bankRebuild := t1.repair.bankRebuild ++ [(field, bank)] } }) s

/-- The duration of a rebuild, in µs: a free value (log entry 7). -/
def doneEntry (k l : Nat) (s : State) : State :=
  let n := takeFree s
  addFault 4 (partKind k) (partScope k) (partPhys k) l (Config.free n.1 % 2 ^ 32) 8 n.2

/-- The rebuilt parity bank takes the failed bank's logical index. Rebuilds wait while substitution is stopped (R498, R499). -/
def bankRebuilt (field bank : Nat) (s : State) : State :=
  if !s.repair.bankRebuild.contains (field, bank) || subStopped s then s
  else
    let s0 := { s with repair := { s.repair with bankRebuild := s.repair.bankRebuild.filter (· != (field, bank)) } }
    match servedBy s 8 field bank with
    | none => s0
    | some k =>
      match spareFor s.mirage.entries k with
      | none => s0
      | some sp => changeMap (fun m => replacePart m k sp) (doneEntry sp bank s0)

def execBankFailure (field bank : Nat) (s : State) : Host.Outcome State Fault Refusal := .next (bankFails field bank s)
def execBankRebuildComplete (field bank : Nat) (s : State) : Host.Outcome State Fault Refusal := .next (bankRebuilt field bank s)

/-! HBM pseudo-channels and stacks (R255 to R258, R490, R491). -/

/-- Physical stack that serves a logical one. -/
def physStack (s : State) (l : Nat) : Option Nat := (servedBy s 9 0 l).map partPhys

/-- A logical pseudo-channel of a logical stack fails: degraded decoding, and a rebuild into a free spare. A second loss in one
code group leaves its code words uncorrectable (R256). -/
def channelFails (stack pc : Nat) (s : State) : State :=
  match physStack s stack with
  | none => s
  | some p =>
    match servedBy s 10 p pc with
    | none => s
    | some k =>
      if !ready s || s.repair.degraded.contains (stack, pc) then s
      else
        countedFault (fun s =>
        if repairStopped s then unreplaced k s
        else
        let again := s.repair.degraded.any (fun d => d.1 == stack && d.2 / 17 == pc / 17)
        let s1 := addFault 3 10 p (partPhys k) pc 0 0 s
        let spare := if again then none else (scopeParts 10 p).find? (fun j => (partIn s j).2 == 1 &&
          !s.repair.rebuilding.any (fun r => r.1 == stack && r.2.2 == partPhys j))
        let reb := match spare with
          | some j => s1.repair.rebuilding ++ [(stack, pc, partPhys j)]
          | none => s1.repair.rebuilding
        { s1 with
          repair := { s1.repair with degraded := s1.repair.degraded ++ [(stack, pc)], rebuilding := reb }
          memory := if again && !s1.memory.lostGroups.contains (stack, pc / 17) then
              { s1.memory with
                lostGroups := s1.memory.lostGroups ++ [(stack, pc / 17)]
                rewritten := s1.memory.rewritten.filter (fun k => !(stackOfHbm (512 * k) == stack && groupOfHbm (512 * k) == pc / 17)) }
            else s1.memory }) s

/-- The rebuild ends: the spare takes the failed pseudo-channel's place, and degraded decoding ends (R257). -/
def channelRebuilt (stack pc : Nat) (s : State) : State :=
  if subStopped s then s
  else
    match s.repair.rebuilding.find? (fun r => r.1 == stack && r.2.1 == pc), physStack s stack with
    | some r, some p =>
      match servedBy s 10 p pc with
      | none => s
      | some k =>
        let s1 := doneEntry (partKey 10 p r.2.2) pc s
        let s2 := changeMap (fun m => replacePart m k (partKey 10 p r.2.2)) s1
        { s2 with repair := { s2.repair with degraded := s2.repair.degraded.filter (· != (stack, pc)),
                                             rebuilding := s2.repair.rebuilding.filter (· != r) } }
    | _, _ => s

/-- A stack meets a condition of R490. Its fourth spare is used once none is free and one at least serves. -/
def dueToMigrate (s : State) (stack : Nat) : Bool :=
  match physStack s stack with
  | none => false
  | some p =>
    let free := (scopeParts 10 p).filter (fun j => (partIn s j).2 == 1)
    let used := (scopeParts 10 p).filter (fun j => 68 ≤ partPhys j && (partIn s j).2 == 0)
    decide (10000 < ((recentCorrected s stack).map (·.2)).foldl (· + ·) 0) ||
    (free.isEmpty && (s.repair.degraded.any (fun d => d.1 == stack) || !used.isEmpty))

/-- Copying to the die's spare stack begins; the stack's entry has state 4. It waits while substitution is stopped (R498, R499). -/
def migrateStart (stack : Nat) (s : State) : State :=
  match servedBy s 9 0 stack with
  | none => s
  | some k =>
    if !ready s || subStopped s || s.repair.migrating.any (fun m => m.1 == stack) || !dueToMigrate s stack then s
    else
      match freeSpare s.mirage.entries k with
      | none => s
      | some sp =>
        let s1 := changeMap (fun m => setPart m k (stack, 4)) s
        { s1 with repair := { s1.repair with migrating := s1.repair.migrating ++ [(stack, partPhys sp)] } }

/-- The spare stack takes the logical stack, and the old one is marked failed (R258, R490). -/
def migrateDone (stack : Nat) (s : State) : State :=
  match s.repair.migrating.find? (fun m => m.1 == stack), servedBy s 9 0 stack with
  | some m, some k =>
    if subStopped s then s
    else
      let s1 := doneEntry (partKey 9 0 m.2) stack s
      let s2 := changeMap (fun e => replacePart e k (partKey 9 0 m.2)) s1
      { s2 with
        repair := { s2.repair with migrating := s2.repair.migrating.filter (· != m)
                                   degraded := s2.repair.degraded.filter (fun d => d.1 != stack)
                                   rebuilding := s2.repair.rebuilding.filter (fun d => d.1 != stack)
                                   corrRecent := spDel stack s2.repair.corrRecent } }
  | _, _ => s

/-- First and last element of plain descriptor j with bytes on a stack, in either half. -/
def stackSpan (e : Env) (j stack : Nat) : Option (Nat × Nat) :=
  let d := descOf e.im j
  let on := (List.range (elemCount d)).filter (fun i => (if doubled e.im j then [0, 1] else [0]).any (fun half =>
    match elemAddr e d half i with
    | none => false
    | some a =>
      match translate e.mem e.im.regions 0 (e.im.regions.length + 1) a (unitSize d) with
      | .error _ => false
      | .ok ps => ps.any (fun p => p.1 == 1 && (stackOfHbm p.2.1 == stack || stackOfHbm (p.2.1 + p.2.2 - 1) == stack))))
  match on.head?, on.getLast? with
  | some a, some b => some (a, b)
  | _, _ => none

/-- Memory-error records that cover every descriptor with bytes on a lost stack (R491, Table 10.4). -/
def stackRecords (s : State) (stack : Nat) : List Nat :=
  match envOf s with
  | none => []
  | some e => ((List.range e.im.descs.length).map (· + 1)).filterMap (fun j =>
      let d := descOf e.im j
      if dKind d != 0 then none
      else (stackSpan e j stack).map (fun r =>
        pack [(0, 16, 1), (16, 16, 32), (32, 2, 1), (40, 8, stack), (64, 32, dTid d), (96, 48, r.1), (144, 48, r.2),
              (192, 32, stepInForce s), (224, 32, 0xFFFFFFFF)]))

/-- Every operation of a list that is in progress fails with a code; one in `IDLE` or `QUEUED` is in progress too (R416). -/
def failOps (code : Nat) : List Op → State → State
  | [], s => s
  | o :: r, s =>
    failOps code r (if opFinal o.state then s
      else if o.opcode == 0x0403 && s.run.active then failRun code s
      else finishOp o.sid o.handle 5 code s)

/-- A whole stack is lost (R491). While substitution is stopped no spare takes its place (R498). What nothing replaces cannot be read. -/
def stackLost (stack : Nat) (s : State) : State :=
  match servedBy s 9 0 stack with
  | none => s
  | some k =>
    if !ready s then s
    else
      let recs := stackRecords s stack
      let s1 := failOps 0x0601 s.sessions.ops s
      let s2 := recs.foldl (fun t r => addEvent 5 r 32 t) s1
      match (if subStopped s then none else freeSpare s.mirage.entries k) with
      | none =>
        let s3 := unreplaced k s2
        { s3 with memory := { s3.memory with
            lostGroups := s3.memory.lostGroups.filter (fun g => g.1 != stack) ++ (List.range 4).map (fun g => (stack, g))
            rewritten := s3.memory.rewritten.filter (fun w => stackOfHbm (512 * w) != stack) } }
      | some sp =>
        let n := takeFree s2
        let s3 := addFault 1 9 0 (partPhys k) stack (pack [(0, 16, partPhys sp), (32, 32, Config.free n.1)]) 8 n.2
        zeroStack stack (changeMap (fun m => replacePart m k sp) s3)

/-- A DDR5 channel stops answering: its die's half of the tier leaves service, and the log records the channel (R261). -/
def channelOut (channel : Nat) (s : State) : State :=
  let die := channel / 8
  if 16 ≤ channel || s.settings.grade != 1 then s
  else
    let s1 := { s with memory := { s.memory with ddrOut := (s.memory.ddrOut ++ [die]).eraseDups } }
    addFault 2 0 die channel 0xFFFF (pack [(0, 16, 0x0306)]) 8 s1

/-- A channel stops answering in service. -/
def ddrFails (channel : Nat) (s : State) : State := if !ready s then s else channelOut channel s

/-- A regulator phase is switched off and the rail's spare takes its share; a core rail short of phases falls one point per phase on its die
(R492). -/
def phaseOff (rail phase : Nat) (s : State) : State :=
  let k := partKey 12 rail phase
  let s1 := addFault 12 12 rail phase (partIn s k).1 (pack [(0, 8, rail), (8, 8, phase)]) 8 s
  match (if (partIn s k).2 == 0 then freeSpare s.mirage.entries k else none) with
  | some sp => changeMap (fun m => replacePart m k sp) s1
  | none =>
    let s2 := changeMap (fun m => failPart m k) s1
    if (partIn s k).2 == 0 then
      applyPoints { s2 with power := { s2.power with phasesLost := spMod 0 rail (· + 1) s2.power.phasesLost } }
    else s2

/-- A regulator phase out of limits. Phase substitution goes on under the haboob condition (R498). -/
def phaseFails (rail phase : Nat) (s : State) : State :=
  let k := partKey 12 rail phase
  if !ready s || 6 ≤ rail || (railPhases rail).2 ≤ phase || (partIn s k).2 == 2 then s
  else
    countedFault (phaseOff rail phase) s

def execPseudoChannelFailure (stack pc : Nat) (s : State) : Host.Outcome State Fault Refusal := .next (channelFails stack pc s)
def execPseudoChannelRebuildDone (stack pc : Nat) (s : State) : Host.Outcome State Fault Refusal := .next (channelRebuilt stack pc s)
def execStackMigrationStart (stack : Nat) (s : State) : Host.Outcome State Fault Refusal := .next (migrateStart stack s)
def execStackMigrationComplete (stack : Nat) (s : State) : Host.Outcome State Fault Refusal := .next (migrateDone stack s)
def execStackLoss (stack : Nat) (s : State) : Host.Outcome State Fault Refusal := .next (stackLost stack s)
def execDdr5ChannelFailure (channel : Nat) (s : State) : Host.Outcome State Fault Refusal := .next (ddrFails channel s)
def execRegulatorPhaseFault (rail phase : Nat) (s : State) : Host.Outcome State Fault Refusal := .next (phaseFails rail phase s)

/-! Scrubbing and tests (R259, R494 to R496). -/

/-- A correctable code word is counted on its stack (R256). -/
def countCorrected (stack : Nat) (s : State) : State := addCorrected stack 1 s

/-- A unit cannot be read: it stays failed until a write covers it (R262). -/
def markBad (tier k : Nat) (s : State) : State :=
  { s with memory := setBad s.memory tier ((badUnits s.memory tier ++ [k]).eraseDups) }

/-- One read of the background scrub, of DDR5 on grade A alone (R259). It pauses in PS2 (R456). A single-bit error of the scratchpad is
corrected and counted (R260). An uncorrectable unit leaves a record with no thread (R263). -/
def scrubSt (tier addr : Nat) (r : ScrubResult) (s : State) : State :=
  if !ready s || s.power.ps == 2 || 2 < tier || tierSize tier ≤ addr || (tier == 2 && s.settings.grade != 1) then s
  else
    match r with
    | .clean => s
    | .corrected =>
      if tier == 1 then countCorrected (stackOfHbm addr) s
      else if tier == 0 then { s with memory := { s.memory with spadCorrected := tick64 s.memory.spadCorrected } }
      else s
    | .uncorrectable => addMemError tier (addr / unitBytes tier) 0xFFFFFFFF (markBad tier (addr / unitBytes tier) s)

/-- A part that a test finds is substituted as in service (R494). Only faults in service count toward the haboob condition: DEDUCED (log
entry 100). -/
def testFails (k : Nat) (s : State) : State :=
  let t := s.repair.faultTimes
  let s0 := { s with repair := { s.repair with faultTimes := [] } }
  let s1 := if partKind k == 12 then (if (partIn s k).2 == 2 then s0 else phaseOff (partScope k) (partPhys k) s0) else partFails k s0
  { s1 with repair := { s1.repair with faultTimes := t } }

/-- The parts that a test fails, by index into the map. -/
def failTests : List Nat → State → State
  | [], s => s
  | i :: r, s =>
    failTests r (match allParts[i]? with
      | some k => testFails k s
      | none => s)

/-- Daily BIST of free spares, outside PS2 (R496). -/
def spareBistSt (fails : List Nat) (s : State) : State :=
  if !ready s || s.power.ps == 2 then s
  else failTests (fails.filter (fun i => match allParts[i]? with
    | some k => (partIn s k).2 == 1
    | none => false)) s

/-- Code words of HBM. -/
def hbmUnits : Nat := tierSize 1 / unitBytes 1

/-- What a memory test fails is a unit that cannot be read (R495, R262): HBM code words by their number, and behind them, on grade A, the
DDR5 words. -/
def failUnits : List Nat → State → State
  | [], s => s
  | k :: r, s =>
    failUnits r (if k < hbmUnits then addMemError 1 k 0xFFFFFFFF (markBad 1 k s)
      else if s.settings.grade == 1 then addMemError 2 (k - hbmUnits) 0xFFFFFFFF (markBad 2 (k - hbmUnits) s)
      else s)

/-- The background memory test is complete (R495). -/
def memoryTestSt (fails : List Nat) (s : State) : State :=
  if !ready s || s.power.ps == 2 || s.boot.memTest then s
  else
    let s1 := failUnits fails s
    { s1 with boot := { s1.boot with memTest := true } }

def execScrub (tier addr : Nat) (r : ScrubResult) (s : State) : Host.Outcome State Fault Refusal := .next (scrubSt tier addr r s)
def execSpareBist (fails : List Nat) (s : State) : Host.Outcome State Fault Refusal := .next (spareBistSt fails s)
def execFullMemoryTest (fails : List Nat) (s : State) : Host.Outcome State Fault Refusal := .next (memoryTestSt fails s)

/-- `BIST_RUN`. The reply goes out at acceptance, with no fault found yet and the number that the first entry would take. -/
def bistRunPart : Part := fun s _ d =>
  if 2 < prm d 0 8 then ansCode s 0x0105
  else if s.image.isSome then ansCode s 0x0302
  else { ansLong s 2 with body := pack [(32, 32, s.faultLog.next + 1)], blen := 16 }

/-- Every fabric link in use is to be trained again (R275, R495). -/
def retrainPorts (s : State) : State :=
  { s with fabric := { s.fabric with ports := s.fabric.ports.zipIdx.map (fun p =>
      if inUse s.fabric p.2 then { p.1 with up := false, training := true } else p.1) } }

/-- The self-test ends (R494, R495): what it has found is acted on, and `SET` 2 leaves the links in training. -/
def bistDone (sid handle : Nat) (fails : List Nat) (s : State) : State :=
  match findOp s.sessions sid handle with
  | none => s
  | some o =>
    if o.opcode != 0x0902 || o.state != 2 || o.aborting then s
    else
      let set := bits o.params 0 8
      let s1 := if set == 0 then failTests fails s
        else if set == 1 then failUnits fails s
        else retrainPorts (failTests (fails.filter (fun i => (allParts[i]?).map partKind == some 11)) s)
      finishOp sid handle 4 0 { s1 with sessions := modOp s1.sessions sid handle (setProgress 100) }

def execBistRun (d : Datagram) (s : State) : Host.Outcome State Fault Refusal := .next (ycp 0x0902 (.bistRun d) bistRunPart d s)
def execBistComplete (sid handle : Nat) (fails : List Nat) (s : State) : Host.Outcome State Fault Refusal :=
  .next (bistDone sid handle fails s)

/-! The haboob condition ends (R499). -/

/-- Whether an operation needs a logical part: a run by its queue directory, and every operation that reads or writes memory by
the memory parts. -/
def needsPart (s : State) (o : Op) (kind logical : Nat) : Bool :=
  if kind ≤ 7 then
    (o.opcode == 0x0403 && (directory s).contains (kind, logical)) ||
    (kind == 7 && [0x0305, 0x0306, 0x0307].contains o.opcode)
  else [0x0305, 0x0306, 0x0307, 0x0400, 0x0403].contains o.opcode

/-- Held operations go on, unless a pre-emption still holds them. -/
def resumeOps (ss : Sessions) : Sessions :=
  { ss with ops := ss.ops.map (fun o =>
      if o.haboobHeld then { o with haboobHeld := false, state := if o.holdBy.isEmpty then 2 else 3 } else o) }

/-- Pending substitutions, in fault order (R499). -/
def resolvePending : List (Nat × Nat × Nat) → State → State
  | [], s => s
  | (kind, scope, l) :: r, s =>
    let name := unitName kind scope l
    let clear := fun (t : State) => { t with repair := { t.repair with unsub := t.repair.unsub.filter (· != (kind, name)) } }
    let spare := (scopeParts kind scope).find? (fun j => dieOk j l &&
      ((partIn s j).2 == (if kind == 7 then 0 else 1) || (kind == 8 && (partIn s j).2 == 3 && (partIn s j).1 == l / 16)))
    resolvePending r (match spare with
      | none => failRun 0x0904 s
      | some j =>
        let n := takeFree s
        let s1 := addFault 1 kind scope (partPhys j) l (pack [(0, 16, partPhys j), (32, 32, Config.free n.1)]) 8 n.2
        takesPlace kind name (clear (if kind == 7 then s1 else changeMap (fun m => setPart m j (l, 0)) s1)))

/-- `HABOOB_CLEAR`. `SUB_STOP` that an earlier one left is cleared by a later one with `RESUME` = 1, though no haboob stands: DEDUCED (log
entry 100). -/
def haboobClearPart : Part := fun s _ d =>
  let resume := prm d 0 1 == 1
  if !s.repair.haboob && !(resume && subStopped s) then ansCode s 0x0001
  else
    let pend := s.repair.pending
    let s0 := { s with repair := { s.repair with haboob := false, pending := [] } }
    let s1 := if s.repair.haboob then addEvent 10 (prm d 0 1) 8 s0 else s0
    let s2 := if resume then
        let m := s1.mirage
        resolvePending pend { s1 with
          mirage := { m with subStop := false, dirty := true, written := m.written.map (fun w => { w with subStop := false }) }
          repair := { s1.repair with faultTimes := [] }
          sessions := resumeOps s1.sessions }
      else
        let lost := s1.sessions.ops.filter (fun o => o.haboobHeld && pend.any (fun p => needsPart s1 o p.1 (unitName p.1 p.2.1 p.2.2)))
        failOps 0x0904 lost { s1 with sessions := resumeOps s1.sessions }
    { ansOk s2 with events := [(9, 0)] }

def execHaboobClear (d : Datagram) (s : State) : Host.Outcome State Fault Refusal :=
  .next (ycp 0x0905 (.haboobClear d) haboobClearPart d s)

/-! Calibration (R502). -/

def calibratePart : Part := fun s _ d =>
  let t := prm d 0 8
  if !windowOpen s then ansCode s 0x0203
  else if 5 < t then ansCode s 0x0105
  else if t == 4 && s.settings.grade != 1 then ansCode s 0x0301
  else ansLong s (if s.run.active then 1 else 2)

/-- Results are stored, signed, in both repair areas; a failed calibration keeps the previous ones. Its code is a free value, since
the manual names none (log entry 6). -/
def calibrateDone (sid handle : Nat) (ok : Bool) (results : List (Nat × Nat)) (s : State) : State :=
  match findOp s.sessions sid handle with
  | none => s
  | some o =>
    if o.opcode != 0x0906 || (o.state != 2 && o.state != 1) || o.aborting || s.run.active then s
    else if !ok then
      let n := takeFree s
      finishOp sid handle 5 (Config.free n.1 % 2 ^ 16) n.2
    else
      let t := bits o.params 0 8
      let ts := if t == 0 then [1, 2, 3, 4, 5] else [t]
      let s1 := { s with repair := { s.repair with calib := ts.foldl (fun m k => spSet k results m) s.repair.calib } }
      finishOp sid handle 4 0 { s1 with sessions := modOp s1.sessions sid handle (setProgress 100) }

def execCalibrate (d : Datagram) (s : State) : Host.Outcome State Fault Refusal := .next (ycp 0x0906 (.calibrate d) calibratePart d s)
def execCalibrateComplete (sid handle : Nat) (ok : Bool) (results : List (Nat × Nat)) (s : State) :
    Host.Outcome State Fault Refusal := .next (calibrateDone sid handle ok results s)

/-! The mirage map (R436, R477 to R480). -/

def mapTotal : Nat := 30720

/-- The stored map of the generation in force; a map that flash does not yet hold at all is the one in force. -/
def storedMap (s : State) : MapCopy :=
  match s.mirage.stored.find? (fun c => (c.map (·.gen)) == some s.mirage.gen) with
  | some (some c) => c
  | _ => mapInForce s

/-- `MIRAGE_READ`: `TOTAL`, then up to 1,280 B of the map in force. -/
def mirageReadPart : Part := fun s _ d =>
  let o := prm d 0 32
  if mapTotal ≤ o then ansCode s 0x0105
  else ansBytes s (leBytes 4 mapTotal ++ ((mapBytes s (storedMap s)).drop o).take 1280)

/-- `MIRAGE_WRITE`: parts with ascending offsets and no gaps; a part at offset 0 begins anew. -/
def mirageWritePart : Part := fun s _ d =>
  let o := prm d 0 32
  let n := prm d 32 16
  let m := s.mirage
  let pre := if o == 0 then [] else m.staged
  if s.run.active then ansCode s 0x0408
  else if s.repair.haboob then ansCode s 0x0903
  else if m.writing || o != pre.length || n == 0 || 1280 < n then ansCode s 0x0105
  else
    let data := pre ++ leBytes n (prm d 64 (8 * n))
    if prm d 48 1 == 0 then ansOk { s with mirage := { m with staged := data } }
    else if 1 < bits (ofLe (data.take 64)) 0 16 then ansCode { s with mirage := { m with staged := [] } } 0x0104
    else if (mapOfBytes data).isNone then ansCode { s with mirage := { m with staged := [] } } 0x0105
    else ansLong { s with mirage := { m with staged := data, writing := true } } 2

/-- Store a copy in the repair area of bank g mod 2 (R476). -/
def storeMap (l : List (Option MapCopy)) (c : MapCopy) : List (Option MapCopy) := l.set (c.gen % 2) (some c)

/-- The written map is in flash with the generation after the one in force, and takes effect at the next cold reset (R480). -/
def mirageWritten (sid handle : Nat) (s : State) : State :=
  match findOp s.sessions sid handle, mapOfBytes s.mirage.staged with
  | some o, some c =>
    if o.opcode != 0x0901 || o.state != 2 || o.aborting || !s.mirage.writing then s
    else
      let m := s.mirage
      let w := { c with gen := m.gen + 1, subStop := m.subStop }
      let s1 := { s with mirage := { m with writing := false, staged := [], written := some w, stored := storeMap m.stored w } }
      finishOp sid handle 4 0 { s1 with sessions := modOp s1.sessions sid handle (setProgress 30) }
  | _, _ => s

/-- A changed map goes to flash as the next generation (R479). A written map that waits keeps the generation after the one in
force (R480). -/
def flashWrite (s : State) : State :=
  let m := s.mirage
  if !m.dirty then s
  else
    let c : MapCopy := { gen := m.gen + 1, subStop := m.subStop, lastFault := m.lastFault, entries := m.entries }
    let w := m.written.map (fun w => { w with gen := m.gen + 2 })
    let st := storeMap m.stored c
    { s with mirage := { m with gen := m.gen + 1, dirty := false, written := w
                                stored := match w with
                                  | some x => storeMap st x
                                  | none => st } }

def execMirageRead (d : Datagram) (s : State) : Host.Outcome State Fault Refusal := .next (ycp 0x0900 (.mirageRead d) mirageReadPart d s)
def execMirageWrite (d : Datagram) (s : State) : Host.Outcome State Fault Refusal :=
  .next (ycp 0x0901 (.mirageWrite d) mirageWritePart d s)
def execMirageWriteComplete (sid handle : Nat) (s : State) : Host.Outcome State Fault Refusal := .next (mirageWritten sid handle s)
def execMirageMapFlashWrite (s : State) : Host.Outcome State Fault Refusal := .next (flashWrite s)

end Sys2Proof.Machine
end

