-- ==== Sys2Proof/Machine/Tables.lean ====
section
/-! DEFINITION. Fabric commands: staged tables and their commit, the start of fabric time, compression generations, the federation's
addresses and key (R279, R290 to R297, R343, R355 to R359, R430, R432). -/

namespace Sys2Proof.Machine

/-! Staged tables. -/

/-- A table's staged copy starts as a copy of the one in force (R430). -/
def stagedTopo (f : Fabric) : Option (Nat × List Nat) := if f.staged.topo.isSome then f.staged.topo else f.force.topo

/-- The EtherTypes that a topology table may not name (R279). -/
def etypeBad (t : Nat) : Bool := t < 0x0600 || [0x0800, 0x0806, 0x86DD, 0x8100, 0x88A8, 0x88CC, 0x88F7].contains t

/-- The rules of a topology table that answer 0x0105. -/
def topoBad (h : Nat) (ps : List Nat) : Bool :=
  let cells := (List.range 8).map (fun v => bits h (96 + 12 * v) 12)
  bits h 0 16 == 0 || bits h 16 16 != 576 || etypeBad (bits h 48 16) || bits h 80 8 == 0 || bits h 88 2 == 3 ||
  decide (2048 < cells.foldl (· + ·) 0) || cells.any (fun c => c < 36) || bits h 192 8 == 0 || bits h 200 8 == 0 ||
  bits h 208 8 == 0 || ps.any (fun e => 1 < bits e 0 2)

/-- The rules that a grade adds: a larger domain, or ports that are not connected, on grades B and C (R8, R273). -/
def topoAbsent (grade h : Nat) (ps : List Nat) : Bool :=
  grade != 1 && (4095 < bits h 64 16 || (ps.drop 16).any (fun e => bits e 0 2 == 1))

/-- `TOPO_WRITE`. -/
def topoWritePart : Part := fun s _ d =>
  let h := prm d 0 512
  let ps := (List.range 32).map (fun i => prm d (512 + 128 * i) 128)
  if 1 < bits h 0 16 then ansCode s 0x0104
  else if topoBad h ps then ansCode s 0x0105
  else if topoAbsent s.settings.grade h ps then ansCode s 0x0301
  else ansOk { s with fabric := { s.fabric with staged := { s.fabric.staged with topo := some (h, ps) } } }

/-- `ROUTE_WRITE`. -/
def routeWritePart : Part := fun s _ d =>
  let first := prm d 0 16
  let n := prm d 16 16
  let es := (List.range n).map (fun i => prm d (32 + 32 * i) 32)
  if n == 0 || 256 < n || 65536 < first + n then ansCode s 0x0105
  else
    let base := if s.fabric.staged.routed then s.fabric.staged.routes else s.fabric.force.routes
    let rs := es.zipIdx.foldl (fun m p => spSet (first + p.2) p.1 m) base
    ansOk { s with fabric := { s.fabric with staged := { s.fabric.staged with routes := rs, routed := true } } }

/-- Staged multicast entries that differ from the table in force. -/
def mcastWritePart : Part := fun s _ d =>
  let first := prm d 0 16
  let n := prm d 16 16
  let es := (List.range n).map (fun i => prm d (64 + 64 * i) 64)
  if n == 0 || 128 < n || 65536 < first + n then ansCode s 0x0105
  else
    let ms := es.zipIdx.foldl (fun m p => spSet (first + p.2) p.1 m) s.fabric.staged.mcast
    ansOk { s with fabric := { s.fabric with staged := { s.fabric.staged with mcast := ms } } }

/-- `ENTRIES` of a routing table: one more than the highest destination it holds (R430). -/
def routeEntries (rs : Sp Nat) : Nat := match rs.getLast? with
  | some p => p.1 + 1
  | none => 0

/-- A port under a new topology: one that leaves use or whose entry changed goes down, and one in use and down is to be trained
(R275). -/
def retopoPort (old new : Nat) (p : Port) : Port :=
  let on := bits new 0 2 == 1
  let same := bits old 0 2 == 1 && peFec old == peFec new && pePeer old == pePeer new && pePeerPort old == pePeerPort new
  if !on then { p with up := false, training := false }
  else if same && p.up then p
  else { p with up := false, training := true }

/-- The change of time state, entered in the fault log (R304). -/
def setTimeState (st : Nat) (s : State) : State :=
  if s.time.state == st then s
  else addEvent 8 (pack [(0, 4, s.time.state), (4, 4, st)]) 8
    { s with time := { s.time with state := st, changes := tick64 s.time.changes } }

/-- A module becomes grandmaster (R302): from `FREE` it starts from 0 or from the value set; else it goes on from its own time. -/
def becomeMaster (s : State) : State :=
  let t := s.time
  let t1 := { t with master := true, freqPpb := 0, now := if t.state == 0 then t.start.getD 0 else t.now }
  setTimeState 2 { s with time := t1 }

/-- The role of a topology table takes effect: role 1 is the grandmaster, and any other leaves that place to a standby's timeout. -/
def applyRole (s : State) : State :=
  if timeRole s.fabric == 1 then (if s.time.master then s else becomeMaster s)
  else if timeRole s.fabric == 0 then { s with time := { s.time with master := false } }
  else s

/-- `FABRIC_COMMIT` (R297, R430). -/
def fabricCommitPart : Part := fun s _ d =>
  let f := s.fabric
  let topo := if prm d 0 1 == 1 && f.staged.topo.isSome then f.staged.topo else f.force.topo
  let newR := prm d 1 1 == 1 && f.staged.routed
  let routes := if newR then f.staged.routes else f.force.routes
  let routed := f.force.routed || newR
  let mcast := if prm d 2 1 == 1 then f.staged.mcast.foldl (fun m p => spPut 0 p.1 p.2 m) f.force.mcast else f.force.mcast
  let mismatch := match topo with
    | none => false
    | some (h, _) => routed && routeEntries routes != bits h 64 16 + 1
  let absent := prm d 0 1 == 1 && f.staged.topo.isSome && (match topo with
    | none => false
    | some (h, ps) => topoAbsent s.settings.grade h ps)
  if s.run.active then ansCode s 0x0502
  else if absent then ansCode s 0x0301
  else if mismatch then ansCode s 0x0105
  else
    let staged : FabTables := {
      topo := if prm d 0 1 == 1 then none else f.staged.topo
      routes := if newR then [] else f.staged.routes
      routed := f.staged.routed && !newR
      mcast := if prm d 2 1 == 1 then [] else f.staged.mcast }
    let old := (f.force.topo.map (·.2)).getD []
    let new := (topo.map (·.2)).getD []
    let ports := if prm d 0 1 == 1 then
        (f.ports.zipIdx).map (fun p => retopoPort (old.getD p.2 0) (new.getD p.2 0) p.1)
      else f.ports
    let f1 := { f with force := { topo := topo, routes := routes, routed := routed, mcast := mcast }, staged := staged, ports := ports }
    let s1 := { s with fabric := f1 }
    ansOk (if prm d 0 1 == 1 then applyRole s1 else s1)

/-- Body of `FABRIC_READ`: as the write opcode's parameters, with as many entries as fit (Table 16.10). -/
def fabricBody (f : Fabric) (table : Nat) (staged : Bool) (first : Nat) : Nat :=
  if table == 0 then
    match (if staged then stagedTopo f else f.force.topo) with
    | none => resetHdr
    | some (h, ps) => h + pack (ps.zipIdx.map (fun p => (512 + 128 * p.2, 128, p.1)))
  else if table == 1 then
    let rs := if staged && f.staged.routed then f.staged.routes else f.force.routes
    let n := min 256 (routeEntries rs - first)
    pack ((0, 16, first) :: (16, 16, n) :: (List.range n).map (fun i => (32 + 32 * i, 32, spGet 0 (first + i) rs)))
  else
    let get := fun (g : Nat) => if staged then spGet (spGet 0 g f.force.mcast) g f.staged.mcast else spGet 0 g f.force.mcast
    let n := min 128 (65536 - first)
    pack ((0, 16, first) :: (16, 16, n) :: (List.range n).map (fun i => (64 + 64 * i, 64, get (first + i))))

def fabricReadPart : Part := fun s _ d =>
  if prm d 0 2 == 3 then ansCode s 0x0105
  else ansBody s (fabricBody s.fabric (prm d 0 2) (prm d 2 1 == 1) (prm d 16 16)) 1032

/-- `TIME_SET` (R432). -/
def timeSetPart : Part := fun s _ d =>
  if s.run.active then ansCode s 0x0408
  else if s.time.master then ansCode s 0x050C
  else ansOk { s with time := { s.time with start := some (prm d 0 64 * 65536 + prm d 64 16) } }

def execTopoWrite (d : Datagram) (s : State) : Host.Outcome State Fault Refusal := .next (ycp 0x0502 (.topoWrite d) topoWritePart d s)
def execRouteWrite (d : Datagram) (s : State) : Host.Outcome State Fault Refusal :=
  .next (ycp 0x0503 (.routeWrite d) routeWritePart d s)
def execMcastWrite (d : Datagram) (s : State) : Host.Outcome State Fault Refusal :=
  .next (ycp 0x0504 (.mcastWrite d) mcastWritePart d s)
def execFabricCommit (d : Datagram) (s : State) : Host.Outcome State Fault Refusal :=
  .next (ycp 0x0505 (.fabricCommit d) fabricCommitPart d s)
def execFabricRead (d : Datagram) (s : State) : Host.Outcome State Fault Refusal :=
  .next (ycp 0x0506 (.fabricRead d) fabricReadPart d s)
def execTimeSet (d : Datagram) (s : State) : Host.Outcome State Fault Refusal := .next (ycp 0x0507 (.timeSet d) timeSetPart d s)

/-! Compression generations (R355 to R359). -/

/-- A port's receive slot holds a generation. -/
def portHolds (p : Port) (g : Nat) : Bool :=
  (p.slotValid.getD 0 false && p.slotGen.getD 0 0 == g) || (p.slotValid.getD 1 false && p.slotGen.getD 1 0 == g)

/-- Load a generation into its slot, g mod 2, when that slot is free. -/
def loadSlot (g : Nat) (p : Port) : Port :=
  if p.slotValid.getD (g % 2) false then p
  else { p with slotGen := p.slotGen.set (g % 2) g, slotValid := p.slotValid.set (g % 2) true }

/-- A slot report to the neighbour (Table 13.7). -/
def reportSlots (fab : Fabric) (n : Nat) : Fabric × List Emission :=
  match getPort fab n with
  | none => (fab, [])
  | some p => linkSend fab n 3 [(136, 16, p.slotGen.getD 0 0), (152, 16, p.slotGen.getD 1 0), (168, 1, b2n (p.slotValid.getD 0 false)),
      (169, 1, b2n (p.slotValid.getD 1 false))]

/-- Ports in use load a generation where they can, and report. -/
def loadPorts (g : Nat) : List Nat → Fabric → Fabric × List Emission
  | [], fab => (fab, [])
  | n :: r, fab =>
    let before := ((getPort fab n).map (portHolds · g)).getD true
    let fab1 := modPort fab n (loadSlot g)
    let after := ((getPort fab1 n).map (portHolds · g)).getD false
    let (fab2, e2) := if !before && after then reportSlots fab1 n else (fab1, [])
    let (fab3, e3) := loadPorts g r fab2
    (fab3, e2 ++ e3)

/-- The generation that g succeeded; 0 has none. -/
def genPred (f : Fabric) (g : Nat) : Option Nat := if g == 0 then none else if g == 1 then some (if (spGet? 65534 f.tables).isSome then 65534 else 0) else some (g - 1)

/-- Ports in use that hold the newest generation. -/
def holders (f : Fabric) : Nat := ((portsInUse f).filter (fun n => ((getPort f n).map (portHolds · f.newest)).getD false)).length

/-- `CMP_INSTALL` (R355, R357). -/
def cmpInstallPart : Part := fun s x d =>
  let f := s.fabric
  let a := prm d 0 48
  let rs := regionsOf s
  match vaRead s.memory rs 1 a 64 with
  | .error c => ansFault s c a 64
  | .ok h =>
    let t := setField h 48 5
    match vaRead s.memory rs 1 a (128 + 128 * t) with
    | .error c => ansFault s c a (128 + 128 * t)
    | .ok set =>
      if !genSetReserved set then ansCode s 0x0103
      else if 1 < setField set 0 16 then ansCode s 0x0104
      else if setField set 0 16 == 0 || !genSetOk f.newest set then ansCode s 0x0105
      else if (portsInUse f).any (fun n => match genPred f f.newest, getPort f n with
          | some g, some p => portHolds p g
          | _, _ => false) then ansCode s 0x0508
      else
        let g := genSucc f.newest
        let f1 := { f with tables := spSet g set f.tables, newest := g, installing := some (x.sid, x.nextHandle, g) }
        let r := loadPorts g (portsInUse f1) f1
        ansLong { s with fabric := r.1, out := s.out ++ r.2 } 2

/-- The install ends once every port in use holds the new generation. -/
def installDone (sid handle : Nat) (s : State) : State :=
  match findOp s.sessions sid handle with
  | none => s
  | some o =>
    if o.opcode != 0x0508 || o.state != 2 || o.aborting || s.fabric.installing != some (sid, handle, s.fabric.newest) ||
        holders s.fabric != (portsInUse s.fabric).length then s
    else
      let s1 := { s with fabric := { s.fabric with installing := none }
                         sessions := modOp s.sessions sid handle (setProgress (holders s.fabric)) }
      finishOp sid handle 4 0 s1

def execCmpInstall (d : Datagram) (s : State) : Host.Outcome State Fault Refusal :=
  .next (ycp 0x0508 (.cmpInstall d) cmpInstallPart d s)
def execCmpInstallComplete (sid handle : Nat) (s : State) : Host.Outcome State Fault Refusal := .next (installDone sid handle s)

/-! The federation's addresses and key (R343). -/

/-- `FED_MAP_SET`: a multicast or unspecified address is refused. -/
def fedMapSetPart : Part := fun s _ d =>
  let ip := ofBe (leBytes 16 (prm d 128 128))
  let v4 := isMapped4 ip
  let site := prm d 0 4
  let m := prm d 16 16
  if ip == 0 || ip >>> 120 == 0xFF || (v4 && (bits ip 28 4 == 0xE || ip % 2 ^ 32 == 0)) then ansCode s 0x0105
  else
    let udp := if prm d 32 16 == 0 then 43601 else prm d 32 16
    let rest := s.federation.addrs.filter (fun a => !(a.1 == site && a.2.1 == m))
    ansOk { s with federation := { s.federation with addrs := rest ++ [(site, m, udp, ip)] } }

/-- `FED_KEY_SET`: the key comes as a secret parameter (R390). -/
def fedKeySetPart : Part := fun s _ d =>
  match Config.oaep s.settings.idN (prm d 0 3072) with
  | some k => if k.length == 32 then ansOk { s with federation := { s.federation with key := ofLe k } } else ansCode s 0x0105
  | none => ansCode s 0x0105

def execFedMapSet (d : Datagram) (s : State) : Host.Outcome State Fault Refusal := .next (ycp 0x0509 (.fedMapSet d) fedMapSetPart d s)
def execFedKeySet (d : Datagram) (s : State) : Host.Outcome State Fault Refusal := .next (ycp 0x050A (.fedKeySet d) fedKeySetPart d s)

end Sys2Proof.Machine
end

