-- ==== Sys2Proof/Machine/Fabric.lean ====
section
/-! DEFINITION. The link and switch events: received frames, link retry, training, lanes, compression slots, width and quiet, and
fabric time (R275 to R304, R357 to R363, R467, R468). -/

namespace Sys2Proof.Machine

/-- Adopt a changed fabric and what it sent. -/
def onFabric (g : Fabric → Fabric × List Emission) (s : State) : State :=
  let r := g s.fabric
  { s with fabric := r.1, out := s.out ++ r.2 }

def sendLink (port lop : Nat) (fields : List (Nat × Nat × Nat)) (s : State) : State := onFabric (fun f => linkSend f port lop fields) s
def pumpSt (port : Nat) (s : State) : State := onFabric (fun f => pump f port) s

/-- A port that carries frames. -/
def linkUp (s : State) (port : Nat) : Bool := portServes s.fabric port

/-- A `LINK` frame with a given `LOP`, whole and with `PLEN` 0 (R278, R282). -/
def linkFor (s : State) (port : Nat) (f : Frame) (lop : Nat) : Bool :=
  linkUp s port && f.ftype == 0 && f.lenOk && f.payload.isEmpty && !newerFrame f && tsp f 128 8 == lop

/-! Acknowledgement and credit. -/

/-- A cumulative acknowledgement frees the frames up to its number (R284). -/
def ackTrim (a : Nat) (p : Port) : Port :=
  match p.replay ++ p.again with
  | [] => p
  | h :: r =>
    let k := (a + 4096 - h.f.lseq) % 4096 + 1
    if r.length + 1 < k then p
    else
      { p with replay := p.replay.drop k, again := p.again.drop (k - p.replay.length), resends := 0 }

/-- The acknowledgement alone, of a frame that is discarded because it was accepted before: the credit that it returns has been taken. -/
def applyAck (f : Frame) (p : Port) : Port := if f.lackValid then ackTrim f.lack p else p

/-- The acknowledgement and the credit return that every frame carries (R280, R284, R289). -/
def applyLink (f : Frame) (p : Port) : Port :=
  let p1 := applyAck f p
  { p1 with credit := p1.credit.set f.crdVc (p1.credit.getD f.crdVc 0 + f.crdCells) }

/-- Whether a port still holds a frame coded with a generation. -/
def codedHeld (p : Port) (g : Nat) : Bool := (p.queue ++ p.again ++ p.replay).any (fun h => h.gen == some g)

/-- The generation that the neighbour still holds and this direction has left for good (R358). -/
def leftGen (p : Port) : Option Nat :=
  match p.sendGen with
  | none => none
  | some n =>
    ((List.range 2).filterMap (fun i =>
      let g := p.peerGen.getD i 0
      if p.peerValid.getD i false && g != n && !codedHeld p g then some g else none)).head?

/-- Send a release once its condition holds. -/
def tryRelease (port : Nat) (s : State) : State :=
  match getPort s.fabric port with
  | none => s
  | some p =>
    match leftGen p with
    | none => s
    | some g =>
      if p.releasing == some g then s
      else sendLink port 4 [(136, 16, g)] (onPort port (fun q => { q with releasing := some g }) s)

/-- After a receipt: send what credit now allows, release generations, return credit. -/
def afterReceipt (port : Nat) (s : State) : State := onFabric (returnDue 256) (tryRelease port (pumpSt port s))

/-- Cells of a received frame wait for return (R289). -/
def oweFor (port : Nat) (f : Frame) (s : State) : State := { s with fabric := owe s.fabric port (chanOf f) (cellsFor f) }

/-! Port failure (R287). -/

/-- Code a payload again for a port: from the sets of its slots to the port's send generation (R358). None where it does not
decode. -/
def recode (fab : Fabric) (slots : List (Bool × Nat × GenSet)) (egress : Nat) (f : Frame) : Option (Frame × Option Nat) :=
  match codedWith maxBlocks f.payload, getPort fab egress with
  | some (_, prof), some q =>
    match decodePayload slots maxBlocks 0 f.payload with
    | none => none
    | some (bs, _, _) =>
      let n := q.sendGen.getD 0
      let e := encodePayload (genSet fab n) n (if q.sendGen.isNone then 0xF else profileFor (genSet fab n) (headerFmt f) prof) maxBlocks 0 bs
      some ({ f with payload := e.1 }, if e.2.1 == 0 then none else some n)
  | _, _ => some (f, none)

/-- Payload bytes at full size, and coded and stored blocks, read from the block headers. -/
def blockSums : Nat → List Byte → Nat × Nat × Nat
  | 0, _ => (0, 0, 0)
  | n + 1, l =>
    if l.length < 8 then (0, 0, 0)
    else
      let h := ofLe (l.take 8)
      let r := blockSums n (l.drop (8 + bits h 32 13))
      (bits h 45 13 + r.1, b2n (!bitAt h 58) + r.2.1, b2n (bitAt h 58) + r.2.2)

/-- Count a block-framed frame in a direction's record (Table 13.8). -/
def countBlocks (f : Frame) (again : Bool) (c : CmpCount) : CmpCount :=
  if !blockFramed f then c
  else
    let b := blockSums maxBlocks f.payload
    { c with uBytes := wrapAdd 64 c.uBytes b.1, wBytes := wrapAdd 64 c.wBytes f.payload.length, coded := wrapAdd 32 c.coded b.2.1,
             stored := wrapAdd 32 c.stored b.2.2, recoded := wrapAdd 32 c.recoded (b2n again) }

/-- The generation of the coded blocks of a frame, under the slots of the port it came on. -/
def codedGen (slots : List (Bool × Nat × GenSet)) (f : Frame) : Option Nat :=
  if !blockFramed f then none
  else (codedWith maxBlocks f.payload).bind (fun c => (slots[c.1]?).map (fun x => x.2.1))

/-- A frame put on an egress queue: passed as it is, or recoded where its generation is not the one that the port sends (R358). -/
def queueOn (slots : List (Bool × Nat × GenSet)) (ingress : Option Nat) (egress : Nat) (hops : Nat) (cells : Option (Nat × Nat × Nat × Nat))
    (f : Frame) (fab : Fabric) : Option Fabric :=
  let f1 := { f with sub := egressSub fab ingress egress f.sub, hops := hops }
  let sub0 := f.sub
  let send := ((getPort fab egress).bind (·.sendGen))
  let g := codedGen slots f
  let put := fun (x : Frame) (gen : Option Nat) (again : Bool) => modPort fab egress (fun p =>
    { p with queue := p.queue ++ [{ f := x, gen := gen, cells := cells, ingress := ingress, sub0 := sub0 }], txc := countBlocks x again p.txc })
  if g.isNone || g == send then some (put f1 g false)
  else (recode fab slots egress f1).map (fun x => put x.1 x.2 true)

/-- The port that takes a frame over from a failed one: a member of its group, else the alternate route (R287, R294). -/
def takeOver (fab : Fabric) (failed : Nat) (f : Frame) : Option Nat :=
  match groupMember fab (peGroup (portEntry fab failed)) f.flow with
  | some n => some n
  | none => if f.mcast then none else (routeGroup fab f.dst).bind (fun g => groupMember fab g f.flow)

/-- The port that counts a frame left with no route: the one it came on; of this module's own, the lowest-numbered port of the
group for a multicast copy (R296), else the failed port (log entry 90). -/
def lossPort (fab : Fabric) (failed : Nat) (h : Held) : Nat :=
  match h.ingress with
  | some q => q
  | none =>
    if h.f.mcast then
      ((List.range 32).find? (fun p => inUse fab p && peGroup (portEntry fab p) == peGroup (portEntry fab failed))).getD failed
    else failed

/-- Resend the frames of a failed port elsewhere, each with the `SUB` that its own ingress gives it (R295); one with nowhere to go
is discarded and counted. -/
def moveFrames (failed : Nat) : List Held → Fabric → Fabric × List Emission
  | [], fab => (fab, [])
  | h :: r, fab =>
    let slots : List (Bool × Nat × GenSet) := [(true, h.gen.getD 0, genSet fab (h.gen.getD 0)), (true, h.gen.getD 0, genSet fab (h.gen.getD 0))]
    let f := { h.f with resent := true, sub := h.sub0 }
    let drop := fun (x : Fabric) => match h.cells with
      | some (ip, iv, k, u) => if copyHeld x u then x else owe x ip iv k
      | none => x
    let (fab1, e1) := match takeOver fab failed f with
      | none => (drop (noRouteCount fab (lossPort fab failed h)), [])
      | some n =>
        let (fa, ea) := wakeQuiet fab n
        match queueOn slots h.ingress n f.hops h.cells f fa with
        | none => (drop fa, ea)
        | some fb =>
          let (fc, ec) := pump fb n
          (fc, ea ++ ec)
    let (fab2, e2) := moveFrames failed r fab1
    (fab2, e1 ++ e2)

/-- Event 7 with its reason. DESIGN CHOICE (log entry 22): the head names the port in `SCOPE`. -/
def linkEvent (port reason : Nat) (s : State) : State := addFault 7 0 port 0 0xFFFF (pack [(0, 8, reason)]) 8 s

/-- A port fails (R287). -/
def portFails (port : Nat) (s : State) : State :=
  match getPort s.fabric port with
  | none => s
  | some p =>
    let hs := p.replay ++ p.again ++ p.queue
    let down := fun (q : Port) =>
      { q with
        up := false, failed := true, training := true, queue := [], again := [], replay := []
        failures := tick64 q.failures, quiet := false, wantQuiet := false }
    let s1 := onPort port down s
    linkEvent port 4 (onFabric (moveFrames port hs) s1)

/-! Link retry (R284 to R286). -/

/-- Unacknowledged frames from a number on are sent again, in order. -/
def goBack (seq : Nat) (p : Port) : Port :=
  let keep := p.replay.takeWhile (fun h => h.f.lseq != seq)
  { p with replay := keep, again := p.replay.drop keep.length ++ p.again }

/-- Resend from the oldest frame or from the one requested; the eighth resend without progress fails the port. -/
def resendFrom (port : Nat) (seq : Option Nat) (s : State) : State :=
  match getPort s.fabric port with
  | none => s
  | some p =>
    match p.replay with
    | [] => s
    | h :: _ =>
      if 8 ≤ p.resends then portFails port s
      else
        let q := seq.getD h.f.lseq
        if p.replay.any (fun x => x.f.lseq == q) then
          afterReceipt port (onPort port (fun p => { goBack q p with resends := p.resends + 1 }) s)
        else s

/-- A retry request: its header's reports, then the resend. -/
def retryRequestSt (port : Nat) (f : Frame) (s : State) : State :=
  if !linkFor s port f 1 then s
  else resendFrom port (some (tsp f 136 12)) (onPort port (applyLink f) s)

/-- The oldest frame has waited 4 µs. -/
def replayTimeoutSt (port : Nat) (s : State) : State := if linkUp s port then resendFrom port none s else s

def lackReportSt (port : Nat) (s : State) : State :=
  if linkUp s port && ((getPort s.fabric port).map (·.lackDue)).getD false then sendLink port 0 [] s else s

def creditTimerSt (port : Nat) (s : State) : State :=
  if linkUp s port && (((getPort s.fabric port).bind creditDue).isSome) then sendLink port 0 [] s else s

def execRetryRequest (port : Nat) (f : Frame) (s : State) : Host.Outcome State Fault Refusal := .next (retryRequestSt port f s)
def execReplayTimeout (port : Nat) (s : State) : Host.Outcome State Fault Refusal := .next (replayTimeoutSt port s)
def execLackReportTimer (port : Nat) (s : State) : Host.Outcome State Fault Refusal := .next (lackReportSt port s)
def execCreditReturnTimer (port : Nat) (s : State) : Host.Outcome State Fault Refusal := .next (creditTimerSt port s)

/-! Training (R275, R359). -/

/-- Lanes of a port that the map does not mark failed. -/
def mapLanes (s : State) (port : Nat) : Nat :=
  pack ((List.range 9).map (fun l => (l, 1, b2n ((partIn s (partKey 11 port l)).2 != 2))))

def bitAnd (a b : Nat) : Nat := a &&& b

/-- The reason that training gives for holding a port down, 0 for none. -/
def trainReason (s : State) (port : Nat) (t : Training) : Nat :=
  let e := portEntry s.fabric port
  let m := mapLanes s port
  if bitAnd t.lanes m != m || goodLanes { Port.reset with lanes := m } < 4 then 1
  else if t.peerFec != peFec e then 2
  else if t.peerId != pePeer e || t.peerPort != pePeerPort e then 3
  else 0

/-- A port as training leaves it: the link starts afresh, and each slot loads the newest installed generation. -/
def freshPort (newest lanes : Nat) (cells : List Nat) (p : Port) : Port :=
  let q := { p with
                    up := true, failed := false, training := false, lanes := lanes, quiet := false, wantQuiet := false, again := [],
                    replay := [], resends := 0, txSeq := 0, rxSeq := 0, rxAny := false, retrySent := false, lackDue := false,
                    credit := (List.range 8).map (fun v => ((cells.getD v 0 : Nat) : Int)), owed := List.replicate 8 0, cells := cells,
                    served := List.replicate 4 0, slotGen := if newest % 2 == 0 then [newest, 0] else [0, newest],
                    slotValid := if newest % 2 == 0 then [true, false] else [false, true],
                    peerGen := [0, 0], peerValid := [newest == 0, false], sendGen := if newest == 0 then some 0 else none, releasing := none }
  { q with width := fullWidth q, wantWidth := fullWidth q }

/-- The lane that L8 stands for, by the map (R276). -/
def mapSubst (s : State) (port : Nat) : Option Nat :=
  let v := partIn s (partKey 11 port 8)
  if v.2 == 0 && v.1 < 8 then some v.1 else none

/-- The receive buffer of a port is empty at link-up: frames that came on it before hold no cells of the new link (R289). -/
def dropCells (port : Nat) (fab : Fabric) : Fabric :=
  { fab with ports := fab.ports.map (fun p => { p with queue := p.queue.map (fun h =>
      match h.cells with
      | some (ip, _, _, _) => if ip == port then { h with cells := none } else h
      | none => h) }) }

/-- Routes to a neighbour that had been declared lost return once a port toward it comes up (R528). -/
def routesReturn (port : Nat) (s : State) : State :=
  { s with fabric := { s.fabric with peerRoutes := s.fabric.peerRoutes.filter (· != pePeer (portEntry s.fabric port)) } }

/-- Training ends: the port comes up, or is held down with its reason. -/
def trainPort (port : Nat) (t : Training) (s : State) : State :=
  let due := ((getPort s.fabric port).map (·.training)).getD false
  if !inUse s.fabric port || !due then s
  else
    let r := trainReason s port t
    if r != 0 then linkEvent port r (onPort port (fun p => { p with up := false, training := false }) s)
    else
      let s0 := routesReturn port s
      let s1 := onPort port (fun p => { freshPort s.fabric.newest (mapLanes s port) t.peerCells p with subst := mapSubst s port })
        { s0 with fabric := dropCells port s0.fabric }
      linkEvent port 5 (pumpSt port (onFabric (fun f => reportSlots f port) s1))

/-- The next attempt of a port held down. -/
def retryTraining (port : Nat) (s : State) : State :=
  if inUse s.fabric port && 0 < s.boot.stage && !(((getPort s.fabric port).map (·.up)).getD true) then
    onPort port (fun p => { p with training := true }) s
  else s

def execLinkTraining (port : Nat) (t : Training) (s : State) : Host.Outcome State Fault Refusal := .next (trainPort port t s)
def execTrainingRetryTimer (port : Nat) (s : State) : Host.Outcome State Fault Refusal := .next (retryTraining port s)

/-! Lanes (R276). Substitution goes on while other substitution has stopped (R498). -/

/-- L8 takes a lane's place in the port and in the map. -/
def substLane (port lane : Nat) (s : State) : State :=
  let s1 := onPort port (fun p => { p with lanes := bitAnd p.lanes (511 - 2 ^ lane), subst := some lane, laneSubs := tick64 p.laneSubs }) s
  changeMap (fun m => replacePart m (partKey 11 port lane) (partKey 11 port 8)) s1

/-- The fifth fault within the second raises the haboob condition (R497). -/
def afterCount (s : State) : State := if !s.repair.haboob && 5 ≤ s.repair.faultTimes.length then raiseHaboob s else s

def laneFails (port lane : Nat) (s : State) : State :=
  match getPort s.fabric port with
  | none => s
  | some p =>
    if !linkUp s port || !bitAt p.lanes lane then s
    else
      let k := partKey 11 port lane
      let l := (partIn s k).1
      let spare := p.subst.isNone && bitAt p.lanes 8
      if lane < 8 && spare then
        let n := takeFree (countFault s)
        let s1 := addFault 1 11 port lane l (pack [(0, 16, 8), (32, 32, Config.free n.1)]) 8 n.2
        afterCount (sendLink port 2 [(148, 4, lane)] (substLane port lane s1))
      else
        let s1 := addFault 2 11 port lane l 0 8 (if spare then s else countFault s)
        let s2 := changeMap (fun m => failPart m k) (onPort port (fun p =>
          let q := { p with lanes := bitAnd p.lanes (511 - 2 ^ lane) }
          let w := min q.width (fullWidth q)
          { q with width := w, wantWidth := w }) s1)
        let s3 := if fullWidth { p with lanes := bitAnd p.lanes (511 - 2 ^ lane) } == 0 then portFails port s2 else s2
        afterCount s3

/-- The neighbour has moved a lane to L8. -/
def laneSubstSt (port : Nat) (f : Frame) (s : State) : State :=
  if !linkFor s port f 2 then s
  else
    let s1 := onPort port (applyLink f) s
    let lane := tsp f 148 4
    match getPort s1.fabric port with
    | none => s1
    | some p => afterReceipt port (if lane < 8 && p.subst.isNone && bitAt p.lanes lane && bitAt p.lanes 8 then substLane port lane s1 else s1)

def execLaneFailure (port lane : Nat) (s : State) : Host.Outcome State Fault Refusal := .next (laneFails port lane s)
def execLaneSubstitution (port : Nat) (f : Frame) (s : State) : Host.Outcome State Fault Refusal := .next (laneSubstSt port f s)

/-! Compression slots (R357, R358). -/

/-- Of two generations, the newer: the successor, else the greater. -/
def newerGen (a b : Nat) : Nat := if b == genSucc a then b else if a == genSucc b then a else max a b

/-- The newest generation that a slot report shows. -/
def reportedGen (p : Port) : Option Nat :=
  match p.peerValid.getD 0 false, p.peerValid.getD 1 false with
  | true, true => some (newerGen (p.peerGen.getD 0 0) (p.peerGen.getD 1 0))
  | true, false => some (p.peerGen.getD 0 0)
  | false, true => some (p.peerGen.getD 1 0)
  | false, false => none

/-- The neighbour's slot report sets the send generation. -/
def takeReport (f : Frame) (p : Port) : Port :=
  let q := { p with peerGen := [tsp f 136 16, tsp f 152 16], peerValid := [tsp f 168 1 == 1, tsp f 169 1 == 1] }
  let r := reportedGen q
  let q1 := { q with sendGen := if r.isSome then r else q.sendGen }
  match q1.releasing with
  | none => q1
  | some g => if q1.peerValid.getD (g % 2) false && q1.peerGen.getD (g % 2) 0 == g then q1 else { q1 with releasing := none }

def slotReportSt (port : Nat) (f : Frame) (s : State) : State :=
  if !linkFor s port f 3 then s
  else afterReceipt port (onPort port (fun p => takeReport f (applyLink f p)) s)

/-- A transition on the link is incomplete: two generations are held at an end, or the newest is not in use. -/
def transitioning (fab : Fabric) (p : Port) : Bool :=
  !portHolds p fab.newest || (p.slotValid.getD 0 false && p.slotValid.getD 1 false) || p.sendGen != some fab.newest ||
  (p.peerValid.getD 0 false && p.peerValid.getD 1 false)

def slotTimerSt (port : Nat) (s : State) : State :=
  if linkUp s port && ((getPort s.fabric port).map (transitioning s.fabric)).getD false then onFabric (fun f => reportSlots f port) s else s

/-- The receiver empties the slot of a released generation, and loads the newest where it has waited for the slot. -/
def emptySlot (newest g : Nat) (p : Port) : Port :=
  if p.slotValid.getD (g % 2) false && p.slotGen.getD (g % 2) 0 == g && g != newest then
    let q := { p with slotGen := p.slotGen.set (g % 2) 0, slotValid := p.slotValid.set (g % 2) false }
    if portHolds q newest then q else loadSlot newest q
  else p

def releaseFrameSt (port : Nat) (f : Frame) (s : State) : State :=
  if !linkFor s port f 4 then s
  else afterReceipt port (onFabric (fun fab => reportSlots fab port)
    (onPort port (fun p => emptySlot s.fabric.newest (tsp f 136 16) (applyLink f p)) s))

def releaseTimerSt (port : Nat) (s : State) : State :=
  match (getPort s.fabric port).bind (·.releasing) with
  | none => s
  | some g => if linkUp s port then sendLink port 4 [(136, 16, g)] s else s

def execSlotReport (port : Nat) (f : Frame) (s : State) : Host.Outcome State Fault Refusal := .next (slotReportSt port f s)
def execSlotReportTimer (port : Nat) (s : State) : Host.Outcome State Fault Refusal := .next (slotTimerSt port s)
def execRelease (port : Nat) (f : Frame) (s : State) : Host.Outcome State Fault Refusal := .next (releaseFrameSt port f s)
def execReleaseTimer (port : Nat) (s : State) : Host.Outcome State Fault Refusal := .next (releaseTimerSt port s)

/-! Width and quiet (R467, R468). -/

/-- A width frame: the answer to this end's request, or the neighbour's request, which is answered with the same width. -/
def widthSt (port : Nat) (f : Frame) (s : State) : State :=
  if !linkFor s port f 5 then s
  else
    let s1 := onPort port (applyLink f) s
    let w := tsp f 136 4
    match getPort s1.fabric port with
    | none => s1
    | some p =>
      if !([1, 4, 8].contains w) || fullWidth p < w then afterReceipt port s1
      else
        let s2 := onPort port (fun p => { p with width := w, wantWidth := w }) s1
        afterReceipt port (if p.wantWidth == w && p.width != w then s2 else sendLink port 5 [(136, 4, w)] s2)

/-- No answer within 1 µs: the port keeps its width, and does not go quiet. -/
def widthTimeoutSt (port : Nat) (s : State) : State := onPort port (fun p => { p with wantWidth := p.width, wantQuiet := false }) s

/-- A quiet frame: the answer, or the neighbour's request, answered where this end has nothing to send. -/
def quietSt (port : Nat) (f : Frame) (s : State) : State :=
  if !linkFor s port f 6 then s
  else
    let s1 := onPort port (applyLink f) s
    match getPort s1.fabric port with
    | none => s1
    | some p =>
      let stop := fun (p : Port) => { p with quiet := true, wantQuiet := false }
      if p.wantQuiet then onPort port stop s1
      else if peTime (portEntry s.fabric port) != 0 || !p.queue.isEmpty || !p.again.isEmpty then afterReceipt port s1
      else onPort port stop (sendLink port 6 [] s1)

def burstSt (port : Nat) (s : State) : State :=
  if linkUp s port && ((getPort s.fabric port).map (·.quiet)).getD false then
    pumpSt port (onPort port (fun p => { p with quiet := false, wantQuiet := false, width := fullWidth p, wantWidth := fullWidth p }) s)
  else s

def execWidth (port : Nat) (f : Frame) (s : State) : Host.Outcome State Fault Refusal := .next (widthSt port f s)
def execWidthAnswerTimeout (port : Nat) (s : State) : Host.Outcome State Fault Refusal := .next (widthTimeoutSt port s)
def execQuiet (port : Nat) (f : Frame) (s : State) : Host.Outcome State Fault Refusal := .next (quietSt port f s)
def execWakeBurst (port : Nat) (s : State) : Host.Outcome State Fault Refusal := .next (burstSt port s)

/-! Received frames (R281, R283, R285, R296, R298, R362). -/

/-- A `LINK` frame acts by its `LOP`; one that is not defined gives its header's reports alone. Its `PLEN` is 0 (R282): one of another
length is discarded and counted (R278). -/
def linkFrame (port : Nat) (f : Frame) (s : State) : State :=
  if !linkUp s port || f.ftype != 0 then s
  else if !f.lenOk || !f.payload.isEmpty || newerFrame f then discardOn port s
  else
    match tsp f 128 8 with
    | 1 => retryRequestSt port f s
    | 2 => laneSubstSt port f s
    | 3 => slotReportSt port f s
    | 4 => releaseFrameSt port f s
    | 5 => widthSt port f s
    | 6 => quietSt port f s
    | _ => afterReceipt port (onPort port (applyLink f) s)

def execLink (port : Nat) (f : Frame) (s : State) : Host.Outcome State Fault Refusal := .next (linkFrame port f s)

/-- A bad frame, or one out of sequence: one retry request for the expected number. -/
def badFrame (port : Nat) (bad : Bool) (f : Frame) (s : State) : State :=
  let s1 := onPort port (fun p => { p with badFrames := if bad then tick64 p.badFrames else p.badFrames }) (if f.ftype == 0 then s else oweFor port f s)
  match getPort s1.fabric port with
  | none => s1
  | some p =>
    if p.retrySent then onFabric (returnDue 256) s1
    else
      onFabric (returnDue 256) (sendLink port 1 [(136, 12, p.rxSeq)] (onPort port (fun p => { p with retrySent := true, retries := tick64 p.retries }) s1))

/-- A block of a terminated frame fails (R362): nothing lands, event 6 with cause 5, and the running command fails. -/
def decodeFails (port : Nat) (f : Frame) (s : State) : State :=
  let g := (codedGen (((getPort s.fabric port).map (slotsOf s.fabric)).getD []) f).getD 0
  let s1 := onPort port (fun p => { p with rxc := { p.rxc with decErr := wrapAdd 32 p.rxc.decErr 1 } }) s
  failRun 0x0509 (addFault 6 0 port f.src f.ftype (pack [(32, 16, 0x0509), (48, 8, 5), (128, 64, g)]) 32 s1)

/-- The payload at full size, none where a block fails. -/
def landed (s : State) (port : Nat) (f : Frame) : Option Frame :=
  if !blockFramed f then some f
  else
    match getPort s.fabric port with
    | none => none
    | some p => (decodePayload (slotsOf s.fabric p) maxBlocks 0 f.payload).map (fun x => { f with payload := x.1 })

/-- A frame that no chapter defines: an unknown `COP`, `BKIND` or `LOP`. -/
def unknownFrame (f : Frame) : Bool :=
  (f.ftype == 7 && !([1, 2, 16, 17, 18].contains (tsp f 128 8))) || (f.ftype == 6 && 3 ≤ tsp f 128 4)

/-- Deliver a frame here: it waits for its unit and wakes the module (R463). -/
def deliverHere (port : Nat) (f : Frame) (s : State) : State :=
  match landed s port f with
  | none => decodeFails port f s
  | some g =>
    let s1 := wakeUp (some 3) s
    if unknownFrame f then discardOn port s1
    else { s1 with fabric := { s1.fabric with inbox := s1.fabric.inbox ++ [(port, g)] } }

/-- The egress ports of a frame, none for a group with no member in service. -/
def egressOf (fab : Fabric) (f : Frame) : List (Option Nat) :=
  if f.mcast then (mcastGroups fab f.dst).map (fun g => groupMember fab g f.flow)
  else if f.dst == myId fab then []
  else [(routeGroup fab f.dst).bind (fun g => groupMember fab g f.flow)]

/-- Queue the copies of a frame in transit. -/
def queueCopies (ingress : Nat) (slots : List (Bool × Nat × GenSet)) (cells : Nat × Nat × Nat × Nat) (f : Frame) :
    List (Option Nat) → Fabric → Fabric
  | [], fab => fab
  | none :: r, fab => queueCopies ingress slots cells f r (noRouteCount fab ingress)
  | some n :: r, fab =>
    match queueOn slots (some ingress) n (f.hops + 1) (some cells) f fab with
    | some fab1 => queueCopies ingress slots cells f r fab1
    | none => queueCopies ingress slots cells f r (modPort fab ingress (fun p => { p with rxc := { p.rxc with decErr := wrapAdd 32 p.rxc.decErr 1 } }))

def pumpAll : List Nat → Fabric → Fabric × List Emission
  | [], fab => (fab, [])
  | n :: r, fab =>
    let (f0, e0) := wakeQuiet fab n
    let (f1, e1) := pump f0 n
    let (f2, e2) := pumpAll r f1
    (f2, e0 ++ e1 ++ e2)

/-- Send the copies of a frame on; its cells are owed once no copy waits. -/
def forwardCopies (port : Nat) (f : Frame) (s : State) : State :=
  let fab := s.fabric
  let slots := ((getPort fab port).map (slotsOf fab)).getD []
  let es := egressOf fab f
  let uid := fab.copies
  let fab1 := queueCopies port slots (port, chanOf f, cellsFor f, uid) f es { fab with copies := uid + 1 }
  let fab2 := if copyHeld fab1 uid then fab1 else owe fab1 port (chanOf f) (cellsFor f)
  onFabric (pumpAll (es.filterMap id)) { s with fabric := fab2 }

/-- An accepted frame is discarded, terminated or forwarded. -/
def switchFrame (port : Nat) (f : Frame) (s : State) : State :=
  let here := if f.mcast then mcastLocal s.fabric f.dst else f.dst == myId s.fabric
  let s1 := onPort port (fun p => { p with rxc := countBlocks f false p.rxc }) s
  if !f.lenOk || newerFrame f || typeClass f.ftype != some f.cls then discardOn port (oweFor port f s)
  else if f.mcast && !mcastValid s.fabric f.dst then { s with fabric := noRouteCount (oweFor port f s).fabric port }
  else
    let s2 := if here then deliverHere port f s1 else s1
    if f.mcast && (mcastGroups s.fabric f.dst).isEmpty || (!f.mcast && here) then oweFor port f s2
    else if maxHops s.fabric < f.hops + 1 then discardOn port (oweFor port f s2)
    else forwardCopies port f s2

/-- Whether a frame may have gone cut-through to a port (R298): no earlier frame on its channel, credit for the whole frame, and
its blocks pass as they are. -/
def cutMay (slots : List (Bool × Nat × GenSet)) (ingress : Nat) (f : Frame) (fab : Fabric) (n : Nat) : Bool :=
  portServes fab n && (match getPort fab n with
    | none => false
    | some p =>
      let g := codedGen slots f
      let v := chanOf { f with sub := egressSub fab (some ingress) n f.sub }
      !p.quiet && p.again.isEmpty && (headOf p v).isNone && decide ((cellsFor f : Int) ≤ p.credit.getD v 0) &&
        (g.isNone || g == p.sendGen))

/-- A frame that fails after forwarding began ends on egress with an inverted FCS (R298). Its receiver discards it and returns its
cells, so it is debited; DESIGN CHOICE (log entry 90): it takes no number, and is not held for replay. -/
def stompOn (ingress : Nat) (f : Frame) (n : Nat) (fab : Fabric) : Fabric × List Emission :=
  match getPort fab n with
  | none => (fab, [])
  | some p =>
    let f1 := { f with sub := egressSub fab (some ingress) n f.sub, hops := f.hops + 1, lseq := p.txSeq, good := false,
                       lack := (p.rxSeq + 4095) % 4096, lackValid := p.rxAny, crdVc := 0, crdCells := 0 }
    let v := chanOf f1
    (modPort fab n (fun p => { p with credit := p.credit.set v (p.credit.getD v 0 - cellsFor f1) }), [.frame n f1])

/-- Copies of a bad frame whose forwarding had begun: whether it had is a free value for each port (log entry 90). -/
def stompCopies (slots : List (Bool × Nat × GenSet)) (ingress : Nat) (f : Frame) : List Nat → State → State
  | [], s => s
  | n :: r, s =>
    if !cutMay slots ingress f s.fabric n then stompCopies slots ingress f r s
    else
      let k := takeFree s
      stompCopies slots ingress f r (if Config.free k.1 % 2 == 1 then onFabric (stompOn ingress f n) k.2 else k.2)

/-- The ports on which a frame in transit may have begun to leave before its end showed it bad. -/
def stompSt (port : Nat) (f : Frame) (s : State) : State :=
  let fab := s.fabric
  if f.etype != gftEtype fab || f.ftype == 0 || newerFrame f || typeClass f.ftype != some f.cls ||
      (f.mcast && !mcastValid fab f.dst) || maxHops fab < f.hops + 1 then s
  else stompCopies (((getPort fab port).map (slotsOf fab)).getD []) port f ((egressOf fab f).filterMap id) s

/-- A numbered frame arrives on a port (R285). -/
def receiveFrame (port : Nat) (f : Frame) (s : State) : State :=
  match getPort s.fabric port with
  | none => s
  | some p =>
    if !linkUp s port then s
    else if f.good && f.etype != gftEtype s.fabric && f.etype != 0x88F7 then discardOn port s
    else if f.good && f.etype == 0x88F7 then (if peTime (portEntry s.fabric port) == 0 then discardOn port s else s)
    else if f.good && f.ftype == 0 then linkFrame port f s
    else
      let behind := (p.rxSeq + 4096 - f.lseq) % 4096
      if !f.good then badFrame port true f (if behind == 0 then stompSt port f s else s)
      else if behind == 0 then
        let s1 := onPort port (fun p => { applyLink f p with rxSeq := (p.rxSeq + 1) % 4096, rxAny := true, retrySent := false, lackDue := true }) s
        afterReceipt port (switchFrame port f s1)
      else if p.rxAny && behind ≤ 2047 then onFabric (returnDue 256) (oweFor port f (onPort port (applyAck f) s))
      else badFrame port false f s

def execFrameForward (port : Nat) (f : Frame) (s : State) : Host.Outcome State Fault Refusal := .next (receiveFrame port f s)

/-! Fabric time (R300 to R304). -/

def tenNs : Int := 10 * 65536

/-- The `TIME` value of the parent that a follower takes time from. -/
def parentTime (s : State) : Nat := s.time.parent + 1

/-- Ports with a `TIME` value. -/
def timePorts (fab : Fabric) (v : Nat) : List Nat := (List.range 32).filter (fun p => inUse fab p && peTime (portEntry fab p) == v)

/-- Syncs missed in a row from the parent with a `TIME` value, by the port that hears best. -/
def missedFrom (s : State) (v : Nat) : Option Nat :=
  ((timePorts s.fabric v).map (fun p => spGet 0 p s.time.syncMiss)).min?

/-- Every parent has missed at least n Syncs. -/
def parentsSilent (s : State) (n : Nat) : Bool := (List.range 2).all (fun i => match missedFrom s (i + 1) with
  | none => true
  | some m => n ≤ m)

/-- A Sync from a parent (two-step: its time follows). -/
def syncSt (port : Nat) (m : PtpMsg) (s : State) : State :=
  let run := spGet 0 port s.time.syncRun + 1
  let rx := stamp16 m.rxTime
  let t := { s.time with syncRun := spSet port run s.time.syncRun, syncMiss := spSet port 0 s.time.syncMiss, rx := spSet port (m.seq, rx) s.time.rx }
  let t1 := if peTime (portEntry s.fabric port) == 1 && t.parent == 1 && 16 ≤ run then { t with parent := 0 } else t
  let s1 := { s with time := t1 }
  if s1.time.state == 0 then setTimeState 1 s1 else s1

/-- A measured offset: the first lock steps the time; from then on only the frequency is corrected, by at most 100 ppm (R303). The
correction that the servo chooses is a free value (log entry 8). -/
def offsetSt (off : Int) (s : State) : State :=
  let t := s.time
  let first := t.state == 1 && !t.stepped
  let off1 := if first then 0 else off
  let n := takeFree s
  let ppb := clampI (-100000) 100000 ((Config.free n.1 : Nat) : Int)
  let ppb1 := if off1 == 0 then 0 else if off1 < 0 then ppb else -ppb
  let good := if -tenNs ≤ off1 && off1 ≤ tenNs then t.good + 1 else 0
  let now := if first then (((t.now : Int) - off) % (2 ^ 80 : Nat)).toNat else t.now
  let s1 := { n.2 with time := { t with now := now, stepped := t.stepped || first, offset := off1, freqPpb := ppb1, good := min good 16 } }
  if 16 ≤ good && t.state != 2 then setTimeState 2 s1 else s1

/-- The Follow_Up of a Sync from the parent in use: offset = received − sent − correction − delay − asymmetry. -/
def followUpSt (port : Nat) (m : PtpMsg) (s : State) : State :=
  match spGet? port s.time.rx with
  | none => s
  | some (seq, rx) =>
    if seq != m.seq then s
    else
      let s1 := { s with time := { s.time with rx := spDel port s.time.rx } }
      if peTime (portEntry s.fabric port) != parentTime s then s1
      else offsetSt ((rx : Int) - m.carried - m.correction - spGet 0 port s.time.pdelay - 4096 * peAsym (portEntry s.fabric port)) s1

/-- The peer delay from its four times (IEEE 1588, 11.4). -/
def respSt (port : Nat) (m : PtpMsg) (s : State) : State :=
  match spGet? port s.time.pd with
  | none => s
  | some (seq, t1, _, _) => if seq == m.seq then { s with time := { s.time with pd := spSet port (seq, t1, m.carried, stamp16 m.rxTime) s.time.pd } } else s

def respFollowSt (port : Nat) (m : PtpMsg) (s : State) : State :=
  match spGet? port s.time.pd with
  | none => s
  | some (seq, t1, t2, t4) =>
    if seq != m.seq || t4 == 0 then s
    else
      let d : Int := (((t4 : Int) - t1) - ((m.carried : Int) - t2) - m.correction) / 2
      { s with time := { s.time with pd := spDel port s.time.pd, pdelay := spSet port d s.time.pdelay } }

/-- A PTP message on a fabric port. One of another domain is terminated there and has no effect (R300: `domainNumber` is 0). -/
def ptpSt (port : Nat) (m : PtpMsg) (s : State) : State :=
  let v := peTime (portEntry s.fabric port)
  if !linkUp s port then s
  else if v == 0 then discardOn port s
  else if m.domain != 0 then s
  else
    match m.kind with
    | .pdelayReq => emit [ptpOut s.fabric port 3 m.seq m.rxTime, ptpOut s.fabric port 4 m.seq s.time.now] s
    | .pdelayResp => respSt port m s
    | .pdelayRespFollowUp => respFollowSt port m s
    | .sync => if v == 3 || s.time.master then s else syncSt port m s
    | .followUp => if v == 3 || s.time.master then s else followUpSt port m s

/-- A Sync interval passes with no Sync on a parent port (R301, Table 11.9). -/
def syncTimeoutSt (port : Nat) (s : State) : State :=
  let v := peTime (portEntry s.fabric port)
  if !inUse s.fabric port || v == 0 || v == 3 || s.time.master then s
  else
    let t := s.time
    let s1 := { s with time := { t with syncMiss := spSet port (spGet 0 port t.syncMiss + 1) t.syncMiss, syncRun := spSet port 0 t.syncRun,
                                        good := if v == parentTime s then 0 else t.good } }
    let late := match missedFrom s1 1 with
      | some m => 64 ≤ m
      | none => true
    let s2 := if late && !(timePorts s.fabric 2).isEmpty then { s1 with time := { s1.time with parent := 1 } } else s1
    if timeRole s.fabric == 2 && parentsSilent s2 16 then becomeMaster s2
    else if s2.time.state == 2 && parentsSilent s2 64 then setTimeState 3 s2
    else s2

def execPtpMessage (port : Nat) (m : PtpMsg) (s : State) : Host.Outcome State Fault Refusal := .next (ptpSt port m s)
def execSyncTimeout (port : Nat) (s : State) : Host.Outcome State Fault Refusal := .next (syncTimeoutSt port s)

end Sys2Proof.Machine
end

