-- ==== Sys2Proof/Machine/Coll.lean ====
section
/-! DEFINITION. Caravan entries, collectives, groups and publish entries; the reduction tree and its sites; partials in P40 and Q16
(R310 to R328). -/

namespace Sys2Proof.Machine

/-! Fields of the caravan section (Tables 12.2, 12.4, 12.12). -/

def caAction (e : Nat) : Nat := bits e 0 4
def caTokens (e : Nat) : Nat := bits e 8 24
def caOp0 (e : Nat) : Nat := bits e 128 32
def caOp1 (e : Nat) : Nat := bits e 160 32

def coKind (c : Nat) : Nat := bits c 32 4
def coQ16 (c : Nat) : Bool := bits c 36 2 == 1
def coFast (c : Nat) : Bool := bitAt c 38
def coDefers (c : Nat) : Bool := bitAt c 39
def coDw (c : Nat) : Nat := bits c 64 24
def coLand (c : Nat) : Nat := bits c 88 24
def coAexp (c : Nat) : Nat := bits c 112 24
def coHist (c : Nat) : Nat := bits c 136 24
def coDefer (c : Nat) : Nat := bits c 160 24
def coLrec (c : Nat) : Nat := bits c 184 24
def coGroup (c : Nat) : Nat := bits c 208 16
def coMcast (c : Nat) : Nat := bits c 224 16
def coGrace (c : Nat) : Nat := bits c 240 32
def coSrc (c : Nat) : Nat := bits c 272 24
def coAckCtr (c : Nat) : Nat := bits c 296 16
def coLandCtr (c : Nat) : Nat := bits c 312 16

def puPub (p : Nat) : Nat := bits p 0 24
def puRecv (p : Nat) : Nat := bits p 24 24
def puMcast (p : Nat) : Nat := bits p 48 16
def puColl (p : Nat) : Nat := bits p 64 12

def collOf (im : Image) (i : Nat) : Nat := im.car.colls.getD i 0
def groupOf (im : Image) (i : Nat) : List Nat := im.car.groups.getD i []
def pubOf (im : Image) (i : Nat) : Nat := im.car.pubs.getD i 0

/-- The entry of an action that names a collective. -/
def entryFor (im : Image) (action coll : Nat) : Option Nat :=
  (im.car.entries.zipIdx.find? (fun e => caAction e.1 == action && caOp0 e.1 == coll)).map (·.2)

/-- Expected leaf contributions of a chunk. -/
def tokensOf (im : Image) (coll : Nat) : Nat := ((entryFor im 1 coll).map (fun i => caTokens (im.car.entries.getD i 0))).getD 0

/-- Members of a collective, in logical position order. -/
def membersOf (im : Image) (coll : Nat) : List Nat := groupOf im (coGroup (collOf im coll))

def posOf (members : List Nat) (id : Nat) : Option Nat := members.findIdx? (· == id)

/-! Modules treated as absent. -/

/-- Peers declared lost, and those that have left with notice. -/
def goneModules (s : State) : List Nat := s.reductions.lost ++ s.reductions.retired

/-- Positions of absent modules. -/
def absentPos (s : State) (members : List Nat) : List Nat :=
  (members.zipIdx.filter (fun m => (goneModules s).contains m.1)).map (·.2)

/-! The tree across modules (R319). -/

/-- Members, absent positions and the position of the root. -/
structure Tree where
  g : Nat
  absent : List Nat
  rho : Nat
  deriving DecidableEq, Repr

def depth (t : Tree) : Nat := ceilLog2 t.g

/-- The site of node [a, a + 2^k); none when the node is absent. -/
def site (t : Tree) : Nat → Nat → Option Nat
  | 0, a => if a < t.g && !t.absent.contains a then some a else none
  | k + 1, a =>
    let c := a + t.rho % 2 ^ (k + 1)
    if c < t.g && !t.absent.contains c then some c
    else
      match site t k a with
      | some x => some x
      | none => site t k (a + 2 ^ k)

def presentNode (t : Tree) (a k : Nat) : Bool := (site t k a).isSome

/-- First position of the level-k node that covers a position. -/
def nodeLo (p k : Nat) : Nat := p / 2 ^ k * 2 ^ k

/-- First position of the other half of the node above the level-k node of a position. -/
def siblingLo (p k : Nat) : Nat := if nodeLo p k % 2 ^ (k + 1) == 0 then nodeLo p k + 2 ^ k else nodeLo p k - 2 ^ k

/-- The level of the highest node combined at a position. -/
def topLevel (t : Tree) (p : Nat) : Nat :=
  ((List.range (depth t + 1)).filter (fun k => site t k (nodeLo p k) == some p)).foldl max 0

/-- The partials of other modules that a site expects: each sibling below its highest node that is present (R319). -/
def expectedNodes (t : Tree) (p : Nat) : List (Nat × Nat) :=
  (List.range (topLevel t p)).filterMap (fun k => if presentNode t (siblingLo p k) k then some (siblingLo p k, k) else none)

/-! Partials. -/

def lanesPerBlock : Nat := 64
def chunkElems : Nat := 2048

def zeroPartial (q16 : Bool) (exp : Nat) : Partial :=
  { q16 := q16, vals := List.replicate 2048 0, exps := if q16 then List.replicate 32 exp else [], flags := if q16 then List.replicate 32 0 else [],
    maxe := 0, ssq := 0, ncont := 0, nstale := 0 }

def addP40 (a b : Nat) : Nat := enc40 (add40 (dec40 a) (dec40 b))
def sumLists (a b : List Nat) : List Nat := List.zipWith addP40 a b

/-- One lane added, saturating at ±32,767; the flag says that it saturated (R47). -/
def laneAdd (a b : Nat) : Nat × Bool :=
  let x := toSigned 16 a + toSigned 16 b
  (ofSigned 16 (clampI (-32767) 32767 x), decide (x < -32767) || decide (32767 < x))

/-- Blocks of a Q16 partial: lanes, exponent, flags. -/
def blocksOf (p : Partial) : List (List Nat × Nat × Nat) :=
  (List.range 32).map (fun j => ((p.vals.drop (64 * j)).take 64, p.exps.getD j 0, p.flags.getD j 0))

/-- Two Q16 blocks added: lanes, and the flags ORed; a nonfinite block has zero lanes (R47, Table 2.8). -/
def addBlock (a b : List Nat × Nat × Nat) : List Nat × Nat × Nat :=
  let r := List.zipWith laneAdd a.1 b.1
  let fl := a.2.2 ||| b.2.2 ||| b2n (r.any (·.2))
  (if bitAt fl 1 then List.replicate 64 0 else r.map (·.1), max a.2.1 b.2.1, fl)

/-- A node's two children, left then right (R320, R322). -/
def combine (a b : Partial) : Partial :=
  let m := { a with maxe := max a.maxe b.maxe, ssq := addP40 a.ssq b.ssq, ncont := a.ncont + b.ncont, nstale := min 16383 (a.nstale + b.nstale) }
  if a.q16 then
    let bs := List.zipWith addBlock (blocksOf a) (blocksOf b)
    { m with vals := bs.flatMap (·.1), exps := bs.map (·.2.1), flags := bs.map (·.2.2) }
  else { m with vals := sumLists a.vals b.vals }

/-- The partial held for a node. -/
def partAt (parts : List (Nat × Nat × Partial)) (lo k : Nat) : Option Partial :=
  (parts.find? (fun x => x.1 == lo && x.2.1 == k)).map (·.2.2)

/-- Climb from a node to the highest one that this site combines; none while a child is missing (R319, R320). What a peer sent before it
was lost stays in. -/
def climb (t : Tree) (p : Nat) (parts : List (Nat × Nat × Partial)) : Nat → Nat → Partial → Option (Nat × Partial)
  | 0, k, v => some (k, v)
  | n + 1, k, v =>
    if depth t ≤ k || site t (k + 1) (nodeLo p (k + 1)) != some p then some (k, v)
    else
      let sib := siblingLo p k
      match partAt parts sib k with
      | none => if presentNode t sib k then none else climb t p parts n (k + 1) v
      | some w => climb t p parts n (k + 1) (if sib < nodeLo p k then combine w v else combine v w)

/-- Fast mode: every expected partial and the module's own, in arrival order (R320). -/
def gather (t : Tree) (p : Nat) (parts : List (Nat × Nat × Partial)) : Option (Nat × Partial) :=
  let want := (p, 0) :: expectedNodes t p
  let have_ := parts.filter (fun x => want.contains (x.1, x.2.1) || !presentNode t x.1 x.2.1)
  if want.all (fun w => (partAt parts w.1 w.2).isSome) then
    match have_ with
    | [] => none
    | x :: r => some (topLevel t p, r.foldl (fun a y => combine a y.2.2) x.2.2)
  else none

/-- What a site's node is, once it can be formed. -/
def formNode (fast : Bool) (t : Tree) (p : Nat) (parts : List (Nat × Nat × Partial)) : Option (Nat × Partial) :=
  match partAt parts p 0 with
  | none => none
  | some own => if fast then gather t p parts else climb t p parts (depth t + 1) 0 own

/-- Biased exponent of a finite P40 value, 0 for one that is not finite (Table 12.6). -/
def expOf40 (w : Nat) : Nat := if bits w 31 8 == 255 then 0 else bits w 31 8

/-- Sum of squares in P40 over the fixed tree (R207). -/
def ssqOf (vals : List Nat) : Nat := enc40 (sum40all (vals.map (fun w => mul40 (dec40 w) (dec40 w))))

/-! Conversion to Q16 (R324). -/

/-- A block of a P40 partial as Q16 at an exponent; `rm` rounds by element. -/
def toBlock (e : Nat) (rm : Nat → Rm) (vals : List Nat) (j : Nat) : List Nat × Nat × Nat :=
  let vs := (vals.drop (64 * j)).take 64
  if vs.any (fun w => bits w 31 8 == 255) then (List.replicate 64 0, e, 2)
  else if e == 0 then (List.replicate 64 0, 0, 1)
  else
    let r := vs.zipIdx.map (fun v => roundInt (-32767) 32767 (rm (64 * j + v.2)) (fvScale (127 - (e : Int)) (dec40 v.1)))
    (r.map (fun x => ofSigned 16 x.1), e, b2n (r.any (·.2)))

def toQ16 (e : Nat) (rm : Nat → Rm) (p : Partial) : Partial :=
  let bs := (List.range 32).map (toBlock e rm p.vals)
  { p with q16 := true, vals := bs.flatMap (·.1), exps := bs.map (·.2.1), flags := bs.map (·.2.2) }

/-- The named blocks of a partial at a new exponent; the others carry exponent 0 and zero lanes (R327). -/
def toReplay (e blocks : Nat) (rm : Nat → Rm) (p : Partial) : Partial :=
  let bs := (List.range 32).map (fun j => if bitAt blocks j then toBlock e rm p.vals j else (List.replicate 64 0, 0, 0))
  { p with q16 := true, vals := bs.flatMap (·.1), exps := bs.map (·.2.1), flags := bs.map (·.2.2) }

/-- Clamp of an agreed exponent (R324). -/
def clampExp (i : Int) : Nat := (clampI 1 239 i).toNat

/-! Payloads (R48, R322, R327). -/

def sideRecord (p : Partial) : List Byte := (p.exps ++ p.flags).flatMap (leBytes 1)
def lanesBytes (l : List Nat) : List Byte := l.flatMap (leBytes 2)
def p40Bytes (l : List Nat) : List Byte := l.flatMap (leBytes 5)

/-- Split bytes into n little-endian numbers of w bytes. -/
def cutNats (w : Nat) : Nat → List Byte → List Nat
  | 0, _ => []
  | n + 1, l => ofLe (l.take w) :: cutNats w n (l.drop w)

/-- A received lane of −32,768 reads as −32,767 and sets `OVF` (R47). The reserved bits of a flag byte are ignored (Table 2.8). -/
def readLanes (lanes exps flags : List Nat) : List Nat × List Nat × List Nat :=
  (lanes.map (fun q => if q == 0x8000 then 0x8001 else q), exps,
   flags.zipIdx.map (fun f => f.1 % 4 ||| b2n (((lanes.drop (64 * f.2)).take 64).contains 0x8000)))

/-- Values of a chunk element's row and column in its tile. -/
def chunkElem (dw c i : Nat) : Option Nat := tileElem dw (c / 2) (32 * (c % 2) + i / 64) (i % 64)

end Sys2Proof.Machine
end

