-- ==== Sys2Proof/Machine/Reduce.lean ====
section
/-! DEFINITION. Reductions across modules: module partials, frames, sites, block replay, landing, acknowledgement, stragglers and
grace (R316 to R335). -/

namespace Sys2Proof.Machine

/-! Records of chunks and collectives. -/

/-- The step that a frame's `STEP2` names: the current step, the one before, or one of the two after. -/
def stepOf2 (s : State) (s2 : Nat) : Nat := (s.run.step + 2 ^ 32 - 1 + (s2 + 1 + 4 - s.run.step % 4) % 4) % 2 ^ 32

def isChunk (coll chunk step : Nat) (c : ChunkRt) : Bool := c.coll == coll && c.chunk == chunk && c.step == step

def findChunk (s : State) (coll chunk step : Nat) : Option ChunkRt := s.reductions.chunks.find? (isChunk coll chunk step)

def modChunk (coll chunk step : Nat) (f : ChunkRt → ChunkRt) (s : State) : State :=
  { s with reductions := { s.reductions with chunks := s.reductions.chunks.map (fun c => if isChunk coll chunk step c then f c else c) } }

def findColl (s : State) (coll step : Nat) : Option CollRt := s.reductions.colls.find? (fun c => c.coll == coll && c.step == step)

def modColl (coll step : Nat) (f : CollRt → CollRt) (s : State) : State :=
  { s with reductions := { s.reductions with
      colls := s.reductions.colls.map (fun c => if c.coll == coll && c.step == step then f c else c) } }

def newChunk (coll chunk step ring : Nat) : ChunkRt :=
  { coll := coll, chunk := chunk, step := step, launched := false, own0 := 0xFFFF, own1 := 0xFFFF, rho := 0, absent := [], ring := ring, exp := 0,
    leaves := [], done := false, used := [], late := [], carry := none, parts := [], halves := [], subst := [], formed := false, redo := false,
    rplExp := 0, rplBlocks := 0, rplParts := [], rplFormed := false, rootPart := none, replayed := false, landed := false,
    acked := false, delivered := [] }

def newColl (coll step : Nat) : CollRt :=
  { coll := coll, step := step, launched := false, deadline := none, ackDone := false, itemsSent := false, frames := [], items := [], snap := [],
    complete := false }

/-- A step left behind reduced (R29). -/
def pastReduces (s : State) (p : PastStep) : Bool := (s.image.map isFederated).getD false || (p.count + 1) % s.run.n == 0

/-- Reducing steps that have ended since a step left behind began, with that step. -/
def backOf (s : State) (step : Nat) : Nat := ((s.reductions.past.dropWhile (·.step != step)).filter (pastReduces s)).length

/-- Reducing steps since load before a step: the current one, the next, or one left behind. -/
def ringOf (s : State) (step : Nat) : Nat :=
  if step == (s.run.step + 1) % 2 ^ 32 && reducesStep s then s.reductions.ring + 1 else s.reductions.ring - backOf s step

/-- A step that the module has left. -/
def stepLeft (s : State) (step : Nat) : Bool := step != s.run.step && step != (s.run.step + 1) % 2 ^ 32

/-- A step whose sources have shown all they will: one left behind, or the last after its boundary (R121). -/
def stepOver (s : State) (step : Nat) : Bool := stepLeft s step || (s.run.finishing && step == s.run.step)

/-- The step of the oldest record of a chunk that a predicate takes, else the current one. -/
def chunkFor (s : State) (coll chunk : Nat) (p : ChunkRt → Bool) : Nat :=
  ((s.reductions.chunks.find? (fun c => c.coll == coll && c.chunk == chunk && p c)).map (·.step)).getD s.run.step

/-- A chunk's record, made when its first frame comes before the module's own departure. -/
def ensureChunk (coll chunk step : Nat) (s : State) : State :=
  if (findChunk s coll chunk step).isSome then s
  else { s with reductions := { s.reductions with chunks := s.reductions.chunks ++ [newChunk coll chunk step (ringOf s step)] } }

def ensureColl (coll step : Nat) (s : State) : State :=
  if (findColl s coll step).isSome then s
  else { s with reductions := { s.reductions with colls := s.reductions.colls ++ [newColl coll step] } }

/-! Owners and exponents. -/

/-- Shard of a tile under the table in force. -/
def shardOf (e : Env) (d tile : Nat) : Option Nat :=
  (ownShards e (dOwners d)).find? (fun sh => decide (shFirst sh ≤ tile) && decide (tile < shFirst sh + shTiles sh))

/-- The publish entry that carries a collective's exponents. -/
def pubOfColl (im : Image) (coll : Nat) : Option Nat := (im.car.pubs.zipIdx.find? (fun p => puColl p.1 == coll)).map (·.2)

/-- The version that the step reads of a publish entry (R379). -/
def expectedVer (s : State) (pub : Nat) : Nat := spGet 0 pub s.versions.expected

/-- The half of a collective's agreed exponents that a step takes (R328). -/
def aexpHalf (s : State) (im : Image) (coll step : Nat) : Nat :=
  (match pubOfColl im coll with
   | some p => expectedVer s p
   | none => spGet 0 (coAexp (collOf im coll)) s.versions.local_) + backOf s step

/-- The agreed exponent of a chunk in a step. -/
def agreedExp (s : State) (e : Env) (coll chunk step : Nat) : Nat :=
  let c := collOf e.im coll
  if !coQ16 c then 0
  else
    match elemAddr e (descOf e.im (coAexp c)) (aexpHalf s e.im coll step) chunk with
    | none => 0
    | some a => peekN e a 1

/-- Where that exponent is read. -/
def agreedRange (s : State) (e : Env) (coll step chunk : Nat) : List (Nat × Nat) :=
  let c := collOf e.im coll
  if coQ16 c then (elemAddr e (descOf e.im (coAexp c)) (aexpHalf s e.im coll step) chunk).toList.map (·, 1) else []

/-- Place of a chunk among the chunks owned here. -/
def ownedChunk (e : Env) (d chunk : Nat) : Option Nat :=
  if dOwners d == 0 then some chunk
  else (localTile e.id (ownShards e (dOwners d)) (chunk / 2) 0).map (fun k => 2 * k + chunk % 2)

/-- Address of an element of `DESC_HIST` for an owned chunk. -/
def histAddr (e : Env) (coll chunk ring : Nat) : Option Nat :=
  (ownedChunk e (descOf e.im (coDw (collOf e.im coll))) chunk).map (fun k => dBase (descOf e.im (coHist (collOf e.im coll))) + 16 * k + ring % 16)

/-- The exponent that an owner's history gives for the next step: E − 13 + H, clamped, 0 for no entry (R324, R328). -/
def nextExp (e : Env) (coll chunk : Nat) : Nat :=
  let h := ceilLog2 (membersOf e.im coll).length
  let m := ((List.range 16).map (fun i => ((histAddr e coll chunk i).map (fun a => peekN e a 1)).getD 0)).foldl max 0
  if m == 0 then 0 else clampExp ((m : Int) - 13 + h)

/-! Leaves (R317). -/

/-- Engines that hold a tile of a collective's tensor, with the slot: the leaves of `KIND` 0. -/
def tileSlots (im : Image) (dw tile : Nat) : List (Nat × Nat) :=
  im.wgbMap.zipIdx.filterMap (fun m =>
    (m.1.zipIdx.find? (fun w => bits w.1 0 24 == dw && bits w.1 24 24 == tile)).map (fun w => (m.2, w.2)))

/-- Entries of a source list: descriptor, counter, value. -/
def sourceList (e : Env) (coll : Nat) : List (Nat × Nat × Nat) :=
  let d := descOf e.im (coSrc (collOf e.im coll))
  let n := min 32 (elemCount d * unitSize d / 16)
  (List.range n).map (fun i =>
    let x := peekN e (dBase d + 16 * i) 16
    (bits x 0 24, bits x 32 16, bits x 64 32))

/-- Where an entry of a source list is read. -/
def sourceRange (e : Env) (coll leaf : Nat) : Nat × Nat := (dBase (descOf e.im (coSrc (collOf e.im coll))) + 16 * leaf, 16)

/-- Leaves of a chunk on this module. -/
def leavesOf (e : Env) (coll chunk : Nat) : List Nat :=
  let c := collOf e.im coll
  if coKind c == 0 then (tileSlots e.im (coDw c) (chunk / 2)).map (·.1)
  else if coKind c == 1 then List.range (sourceList e coll).length
  else []

def slotOf (s : State) (me slot : Nat) : Option WgbSlot := (spGet? me s.engines).bind (fun e => spGet? slot e.wgb)

def modSlot (me slot : Nat) (f : WgbSlot → WgbSlot) (s : State) : State :=
  match spGet? me s.engines with
  | none => s
  | some e =>
    match spGet? slot e.wgb with
    | none => s
    | some w => { s with engines := spSet me { e with wgb := spSet slot (f w) e.wgb } s.engines }

/-- An empty slot (Table 8.3). -/
def emptyWgb (w : WgbSlot) : WgbSlot := { w with st := 0, done := 0, vals := [], acked := [], ssq := 0, late := false, addedBy := [] }

/-- The slot of a leaf's tile. -/
def leafSlot (im : Image) (coll chunk leaf : Nat) : Option Nat :=
  ((tileSlots im (coDw (collOf im coll)) (chunk / 2)).find? (fun x => x.1 == leaf)).map (·.2)

/-- P40 values of a leaf's half tile, and the tile's sum of squares. -/
def leafVals (s : State) (e : Env) (coll chunk leaf : Nat) : List Nat × Nat :=
  let c := collOf e.im coll
  let h := chunk % 2
  if coKind c == 0 then
    match (leafSlot e.im coll chunk leaf).bind (slotOf s leaf) with
    | none => (List.replicate 2048 0, 0)
    | some w => ((w.vals.drop (2048 * h)).take 2048, w.ssq)
  else
    let src := ((sourceList e coll).getD leaf (0, 0, 0)).1
    let val := fun (c2 i : Nat) =>
      match chunkElem (descOf e.im (coDw c)) c2 i with
      | none => 0
      | some x => match readElem e src x with
        | .ok v => enc40 v
        | .error _ => 0
    let half := fun (h : Nat) => (List.range 2048).map (val (chunk / 2 * 2 + h))
    (half h, if h == 0 then ssqOf (half 0 ++ half 1) else 0)

/-- The first element of a memory source that cannot be read (R263). -/
def leafFault (e : Env) (coll chunk leaf : Nat) : Option (Nat × Nat) :=
  let c := collOf e.im coll
  if coKind c == 0 then none
  else if (rangesFault e.mem e.im.regions [sourceRange e coll leaf]).isSome then rangesFault e.mem e.im.regions [sourceRange e coll leaf]
  else
    let src := ((sourceList e coll).getD leaf (0, 0, 0)).1
    let chunks := if chunk % 2 == 0 then [chunk, chunk + 1] else [chunk]
    chunks.findSome? (fun c2 => (List.range 2048).findSome? (fun i => match chunkElem (descOf e.im (coDw c)) c2 i with
      | none => none
      | some x => match readElem e src x with
        | .error k => some (k, faultAddr e (descOf e.im src) (curHalf e src) x)
        | .ok _ => none))

/-- The step whose chunk takes a leaf: the oldest launched one that has not had it. -/
def leafStep (s : State) (coll chunk leaf : Nat) : Nat :=
  chunkFor s coll chunk (fun c => c.launched && !c.used.contains leaf && !c.late.contains leaf)

/-- A leaf's tile has streamed out for a step's chunk, or its source was ready when the step was left. -/
def leafHeld (s : State) (coll chunk step leaf : Nat) : Bool := ((findChunk s coll chunk step).map (·.leaves.contains leaf)).getD false

/-- Whether a leaf of a step's chunk is ready: its slot has drained for it or may drain, or its source's counter has reached its value
(R316). A slot still held for an earlier step is not. -/
def leafReady (s : State) (e : Env) (coll chunk step leaf : Nat) : Bool :=
  if leafStep s coll chunk leaf != step then false
  else if coKind (collOf e.im coll) == 0 then
    match (leafSlot e.im coll chunk leaf).bind (slotOf s leaf) with
    | none => false
    | some w => w.st == 2 || (w.st == 4 && leafHeld s coll chunk step leaf)
  else if stepOver s step then leafHeld s coll chunk step leaf
  else
    let x := (sourceList e coll).getD leaf (0, 0xFFFF, 0)
    waitMet s x.2.1 x.2.2

/-! Module partials (R318). -/

/-- The partial of the leaves of a chunk in P40: the subtree of 32 leaves, or drain order in fast mode, and then the deferral as the
right operand. -/
def ownPartial (s : State) (e : Env) (ch : ChunkRt) : Partial :=
  let c := collOf e.im ch.coll
  let ls := ch.used.map (fun l => (l, leafVals s e ch.coll ch.chunk l))
  let vals := if coFast c then
      (match ls with
       | [] => none
       | x :: r => some (r.foldl (fun a y => sumLists a y.2.1) x.2.1))
    else treeSum sumLists 5 ((List.range 32).map (fun i => (ls.find? (fun x => x.1 == i)).map (·.2.1)))
  let ssq := if ch.chunk % 2 == 1 then none
    else treeSum addP40 5 ((List.range 32).map (fun i => (ls.find? (fun x => x.1 == i)).map (·.2.2)))
  let all := (ls.flatMap (·.2.1)) ++ (match ch.carry with
    | some d => d.vals
    | none => [])
  let join := fun (a : Option (List Nat)) (b : List Nat) => match a with
    | some x => sumLists x b
    | none => b
  let z := zeroPartial false 0
  { z with
    vals := match ch.carry with
      | some d => join vals d.vals
      | none => vals.getD z.vals
    ssq := match ch.carry, ssq with
      | some d, some q => addP40 q d.ssq
      | some d, none => d.ssq
      | none, q => q.getD 0
    maxe := (all.map expOf40).foldl max 0
    ncont := ch.used.length + ((ch.carry.map (·.count)).getD 0)
    nstale := min 16383 ((ch.carry.map (·.count)).getD 0) }

/-- Rounding of a chunk's conversion to Q16: SR on stream 1 with the module's position as sequence (R324). -/
def q16Rm (e : Env) (coll chunk pos i : Nat) : Rm :=
  let d := descOf e.im (coDw (collOf e.im coll))
  match chunkElem d chunk i with
  | none => .rne
  | some x => .sr (srWord e.seed e.step (dTid d) x pos 1)

/-- A module partial in the collective's wire form. -/
def wirePartial (e : Env) (ch : ChunkRt) (pos : Nat) (p : Partial) : Partial :=
  if coQ16 (collOf e.im ch.coll) then
    (if p.ncont == 0 then { zeroPartial true ch.exp with maxe := 0 } else toQ16 ch.exp (q16Rm e ch.coll ch.chunk pos) p)
  else p

def treeOf (im : Image) (ch : ChunkRt) : Tree := { g := (membersOf im ch.coll).length, absent := ch.absent, rho := ch.rho }

/-- `REDUCE` frames of a node (Table 12.6). -/
def reduceFrames (s : State) (ch : ChunkRt) (rpl : Bool) (dst k : Nat) (p : Partial) : List (Option Nat × Frame) :=
  let fields := fun (part : Nat) =>
    [(128, 12, ch.coll), (140, 24, ch.chunk), (164, 1, part), (165, 1, b2n rpl), (166, 2, ch.step), (168, 5, k), (173, 8, p.maxe),
     (181, 40, p.ssq), (221, 21, p.ncont), (242, 14, p.nstale)]
  let mk := fun (part : Nat) (bs : List Byte) =>
    { mkFrame s.fabric 1 false dst (ch.chunk % 256) (fields part) bs with redo := ch.redo }
  if rpl then
    [(some 0x0E, mk 0 (((List.range 32).filter (fun j => p.exps.getD j 0 != 0)).flatMap (fun j => lanesBytes ((p.vals.drop (64 * j)).take 64)) ++
      sideRecord p))]
  else if p.q16 then [(some 0x0E, mk 0 (lanesBytes p.vals ++ sideRecord p))]
  else [(some 0x0C, mk 0 (p40Bytes (p.vals.take 1024))), (some 0x0C, mk 1 (p40Bytes (p.vals.drop 1024)))]

/-- Send a unit's frames; one with no usable route fails the command (R294). -/
def sendOrFail (fs : List (Option Nat × Frame)) (s : State) : State :=
  let r := sendFrames fs s
  if r.2 then r.1 else failRun 0x0503 r.1

/-! Landing (R329 to R331). -/

/-- Landing values: exact from Q16 lanes, NaN for a nonfinite block, and the node itself in P40 (R329). -/
def landingVals (p : Partial) : List Nat :=
  if p.q16 then
    (blocksOf p).flatMap (fun b => b.1.map (fun q =>
      if bitAt b.2.2 1 then enc40 .nan else enc40 (fvScale ((b.2.1 : Int) - 127) (fvInt (toSigned 16 q)))))
  else p.vals

def landingNan (p : Partial) : Bool := if p.q16 then p.flags.any (bitAt · 1) else p.vals.any (fun w => fvIsNan (dec40 w))

/-- `LATE` (R329). -/
def lateOf (tokens : Nat) (p : Partial) : Nat := min (tokens + p.nstale - p.ncont) (2 ^ 21 - 1)

/-- A landing record (Table 12.8). -/
def landingRecord (im : Image) (ch : ChunkRt) (p : Partial) : Nat :=
  pack [(0, 21, if p.ncont == 0 then 1 else p.ncont), (21, 14, p.nstale), (35, 21, lateOf (tokensOf im ch.coll) p), (56, 1, 1),
        (57, 1, b2n (landingNan p)), (58, 1, b2n ch.replayed), (64, 32, ch.step), (96, 40, p.ssq), (136, 8, p.maxe)]

def recAddr (e : Env) (coll chunk : Nat) : Option Nat :=
  (ownedChunk e (descOf e.im (coDw (collOf e.im coll))) chunk).map (fun k => dBase (descOf e.im (coLrec (collOf e.im coll))) + 16 + 32 * k)

/-- Write P40 values of a chunk's elements into a tensor. -/
def putChunk (e : Env) (desc dw chunk : Nat) (vals : List Nat) (m : Memory) : Memory :=
  vals.zipIdx.foldl (fun m v =>
    match chunkElem dw chunk v.2 with
    | none => m
    | some x => match elemAddr e desc 0 x with
      | none => m
      | some a => vaPut m e.im.regions a (leBytes 5 v.1)) m

/-- Bytes of memory that a chunk of a tensor takes, as ranges. -/
def chunkRanges (e : Env) (desc dw chunk : Nat) : List (Nat × Nat) :=
  (List.range 2048).filterMap (fun i => ((chunkElem dw chunk i).bind (elemAddr e desc 0)).map (fun a => (a, 5)))

/-- Bytes that the landing of a chunk writes besides its values: its record and its entry of the exponent history. -/
def recordRanges (e : Env) (coll chunk ring : Nat) : List (Nat × Nat) :=
  ((recAddr e coll chunk).map (fun a => (a, 32))).toList ++
  (if coQ16 (collOf e.im coll) then ((histAddr e coll chunk ring).map (fun a => (a, 1))).toList else [])

/-- Land a chunk on an owner: S, its record, the exponent history, `LAND_CTR`. `need` holds the region bits that the landing takes: a
write, or a peer's write (R239, R240). -/
def landChunk (need coll chunk step : Nat) (vals : List Nat) (rec_ : Nat) (s : State) : State :=
  match envOf s with
  | none => s
  | some e =>
    let c := collOf e.im coll
    let ring := ((findChunk s coll chunk step).map (·.ring)).getD s.reductions.ring
    match rangeFault e need (chunkRanges e (descOf e.im (coLand c)) (descOf e.im (coDw c)) chunk ++ recordRanges e coll chunk ring) with
    | some (k, a) => failBytes k a 1 s
    | none =>
    let m1 := putChunk e (descOf e.im (coLand c)) (descOf e.im (coDw c)) chunk vals s.memory
    let m2 := match recAddr e coll chunk with
      | none => m1
      | some a => vaPut m1 e.im.regions a (leBytes 32 rec_)
    let m3 := if !coQ16 c then m2
      else match histAddr e coll chunk ring with
        | none => m2
        | some a => vaPut m2 e.im.regions a (leBytes 1 (bits rec_ 136 8))
    let s1 := modChunk coll chunk step (fun h => { h with landed := true })
      { s with memory := m3, run := { s.run with late := s.run.late + bits rec_ 35 21 } }
    addCtr (coLandCtr c) 1 s1

/-- `DELIVER` frames to an owner (R330). -/
def deliverFrames (s : State) (ch : ChunkRt) (dst : Nat) (vals : List Nat) (rec_ : Nat) : List (Option Nat × Frame) :=
  let mk := fun (part : Nat) (bs : List Byte) =>
    { mkFrame s.fabric 2 false dst (ch.chunk % 256) [(128, 12, ch.coll), (140, 24, ch.chunk), (164, 1, part), (165, 2, ch.step)] bs with redo := ch.redo }
  [(some 0x0C, mk 0 (p40Bytes (vals.take 1024))), (some 0x0C, mk 1 (p40Bytes (vals.drop 1024) ++ leBytes 32 rec_))]

/-- Total chunks of a collective. -/
def chunkCount (im : Image) (coll : Nat) : Nat := 2 * tileCount (descOf im (coDw (collOf im coll)))

/-- `ACK_CTR` once every chunk for which a partial was sent is acknowledged (R331). -/
def ackCounter (coll step : Nat) (s : State) : State :=
  match s.image, findColl s coll step with
  | some im, some c =>
    let n := (s.reductions.chunks.filter (fun h => h.coll == coll && h.step == step && h.done && h.acked)).length
    if c.ackDone || n < chunkCount im coll then s
    else addCtr (coAckCtr (collOf im coll)) 1 (modColl coll step (fun c => { c with ackDone := true }) s)
  | _, _ => s

/-- A leaf's slot is free of one of its tile's chunks; it is `EMPTY` once both are settled (Table 8.3). -/
def settleSlot (im : Image) (coll chunk leaf : Nat) (s : State) : State :=
  match leafSlot im coll chunk leaf with
  | none => s
  | some sl => modSlot leaf sl (fun w =>
      if w.st != 2 && w.st != 4 then w
      else
        let a := (w.acked ++ [chunk % 2]).eraseDups
        if a.contains 0 && a.contains 1 then emptyWgb w else { w with acked := a }) s

/-- The final acknowledgement of a chunk releases what was held for it (R331). -/
def ackChunk (coll chunk step : Nat) (s : State) : State :=
  match s.image, findChunk s coll chunk step with
  | some im, some ch =>
    if ch.acked then s
    else
      let s1 := if coKind (collOf im coll) == 0 then ch.used.foldl (fun t l => settleSlot im coll chunk l t) s else s
      let s2 := modChunk coll chunk step (fun h => { h with acked := true, carry := none, parts := [], rplParts := [], halves := [] }) s1
      ackCounter coll step s2
  | _, _ => s

/-- Node formed at the root: the chunk lands, is delivered to its other owners, and is acknowledged (R329 to R331). -/
def landRoot (coll chunk step : Nat) (p : Partial) (s : State) : State :=
  match s.image, findChunk s coll chunk step with
  | some im, some ch =>
    let c := collOf im coll
    let id := myId s.fabric
    let vals := landingVals p
    let r := landingRecord im ch p
    let owners := [ch.own0, ch.own1].eraseDups.filter (· != 0xFFFF)
    let s1 := if owners.contains id then landChunk 2 coll chunk step vals r s else modChunk coll chunk step (fun h => { h with landed := true }) s
    let s2 := sendOrFail ((owners.filter (fun o => o != id && !(goneModules s).contains o)).flatMap (fun o => deliverFrames s1 ch o vals r)) s1
    let ack := { mkFrame s.fabric 5 true (coMcast c) 0 [(128, 12, coll), (140, 24, chunk), (164, 2, step), (166, 16, 1)] [] with redo := ch.redo }
    ackChunk coll chunk step (sendOrFail [(none, ack)] s2)
  | _, _ => s

/-! Block replay (R326, R327). -/

/-- Blocks to replay: `OVF` set and `NONFINITE` clear. -/
def replayBlocks (p : Partial) : Nat := pack (p.flags.zipIdx.map (fun f => (f.2, 1, b2n (bitAt f.1 0 && !bitAt f.1 1))))

/-- The root's blocks replaced by the replayed ones. -/
def mergeReplay (blocks : Nat) (p r : Partial) : Partial :=
  let bs := List.zipWith (fun (a b : (List Nat × Nat × Nat) × Nat) => if bitAt blocks b.2 then b.1 else a.1)
    (blocksOf p).zipIdx (blocksOf r).zipIdx
  { p with vals := bs.flatMap (·.1), exps := bs.map (·.2.1), flags := bs.map (·.2.2) }

/-- The replay's node goes on to the next site, or completes at the root. -/
def advanceReplay (coll chunk step : Nat) (s : State) : State :=
  match s.image, findChunk s coll chunk step with
  | some im, some ch =>
    let ms := membersOf im coll
    let t := treeOf im ch
    match posOf ms (myId s.fabric) with
    | none => s
    | some p =>
      if ch.rplFormed || ch.rplExp == 0 then s
      else
        match formNode (coFast (collOf im coll)) t p ch.rplParts with
        | none => s
        | some (k, v) =>
          let s1 := modChunk coll chunk step (fun h => { h with rplFormed := true }) s
          if k < depth t then
            match site t (k + 1) (nodeLo p (k + 1)) with
            | none => s1
            | some q => sendOrFail (reduceFrames s1 ch true (ms.getD q 0) k v) s1
          else
            match ch.rootPart with
            | none => s1
            | some r =>
              if replayBlocks v &&& ch.rplBlocks != 0 then failRun 0x0402 s1
              else landRoot coll chunk step (mergeReplay ch.rplBlocks r v) (modChunk coll chunk step (fun h => { h with replayed := true }) s1)
  | _, _ => s

/-- A stand-in among the frames of a replay. -/
def replayStandIn (exp blocks : Nat) : Partial :=
  { zeroPartial true 0 with exps := (List.range 32).map (fun j => if bitAt blocks j then exp else 0) }

/-- Nodes that a site substitutes in a replay too: those it substituted before, and those of modules that are gone (R327, R332, R334). -/
def replayAbsent (s : State) (im : Image) (ch : ChunkRt) : List (Nat × Nat) :=
  let ms := membersOf im ch.coll
  match posOf ms (myId s.fabric) with
  | none => []
  | some p =>
    let t := treeOf im ch
    (expectedNodes t p).filter (fun n => (partAt ch.rplParts n.1 n.2).isNone && (ch.subst.contains n ||
      (match site t n.2 n.1 with
       | some q => (goneModules s).contains (ms.getD q 0)
       | none => false)))

/-- The stand-ins of a replay enter it. -/
def substituteReplay (coll chunk step : Nat) (s : State) : State :=
  match s.image, findChunk s coll chunk step with
  | some im, some ch =>
    let l := replayAbsent s im ch
    advanceReplay coll chunk step (modChunk coll chunk step (fun h =>
      { h with rplParts := h.rplParts ++ l.map (fun n => (n.1, n.2, replayStandIn h.rplExp h.rplBlocks)), subst := (h.subst ++ l).eraseDups }) s)
  | _, _ => s

/-- A member answers a replay request (R327). -/
def answerReplay (coll chunk step exp blocks : Nat) (s : State) : State :=
  match envOf s, findChunk s coll chunk step with
  | some e, some ch =>
    match posOf (membersOf e.im coll) (myId s.fabric) with
    | none => s
    | some p =>
      if ch.rplExp != 0 || !ch.done then s
      else
        match ch.used.findSome? (leafFault e coll chunk) with
        | some (c, a) => failBytes c a 1 s
        | none =>
        let own := toReplay exp blocks (q16Rm { e with step := step } coll chunk p) (ownPartial s e ch)
        let own1 := if own.ncont == 0 then replayStandIn exp blocks else own
        substituteReplay coll chunk step (modChunk coll chunk step (fun h =>
          { h with rplExp := exp, rplBlocks := blocks, rplParts := h.rplParts ++ [(p, 0, own1)] }) s)
  | _, _ => s

/-- The root has formed the chunk: a replay is requested, or the chunk lands. -/
def rootFormed (coll chunk step : Nat) (p : Partial) (s : State) : State :=
  match s.image with
  | none => s
  | some im =>
    let bl := if p.q16 then replayBlocks p else 0
    if bl == 0 then landRoot coll chunk step p s
    else
      let c := collOf im coll
      let e := clampExp ((p.maxe : Int) - 13 + ceilLog2 (membersOf im coll).length)
      let redo := ((findChunk s coll chunk step).map (·.redo)).getD false
      let f := { mkFrame s.fabric 4 true (coMcast c) 0 [(128, 12, coll), (140, 24, chunk), (164, 2, step), (166, 8, e), (174, 32, bl)] [] with redo := redo }
      let s1 := modChunk coll chunk step (fun h => { h with rootPart := some p }) s
      answerReplay coll chunk step e bl (sendOrFail [(none, f)] s1)

/-- Form what this site can and send it on, or finish at the root (R319, R320). -/
def advance (coll chunk step : Nat) (s : State) : State :=
  match s.image, findChunk s coll chunk step with
  | some im, some ch =>
    let ms := membersOf im coll
    let t := treeOf im ch
    match posOf ms (myId s.fabric) with
    | none => s
    | some p =>
      if ch.formed || !ch.done then s
      else
        match formNode (coFast (collOf im coll)) t p ch.parts with
        | none => s
        | some (k, v) =>
          let s1 := modChunk coll chunk step (fun h => { h with formed := true }) s
          if k < depth t then
            match site t (k + 1) (nodeLo p (k + 1)) with
            | none => s1
            | some q => sendOrFail (reduceFrames s1 ch false (ms.getD q 0) k v) s1
          else rootFormed coll chunk step v s1
  | _, _ => s

/-- The module's partial of the leaves named enters the tree. -/
def sendPartial (coll chunk step : Nat) (used : List Nat) (s : State) : State :=
  match envOf s, findChunk s coll chunk step with
  | some e, some ch =>
    match posOf (membersOf e.im coll) (myId s.fabric) with
    | none => s
    | some p =>
      match used.findSome? (leafFault e coll chunk) with
      | some (c, a) => failBytes c a 1 s
      | none =>
      let ch1 := { ch with done := true, used := used }
      let w := wirePartial { e with step := step } ch1 p (ownPartial s e ch1)
      advance coll chunk step (modChunk coll chunk step (fun h =>
        { h with done := true, used := used, parts := h.parts ++ [(p, 0, w)] }) s)
  | _, _ => s

/-! LAUNCH (R316). -/

/-- The deferral of a chunk joins its next reduction (R318, R333): its leaves in logical order, the first stored. -/
def takeCarry (coll chunk : Nat) (s : State) : Option Carry × State :=
  match s.reductions.deferred.find? (fun d => d.coll == coll && d.chunk == chunk) with
  | none => (none, s)
  | some d =>
    let vals := match d.vals with
      | [] => List.replicate 2048 0
      | x :: r => r.foldl (fun a y => sumLists a y.2) x.2
    let ssq := match d.ssq with
      | [] => 0
      | x :: r => r.foldl (fun a y => addP40 a y.2) x.2
    (some { vals := vals, ssq := ssq, count := d.vals.length },
     { s with reductions := { s.reductions with deferred := s.reductions.deferred.filter (fun x => x != d) } })

/-- A chunk starts: its owners, root and exponent are fixed (R373). One whose second reduction has begun elsewhere has lost its first
root (R332). -/
def startChunk (coll step chunk : Nat) (s : State) : State :=
  match envOf s with
  | none => s
  | some e =>
    let ms := membersOf e.im coll
    let sh := (shardOf e (descOf e.im (coDw (collOf e.im coll))) (chunk / 2)).getD (0xFFFF <<< 64 ||| 0xFFFF <<< 80)
    let gone := goneModules s
    let c := takeCarry coll chunk (ensureChunk coll chunk step s)
    let again := ((findChunk s coll chunk step).map (·.redo)).getD false
    let o0 := if again || gone.contains (shOwner0 sh) then shOwner1 sh else shOwner0 sh
    let rho := (posOf ms o0).getD 0
    let lostRoot := if again then (posOf ms (shOwner0 sh)).toList else []
    let latched := (((s.reductions.past.find? (·.step == step)).map (·.ready)).getD []).filter (·.1 == coll) |>.map (·.2)
    let s1 := modChunk coll chunk step (fun h =>
      { h with launched := true, own0 := shOwner0 sh, own1 := shOwner1 sh, rho := rho, absent := absentPos s ms ++ lostRoot, ring := ringOf s step,
               leaves := h.leaves ++ latched, exp := agreedExp s e coll chunk step, carry := c.1 }) c.2
    if (leavesOf e coll chunk).isEmpty then sendPartial coll chunk step [] s1 else s1

/-- A chunk that nothing more can happen to: acknowledged, with every slot of its tile settled. -/
def chunkOver (e : Env) (c : ChunkRt) : Bool :=
  c.acked && (coKind (collOf e.im c.coll) != 0 || (leavesOf e c.coll c.chunk).all (fun l => c.used.contains l || c.late.contains l))

/-- A collective's step that is over: left behind by more than the one step that a frame may still name, with every chunk over and its
acknowledgement signalled (R331). Until then its records stay, so that a second frame of a chunk is known as one (R323). -/
def collOver (s : State) (e : Env) (coll step : Nat) : Bool :=
  stepLeft s step && step != (s.run.step + 2 ^ 32 - 1) % 2 ^ 32 &&
  (match findColl s coll step with
   | none => true
   | some c => if coKind (collOf e.im coll) == 2 then c.complete else c.ackDone) &&
  s.reductions.chunks.all (fun h => h.coll != coll || h.step != step || !h.launched || chunkOver e h)

/-- The records of a collective's steps that are over go, those of the step named apart. -/
def dropOver (e : Env) (coll st : Nat) (s : State) : State :=
  let r := s.reductions
  let gone := fun (c x : Nat) => c == coll && x != st && collOver s e coll x
  { s with reductions := { r with colls := r.colls.filter (fun c => !gone c.coll c.step), chunks := r.chunks.filter (fun c => !gone c.coll c.step) } }

/-- What a launch reads first that cannot be read: agreed exponents, and the list of memory sources (R263). -/
def launchFault (s : State) (e : Env) (coll st : Nat) : Option (Nat × Nat) :=
  rangesFault e.mem e.im.regions ((List.range (chunkCount e.im coll)).flatMap (agreedRange s e coll st) ++
    (if coKind (collOf e.im coll) == 1 then (List.range (sourceList e coll).length).map (sourceRange e coll) else []))

/-- `LAUNCH` of a collective in a step. A module outside the collective's group has nothing to send for it (R316). -/
def launchColl (coll st : Nat) (s : State) : State :=
  match envOf s with
  | none => s
  | some e =>
    let im := e.im
    if (posOf (membersOf im coll) e.id).isNone then s
    else
    let s1 := ensureColl coll st (dropOver e coll st s)
    let s2 := modColl coll st (fun c => { c with launched := true }) s1
    if coKind (collOf im coll) == 2 then s2
    else match launchFault s2 e coll st with
    | some (c, a) => failBytes c a 1 s2
    | none => (List.range (chunkCount im coll)).foldl (fun t c => startChunk coll st c t) s2

/-! WGB drains and module partials (R204, R207, R318). -/

/-- The collective and tile of a slot. -/
def slotTile (im : Image) (me slot : Nat) : Option (Nat × Nat) :=
  let w := (im.wgbMap.getD me []).getD slot 0
  if bits w 0 24 == 0 then none
  else (im.car.colls.zipIdx.find? (fun c => coKind c.1 == 0 && coDw c.1 == bits w 0 24)).map (fun c => (c.2, bits w 24 24))

/-- A slot's tile streams out: sum of squares formed, contents held (Table 8.3). -/
def drainSlot (me slot : Nat) (s : State) : State := modSlot me slot (fun w => { w with st := 4, ssq := ssqOf w.vals, acked := [] }) s

/-- A leaf's tile streams out for both chunks of its tile in a step. -/
def drainLeaf (coll tile step me slot : Nat) (s : State) : State :=
  let add := fun (h : ChunkRt) => if h.leaves.contains me then h else { h with leaves := h.leaves ++ [me] }
  modChunk coll (2 * tile + 1) step add (modChunk coll (2 * tile) step add (drainSlot me slot s))

/-- `WGB_DRAIN`: a ready slot whose caravan has departed, before the module's partial of its chunks. -/
def wgbDrainSt (me slot : Nat) (s : State) : State :=
  match s.image, slotOf s me slot with
  | some im, some w =>
    match slotTile im me slot with
    | none => s
    | some (coll, tile) =>
      let st := leafStep s coll (2 * tile) me
      let open_ := fun (c : Nat) => match findChunk s coll c st with
        | some h => h.launched && !h.done
        | none => false
      if w.st != 2 || leafStep s coll (2 * tile + 1) me != st || !open_ (2 * tile) || !open_ (2 * tile + 1) then s
      else drainLeaf coll tile st me slot s
  | _, _ => s

/-- Leaves that count as ready for a chunk now, in drain order where they have drained. -/
def readyLeaves (s : State) (e : Env) (ch : ChunkRt) : List Nat :=
  let all := leavesOf e ch.coll ch.chunk
  ch.leaves ++ all.filter (fun l => !ch.leaves.contains l && leafReady s e ch.coll ch.chunk ch.step l)

/-- `MODULE_PARTIAL`: every leaf is ready. -/
def modulePartialSt (coll chunk : Nat) (s : State) : State :=
  let st := chunkFor s coll chunk (fun c => c.launched && !c.done)
  match envOf s, findChunk s coll chunk st with
  | some e, some ch =>
    let ls := if coKind (collOf e.im coll) == 0 then ch.leaves else readyLeaves s e ch
    if !ch.launched || ch.done || (leavesOf e coll chunk).any (fun l => !ls.contains l) then s
    else sendPartial coll chunk st ls s
  | _, _ => s

def execWgbDrain (me slot : Nat) (s : State) : Host.Outcome State Fault Refusal := .next (wgbDrainSt me slot s)
def execModulePartial (coll chunk : Nat) (s : State) : Host.Outcome State Fault Refusal := .next (modulePartialSt coll chunk s)

/-! DEADLINE, stragglers and grace (R333, R334). -/

/-- At the deadline a chunk's partial leaves with the leaves that are ready; their slots drain. -/
def deadlineChunk (coll step chunk : Nat) (s : State) : State :=
  match envOf s, findChunk s coll chunk step with
  | some e, some ch =>
    if !ch.launched || ch.done then s
    else
      let ls := readyLeaves s e ch
      let s1 := if coKind (collOf e.im coll) != 0 then s
        else ls.foldl (fun t l => match leafSlot e.im coll chunk l with
          | some sl => if ((slotOf t l sl).map (·.st)).getD 0 == 2 then drainLeaf coll (chunk / 2) step l sl t else t
          | none => t) s
      sendPartial coll chunk step ls s1
  | _, _ => s

/-- `DEADLINE` of a collective in a step; a record collective that is not complete fails the command (R337). -/
def deadlineColl (coll st : Nat) (s : State) : State :=
  match s.image with
  | none => s
  | some im =>
    let s1 := modColl coll st (fun c => { c with deadline := some s.time.now }) (ensureColl coll st s)
    if coKind (collOf im coll) == 2 then (if ((findColl s1 coll st).map (·.complete)).getD false then s1 else failRun 0x0506 s1)
    else (List.range (chunkCount im coll)).foldl (fun t c => deadlineChunk coll st c t) s1

/-- Add a deferred leaf (R333). -/
def deferLeaf (coll chunk leaf : Nat) (v : List Nat × Nat) (s : State) : State :=
  let r := s.reductions
  let is := fun (d : Deferred) => d.coll == coll && d.chunk == chunk
  let d := (r.deferred.find? is).getD { coll := coll, chunk := chunk, vals := [], ssq := [] }
  let d1 := { d with vals := spSet leaf v.1 d.vals, ssq := if chunk % 2 == 0 then spSet leaf v.2 d.ssq else d.ssq }
  { s with reductions := { r with deferred := r.deferred.filter (fun x => !is x) ++ [d1] } }

/-- The defer accumulator in memory: its leaves added in logical order (R333). -/
def putDefer (coll chunk : Nat) (s : State) : State :=
  match envOf s, s.reductions.deferred.find? (fun d => d.coll == coll && d.chunk == chunk) with
  | some e, some d =>
    let c := collOf e.im coll
    match d.vals with
    | [] => s
    | x :: r => match rangeFault e 2 (chunkRanges e (descOf e.im (coDefer c)) (descOf e.im (coDw c)) chunk) with
      | some (k, a) => failBytes k a 1 s
      | none => { s with memory := putChunk e (descOf e.im (coDefer c)) (descOf e.im (coDw c)) chunk (r.foldl (fun a y => sumLists a y.2) x.2) s.memory }
  | _, _ => s

/-- `STRAGGLER_LEAF`: a leaf ready after its module's partial left is dropped with a warning, or deferred. While an earlier deferral of
the chunk is held for acknowledgement, the leaf waits. -/
def stragglerSt (coll chunk leaf : Nat) (s : State) : State :=
  let st := leafStep s coll chunk leaf
  match envOf s, findChunk s coll chunk st with
  | some e, some ch =>
    let c := collOf e.im coll
    if !ch.done || ch.used.contains leaf || ch.late.contains leaf || !(leavesOf e coll chunk).contains leaf ||
        !leafReady s e coll chunk st leaf || (coDefers c && ch.carry.isSome && !ch.acked) then s
    else
      let s0 := match leafSlot e.im coll chunk leaf with
        | some sl => if coKind c == 0 && ((slotOf s leaf sl).map (·.st)).getD 0 == 2 then drainLeaf coll (chunk / 2) st leaf sl s else s
        | none => s
      match leafFault e coll chunk leaf with
      | some (k, a) => failBytes k a 1 s
      | none =>
      let v := leafVals s0 e coll chunk leaf
      let s1 := modChunk coll chunk st (fun h => { h with late := h.late ++ [leaf] }) s0
      let s2 := if coKind c == 0 then settleSlot e.im coll chunk leaf s1 else s1
      if coDefers c then putDefer coll chunk (deferLeaf coll chunk leaf v s2) else warnRun 0x0501 s2
  | _, _ => s

/-- Stand-ins for the nodes named, then the site goes on. -/
def substitute (coll chunk step : Nat) (nodes : List (Nat × Nat)) (s : State) : State :=
  match s.image with
  | none => s
  | some im =>
    let q := coQ16 (collOf im coll)
    advance coll chunk step (modChunk coll chunk step (fun h =>
      { h with parts := h.parts ++ nodes.map (fun n => (n.1, n.2, zeroPartial q h.exp)), subst := h.subst ++ nodes }) s)

/-- Expected nodes that have not come. -/
def missingNodes (s : State) (im : Image) (ch : ChunkRt) : List (Nat × Nat) :=
  match posOf (membersOf im ch.coll) (myId s.fabric) with
  | none => []
  | some p => (expectedNodes (treeOf im ch) p).filter (fun n => (partAt ch.parts n.1 n.2).isNone)

/-- `GRACE_SUBSTITUTION`: at the deadline and grace. -/
def graceSt (coll chunk : Nat) (s : State) : State :=
  let st := chunkFor s coll chunk (fun c => c.done && !c.formed)
  match s.image, findChunk s coll chunk st, (findColl s coll st).bind (·.deadline) with
  | some im, some ch, some d =>
    if ch.formed || !ch.done || s.time.now < d + 65536 * coGrace (collOf im coll) then s
    else substitute coll chunk st (missingNodes s im ch) s
  | _, _, _ => s

def execStragglerLeaf (coll chunk leaf : Nat) (s : State) : Host.Outcome State Fault Refusal := .next (stragglerSt coll chunk leaf s)
def execGraceSubstitution (coll chunk : Nat) (s : State) : Host.Outcome State Fault Refusal := .next (graceSt coll chunk s)

/-! Frames (R323, R327, R330, R331). -/

/-- A partial that comes too late for its substituted node is counted at the site (R334). -/
def lateFrame (f : Frame) (s : State) : State :=
  takeFrame f (onPort (portOf s f) (fun p => { p with substitutions := tick64 p.substitutions }) s)

/-- The partial of a Q16 frame. -/
def frameQ16 (f : Frame) : Partial :=
  let rpl := tsp f 165 1 == 1
  let n := (f.payload.length - 64) / 128
  let side := cutNats 1 64 (f.payload.drop (128 * n))
  let exps := side.take 32
  let lanes := cutNats 2 (64 * n) f.payload
  let vals := if rpl then
      ((List.range 32).foldl (fun (a : List Nat × List Nat) j =>
        if exps.getD j 0 != 0 then (a.1 ++ a.2.take 64, a.2.drop 64) else (a.1 ++ List.replicate 64 0, a.2)) ([], lanes)).1
    else lanes
  let r := readLanes vals exps (side.drop 32)
  { q16 := true, vals := r.1, exps := r.2.1, flags := r.2.2, maxe := tsp f 173 8, ssq := tsp f 181 40, ncont := tsp f 221 21, nstale := tsp f 242 14 }

/-- The first reduction of a chunk is discarded, and every leaf is sent again with `REDO` (R332): its `OWNER0` is lost, whether or not the
notice has come, and the root is its `OWNER1`. -/
def redoChunk (coll chunk step : Nat) (s : State) : State :=
  match s.image, findChunk s coll chunk step with
  | some im, some ch =>
    if ch.redo || ch.acked then s
    else
      let ms := membersOf im coll
      let o := if ch.own1 == 0xFFFF then ch.own0 else ch.own1
      let ab := (absentPos s ms ++ (posOf ms ch.own0).toList).eraseDups
      let h1 := fun (h : ChunkRt) =>
        { h with redo := true, parts := [], halves := [], subst := [], formed := false, rplExp := 0, rplBlocks := 0, rplParts := [], rplFormed := false,
                 rootPart := none, replayed := false, delivered := [], absent := if h.launched then ab else h.absent, rho := (posOf ms o).getD 0 }
      let s1 := modChunk coll chunk step h1 s
      if ch.done then sendPartial coll chunk step ch.used s1 else s1
  | _, _ => s

/-- The first frame with `REDO` of a chunk begins its second reduction (R332). -/
def redoFrame (f : Frame) (coll chunk step : Nat) (s : State) : State := if f.redo then redoChunk coll chunk step s else s

/-- A frame of a chunk's first reduction that comes during its second (R323). -/
def oldFrame (f : Frame) (coll chunk step : Nat) (s : State) : Bool :=
  !f.redo && ((findChunk s coll chunk step).map (·.redo)).getD false

/-- A frame names a chunk of a step that is over, of which no record is left. -/
def frameOver (s : State) (coll chunk step : Nat) : Bool :=
  stepLeft s step && (findChunk s coll chunk step).isNone && step == (s.run.step + 2 ^ 32 - 1) % 2 ^ 32 &&
  !s.reductions.past.any (·.step == step)

/-- `REDUCE_FRAME`. -/
def reduceFrameSt (f : Frame) (s : State) : State :=
  match s.image with
  | none => duplicate f s
  | some im =>
    let coll := tsp f 128 12
    let chunk := tsp f 140 24
    let step := stepOf2 s (tsp f 166 2)
    let rpl := tsp f 165 1 == 1
    let k := tsp f 168 5
    match posOf (membersOf im coll) f.src with
    | none => takeFrame f (discardOn (portOf s f) s)
    | some src =>
      if f.ftype != 1 || !s.run.active then takeFrame f (discardOn (portOf s f) s)
      else if frameOver s coll chunk step then duplicate f s
      else
        let s0 := ensureChunk coll chunk step s
        let s1 := if f.redo then redoChunk coll chunk step s0 else s0
        match findChunk s1 coll chunk step with
        | none => s
        | some ch =>
          let lo := nodeLo src k
          let parts := if rpl then ch.rplParts else ch.parts
          let held := (partAt parts lo k).isSome
          if (ch.redo && !f.redo) || ch.acked || ch.landed then duplicate f s1
          else if held && ch.subst.contains (lo, k) then lateFrame f s1
          else if held || (if rpl then ch.rplFormed else ch.formed) then duplicate f s1
          else
            let s2 := takeFrame f s1
            if coQ16 (collOf im coll) then
              let p := frameQ16 f
              if rpl then advanceReplay coll chunk step (modChunk coll chunk step (fun h => { h with rplParts := h.rplParts ++ [(lo, k, p)] }) s2)
              else advance coll chunk step (modChunk coll chunk step (fun h => { h with parts := h.parts ++ [(lo, k, p)] }) s2)
            else
              let part := tsp f 164 1
              let vals := cutNats 5 1024 f.payload
              match ch.halves.find? (fun x => x.1 == lo && x.2.1 == k) with
              | none => modChunk coll chunk step (fun h => { h with halves := h.halves ++ [(lo, k, part, vals)] }) s2
              | some x =>
                if x.2.2.1 == part then duplicate f s1
                else
                  let all := if part == 1 then x.2.2.2 ++ vals else vals ++ x.2.2.2
                  let p : Partial := { q16 := false, vals := all, exps := [], flags := [], maxe := tsp f 173 8, ssq := tsp f 181 40,
                                       ncont := tsp f 221 21, nstale := tsp f 242 14 }
                  advance coll chunk step (modChunk coll chunk step (fun h =>
                    { h with parts := h.parts ++ [(lo, k, p)], halves := h.halves.filter (fun y => !(y.1 == lo && y.2.1 == k)) }) s2)

/-- `REPLAY_REQ`. -/
def replayReqSt (f : Frame) (s : State) : State :=
  if f.ftype != 4 then s
  else
    let coll := tsp f 128 12
    let chunk := tsp f 140 24
    let step := stepOf2 s (tsp f 164 2)
    let s1 := redoFrame f coll chunk step s
    if oldFrame f coll chunk step s1 then duplicate f s1
    else answerReplay coll chunk step (tsp f 166 8) (tsp f 174 32) (takeFrame f s1)

/-- `DELIVER`: an owner lands the chunk when both parts have come. -/
def deliverSt (f : Frame) (s : State) : State :=
  let coll := tsp f 128 12
  let chunk := tsp f 140 24
  let step := stepOf2 s (tsp f 165 2)
  let part := tsp f 164 1
  if f.ftype != 2 || s.image.isNone then takeFrame f (discardOn (portOf s f) s)
  else if frameOver s coll chunk step then duplicate f s
  else
    let s1 := redoFrame f coll chunk step (ensureChunk coll chunk step s)
    match findChunk s1 coll chunk step with
    | none => s
    | some ch =>
      if oldFrame f coll chunk step s1 || ch.landed || (spGet? part ch.delivered).isSome then duplicate f s1
      else
        let d := spSet part f.payload ch.delivered
        let s2 := modChunk coll chunk step (fun h => { h with delivered := d }) (takeFrame f s1)
        match spGet? 0 d, spGet? 1 d with
        | some a, some b => landChunk 18 coll chunk step (cutNats 5 1024 a ++ cutNats 5 1024 b) (ofLe (b.drop 5120)) s2
        | _, _ => s2

/-- One chunk of an acknowledgement; one of a first reduction does not count in the second. -/
def ackOne (f : Frame) (coll chunk step : Nat) (s : State) : State :=
  if oldFrame f coll chunk step s then onPort (portOf s f) (fun p => { p with duplicates := tick64 p.duplicates }) s
  else ackChunk coll chunk step s

/-- `CHUNK_ACK`, for consecutive chunks. -/
def chunkAckSt (f : Frame) (s : State) : State :=
  if f.ftype != 5 then s
  else
    let step := stepOf2 s (tsp f 164 2)
    (List.range (tsp f 166 16)).foldl (fun t i => ackOne f (tsp f 128 12) (tsp f 140 24 + i) step t) (takeFrame f s)

def execReduceFrame (f : Frame) (s : State) : Host.Outcome State Fault Refusal := .next (ofType f 1 none (reduceFrameSt f s) s)
def execReplayReq (f : Frame) (s : State) : Host.Outcome State Fault Refusal := .next (ofType f 4 none (replayReqSt f s) s)
def execDeliver (f : Frame) (s : State) : Host.Outcome State Fault Refusal := .next (ofType f 2 none (deliverSt f s) s)
def execChunkAck (f : Frame) (s : State) : Host.Outcome State Fault Refusal := .next (ofType f 5 none (chunkAckSt f s) s)

end Sys2Proof.Machine
end

