-- ==== Sys2Proof/Machine/Opword.lean ====
section
/-! DEFINITION. What units share when they run tile threads: the operands of an operation word, versions of published parameters
that a read waits for, the merging of stored values into the commit buffer, and the checks of issue (R26, R54, R119, R379 to R383). -/

namespace Sys2Proof.Machine

/-! The matrix view of a tensor: its last axis as columns, the others as rows. -/

def lastDim (d : Nat) : Nat := (dDims d).getLastD 1
def matCols (d : Nat) : Nat := max 1 (lastDim d)
def matRows (d : Nat) : Nat := elemCount d / matCols d

/-! Values without the tensor scale, with the tile offset (R97). -/

/-- The plain descriptor behind an element and its index there. -/
def rawAt (e : Env) (i idx : Nat) : Except Nat (Option (Nat × Nat × Nat)) :=
  let d := descOf e.im i
  match locate e d idx with
  | .error c => .error c
  | .ok none => .ok none
  | .ok (some (sd, k)) =>
    match readRaw e sd (if doubled e.im i then verOf e i else 0) k with
    | .error c => .error c
    | .ok raw => .ok (some (sd, k, raw))

/-- An element decoded without T, times 2^k of its tile; a zero beyond a gather view's source. -/
def offsetElem (e : Env) (i idx : Nat) : Except Nat FV :=
  match rawAt e i idx with
  | .error c => .error c
  | .ok none => .ok FV.zero
  | .ok (some (sd, k, raw)) => .ok (fvScale (tileExp e sd (tileOf sd k)) (rawValue sd raw k))

/-- The descriptor that gives a view's format, scale and offsets: its source (R229). -/
def baseDesc (e : Env) (i : Nat) : Nat := descOf e.im (baseOf e.im i)

/-- The tensor behind a view; a plain tensor itself. -/
def baseIdx (e : Env) (i : Nat) : Nat := baseOf e.im i

/-- T of an operand in P40-exact form. -/
def operT (e : Env) (i : Nat) : FV := dec32 (scaleT e (baseDesc e i))

/-- All of a list of reads, or the first failure with its index. -/
def readAll {α : Type} (f : Nat → Except Nat α) : List Nat → Except (Nat × Nat) (List α)
  | [] => .ok []
  | x :: r =>
    match f x with
    | .error c => .error (c, x)
    | .ok v =>
      match readAll f r with
      | .error c => .error c
      | .ok l => .ok (v :: l)

/-- Where a failing element lies: its address, or that of the list entry of a gather view. -/
def failAddrOf (e : Env) (i idx : Nat) : Nat :=
  let d := descOf e.im i
  let half := if doubled e.im i then verOf e i else 0
  if dKind d == 2 then
    let cols := 64 * gCols (dRecord d)
    match locate e d idx with
    | .ok (some (sd, k)) => faultAddr e sd half k
    | _ => gList (dRecord d) + 8 * (idx / cols / 64 * gCols (dRecord d) + idx % cols / 64)
  else faultAddr e d half idx

/-! Versions (R379, R383, R554). -/

/-- Publish entries that land in a tensor or its dual, or publish it in place (R237). -/
def pubsOf (im : Image) (i : Nat) : List Nat :=
  (im.car.pubs.zipIdx.filter (fun p => pairKey im (puRecv p.1) == pairKey im (baseOf im i))).map (·.2)

def findVer (s : State) (pub shard : Nat) : Option ShardVer := s.versions.shards.find? (fun v => v.pub == pub && v.shard == shard)

/-- What a read of a tile does: 0 proceeds, 1 waits, else a code. -/
def tileGate (s : State) (e : Env) (i tile : Nat) : Nat :=
  ((pubsOf e.im i).map (fun p =>
    let shs := ownShards e (dOwners (descOf e.im (puPub (pubOf e.im p))))
    match shs.findIdx? (fun sh => decide (shFirst sh ≤ tile) && decide (tile < shFirst sh + shTiles sh)) with
    | none => 0
    | some k =>
      match findVer s p k with
      | none => 0
      | some v =>
        let w := expectedVer s p
        let half := if w % 2 == 0 then v.half0 else v.half1
        if half == w then 0 else if half == 0xFFFFFFFF || (half + 2) % 2 ^ 32 == w then 1 else 0x0902)).foldl max 0

/-- Tiles of the tensor behind an index that elements of it lie in: through the list of a gather view (R242). Indices for a window view
are those of its source. -/
def tilesRead (e : Env) (i : Nat) (idxs : List Nat) : List Nat :=
  let d := descOf e.im i
  if dKind d == 2 then (idxs.filterMap (fun x => match locate e d x with
    | .ok (some (sd, k)) => some (tileOf sd k)
    | _ => none)).eraseDups
  else (idxs.map (tileOf (descOf e.im (baseOf e.im i)))).eraseDups

/-- The worst of the gates of the elements that a thread reads. -/
def gateOf (s : State) (e : Env) (i : Nat) (idxs : List Nat) : Nat :=
  if (pubsOf e.im i).isEmpty then 0 else ((tilesRead e i idxs).map (tileGate s e i)).foldl max 0

/-! The commit buffer. -/

/-- The half that a store into a tensor fills: the alternate one of a double-buffered tensor (R554). -/
def storeHalf (e : Env) (i : Nat) : Nat := if doubled e.im i then verOf e i + 1 else 0

/-- Clamps of a tensor's tiles join a thread's counts (R100). -/
def landSat (i : Nat) (l : List (Nat × Nat)) (f : InFlight) : InFlight :=
  { f with sat := l.foldl (fun m v => let k := i * 2 ^ 48 + v.1
                                     spPut 0 k (spGet 0 k m + v.2) m) f.sat }

/-- Stored values join a thread's commit buffer: bytes, amax in P40, its counts by tensor, and the clamps of each tile. -/
def landStored (i : Nat) (st : Stored) (f : InFlight) : InFlight :=
  let f := landSat i st.sat f
  { f with
    writes := f.writes ++ st.writes
    amax := f.amax ++ [(i, enc40 st.amax)]
    nf := spPut 0 i (spGet 0 i f.nf + st.nf) f.nf
    replays := spPut 0 i (spGet 0 i f.replays + st.replays) f.replays
    fail := if f.fail != 0 then f.fail else st.fail
    failAddr := if f.fail != 0 then f.failAddr else st.failAddr }

/-- Overflow events of a store, by tensor and tile (R74). -/
def countEvents (i : Nat) (st : Stored) (s : State) : State :=
  { s with scales := { s.scales with events := st.events.foldl (fun m v =>
      let k := i * 2 ^ 48 + v.1
      spPut 0 k (spGet 0 k m + v.2) m) s.scales.events } }

/-- Store values by element into a tensor, under the rounding of its class with a sequence (R79). -/
def storeOut (s : State) (e : Env) (i seq : Nat) (vals : List (Nat × FV)) : Stored :=
  storeInto e s.scales.events i (storeHalf e i) (fun d x => classRm e d seq x) vals

/-- Reserved codes of S2T in the blocks that a list of elements touches, each block once (R45). Indices for a window view are those of
its source. -/
def formatErrorsOf (e : Env) (i : Nat) (idxs : List Nat) : Nat :=
  if dFmt (baseDesc e i) != 10 then 0
  else
    let j := if dKind (descOf e.im i) == 1 then baseOf e.im i else i
    let bs := idxs.filterMap (fun x => match rawAt e j x with
      | .ok (some (sd, k, raw)) => some ((elemAddr e sd 0 k).getD 0, raw)
      | _ => none)
    ((bs.eraseDups).map (fun b => blockFormatErrors 10 b.2)).foldl (· + ·) 0

/-- Format errors met while reading are counted as they are met (R45). -/
def countFormat (n : Nat) (s : State) : State :=
  { s with scales := { s.scales with formatErrors := wrapAdd 64 s.scales.formatErrors n } }

/-- T of a tensor in its history record and in its resident descriptor (R228). -/
def putScale (im : Image) (k t : Nat) (s : State) : State :=
  { s with memory := vaPut s.memory im.regions (dAux (descOf im k) + 12) (leBytes 4 t), image := s.image.map (fun m => setScale m k t) }

/-- `SCALE` of a tensor's resident descriptor follows its history record (R228). -/
def syncScale (i : Nat) (s : State) : State :=
  match envOf s with
  | none => s
  | some e =>
    let k := pairKey e.im (baseIdx e i)
    let d := descOf e.im k
    if fmtScaled (dFmt d) then { s with image := s.image.map (fun m => setScale m k (scaleT e d)) } else s

/-- The T that an exchange has computed takes effect, and the tile offsets go to zero (R68). -/
def applyScale (k : Nat) (s : State) : State :=
  match s.image, spGet? k s.scales.nextScale with
  | some im, some t =>
    let d := descOf im k
    let s1 := putScale im k t s
    { s1 with memory := vaPut s1.memory im.regions (dAux d + 80) (List.replicate (tileCount d) 0)
              scales := { s1.scales with nextScale := spDel k s1.scales.nextScale } }
  | _, _ => s

/-- Before the first conversion of a step into a tensor, the T that an exchange has computed takes effect (R68). -/
def takeScales (ids : List Nat) (s : State) : State :=
  ids.foldl (fun s i =>
    match envOf s with
    | none => s
    | some e =>
      let k := pairKey e.im (baseIdx e i)
      if !fmtScaled (dFmt (descOf e.im k)) || s.scales.converted.contains k then s
      else
        let s1 := applyScale k s
        { s1 with scales := { s1.scales with converted := s1.scales.converted ++ [k] } }) s

/-- What a unit sees after that. -/
def envAfter (e : Env) (s : State) : Env := (envOf s).getD e

/-- Store into a tensor and put what results into a thread's commit buffer. -/
def storeTo (thread : Nat) (e : Env) (i seq : Nat) (vals : List (Nat × FV)) (s : State) : State :=
  let st := storeOut s e i seq vals
  modFlight thread (landStored (baseIdx e i) st) (countEvents (baseIdx e i) st s)

/-- Store values that the module writes as they are, m, l and D of R176: no conversion meets a special value
(DEDUCED, log entry 34). -/
def storePlain (thread : Nat) (e : Env) (i seq : Nat) (vals : List (Nat × FV)) (s : State) : State :=
  let st := { storeOut s e i seq vals with nf := 0 }
  modFlight thread (landStored (baseIdx e i) st) (countEvents (baseIdx e i) st s)

/-- A thread's work is done; it may commit. -/
def doneFlight (thread : Nat) (s : State) : State := modFlight thread (fun f => { f with done := true }) s

/-- A thread fails at an element of a tensor. -/
def failRead (kind unit thread code i idx : Nat) (e : Env) (s : State) : State :=
  failThread kind unit thread code 0 0xFFFF (failAddrOf e i idx) s

/-! Issue. -/

/-- The head entry of a unit if it may issue, is of a class, and has an operation code that a predicate takes. -/
def headOfClass (s : State) (kind unit cls : Nat) (op : Nat → Bool) : Option (Nat × Nat × Nat) :=
  match issuable s kind unit with
  | none => none
  | some x => if tClass x.2.2 == cls && op (bits (tOp x.2.2) 0 8) then some x else none

end Sys2Proof.Machine
end

