-- ==== Sys2Proof/Machine/Kv.lean ====
section
/-! DEFINITION. The paged KV cache: pools, page parts, cisterns, publication, deferred frees, flushes and the KV commands
(R173, R174, R183 to R194, R433). The module's own records of a pool are the state's; every edit writes the table area to match (log entry
24). -/

namespace Sys2Proof.Machine

/-! Fields of a pool record (Table 7.10). -/

def pFmt (r : Nat) : Nat := bits r 32 8
def pShift (r : Nat) : Nat := bits r 40 8
def pD (r : Nat) : Nat := bits r 48 16
def pHeads (r : Nat) : Nat := bits r 72 8 + 1
def pStreams (r : Nat) : Nat := (bits r 64 8 + 1) * pHeads r
def pPages (r : Nat) : Nat := bits r 96 32
def pTk (r : Nat) : Nat := bits r 128 32
def pTv (r : Nat) : Nat := bits r 160 32
def pPageBase (r : Nat) : Nat := bits r 192 48
def pCisBase (r : Nat) : Nat := bits r 240 48
def pTableBase (r : Nat) : Nat := bits r 288 48
def pTableUnits (r : Nat) : Nat := bits r 336 32
def pGrad (r : Nat) : Nat := bits r 368 24

def unflushed : Nat := 0xFFFFFFFE
def hole : Nat := 0xFFFFFFFF

/-! Page parts (R174). A part is 64 positions of K or of V, as bytes. -/

/-- Blocks along d of one position of K. -/
def kBlocks (r : Nat) : Nat := ceilDiv (pD r) 64

def isS4 (r : Nat) : Bool := pFmt r == 8

/-- Bytes of a K part and of a V part (Table 7.4). -/
def kPart (r : Nat) : Nat := if isS4 r then 64 * kBlocks r * 36 else 64 * pD r
def vPart (r : Nat) : Nat := if isS4 r then pD r * 36 else 64 * pD r

def pageSize (r : Nat) : Nat := 2 * kPart r + 2 * vPart r
def pageAddr (r page : Nat) : Nat := pPageBase r + page * pageSize r
def kAddr (r page h : Nat) : Nat := pageAddr r page + h * kPart r
def vAddr (r page h : Nat) : Nat := pageAddr r page + 2 * kPart r + h * vPart r

/-- A row or column in the pool format: bytes of FP8 elements, or of blocks of 64 (R53, RNE, never replayed). DESIGN CHOICE (log entry 24):
a page has no tile and no descriptor, so a NaN, an infinity or an overflow met in its conversion enters no count, no warning and no event;
the bytes are those of R53 and R54. -/
def poolBytes (r t : Nat) (xs : List FV) : List Byte :=
  if isS4 r then
    (List.range (ceilDiv xs.length 64)).flatMap (fun b =>
      leBytes 36 (convBlock 8 (dec32 t) (fun _ => .rne) ((xs.drop (64 * b)).take 64)).1)
  else xs.flatMap (fun x => leBytes 1 (convScalar (pFmt r) (dec32 t) .rne x).1)

/-- A K part from up to 64 rows; the rest of the part is zero bytes. -/
def encodeK (r : Nat) (rows : List (List FV)) : List Byte :=
  let l := rows.flatMap (poolBytes r (pTk r))
  l ++ List.replicate (kPart r - l.length) 0

/-- A V part from up to 64 rows: FP8 by rows, S4F by one block per dimension along the positions. -/
def encodeV (r : Nat) (rows : List (List FV)) : List Byte :=
  let l := if isS4 r then
      (List.range (pD r)).flatMap (fun j => if rows.isEmpty then leBytes 36 (padBlockS4) else
        poolBytes r (pTv r) (rows.map (fun x => x.getD j FV.zero)))
    else rows.flatMap (poolBytes r (pTv r))
  l ++ List.replicate (vPart r - l.length) 0
where
  padBlockS4 : Nat := 127 <<< 256

def partNum (l : List Byte) (off n : Nat) : Nat := ofLe ((l.drop off).take n)

/-- Block b of position i of a K part, and the block of dimension j of a V part. -/
def kBlk (r : Nat) (part : List Byte) (i b : Nat) : Nat := partNum part ((i * kBlocks r + b) * 36) 36
def vBlk (part : List Byte) (j : Nat) : Nat := partNum part (j * 36) 36

/-- Elements decoded without T. -/
def kRaw (r : Nat) (part : List Byte) (i j : Nat) : FV :=
  if isS4 r then blockElem 8 (kBlk r part i (j / 64)) (j % 64) else scalarElem (pFmt r) (partNum part (i * pD r + j) 1)
def vRaw (r : Nat) (part : List Byte) (i j : Nat) : FV :=
  if isS4 r then blockElem 8 (vBlk part j) i else scalarElem (pFmt r) (partNum part (i * pD r + j) 1)

def kRow (r : Nat) (part : List Byte) (i : Nat) : List FV :=
  (List.range (pD r)).map (fun j => fvMul (kRaw r part i j) (dec32 (pTk r)))
def vRow (r : Nat) (part : List Byte) (i : Nat) : List FV :=
  (List.range (pD r)).map (fun j => fvMul (vRaw r part i j) (dec32 (pTv r)))

/-- The four parts of a page from up to 128 rows of K and of V. -/
def encodePage (r : Nat) (ks vs : List (List FV)) : List Byte :=
  encodeK r (ks.take 64) ++ encodeK r (ks.drop 64) ++ encodeV r (vs.take 64) ++ encodeV r (vs.drop 64)

/-! Cisterns (R185). -/

def cisSize (r : Nat) : Nat := 512 * pD r + 256
def cisAddr (r seq stream : Nat) : Nat := pCisBase r + (seq * pStreams r + stream) * cisSize r
def slotK (r seq stream i : Nat) : Nat := cisAddr r seq stream + 256 + 2 * pD r * i
def slotV (r seq stream i : Nat) : Nat := cisAddr r seq stream + 256 + 256 * pD r + 2 * pD r * i

/-- Committed slots f and candidates c of a stream. -/
def cisHead (s : State) (r seq stream : Nat) : Nat × Nat :=
  let h := ofLe (vaPeek s.memory (regionsOf s) (cisAddr r seq stream) 16)
  (bits h 32 8, bits h 40 8)

/-- The first cistern header of some streams that cannot be read (R263). -/
def headFault (s : State) (r seq : Nat) (streams : List Nat) : Option (Nat × Nat) :=
  rangesFault s.memory (regionsOf s) (streams.map (fun st => (cisAddr r seq st, 16)))

/-- The first of some slots of a cistern that cannot be read. -/
def slotFault (s : State) (r seq stream : Nat) (slots : List Nat) : Option (Nat × Nat) :=
  rangesFault s.memory (regionsOf s) (slots.flatMap (fun i => [(slotK r seq stream i, 2 * pD r), (slotV r seq stream i, 2 * pD r)]))

def kvPut (a : Nat) (bs : List Byte) (s : State) : State := { s with memory := vaPut s.memory (regionsOf s) a bs }

/-- Write a cistern's header. -/
def putHead (r seq stream f c : Nat) (s : State) : State :=
  kvPut (cisAddr r seq stream) (leBytes 16 (pack [(0, 16, 1), (16, 16, 16), (32, 8, f), (40, 8, c)])) s

def bfRow (l : List Byte) : List FV := (cutNats 2 (l.length / 2) l).map (decodeFlt bf16)

/-- K and V of slots first to first + n − 1. -/
def slotRows (s : State) (addr : Nat → Nat) (d first n : Nat) : List (List FV) :=
  (List.range n).map (fun i => bfRow (vaPeek s.memory (regionsOf s) (addr (first + i)) (2 * d)))

/-- A row of K then V, as BF16 bytes, enters a slot. -/
def putSlot (r seq stream i : Nat) (row : List Byte) (s : State) : State :=
  kvPut (slotV r seq stream i) (row.drop (2 * pD r)) (kvPut (slotK r seq stream i) (row.take (2 * pD r)) s)

/-- A row of two lists of values as BF16 bytes. -/
def bfBytes (k v : List FV) : List Byte := (k ++ v).flatMap (fun x => leBytes 2 (convIeee bf16 .rne x).1)

/-! Pages (Table 7.11). -/

def PageState.reset : PageState := { ref := 0, score := 0xFFFF, free := true, lastEpoch := 0 }

def pageOf (p : Pool) (n : Nat) : PageState := spGet PageState.reset n p.pages
def setPage (n : Nat) (x : PageState) (p : Pool) : Pool := { p with pages := spPut PageState.reset n x p.pages }

/-- The lowest-numbered free page. -/
def lowestFree (p : Pool) : Option Nat :=
  (List.range (min (pPages p.record) (p.pages.length + 1))).find? (fun n => (pageOf p n).free)

/-- A page is taken: count 1, the highest score (R190). -/
def takePage (n : Nat) (p : Pool) : Pool := setPage n { ref := 1, score := 0xFFFF, free := false, lastEpoch := (pageOf p n).lastEpoch } p

/-- A page loses a reference in the publication that follows an epoch (R193, R194). -/
def dropPage (epoch n : Nat) (p : Pool) : Pool :=
  let x := pageOf p n
  setPage n { x with ref := x.ref - 1, lastEpoch := if x.ref ≤ 1 then epoch else x.lastEpoch } p

/-- A page gains a reference. -/
def sharePage (n : Nat) (p : Pool) : Pool := setPage n { pageOf p n with ref := (pageOf p n).ref + 1 } p

def poolOf (s : State) (n : Nat) : Option Pool := spGet? n s.kv.pools
def setPool (n : Nat) (p : Pool) (s : State) : State := { s with kv := { s.kv with pools := spSet n p s.kv.pools } }
def seqOf (s : State) (n : Nat) : Option KvSeq := spGet? n s.kv.seqs
def setSeq (n : Nat) (x : KvSeq) (s : State) : State := { s with kv := { s.kv with seqs := spSet n x s.kv.seqs } }

/-! The bytes of the table area (R183, R184). -/

/-- Units of 256 B that the header and the page-state entries take, and those of a directory of n leaves and of a leaf. -/
def stateUnits (r : Nat) : Nat := ceilDiv (32 + 16 * pPages r) 256
def dirUnits (n : Nat) : Nat := ceilDiv (32 + 8 * n) 256
def leafUnits (r : Nat) : Nat := ceilDiv (8 + 4 * pStreams r) 256

/-- Address of a unit of the table area. -/
def unitAddr (r u : Nat) : Nat := (pTableBase r + 256 * u) % 2 ^ 48

/-- A page-state entry (Table 7.11). -/
def pageBytes (x : PageState) : List Byte := leBytes 16 (pack [(0, 32, x.ref), (32, 16, x.score), (48, 1, b2n x.free), (64, 64, x.lastEpoch)])

/-- The table area's header, a directory and a leaf, as bytes. -/
def areaHead : List Byte := leBytes 32 (pack [(0, 16, 1), (16, 16, 32)])
def dirBytes (r : Nat) (q : KvSeq) : List Byte :=
  let n := q.leaves.length
  leBytes 32 (pack [(0, 16, 1), (16, 16, 32 + 8 * n), (32, 32, n), (64, 16, pStreams r)]) ++ q.leafAt.flatMap (fun u => leBytes 8 (unitAddr r u))
def leafBytes (r : Nat) (l : List Nat) : List Byte :=
  leBytes 8 (pack [(0, 16, 1), (16, 16, 8 + 4 * pStreams r)]) ++ l.flatMap (leBytes 4)

/-- The page-state entries of a pool that differ from those it had enter the table area; a new pool's area is written whole. -/
def putPages (old : Option Pool) (p : Pool) (s : State) : State :=
  let place := fun n => pTableBase p.record + 32 + 16 * n
  match old with
  | none => kvPut (pTableBase p.record) (areaHead ++ (List.range (pPages p.record)).flatMap (fun n => pageBytes (pageOf p n))) s
  | some p0 => ((p0.pages.map (·.1) ++ p.pages.map (·.1)).filter (fun n => pageOf p0 n != pageOf p n)).foldl
      (fun t n => kvPut (place n) (pageBytes (pageOf p n)) t) s

/-- The directory of a sequence that has a new root, and its new leaves, enter the table area. -/
def putDir (old : Option KvSeq) (p : Pool) (q : KvSeq) (s : State) : State :=
  if old.any (fun o => o.dir == q.dir) then s
  else
    let had := (old.map (·.leafAt)).getD []
    (q.leafAt.zip q.leaves).foldl (fun t x => if had.contains x.1 then t else kvPut (unitAddr p.record x.1) (leafBytes p.record x.2) t)
      (kvPut q.dir (dirBytes p.record q) s)

/-- The table areas after an edit that took the module from one state to another. -/
def syncPages (s t : State) : State := t.kv.pools.foldl (fun u x => putPages (poolOf s x.1) x.2 u) t
def syncTables (s t : State) : State :=
  t.kv.seqs.foldl (fun u x => match poolOf t x.2.pool with
    | some p => putDir (seqOf s x.1) p x.2 u
    | none => u) (syncPages s t)

/-- A command's part whose edits reach the table areas. -/
def tabled (part : Part) : Part := fun s x d =>
  let a := part s x d
  { a with st := syncTables s a.st }

/-- Deferred frees that no walk pin stamped at or before their epoch holds back complete (R194). -/
def settleFrees (s : State) : State :=
  let held := fun (e : Nat) => s.kv.pins.any (fun p => p.epoch ≤ e)
  let pool := fun (p : Pool) =>
    let pages := p.pages.foldl (fun m x =>
      if !x.2.free && x.2.ref == 0 && !held x.2.lastEpoch then spPut PageState.reset x.1 { x.2 with free := true } m else m) p.pages
    { p with pages := pages, deferred := p.deferred.filter (fun d => held d.1) }
  syncPages s { s with kv := { s.kv with pools := s.kv.pools.map (fun p => (p.1, pool p.2)) } }

/-! Publication (R186, R193). -/

/-- Units that tables may take. -/
def unitsFree (p : Pool) : Nat :=
  pTableUnits p.record - stateUnits p.record - (p.units + (p.deferred.map (·.2.2)).foldl (· + ·) 0)

/-- Unit ranges (first, count) of a pool's table area that live sequences' tables and deferred frees hold. -/
def heldUnits (s : State) (n : Nat) (p : Pool) : List (Nat × Nat) :=
  p.deferred.map (·.2) ++ (s.kv.seqs.filter (fun q => q.2.pool == n)).flatMap (fun q =>
    ((q.2.dir - pTableBase p.record) / 256, dirUnits q.2.leaves.length) :: q.2.leafAt.map (fun u => (u, leafUnits p.record)))

/-- n units from x on are in the table area and held by nothing. -/
def fitsAt (p : Pool) (held : List (Nat × Nat)) (x n : Nat) : Bool :=
  stateUnits p.record ≤ x && x + n ≤ pTableUnits p.record && held.all (fun y => x + n ≤ y.1 || y.1 + y.2 ≤ x)

/-- The lowest free gap of n units. -/
def lowestGap (p : Pool) (held : List (Nat × Nat)) (n : Nat) : Option Nat :=
  ((stateUnits p.record :: held.map (fun y => y.1 + y.2)).filter (fun x => fitsAt p held x n)).min?

/-- Places of pieces one by one, each in its lowest gap. -/
def placeEach (p : Pool) : List Nat → List (Nat × Nat) → Option (List Nat)
  | [], _ => some []
  | n :: r, held => match lowestGap p held n with
    | none => none
    | some x => (placeEach p r (held ++ [(x, n)])).map (x :: ·)

/-- Places of pieces that stand one after another from x on. -/
def startsFrom (x : Nat) : List Nat → List Nat
  | [] => []
  | n :: r => x :: startsFrom (x + n) r

/-- The first units of a new directory and its new leaves, whose sizes are given. Which units the module takes is its own: a free value where
it is free space for all of them, else the lowest gap (log entry 24). -/
def placeTables (s : State) (n : Nat) (p : Pool) (sizes : List Nat) : Option (List Nat) :=
  let held := heldUnits s n p
  let need := sizes.foldl (· + ·) 0
  match lowestGap p held need with
  | none => placeEach p sizes held
  | some g =>
    let x := stateUnits p.record + Config.free s.free % max 1 (pTableUnits p.record - stateUnits p.record)
    some (startsFrom (if fitsAt p held x need then x else g) sizes)

/-- The first units of new leaves: a leaf that stays keeps its place, the others take the given ones in order. -/
def newLeafAt (q : KvSeq) : List (List Nat) → Nat → List Nat → List Nat
  | [], _, _ => []
  | l :: r, k, us =>
    if q.leaves[k]? == some l then q.leafAt.getD k 0 :: newLeafAt q r (k + 1) us
    else us.headD 0 :: newLeafAt q r (k + 1) us.tail

/-- Unit ranges of a sequence's directory and of the leaves that a new list of leaf places no longer names. -/
def staleUnits (r : Nat) (q : KvSeq) (keep : List Nat) : List (Nat × Nat) :=
  ((q.dir - pTableBase r) / 256, dirUnits q.leaves.length) :: (q.leafAt.filter (fun u => !keep.contains u)).map (fun u => (u, leafUnits r))

/-- Leaves that a new table does not share with the old one. -/
def leavesChanged (old new : List (List Nat)) : Nat := (new.zipIdx.filter (fun x => old[x.2]? != some x.1)).length

/-- Publish new leaves of a sequence, dropping references to pages; none where the table area has no space. -/
def publishSeq (id : Nat) (leaves : List (List Nat)) (drops : List Nat) (s : State) : Option State :=
  match seqOf s id with
  | none => none
  | some q =>
    match poolOf s q.pool with
    | none => none
    | some p =>
      let lu := leafUnits p.record
      let need := dirUnits leaves.length + leavesChanged q.leaves leaves * lu
      let old := dirUnits q.leaves.length + leavesChanged leaves q.leaves * lu
      if unitsFree p < need then none
      else
        match placeTables s q.pool p (dirUnits leaves.length :: List.replicate (leavesChanged q.leaves leaves) lu) with
        | none => none
        | some us =>
          let e := s.kv.epoch
          let la := newLeafAt q leaves 0 us.tail
          let p1 := drops.foldl (fun p n => dropPage e n p)
            { p with units := p.units + need - old, deferred := p.deferred ++ (staleUnits p.record q la).map (e, ·) }
          let q1 := { q with gen := (q.gen + 1) % 65536, leaves := leaves, leafAt := la, dir := unitAddr p.record (us.headD 0) }
          let s1 := setSeq id q1 (setPool q.pool p1 { s with free := s.free + 1 })
          some (settleFrees { s1 with kv := { s1.kv with epoch := (e + 1) % 2 ^ 64 } })

/-- Entry of a stream in a leaf, and the entries before its first unflushed page: the stream's logical pages. -/
def leafEntry (stream : Nat) (l : List Nat) : Nat := l.getD stream unflushed
def streamPages (q : KvSeq) (stream : Nat) : List Nat := (q.leaves.map (leafEntry stream)).takeWhile (· != unflushed)

/-- Leaves with a page for the first unflushed logical page of a stream. -/
def addPage (streams stream page : Nat) (leaves : List (List Nat)) : List (List Nat) :=
  let n := ((leaves.map (leafEntry stream)).takeWhile (· != unflushed)).length
  let base := if n < leaves.length then leaves else leaves ++ [List.replicate streams unflushed]
  base.set n ((base.getD n []).set stream page)

/-- The flush of a full cistern, or the code of its failure (R190). -/
def flushCistern (id stream : Nat) (s : State) : Except Nat State :=
  match seqOf s id with
  | none => .error 0x0604
  | some q =>
    match poolOf s q.pool with
    | none => .error 0x0604
    | some p =>
      match slotFault s p.record id stream (List.range 128), lowestFree p with
      | some x, _ => .error x.1
      | none, none => .error 0x0602
      | none, some n =>
        match publishSeq id (addPage (pStreams p.record) stream n q.leaves) [] s with
        | none => .error 0x0602
        | some s1 =>
          let r := p.record
          let page := encodePage r (slotRows s (slotK r id stream) (pD r) 0 128) (slotRows s (slotV r id stream) (pD r) 0 128)
          let p1 := takePage n ((poolOf s1 q.pool).getD p)
          .ok (putHead r id stream 0 0 (kvPut (pageAddr r n) page (setPool q.pool p1 s1)))

/-- A walk pin holds a stream's cistern. -/
def cisPinned (s : State) (id stream : Nat) : Bool := s.kv.pins.any (fun p => p.seq == id && p.stream == stream)

/-! Commands (Table 16.11). -/

def posPow2 (w : Nat) : Bool := posNormal32 w && bits w 0 23 == 0

/-- Field rules of Tables 7.3, 7.10 and R174, and R196 for the defaults. DESIGN CHOICE (log entry 24): a table area too small for its header
and page-state entries is refused here too; R183 lays the area out and names no refusal. -/
def poolFieldsOk (r : Nat) : Bool :=
  bits r 16 16 == 64 && bits r 0 16 == 1 && [4, 5, 8].contains (pFmt r) && 1 ≤ pShift r && pShift r ≤ 8 && pD r % 32 == 0 && 32 ≤ pD r &&
  pD r ≤ 256 && 1 ≤ pPages r && pPages r ≤ 0xFFFFFFFD && posPow2 (pTk r) && posPow2 (pTv r) && pTableBase r % 256 == 0 &&
  stateUnits r ≤ pTableUnits r && (bits r 416 16 == 0 || bits r 432 8 + bits r 440 8 ≤ bits r 416 16)

/-- The gradient area of a record: 0, or a P40 tensor [PAGES, 4, 64, d] (Table 7.10). -/
def poolGradOk (im : Image) (r : Nat) : Bool :=
  let d := descOf im (pGrad r)
  pGrad r == 0 || (dKind d == 0 && dFmt d == 12 && dDims d == [pPages r, 4, 64, pD r])

/-- The code of a range that a command names (R240, R415). -/
def rangeCode (s : State) (a n : Nat) : Nat :=
  match translate s.memory (regionsOf s) 3 ((regionsOf s).length + 1) a n with
  | .ok _ => 0
  | .error c => c

def firstCode (l : List Nat) : Nat := (l.find? (· != 0)).getD 0

def kvPoolCreatePart : Part := fun s _ d =>
  let n := prm d 0 4
  let r := prm d 64 512
  if 1 < bits r 0 16 then ansCode s 0x0104
  else if !poolFieldsOk r then ansCode s 0x0105
  else
  match s.image with
  | none => ansCode s 0x0407
  | some im =>
    if (poolOf s n).isSome then ansCode s 0x0607
    else if im.descs.length < pGrad r then ansCode s 0x0303
    else if !poolGradOk im r then ansCode s 0x0105
    else
      let c := firstCode [rangeCode s (pPageBase r) (pPages r * pageSize r), rangeCode s (pCisBase r) (cisSize r),
        rangeCode s (pTableBase r) (256 * pTableUnits r)]
      if c != 0 then ansCode s c
      else ansOk (setPool n { record := r, pages := [], units := 0, deferred := [] } s)

def kvPoolDestroyPart : Part := fun s _ d =>
  let n := prm d 0 4
  if s.image.isNone then ansCode s 0x0407
  else if (poolOf s n).isNone then ansCode s 0x0604
  else if s.kv.seqs.any (fun q => q.2.pool == n) then ansCode s 0x0608
  else ansOk { s with kv := { s.kv with pools := spDel n s.kv.pools } }

/-- Every stream's cistern of a sequence, empty. -/
def emptyCisterns (r id : Nat) (s : State) : State := (List.range (pStreams r)).foldl (fun s k => putHead r id k 0 0 s) s

def cisRange (s : State) (r id : Nat) : Nat := rangeCode s (cisAddr r id 0) (pStreams r * cisSize r)

def kvSeqCreatePart : Part := fun s _ d =>
  let id := prm d 0 12
  let dflt := prm d 20 1 == 1
  if s.image.isNone then ansCode s 0x0407
  else
    match poolOf (settleFrees s) (prm d 16 4) with
    | none => ansCode s 0x0604
    | some p =>
      let r := p.record
      let b := if dflt then bits r 416 16 else prm d 32 16
      let k := if dflt then bits r 432 8 else prm d 48 8
      let w := if dflt then bits r 440 8 else prm d 56 8
      if 4096 ≤ s.kv.seqs.length then ansCode s 0x0603
      else if (seqOf s id).isSome then ansCode s 0x0607
      else if b != 0 && b < k + w then ansCode s 0x0105
      else if cisRange s r id != 0 then ansCode s (cisRange s r id)
      else if unitsFree p < dirUnits 0 then ansCode s 0x0602
      else
        match placeTables (settleFrees s) (prm d 16 4) p [dirUnits 0] with
        | none => ansCode s 0x0602
        | some us =>
          let q : KvSeq := { pool := prm d 16 4, gen := 0, hostTag := prm d 64 32, budget := b, sink := k, recent := w,
                             dir := unitAddr r (us.headD 0), leaves := [], leafAt := [] }
          let s1 := setSeq id q (setPool (prm d 16 4) { p with units := p.units + dirUnits 0 } { settleFrees s with free := s.free + 1 })
          ansOk (emptyCisterns r id { s1 with kv := { s1.kv with epoch := (s1.kv.epoch + 1) % 2 ^ 64 } })

/-- The sequence that a host edit names, with its pool, or the code of R188. -/
def editSeq (s : State) (id gen : Nat) : Except Nat (KvSeq × Pool) :=
  if s.image.isNone then .error 0x0407
  else
    match seqOf s id with
    | none => .error 0x0604
    | some q =>
      match poolOf s q.pool with
      | none => .error 0x0604
      | some p => if q.gen != gen then .error 0x0901 else .ok (q, p)

def livePages (leaves : List (List Nat)) : List Nat := leaves.flatten.filter (· < unflushed)

/-- Copy every cistern of a sequence to another. -/
def copyCisterns (r src dst : Nat) (s : State) : State :=
  let n := pStreams r * cisSize r
  kvPut (cisAddr r dst 0) (vaPeek s.memory (regionsOf s) (cisAddr r src 0) n) s

/-- What stops the reading of a sequence's cisterns (R263). -/
def cisternsFault (s : State) (r seq : Nat) : Option (Nat × Nat) :=
  rangesFault s.memory (regionsOf s) [(cisAddr r seq 0, pStreams r * cisSize r)]

def kvForkPart : Part := fun s0 _ d =>
  let s := settleFrees s0
  match editSeq s (prm d 0 12) (prm d 16 16) with
  | .error c => ansCode s0 c
  | .ok (q, p) =>
    let new := prm d 32 12
    let r := p.record
    let need := dirUnits q.leaves.length + q.leaves.length * leafUnits r
    if 4096 ≤ s.kv.seqs.length then ansCode s0 0x0603
    else if (seqOf s new).isSome then ansCode s0 0x0607
    else if cisRange s r new != 0 then ansCode s0 (cisRange s r new)
    else if unitsFree p < need then ansCode s0 0x0602
    else
      let x := cisternsFault s r (prm d 0 12)
      if x.isSome then ansFault s0 (x.getD (0, 0)).1 (x.getD (0, 0)).2 1
      else
      match placeTables s q.pool p (dirUnits q.leaves.length :: q.leaves.map (fun _ => leafUnits r)) with
      | none => ansCode s0 0x0602
      | some us =>
        let p1 := (livePages q.leaves).foldl (fun p n => sharePage n p) { p with units := p.units + need }
        let q1 := { q with gen := 0, hostTag := prm d 64 32, dir := unitAddr r (us.headD 0), leafAt := us.tail }
        let s1 := setSeq new q1 (setPool q.pool p1 { s with free := s.free + 1 })
        ansBody (copyCisterns r (prm d 0 12) new { s1 with kv := { s1.kv with epoch := (s1.kv.epoch + 1) % 2 ^ 64 } }) 0 2

/-- Rows of a half with new rows in place of some: the new K part and V part. An untouched half and the FP8 rows not written are copied; a
touched S4F half is reconverted whole from decoded and new values (Table 7.14). -/
def mergeHalf (r : Nat) (kOld vOld : List Byte) (rows : Sp (List FV × List FV)) : List Byte × List Byte :=
  if rows.isEmpty then (kOld, vOld)
  else
    let kw := kPart r / 64
    let vw := pD r
    let k := if isS4 r then encodeK r ((List.range 64).map (fun i => match spGet? i rows with
        | some x => x.1
        | none => kRow r kOld i))
      else (List.range 64).flatMap (fun i => match spGet? i rows with
        | some x => poolBytes r (pTk r) x.1
        | none => (kOld.drop (i * kw)).take kw)
    let v := if isS4 r then encodeV r ((List.range 64).map (fun i => match spGet? i rows with
        | some x => x.2
        | none => vRow r vOld i))
      else (List.range 64).flatMap (fun i => match spGet? i rows with
        | some x => poolBytes r (pTv r) x.2
        | none => (vOld.drop (i * vw)).take vw)
    (k, v)

def kvPageWritePart : Part := fun s0 _ d =>
  let s := settleFrees s0
  let id := prm d 0 12
  match editSeq s id (prm d 16 16) with
  | .error c => ansCode s0 c
  | .ok (q, p) =>
    let r := p.record
    let st := prm d 32 16
    let pos := prm d 64 32
    let n := prm d 96 8
    let lp := pos / 128
    if pStreams r ≤ st || n == 0 || 128 < n || 128 < pos % 128 + n then ansCode s0 0x0105
    else
      match (streamPages q st)[lp]? with
      | none => ansCode s0 0x0605
      | some old =>
        if old == hole then ansCode s0 0x0605
        else
          match vaRead s.memory (regionsOf s) 1 (prm d 144 48) (n * 4 * pD r), vaRead s.memory (regionsOf s) 0 (pageAddr r old) (pageSize r) with
          | .error c, _ => ansFault s0 c (prm d 144 48) (n * 4 * pD r)
          | _, .error c => ansFault s0 c (pageAddr r old) (pageSize r)
          | .ok src, .ok bytes =>
            match lowestFree p with
            | none => ansCode s0 0x0602
            | some pg =>
              match publishSeq id (q.leaves.set lp ((q.leaves.getD lp []).set st pg)) [old] s with
              | none => ansCode s0 0x0602
              | some s1 =>
                let row := fun i => (bfRow ((src.drop (i * 4 * pD r)).take (2 * pD r)), bfRow ((src.drop (i * 4 * pD r + 2 * pD r)).take (2 * pD r)))
                let half := fun h => ((List.range n).filter (fun i => (pos % 128 + i) / 64 == h)).foldl
                  (fun m i => spSet ((pos % 128 + i) % 64) (row i) m) []
                let kp := kPart r
                let vp := vPart r
                let a := mergeHalf r (bytes.take kp) ((bytes.drop (2 * kp)).take vp) (half 0)
                let b := mergeHalf r ((bytes.drop kp).take kp) (bytes.drop (2 * kp + vp)) (half 1)
                let p1 := takePage pg ((poolOf s1 q.pool).getD p)
                let s2 := kvPut (pageAddr r pg) (a.1 ++ b.1 ++ a.2 ++ b.2) (setPool q.pool p1 s1)
                ansBody s2 ((q.gen + 1) % 65536) 2

/-- Committed length of a stream. -/
def streamLen (s : State) (r id : Nat) (q : KvSeq) (st : Nat) : Nat := 128 * (streamPages q st).length + (cisHead s r id st).1

/-- Rows 0 to n − 1 of a page decoded into a stream's cistern; a hole's slots keep what they hold. -/
def decodeInto (r id st page n : Nat) (s : State) : State :=
  if page == hole then s
  else
    let part := fun (a n : Nat) => vaPeek s.memory (regionsOf s) a n
    let row := fun i => bfBytes (kRow r (part (kAddr r page (i / 64)) (kPart r)) (i % 64)) (vRow r (part (vAddr r page (i / 64)) (vPart r)) (i % 64))
    (List.range n).foldl (fun s i => putSlot r id st i (row i) s) s

/-- A leaf with the entries of some streams unflushed. -/
def cutLeaf (cut : List Nat) (l : List Nat) : List Nat := l.zipIdx.map (fun x => if cut.contains x.2 then unflushed else x.1)

/-- What a truncation reads that cannot be read: headers, and the pages that it decodes (R263). -/
def truncateFault (s : State) (r id : Nat) (q : KvSeq) (cut : List Nat) (pos : Nat) : Option (Nat × Nat) :=
  (headFault s r id (List.range (pStreams r))).orElse (fun _ =>
    rangesFault s.memory (regionsOf s) (cut.flatMap (fun st => match (streamPages q st)[pos / 128]? with
      | some page => if page == hole || pos % 128 == 0 then [] else [(pageAddr r page, pageSize r)]
      | none => [])))

def kvTruncatePart : Part := fun s0 _ d =>
  let s := settleFrees s0
  let id := prm d 0 12
  let pos := prm d 64 32
  match editSeq s id (prm d 16 16) with
  | .error c => ansCode s0 c
  | .ok (q, p) =>
    let r := p.record
    let cut := (List.range (pStreams r)).filter (fun st => pos < streamLen s r id q st)
    match truncateFault s r id q cut pos with
    | some x => ansFault s0 x.1 x.2 1
    | none =>
    if cut.isEmpty then { ansBody s q.gen 2 with code := 0x0001 }
    else
      let lp := pos / 128
      let kept := q.leaves.take lp ++ ((q.leaves.drop lp).map (cutLeaf cut))
      let leaves := (kept.reverse.dropWhile (fun l => l.all (· == unflushed))).reverse
      let drops := (q.leaves.drop lp).flatMap (fun l => (cut.map (fun st => leafEntry st l)).filter (· < unflushed))
      match publishSeq id leaves drops s with
      | none => ansCode s0 0x0602
      | some s1 =>
        let s2 := cut.foldl (fun t st =>
          let t1 := match (streamPages q st)[lp]? with
            | some page => decodeInto r id st page (pos % 128) t
            | none => t
          putHead r id st (pos % 128) 0 t1) s1
        ansBody s2 ((q.gen + 1) % 65536) 2

def kvSeqRetirePart : Part := fun s _ d =>
  let id := prm d 0 12
  match editSeq s id (prm d 16 16) with
  | .error c => ansCode s c
  | .ok (q, p) =>
    let e := s.kv.epoch
    let old := dirUnits q.leaves.length + q.leaves.length * leafUnits p.record
    let p1 := (livePages q.leaves).foldl (fun p n => dropPage e n p)
      { p with units := p.units - old, deferred := p.deferred ++ (staleUnits p.record q []).map (e, ·) }
    let s1 := setPool q.pool p1 s
    ansOk (settleFrees { s1 with kv := { s1.kv with seqs := spDel id s1.kv.seqs, epoch := (e + 1) % 2 ^ 64 } })

def kvSeqSetPart : Part := fun s _ d =>
  let id := prm d 0 12
  let b := prm d 32 16
  match editSeq s id (prm d 16 16) with
  | .error c => ansCode s c
  | .ok (q, _) =>
    if b != 0 && b < prm d 48 8 + prm d 56 8 then ansCode s 0x0105
    else ansOk (setSeq id { q with budget := b, sink := prm d 48 8, recent := prm d 56 8, hostTag := prm d 64 32 } s)

/-- A sequence record (Table 7.12). -/
def seqRecord (id : Nat) (q : KvSeq) : Nat :=
  pack [(0, 16, 1), (16, 16, 64), (32, 12, id), (47, 1, 1), (48, 4, q.pool), (64, 48, q.dir), (112, 16, q.gen), (128, 32, q.hostTag),
    (160, 16, q.budget), (176, 8, q.sink), (184, 8, q.recent)]

def kvTableReadPart : Part := fun s _ d =>
  if s.image.isNone then ansCode s 0x0407
  else
    match seqOf s (prm d 0 12) with
    | none => ansCode s 0x0604
    | some q => ansBody s (seqRecord (prm d 0 12) q) 64

def kvPageReadPart : Part := fun s0 _ d =>
  let s := settleFrees s0
  let f := prm d 32 32
  let n := prm d 64 8
  if s.image.isNone then ansCode s0 0x0407
  else
    match poolOf s (prm d 0 4) with
    | none => ansCode s0 0x0604
    | some p =>
      if n == 0 || 64 < n || pPages p.record < f + n then ansCode s0 0x0105
      else ansBytes s ((List.range n).flatMap (fun i => pageBytes (pageOf p (f + i))))

def execKvPoolCreate (d : Datagram) (s : State) : Host.Outcome State Fault Refusal :=
  .next (ycp 0x0600 (.kvPoolCreate d) (tabled kvPoolCreatePart) d s)
def execKvPoolDestroy (d : Datagram) (s : State) : Host.Outcome State Fault Refusal :=
  .next (ycp 0x0601 (.kvPoolDestroy d) kvPoolDestroyPart d s)
def execKvSeqCreate (d : Datagram) (s : State) : Host.Outcome State Fault Refusal :=
  .next (ycp 0x0602 (.kvSeqCreate d) (tabled kvSeqCreatePart) d s)
def execKvFork (d : Datagram) (s : State) : Host.Outcome State Fault Refusal := .next (ycp 0x0603 (.kvFork d) (tabled kvForkPart) d s)
def execKvPageWrite (d : Datagram) (s : State) : Host.Outcome State Fault Refusal :=
  .next (ycp 0x0604 (.kvPageWrite d) (tabled kvPageWritePart) d s)
def execKvTruncate (d : Datagram) (s : State) : Host.Outcome State Fault Refusal := 
  .next (ycp 0x0605 (.kvTruncate d) (tabled kvTruncatePart) d s)
def execKvSeqRetire (d : Datagram) (s : State) : Host.Outcome State Fault Refusal :=
  .next (ycp 0x0606 (.kvSeqRetire d) (tabled kvSeqRetirePart) d s)
def execKvSeqSet (d : Datagram) (s : State) : Host.Outcome State Fault Refusal := .next (ycp 0x0607 (.kvSeqSet d) kvSeqSetPart d s)
def execKvTableRead (d : Datagram) (s : State) : Host.Outcome State Fault Refusal :=
  .next (ycp 0x0608 (.kvTableRead d) kvTableReadPart d s)
def execKvPageRead (d : Datagram) (s : State) : Host.Outcome State Fault Refusal := .next (ycp 0x0609 (.kvPageRead d) kvPageReadPart d s)

end Sys2Proof.Machine
end

