-- ==== Sys2Proof/Machine/Matrix.lean ====
section
/-! DEFINITION. Matrix engines: operation words, window views, operands by chunk, products by path, the adapter lane, the window
front end and the live set (chapters 4 and 6). -/

namespace Sys2Proof.Machine

/-! Fields of the matrix operation word (Table 4.3). -/

def mOp (o : Nat) : Nat := bits o 0 8
def mFmtA (o : Nat) : Nat := bits o 8 8
def mFmtB (o : Nat) : Nat := bits o 16 8
def mFmtOut (o : Nat) : Nat := bits o 24 8
def mChunks (o : Nat) : Nat := bits o 32 4 + 1
def mTransA (o : Nat) : Bool := bitAt o 36
def mTransB (o : Nat) : Bool := bitAt o 37
def mFirst (o : Nat) : Bool := bitAt o 38
def mLast (o : Nat) : Bool := bitAt o 39
def mPairM (o : Nat) : Bool := bitAt o 40
def mSingle (o : Nat) : Bool := bitAt o 41
def mAdapt (o : Nat) : Bool := bitAt o 42
def mAmaxOnly (o : Nat) : Bool := bitAt o 43
def mPass (o : Nat) : Nat := bits o 48 16
def mA (o : Nat) : Nat := bits o 64 24
def mB (o : Nat) : Nat := bits o 88 24
def mOut (o : Nat) : Nat := bits o 112 24
def mPart (o : Nat) : Nat := bits o 136 24
def mMt (o : Nat) : Nat := bits o 160 16
def mNt (o : Nat) : Nat := bits o 176 16
def mK0 (o : Nat) : Nat := bits o 192 16
def mSlot (o : Nat) : Nat := bits o 208 10
def mAux (o : Nat) : Nat := bits o 224 24

/-- Array 1 of a twin pass forms a weight gradient: not where it is idle (R88, R107). -/
def twinRuns (o : Nat) : Bool := mOp o == 2 && !mAmaxOnly o && !mSingle o

/-! Weight-gradient slots of the image (R202). -/

def mapEntryOf (im : Image) (me slot : Nat) : Nat := (im.wgbMap.getD me []).getD slot 0
def wmDesc (w : Nat) : Nat := bits w 0 24
def wmTile (w : Nat) : Nat := bits w 24 24

/-! Window views (R146 to R153). -/

def wMode (w : Nat) : Nat := bits w 32 2
def wKt (w : Nat) : Nat := bits w 40 3 + 1
def wKh (w : Nat) : Nat := bits w 44 4 + 1
def wKw (w : Nat) : Nat := bits w 48 4 + 1
def wTaps (w : Nat) : Nat := wKt w * wKh w * wKw w
def wCOff (w : Nat) : Nat := bits w 128 16
def wCCnt (w : Nat) : Nat := bits w 144 16
def wSrc (w : Nat) : Nat := bits w 160 24

/-- Per axis t, y, x: taps, stride, dilation, padding before and after. -/
def wAxis (w : Nat) : Nat → Nat × Nat × Nat × Nat × Nat
  | 0 => (wKt w, bits w 52 4 + 1, bits w 64 3 + 1, bits w 80 6, bits w 88 6)
  | 1 => (wKh w, bits w 56 4 + 1, bits w 68 4 + 1, bits w 96 8, bits w 104 8)
  | _ => (wKw w, bits w 60 4 + 1, bits w 72 4 + 1, bits w 112 8, bits w 120 8)

/-- Source extents [B, T, H, W, C]. -/
def wDims (im : Image) (w : Nat) : List Nat := dDims (descOf im (wSrc w))

/-- Outputs on an axis, R149; zero or less for an empty view. -/
def wOutI (im : Image) (w j : Nat) : Int :=
  let (k, st, dl, lo, hi) := wAxis w j
  (((wDims im w).getD (j + 1) 1 + lo + hi : Nat) - ((dl * (k - 1) + 1 : Nat) : Int)) / (st : Int) + 1

def wOut (im : Image) (w j : Nat) : Nat := (wOutI im w j).toNat

def wEmpty (im : Image) (w : Nat) : Bool := (List.range 3).any (fun j => decide (wOutI im w j ≤ 0))

/-- Output positions: the product's M. -/
def wRows (im : Image) (w : Nat) : Nat := (wDims im w).getD 0 1 * wOut im w 0 * wOut im w 1 * wOut im w 2

/-- Coarse extents of a channel-to-space view: every target position has its coarse one (R168). -/
def coarseDims (im : Image) (w : Nat) : List Nat :=
  let td := wDims im w
  [td.getD 0 1, ceilDiv (td.getD 1 1) (wKt w), ceilDiv (td.getD 2 1) (wKh w), ceilDiv (td.getD 3 1) (wKw w)]

/-- M positions of a view. -/
def viewRows (im : Image) (w : Nat) : Nat := if wMode w == 3 then prod (coarseDims im w) else wRows im w

/-- Source coordinate that output o reads at tap i (R148); none for padding. -/
def wCoord (im : Image) (w j o i : Nat) : Option Nat :=
  let (_, st, dl, lo, _) := wAxis w j
  let x : Int := ((o * st + i * dl : Nat) : Int) - (lo : Int)
  if x < 0 || ((wDims im w).getD (j + 1) 1 : Int) ≤ x then none else some x.toNat

/-- Source index of output position m at tap τ and channel c; none for padding. -/
def wIndex (im : Image) (w m tap c : Nat) : Option Nat :=
  match coordsOf [(wDims im w).getD 0 1, wOut im w 0, wOut im w 1, wOut im w 2] m with
  | [b, t, y, x] =>
    match wCoord im w 0 t (tap / (wKh w * wKw w)), wCoord im w 1 y (tap / wKw w % wKh w), wCoord im w 2 x (tap % wKw w) with
    | some a, some r, some q => some (indexOf (wDims im w) [b, a, r, q, c])
    | _, _, _ => none
  | _ => none

/-- Tap and channel of a K index in modes 0 and 2 (R152). -/
def wTapChan (w k : Nat) : Nat × Nat :=
  let g := k / (64 * wTaps w)
  let cg := min 64 (wCCnt w - 64 * g)
  let r := k - 64 * wTaps w * g
  (r / cg, wCOff w + 64 * g + r % cg)

/-- K of a view (R152, R153). -/
def wK (w : Nat) : Nat := if wMode w == 1 then wTaps w else wTaps w * wCCnt w

/-! Operands. -/

/-- An operand: descriptor index, whether K runs along the rows of its matrix, and for a depthwise view the N tile. -/
structure Opnd where
  desc : Nat
  kFirst : Bool
  deriving DecidableEq, Repr

/-- Whether a descriptor is a window view. -/
def isWindow (e : Env) (i : Nat) : Bool := dKind (descOf e.im i) == 1
def winOf (e : Env) (i : Nat) : Nat := dRecord (descOf e.im i)

/-- Tensor and index of element (outer o, k), `n` being the output column for a depthwise view; none enters as zero. -/
def operIndex (e : Env) (p : Opnd) (n o k : Nat) : Option (Nat × Nat) :=
  let d := descOf e.im p.desc
  if dKind d == 1 then
    let w := dRecord d
    let (m, kk) := if p.kFirst then (k, o) else (o, k)
    if wRows e.im w ≤ m || wK w ≤ kk then none
    else
      let tc := if wMode w == 1 then (kk, wCOff w + n) else wTapChan w kk
      (wIndex e.im w m tc.1 tc.2).map (fun x => (wSrc w, x))
  else
    let cols := matCols d
    let (r, c) := if p.kFirst then (k, o) else (o, k)
    if matRows d ≤ r || cols ≤ c then none else some (p.desc, r * cols + c)

/-- What a chunk of one row brings to the array: elements with offsets, or a block with its offset. -/
inductive ChunkIn where
  | els (l : List FV)
  | blk (fmt raw : Nat) (k : Int)
  deriving DecidableEq, Repr

/-- A padded block: scale byte 127, zero codes, no escape (R148). -/
def padBlock (fmt : Nat) : Nat := 127 <<< (if fmt == 10 then 128 else 256)

/-- Chunk ch of row o of an operand, or a code with the tensor and index that failed. -/
def operChunk (e : Env) (p : Opnd) (n o ch : Nat) : Except (Nat × Nat × Nat) ChunkIn :=
  let fmt := dFmt (baseDesc e p.desc)
  if fmtBlock fmt then
    match operIndex e p n o (64 * ch) with
    | none => .ok (.blk fmt (padBlock fmt) 0)
    | some (i, x) =>
      match rawAt e i x with
      | .error c => .error (c, i, x)
      | .ok none => .ok (.blk fmt (padBlock fmt) 0)
      | .ok (some (sd, k, raw)) => .ok (.blk fmt raw (tileExp e sd (tileOf sd k)))
  else
    match readAll (fun t => match operIndex e p n o (64 * ch + t) with
        | none => .ok FV.zero
        | some (i, x) => offsetElem e i x) (List.range 64) with
    | .ok l => .ok (.els l)
    | .error (c, t) => match operIndex e p n o (64 * ch + t) with
      | none => .error (c, p.desc, 0)
      | some (i, x) => .error (c, i, x)

/-! Products of a chunk (R97, R98, R112). -/

/-- The three BF16 parts of an FP32 element (R112, R113). -/
def splitParts (a : FV) : FV × FV × FV :=
  if !fvFinite a then (a, FV.zero, FV.zero)
  else
    let a0 := match rBf a with
      | .inf n => .num n 255 120
      | v => v
    let r1 := fvSub a a0
    let a1 := rBf r1
    (a0, a1, rBf (fvSub r1 a1))

/-- The six products of split FP32, exact, in their order of addition (R112). -/
def splitProducts (a b : FV) : List FV :=
  let (a0, a1, a2) := splitParts a
  let (b0, b1, b2) := splitParts b
  [fvMul a0 b0, fvMul a0 b1, fvMul a1 b0, fvMul a0 b2, fvMul a1 b1, fvMul a2 b0]

/-- Integer of a code, 0 at the escaped position (R98). -/
def blkInt (fmt raw i : Nat) : Int :=
  let f := escField fmt raw
  if escValid f && escIndex f == i then 0 else codeInt fmt (blockCode fmt raw i)

/-- The additions of a chunk on the block path: block partial, escape of A, escape of B. -/
def blockTerms (fa ra : Nat) (ka : Int) (fb rb : Nat) (kb : Int) : List FV :=
  let ba := blockScale fa ra
  let bb := blockScale fb rb
  if ba == 255 || bb == 255 then [.nan]
  else
    let k := ka + kb
    let sum : Int := ((List.range 64).map (fun i => blkInt fa ra i * blkInt fb rb i)).foldl (· + ·) 0
    let half : Int := (if fa == 8 then 1 else 0) + (if fb == 8 then 1 else 0)
    let main := r40 (fvScale ((ba : Int) - 127 + ((bb : Int) - 127) + k - half) (fvInt sum))
    let ea := escField fa ra
    let eb := escField fb rb
    let both := escValid ea && escValid eb && escIndex ea == escIndex eb
    let ta := if escValid ea then
        [r40 (fvScale k (fvMul (escValue ea) (if both then escValue eb else blockElem fb rb (escIndex ea))))] else []
    let tb := if escValid eb && !both then [r40 (fvScale k (fvMul (blockElem fa ra (escIndex eb)) (escValue eb)))] else []
    main :: (ta ++ tb)

/-- The additions that a chunk makes into one output element, in groups that stay together. -/
def chunkTerms (split : Bool) : ChunkIn → ChunkIn → List (List FV)
  | .els a, .els b => List.zipWith (fun x y => if split then splitProducts x y else [r40 (fvMul x y)]) a b
  | .blk fa ra ka, .blk fb rb kb => [blockTerms fa ra ka fb rb kb]
  | _, _ => []

/-- The running sum of one output element: its additions in the engine's order (R80, log entry 3). -/
def sumTerms (tile : Nat) (groups : List (List FV)) : FV :=
  ((reorder (Config.sumOrder tile (groups.flatten.map enc40)) groups).flatten).foldl add40 FV.zero

/-- INT32 accumulation with clamp (R100): value and saturations. -/
def addSat (a : Int × Nat) (x : Int) : Int × Nat :=
  let v := a.1 + x
  (clampI (-2147483648) 2147483647 v, a.2 + b2n (decide (v < -2147483648) || decide (2147483647 < v)))

def fvToInt : FV → Int
  | .num n m e => let v : Int := if 0 ≤ e then (m <<< e.toNat : Nat) else (m >>> (-e).toNat : Nat)
                  if n then -v else v
  | _ => 0

def sumInts (tile : Nat) (groups : List (List FV)) : Int × Nat :=
  ((reorder (Config.sumOrder tile (groups.flatten.map enc40)) groups).flatten).foldl (fun a x => addSat a (fvToInt x)) (0, 0)

/-- A pass of one array: what it multiplies and which element of its tile; `ints` on the integer path. -/
structure PassIn where
  a : Opnd
  b : Opnd
  chunks : List Nat
  split : Bool
  ints : Bool
  deriving DecidableEq, Repr

/-- One output element of a pass: its word (P40, or INT32 on the integer path) and saturations. `extra` terms come after the chunks. -/
def passElem (e : Env) (q : PassIn) (tile : Nat) (extra : List FV) (o n : Nat) : Except (Nat × Nat × Nat) (Nat × Nat) :=
  let rec terms : List Nat → Except (Nat × Nat × Nat) (List (List FV))
    | [] => .ok []
    | c :: r =>
      match operChunk e q.a n o c with
      | .error x => .error x
      | .ok a =>
        match operChunk e q.b n n c with
        | .error x => .error x
        | .ok b =>
          match terms r with
          | .error x => .error x
          | .ok l => .ok (chunkTerms q.split a b ++ l)
  match terms q.chunks with
  | .error x => .error x
  | .ok gs =>
    if q.ints then
      let (v, c) := sumInts tile gs
      .ok (ofSigned 32 v, c)
    else .ok (enc40 (extra.foldl (fun s t => add40 s (r40 t)) (sumTerms tile gs)), 0)

/-- The 4,096 elements of a tile: words in row order, saturations, or the first failure. -/
def passTile (e : Env) (q : PassIn) (tile : Nat) (extra : Nat → Nat → List FV) (mt nt : Nat) :
    List Nat → Except (Nat × Nat × Nat) (List Nat × Nat)
  | [] => .ok ([], 0)
  | i :: r =>
    match passElem e q (tile * 4096 + i) (extra (64 * mt + i / 64) (64 * nt + i % 64)) (64 * mt + i / 64) (64 * nt + i % 64) with
    | .error x => .error x
    | .ok (w, c) =>
      match passTile e q tile extra mt nt r with
      | .error x => .error x
      | .ok (l, n) => .ok (w :: l, c + n)

/-! The adapter lane (R108 to R111). -/

def avRank (v : Nat) : Nat := bits v 0 8
def avA (v : Nat) : Nat := bits v 32 24
def avB (v : Nat) : Nat := bits v 64 24
def avAlpha (v : Nat) : Nat := bits v 96 32

/-- The variant entry of an M tile (R110). -/
def variantOf (e : Env) (aux mt : Nat) : Nat :=
  match rawAt e aux mt with
  | .ok (some (_, _, raw)) => e.im.adapters.getD (raw % 256) 0
  | _ => 0

def valueOr (x : Except Nat FV) : FV := match x with
  | .ok v => v
  | .error _ => FV.zero

/-- U of a row and rank column in BF16: x·A_v in ascending K in P40, times α_v. -/
def adapterU (e : Env) (a : Opnd) (v kTot o q : Nat) : FV :=
  let ad := descOf e.im (avA v)
  let s := (List.range kTot).foldl (fun s k =>
    let x := match operIndex e a 0 o k with
      | none => FV.zero
      | some (i, z) => valueOr (offsetElem e i z)
    add40 s (mul40 x (valueOr (readElem e (avA v) (k * matCols ad + q))))) FV.zero
  rBf (fvMul s (dec32 (avAlpha v)))

/-- The extra chunk of an output element: U·B_v, U from the lane's buffers. -/
def adapterTerms (e : Env) (us : List UBuf) (row col : Nat) : List FV :=
  match us.find? (fun u => u.mt == row / 64) with
  | none => []
  | some u =>
    let bd := descOf e.im (avB u.variant)
    (u.vals.getD (row % 64) []).zipIdx.map (fun x =>
      fvMul (decodeFlt bf16 x.1) (valueOr (readElem e (avB u.variant) (x.2 * matCols bd + col))))

/-! Passes. -/

/-- Tiles that the arrays form: array 0's and, for a paired pass, array 1's (R91). -/
def mTiles (o : Nat) : List (Nat × Nat) :=
  if mOp o == 2 then (if mOut o == 0 then [] else [(mMt o, mNt o)])
  else if mSingle o then [(mMt o, mNt o)]
  else if mPairM o then [(mMt o, mNt o), (mMt o + 1, mNt o)]
  else [(mMt o, mNt o), (mMt o, mNt o + 1)]

def isIntPath (o : Nat) : Bool := mFmtA o == 6 && mFmtB o == 6

/-- K of a product, that of its operand A (R94, R152). -/
def passK (e : Env) (o : Nat) : Nat :=
  let d := descOf e.im (mA o)
  if isWindow e (mA o) then (if mTransA o then wRows e.im (winOf e (mA o)) else wK (winOf e (mA o)))
  else if mTransA o then matRows d else matCols d

/-- U of one M tile, for its lane buffer. -/
def uBuf (e : Env) (o mt v : Nat) : UBuf :=
  { a := mA o, trans := mTransA o, mt := mt, variant := v
    vals := (List.range 64).map (fun r => (List.range (avRank v)).map (fun q =>
      encodeFlt bf16 (adapterU e { desc := mA o, kFirst := mTransA o } v (passK e o) (64 * mt + r) q))) }

/-- The lane's buffers for the M tiles of an adapted last pass; none for a tile whose variant slot is empty (R110, R111). -/
def uBufs (e : Env) (o : Nat) : List UBuf :=
  if !mAdapt o || !mLast o then []
  else (((mTiles o).map (·.1)).eraseDups).filterMap (fun mt =>
    let v := variantOf e (mAux o) mt
    if avRank v == 0 then none else some (uBuf e o mt v))

def chunkList (o : Nat) : List Nat := (List.range (mChunks o)).map (mK0 o + ·)

def mainPass (o : Nat) : PassIn :=
  { a := { desc := mA o, kFirst := mTransA o }, b := { desc := mB o, kFirst := !mTransB o }, chunks := chunkList o,
    split := mOp o == 4, ints := isIntPath o }

/-- The copy of a tensor whose blocks lie along its columns' axis, or its rows': itself, or its dual (R92, R93). -/
def blockedAlong (e : Env) (i : Nat) (cols : Bool) : Nat :=
  let d := descOf e.im i
  if fmtBlock (dFmt d) && dKind d == 0 && (dPerm d 0 + 1 == dRank d) != cols && dDual d != 0 then dDual d else i

/-- Whether the weight gradient of a twin pass forms on the integer path. -/
def twinInts (e : Env) (o : Nat) : Bool := dFmt (baseDesc e (mAux o)) == 6 && dFmt (baseDesc e (mA o)) == 6

/-- Array 1 of a twin pass: chunk j forms Xᵀ·dY over the 64 rows of `M_TILE`, of the dY tile that array 0 takes (R93, R106). -/
def twinPass (e : Env) (o : Nat) : PassIn :=
  { a := { desc := mAux o, kFirst := true }, b := { desc := blockedAlong e (mA o) (mTransA o), kFirst := !mTransA o }, chunks := [mMt o], split := false,
    ints := twinInts e o }

/-- A twin pass over a depthwise view (mode 1). -/
def isDepthTwin (e : Env) (o : Nat) : Bool := mOp o == 2 && isWindow e (mAux o) && wMode (winOf e (mAux o)) == 1

/-- A twin pass whose array 0 folds column gradients into a source's shape (R159). -/
def isFold (e : Env) (o : Nat) : Bool := mOp o == 2 && isWindow e (mAux o)

/-- Row, tap and channel of the column gradients of a depthwise twin pass: the rows of `M_TILE`, the taps of tile `N_TILE`, the channels
of the pass's chunks. -/
def depthElems (e : Env) (o : Nat) : List (Nat × Nat × Nat) :=
  let w := winOf e (mAux o)
  let cs := ((chunkList o).flatMap (fun c => (List.range 64).map (64 * c + ·))).filter (· < wCCnt w)
  let ts := ((List.range 64).map (64 * mNt o + ·)).filter (· < wTaps w)
  let ms := ((List.range 64).map (64 * mMt o + ·)).filter (· < wRows e.im w)
  ms.flatMap (fun m => ts.flatMap (fun t => cs.map (fun c => (m, t, c))))

/-- The products dY(m, c)·w(τ, c) of a depthwise twin pass. -/
def depthWords (e : Env) (o : Nat) : List (Nat × Nat × Nat) → Except (Nat × Nat × Nat) (List Nat)
  | [] => .ok []
  | (m, t, c) :: r =>
    let w := winOf e (mAux o)
    let ia := m * matCols (descOf e.im (mA o)) + c
    let ib := t * wCCnt w + c
    match offsetElem e (mA o) ia with
    | .error x => .error (x, mA o, ia)
    | .ok a =>
      match offsetElem e (mB o) ib with
      | .error x => .error (x, mB o, ib)
      | .ok b =>
        match depthWords e o r with
        | .error x => .error x
        | .ok l => .ok (enc40 (fvMul a b) :: l)

/-- The first operand of the adapter lane that cannot be read, as code, tensor and index (R108, R110). -/
def adapterFault (e : Env) (o : Nat) : Option (Nat × Nat × Nat) :=
  if !mAdapt o || !mLast o then none
  else (mTiles o).findSome? (fun t =>
    match rawAt e (mAux o) t.1 with
    | .error c => some (c, mAux o, t.1)
    | .ok _ =>
      let v := variantOf e (mAux o) t.1
      let miss := fun (i x : Nat) => match readElem e i x with
        | .error c => some (c, i, x)
        | .ok _ => none
      let ks := List.range (passK e o)
      let qs := List.range (avRank v)
      let bc := matCols (descOf e.im (avB v))
      if qs.isEmpty then none
      else
        match (List.range 64).findSome? (fun r => ks.findSome? (fun k =>
            match operIndex e { desc := mA o, kFirst := mTransA o } 0 (64 * t.1 + r) k with
            | none => none
            | some (i, x) => miss i x)) with
        | some x => some x
        | none =>
          match ks.findSome? (fun k => qs.findSome? (fun q => miss (avA v) (k * matCols (descOf e.im (avA v)) + q))) with
          | some x => some x
          | none => qs.findSome? (fun q => (((List.range 64).map (64 * t.2 + ·)).filter (· < bc)).findSome? (fun c => miss (avB v) (q * bc + c))))

/-- Key of an output tile: a function of the logical tile alone. -/
def tileKey (o mt nt : Nat) : Nat := pack [(0, 24, mOut o), (24, 16, mt), (40, 16, nt), (56, 16, mPass o), (72, 8, mOp o)]

/-- The tiles of a pass with the clamps of each, or the first failure. -/
def joinTiles : List (Except (Nat × Nat × Nat) (List Nat × Nat)) → Except (Nat × Nat × Nat) (List (List Nat) × List Nat)
  | [] => .ok ([], [])
  | x :: r =>
    match x with
    | .error c => .error c
    | .ok (l, n) =>
      match joinTiles r with
      | .error c => .error c
      | .ok (ls, m) => .ok (l :: ls, n :: m)

/-- Products of the tiles of array 0 and of a paired array 1. -/
def mainTiles (e : Env) (us : List UBuf) (ent : Nat) : Except (Nat × Nat × Nat) (List (List Nat) × List Nat) :=
  let o := tOp ent
  if isDepthTwin e o then
    if mOut o == 0 then .ok ([], [])
    else match depthWords e o (depthElems e o) with
      | .error x => .error x
      | .ok l => .ok ([l], [0])
  else match adapterFault e o with
  | some x => .error x
  | none => joinTiles ((mTiles o).map (fun t => passTile e (mainPass o) (tileKey o t.1 t.2) (adapterTerms e us) t.1 t.2 (List.range 4096)))

/-- Products of array 1 of a twin pass, one tile for each chunk. -/
def twinTiles (e : Env) (ent : Nat) : Except (Nat × Nat × Nat) (List (List Nat) × List Nat) :=
  let o := tOp ent
  if !twinRuns o then .ok ([], [])
  else joinTiles ((chunkList o).map (fun j => passTile e (twinPass e o) (tileKey o (mNt o) j + 2 ^ 80) (fun _ _ => []) (mNt o) j (List.range 4096)))

/-- Whether a thread names an empty view (R150); a channel-to-space view has a coarse position for each of its target's (R168). -/
def emptyView (e : Env) (o : Nat) : Bool :=
  [mA o, mAux o, mOut o].any (fun i => isWindow e i && wMode (winOf e i) != 3 && wEmpty e.im (winOf e i) && (i != mAux o || mOp o == 2))

/-- Indices that an operand is read at: the first element of each chunk, which lies in the chunk's tile; of a window view, every element
in its source. -/
def operReads (e : Env) (p : Opnd) (ns outs chunks : List Nat) : List Nat :=
  let win := isWindow e p.desc
  let ks := fun (c : Nat) => if win then (List.range 64).map (64 * c + ·) else [64 * c]
  let nn := if win && wMode (winOf e p.desc) == 1 then ns else [0]
  outs.flatMap (fun x => chunks.flatMap (fun c => (ks c).flatMap (fun k => nn.filterMap (fun n => (operIndex e p n x k).map (·.2)))))

/-- The 64 positions of each of some tiles. -/
def inTiles (l : List Nat) : List Nat := l.eraseDups.flatMap (fun t => (List.range 64).map (64 * t + ·))

/-- Tensors of the adapter lane with the indices that it reads. -/
def adapterReads (e : Env) (o : Nat) : List (Nat × List Nat) :=
  if !mAdapt o || !mLast o then []
  else (mAux o, (mTiles o).map (·.1)) :: (mTiles o).flatMap (fun t =>
    let v := variantOf e (mAux o) t.1
    let qs := List.range (avRank v)
    let bc := matCols (descOf e.im (avB v))
    [(avA v, (List.range (passK e o)).flatMap (fun k => qs.map (k * matCols (descOf e.im (avA v)) + ·))),
     (avB v, qs.flatMap (fun q => ((inTiles [t.2]).filter (· < bc)).map (q * bc + ·)))])

/-- The tensors that a thread reads, each with indices in every tile of it that is read, for the version gate (R25, R26). -/
def mReads (e : Env) (o : Nat) : List (Nat × List Nat) :=
  let rows := inTiles ((mTiles o).map (·.1))
  let cols := inTiles ((mTiles o).map (·.2))
  let main := if isDepthTwin e o then
      let w := winOf e (mAux o)
      let els := if mOut o == 0 then [] else depthElems e o
      [(mA o, els.map (fun x => x.1 * matCols (descOf e.im (mA o)) + x.2.2)), (mB o, els.map (fun x => x.2.1 * wCCnt w + x.2.2))]
    else [(mA o, operReads e (mainPass o).a cols rows (chunkList o)), (mB o, operReads e (mainPass o).b [0] cols (chunkList o))]
  let twin := if twinRuns o then
      let q := twinPass e o
      [(mAux o, operReads e q.a (inTiles (chunkList o)) (inTiles [mNt o]) q.chunks), (q.b.desc, operReads e q.b [0] (inTiles (chunkList o)) q.chunks)]
    else []
  main ++ twin ++ adapterReads e o

def mGate (s : State) (e : Env) (o : Nat) : Nat := ((mReads e o).map (fun r => gateOf s e r.1 r.2)).foldl max 0

def meOf (s : State) (me : Nat) : MatrixEngine := spGet MatrixEngine.idle me s.engines
def setMe (me : Nat) (x : MatrixEngine) (s : State) : State := { s with engines := spSet me x s.engines }

/-- Reserved codes that a pass reads. -/
def passFormatErrors (e : Env) (o : Nat) : Nat :=
  ((mReads e o).map (fun r => formatErrorsOf e r.1 r.2.eraseDups)).foldl (· + ·) 0

/-- The tensor that an output lands in. -/
def outDesc (e : Env) (o : Nat) : Nat := if isWindow e (mOut o) then wSrc (winOf e (mOut o)) else mOut o

/-! The window front end (R145, R155, R156). -/

/-- What the front end delivers in a pass: the operand, its outer positions, the output columns of a depthwise view, and the chunks. -/
def frontReads (e : Env) (o : Nat) : Option (Opnd × List Nat × List Nat × List Nat) :=
  if isWindow e (mA o) then some ((mainPass o).a, inTiles ((mTiles o).map (·.1)), inTiles ((mTiles o).map (·.2)), chunkList o)
  else if twinRuns o && isWindow e (mAux o) then some ((twinPass e o).a, inTiles [mNt o], inTiles (chunkList o), [mMt o])
  else none

/-- Units of a chunk in the order of the window register: source index and raw unit, none for padding. -/
def frontChunk (e : Env) (p : Opnd) (outs ns : List Nat) (c : Nat) : List (Option (Nat × Nat)) :=
  let w := winOf e p.desc
  let n := if fmtBlock (dFmt (baseDesc e p.desc)) then 1 else 64
  outs.flatMap (fun x => (List.range n).flatMap (fun t => (if wMode w == 1 then ns else [0]).map (fun j =>
    (operIndex e p j x (64 * c + t)).bind (fun i => match rawAt e i.1 i.2 with
      | .ok (some (_, _, raw)) => some (i.2, raw)
      | _ => none))))

/-- Channel group of a source index, counted from `C_OFF`. -/
def chanGroup (im : Image) (w x : Nat) : Nat := (x % max 1 ((wDims im w).getD 4 1) - wCOff w) / 64

/-- Frame slots: for each temporal tap, the frame that the pass's first output position reads and the lines of it that are held. -/
def frontSlots (im : Image) (w m : Nat) (held : List (Nat × Nat)) : List (Nat × List Nat) :=
  (List.range (wKt w)).map (fun i =>
    match coordsOf [(wDims im w).getD 0 1, wOut im w 0, wOut im w 1, wOut im w 2] m with
    | [_, t, _, _] => match wCoord im w 0 t i with
      | none => (0, [])
      | some fr => (fr, (List.range ((wDims im w).getD 2 1)).filter (fun y => held.any (fun h =>
          let c := coordsOf (wDims im w) h.1
          c.getD 1 0 == fr && c.getD 2 0 == y)))
    | _ => (0, []))

/-- The front end after a pass: lines of the last channel group join those held for the same view, or fill the other half; each chunk loads
the other bank (log entry 94). -/
def frontAfter (e : Env) (o : Nat) (f : WindowFront) : WindowFront :=
  match frontReads e o with
  | none => f
  | some (p, outs, ns, cs) =>
    let w := winOf e p.desc
    let chunks := cs.map (frontChunk e p outs ns)
    let units := (chunks.flatten.filterMap id).eraseDups
    let g := (units.getLast?.map (fun u => chanGroup e.im w u.1)).getD 0
    let fresh := units.filter (fun u => chanGroup e.im w u.1 == g)
    let half := if f.view == p.desc then f.half else 1 - f.half
    let old := if f.view == p.desc then (f.halves.getD half []).filter (fun u => chanGroup e.im w u.1 == g && !fresh.any (·.1 == u.1)) else []
    let held := old ++ fresh
    let pad := if fmtBlock (dFmt (baseDesc e p.desc)) then padBlock (dFmt (baseDesc e p.desc)) else 0
    let bk := chunks.foldl (fun (b : List (List Nat) × Nat) c => (b.1.set (1 - b.2) (c.map (fun u => (u.map (·.2)).getD pad)), 1 - b.2)) (f.banks, f.bank)
    { view := p.desc, halves := f.halves.set half held, half := half
      slots := frontSlots e.im w (if p.kFirst then 64 * mMt o else outs.headD 0) held, banks := bk.1, bank := bk.2 }

/-! A pass. -/

/-- A thread that names an empty view is done at once: it reads and writes nothing (R150). -/
def emptyPass (thread : Nat) (s : State) : State :=
  let s1 := doneFlight thread s
  { s1 with run := { s1.run with emptyView := true } }

/-- What a pass leaves in its engine: its products in the live sets, U in the lane's buffers, its lines in the front end. -/
def enterLive (e : Env) (us : List UBuf) (ent : Nat) (m w : List (List Nat)) (sat : List Nat) (x : MatrixEngine) : MatrixEngine :=
  let o := tOp ent
  { x with
    live := some { thread := tThread ent, entry := ent, set0 := m.headD [], set1 := if mOp o == 2 then w else m.drop 1, sat := sat }
    ubufs := if us.isEmpty then x.ubufs else (us ++ x.ubufs).take 2
    front := frontAfter e o x.front }

/-- A pass runs on an engine whose live set is free: its products land there (R103). -/
def runPass (me : Nat) (ops : List Nat) (s : State) : State :=
  match headOfClass s 1 me 0x01 (fun x => ops.contains x), envOf s with
  | some (qi, i, ent), some e =>
    let o := tOp ent
    let x := meOf s me
    if x.live.isSome then s
    else if emptyView e o then emptyPass (tThread ent) (issue 1 me qi i ent s)
    else
      let g := mGate s e o
      if g == 1 then s
      else
        let s1 := (if mLast o && !isFold e o then takeScales [outDesc e o] else id) (issue 1 me qi i ent s)
        let e := envAfter e s1
        if g != 0 then failThread 1 me (tThread ent) g 0 0xFFFF 0 s1
        else
          let us := uBufs e o
          match mainTiles e us ent, twinTiles e ent with
          | .error (c, d, k), _ => failRead 1 me (tThread ent) c d k e s1
          | _, .error (c, d, k) => failRead 1 me (tThread ent) c d k e s1
          | .ok (m, n), .ok (w, n2) => setMe me (enterLive e us ent m w (n ++ n2) x) (countFormat (passFormatErrors e o) s1)
  | _, _ => s

def execMm (me : Nat) (s : State) : Host.Outcome State Fault Refusal := .next (runPass me [1] s)
def execMmTwin (me : Nat) (s : State) : Host.Outcome State Fault Refusal := .next (runPass me [2] s)
def execMmWin (me : Nat) (s : State) : Host.Outcome State Fault Refusal := .next (runPass me [3] s)
def execMmSplit (me : Nat) (s : State) : Host.Outcome State Fault Refusal := .next (runPass me [4] s)

end Sys2Proof.Machine
end

