-- ==== Sys2Proof/Machine/Drain.lean ====
section
/-! DEFINITION. The drain of the matrix engines: the merge with the running partial, the factor of the last pass, the fold, the regrouping
store, the scout pass and the conversion (R95, R96, R103 to R107, R159, R168). -/

namespace Sys2Proof.Machine

/-! The drain (R95, R96, R104 to R107, R159, R168). -/

/-- Index in the output or partial of element (m, n); none beyond its extent. -/
def outIndex (d m n : Nat) : Option Nat := if matRows d ≤ m || matCols d ≤ n then none else some (m * matCols d + n)

/-- Target of a channel-to-space store (R168). -/
def c2sIndex (im : Image) (w m n : Nat) : Option Nat :=
  let td := wDims im w
  let k := wTaps w
  match coordsOf (coarseDims im w) m with
  | [b, t, y, x] =>
    let tap := n / wCCnt w
    let tt := t * wKt w + tap / (wKh w * wKw w)
    let yy := y * wKh w + tap / wKw w % wKh w
    let xx := x * wKw w + tap % wKw w
    if k ≤ tap || td.getD 0 1 ≤ b || td.getD 1 1 ≤ tt || td.getD 2 1 ≤ yy || td.getD 3 1 ≤ xx then none
    else some (indexOf td [b, tt, yy, xx, wCOff w + n % wCCnt w])
  | _ => none

/-- Elements of a tile with their (m, n). -/
def tileElems (t : Nat × Nat) (l : List Nat) : List (Nat × Nat × Nat) := l.zipIdx.map (fun v => (64 * t.1 + v.2 / 64, 64 * t.2 + v.2 % 64, v.1))

/-- Word of the running partial. -/
def partWord (e : Env) (i idx : Nat) : Nat :=
  match readRaw e (descOf e.im i) 0 idx with
  | .ok w => w
  | .error _ => 0

/-- Row, tap and every channel of the tile of a depthwise twin pass. -/
def depthAll (e : Env) (o : Nat) : List (Nat × Nat × Nat) :=
  (((depthElems e o).map (fun x => (x.1, x.2.1))).eraseDups).flatMap (fun x => (List.range (wCCnt (winOf e (mAux o)))).map (fun c => (x.1, x.2, c)))

/-- Places in the running partial that a pass reads. -/
def partReads (e : Env) (o : Nat) : List Nat :=
  let d := descOf e.im (mPart o)
  if mFirst o || mTiles o == [] then []
  else if isDepthTwin e o then
    (depthAll e o).filterMap (fun x => outIndex d x.1 (x.2.1 * wCCnt (winOf e (mAux o)) + x.2.2))
  else (mTiles o).flatMap (fun t => (List.range 4096).filterMap (fun i => outIndex d (64 * t.1 + i / 64) (64 * t.2 + i % 64)))

/-- The first element of the running partial that cannot be read. -/
def partFault (e : Env) (o : Nat) : Option (Nat × Nat) :=
  (partReads e o).findSome? (fun x => match readRaw e (descOf e.im (mPart o)) 0 x with
    | .error c => some (c, x)
    | .ok _ => none)

/-- The output's element for (m, n), through a channel-to-space view where one is named. -/
def targetOf (e : Env) (o m n : Nat) : Option Nat :=
  if isWindow e (mOut o) then c2sIndex e.im (winOf e (mOut o)) m n else outIndex (descOf e.im (mOut o)) m n

/-- The plain tensor behind the output and the index of element (m, n) there, through a view where one is named. -/
def outPoint (e : Env) (o m n : Nat) : Option (Nat × Nat) :=
  match (targetOf e o m n).map (locate e (descOf e.im (outDesc e o))) with
  | some (.ok (some x)) => some x
  | _ => none

/-- Tensor and index that key the rounding of a merge: the element of `DESC_OUT`'s tensor (R56, R76); a column gradient has none of its
own there and takes its index in the partial (log entry 95). -/
def sumKey (e : Env) (o m n idx : Nat) : Nat × Nat :=
  if isFold e o then (baseDesc e (mOut o), idx) else (outPoint e o m n).getD (baseDesc e (mOut o), idx)

/-- Merge a pass word of element (m, n) with the partial (R95): word and saturations. The merge rounds by SR in bootstrap on a K above
65,536 (R76). -/
def mergeWord (e : Env) (o m n idx w : Nat) : Nat × Nat :=
  if mFirst o then (w, 0)
  else
    let p := partWord e (mPart o) idx
    if isIntPath o then
      let (v, c) := addSat (toSigned 32 p, 0) (toSigned 32 w)
      (ofSigned 32 v, c)
    else
      let sum := fvAdd (dec40 p) (dec40 w)
      let k := sumKey e o m n idx
      if 65536 < passK e o && inBootstrap e (baseDesc e (mOut o)) then
        (encodeFlt p40 (roundTo p40 (.sr (srWord e.seed e.step (dTid k.1) k.2 (mPass o) 3)) sum), 0)
      else (enc40 sum, 0)

/-- The value behind a word. -/
def wordValue (ints : Bool) (w : Nat) : FV := if ints then fvInt (toSigned 32 w) else dec40 w

/-- Additions of column gradients into the fold tensor (R159), in ascending m, then K. -/
def foldInto (e : Env) (o : Nat) (vals : List (Nat × Nat × FV)) : List (Nat × Nat) :=
  let w := winOf e (mAux o)
  let d := descOf e.im (mOut o)
  vals.filterMap (fun v =>
    let tc := if wMode w == 1 then (v.2.1 / wCCnt w, wCOff w + v.2.1 % wCCnt w) else wTapChan w v.2.1
    match wIndex e.im w v.1 tc.1 (tc.2) with
    | none => none
    | some x =>
      let cs := coordsOf (wDims e.im w) x
      (elemAddr e d 0 (indexOf (dDims d) (cs.set 4 (tc.2 - wCOff w)))).map (fun a => (a, enc40 v.2.2)))

/-- An `AMAX_ONLY` pass measures the tiles of a plain tensor or of the source of a gather view, and sets their offsets where the tensor is
scouted (R69, R107). -/
def scoutTile (e : Env) (i : Nat) (vals : List (Nat × FV)) : Stored :=
  let b := baseIdx e i
  let d := descOf e.im b
  let loc := vals.filterMap (fun v => match locate e (descOf e.im i) v.1 with
    | .ok (some x) => some (x.2, v.2)
    | _ => none)
  ((groupTiles d loc).map (fun g =>
    let a := amaxOf (g.2.map (·.2))
    if scouted e b then
      match scoutExp (dFmt d) (dHead d) (scaleT e d) a with
      | none => { amax := a, fail := 0x0402 }
      | some k => { amax := a, writes := [{ addr := dAux d + 80 + g.1, bytes := leBytes 1 (ofSigned 8 k) }] : Stored }
    else { amax := a })).foldl stMerge {}

/-- Where element (m, n) merges and whether it exists: in the partial, else in the output's extents. -/
def mergeIndex (e : Env) (o m n : Nat) : Option Nat :=
  if !(mFirst o && mLast o) then outIndex (descOf e.im (mPart o)) m n
  else if isFold e o then
    (if wRows e.im (winOf e (mAux o)) ≤ m || wK (winOf e (mAux o)) ≤ n then none else some 0)
  else if isWindow e (mOut o) then some 0
  else outIndex (descOf e.im (mOut o)) m n

/-- The elements of array 0 and of a paired array 1: row, column, merged word, saturations. -/
def mergedElems (e : Env) (o : Nat) (sets : List (List Nat)) : List (Nat × Nat × Nat × Nat) :=
  (List.zip (mTiles o) sets).flatMap (fun ts => (tileElems ts.1 ts.2).filterMap (fun v =>
    (mergeIndex e o v.1 v.2.1).map (fun x =>
      let r := mergeWord e o v.1 v.2.1 x v.2.2
      (v.1, v.2.1, r.1, r.2))))

/-- The tile sums that leave on the last pass, after R96's factor. An integer sum takes its adapter terms in P40 (log entry 95). -/
def finalVals (e : Env) (us : List UBuf) (o : Nat) (els : List (Nat × Nat × Nat × Nat)) : List (Nat × Nat × FV) :=
  let t := fvMul (operT e (mA o)) (operT e (mB o))
  let extra := fun (m n : Nat) => if isIntPath o && mAdapt o then adapterTerms e us m n else []
  els.map (fun v => (v.1, v.2.1, r40 (fvMul ((extra v.1 v.2.1).foldl (fun s x => add40 s (r40 x)) (wordValue (isIntPath o) v.2.2.1)) t)))

/-- Column gradients of a depthwise twin pass: row, column τ·C + c, word. A pass that is not the whole of its tile merges in the partial
over every channel; an element outside the pass's chunks adds +0 (R95, R159, log entry 95). -/
def depthMerged (e : Env) (o : Nat) (set0 : List Nat) : List (Nat × Nat × Nat) :=
  let w := winOf e (mAux o)
  let at_ := fun (x : Nat × Nat × Nat) => (x.1, x.2.1 * wCCnt w + x.2.2)
  let own := List.zipWith (fun x v => (at_ x, v)) (depthElems e o) set0
  if mFirst o && mLast o then own.map (fun x => (x.1.1, x.1.2, x.2))
  else
    ((depthAll e o).map at_).filterMap (fun x => (outIndex (descOf e.im (mPart o)) x.1 x.2).map (fun i =>
      let v := ((own.find? (fun y => y.1 == x)).map (·.2)).getD 0
      (x.1, x.2, if mFirst o then v else addP40 (partWord e (mPart o) i) v)))

/-- Bytes of words in the partial. -/
def partWrites (e : Env) (o : Nat) (l : List (Nat × Nat × Nat)) : List Write :=
  let d := descOf e.im (mPart o)
  l.filterMap (fun v => ((outIndex d v.1 v.2.1).bind (elemAddr e d 0)).map (fun a => { addr := a, bytes := leBytes (unitSize d) v.2.2 : Write }))

/-- What the drain of array 0, and of a paired array 1, leaves in the commit buffer: the tensor converted into, what is stored there, and
the additions into a fold tensor. -/
def drainOut (s : State) (e : Env) (us : List UBuf) (ent : Nat) (p : LivePass) : Nat × Stored × List (Nat × Nat) :=
  let o := tOp ent
  let b := baseIdx e (if mLast o then outDesc e o else mPart o)
  let last := fun (vs : List (Nat × Nat × FV)) =>
    if isFold e o then (if mAmaxOnly o then (b, { amax := amaxOf (vs.map (·.2.2)) : Stored }, []) else (b, {}, foldInto e o vs))
    else
      let tv := vs.filterMap (fun v => (targetOf e o v.1 v.2.1).map (fun x => (x, v.2.2)))
      (b, if mAmaxOnly o then scoutTile e (outDesc e o) tv else storeOut s e (outDesc e o) (tMicro ent) tv, [])
  if mTiles o == [] then (b, {}, [])
  else if isDepthTwin e o then
    let els := depthMerged e o p.set0
    if mLast o then last (finalVals e us o (els.map (fun v => (v.1, v.2.1, v.2.2, 0)))) else (b, { writes := partWrites e o els }, [])
  else
    let els := mergedElems e o (if mOp o == 2 then [p.set0] else p.set0 :: p.set1)
    if mLast o then last (finalVals e us o els) else (b, { writes := partWrites e o (els.map (fun v => (v.1, v.2.1, v.2.2.1))) }, [])

/-- Clamps of the tiles of array 0 and of a paired array 1, pass and merge together, by tile of the output's tensor (R100). -/
def outSats (e : Env) (o : Nat) (p : LivePass) : List (Nat × Nat) :=
  if isDepthTwin e o then []
  else
    let els := mergedElems e o (if mOp o == 2 then [p.set0] else p.set0 :: p.set1)
    ((mTiles o).zip p.sat).filterMap (fun t =>
      let n := t.2 + ((els.filter (fun v => v.1 / 64 == t.1.1 && v.2.1 / 64 == t.1.2)).map (·.2.2.2)).foldl (· + ·) 0
      let k := match outPoint e o (64 * t.1.1) (64 * t.1.2) with
        | some x => tileOf x.1 x.2
        | none => t.1.1 * 65536 + t.1.2
      if n == 0 then none else some (k, n))

/-- Products of array 1 of a twin pass, scaled, for the slots (R106). -/
def drainTwin (e : Env) (me ent : Nat) (p : LivePass) : List WgbAdd :=
  let o := tOp ent
  if mOp o != 2 then []
  else
    let t := fvMul (operT e (mAux o)) (operT e (mA o))
    p.set1.zipIdx.map (fun v => { me := me, slot := mSlot o + v.2, vals := v.1.map (fun w => enc40 (fvMul (wordValue (twinInts e o) w) t)) })

/-- Clamps of array 1 of a twin pass, by the slot's tensor and tile. -/
def twinSats (e : Env) (me ent : Nat) (p : LivePass) : List (Nat × Nat × Nat) :=
  let o := tOp ent
  if mOp o != 2 then []
  else
    (p.sat.drop (mTiles o).length).zipIdx.filterMap (fun v =>
      let w := mapEntryOf e.im me (mSlot o + v.2)
      if v.1 == 0 then none else some (wmDesc w, wmTile w, v.1))

/-- The drained pass in its thread's commit buffer. -/
def drainInto (e : Env) (me : Nat) (p : LivePass) (out : Nat × Stored × List (Nat × Nat)) (f : InFlight) : InFlight :=
  let o := tOp p.entry
  let f1 := landSat (baseIdx e (outDesc e o)) (if mTiles o == [] then [] else outSats e o p) (landStored out.1 out.2.1 f)
  let f2 := (twinSats e me p.entry p).foldl (fun g v => landSat v.1 [(v.2.1, v.2.2)] g) f1
  { f2 with adds := f2.adds ++ out.2.2, wgb := f2.wgb ++ drainTwin e me p.entry p, done := true }

/-- `DRAIN`: the live set becomes the shadow set and is cleared; the pass is merged, converted or made ready for its slots, and its thread
may commit. The shadow is free once its rows have been read (R103 to R105). -/
def drainSt (me : Nat) (s : State) : State :=
  let x := meOf s me
  match x.live, envOf s with
  | some p, some e =>
    let o := tOp p.entry
    let swapped := { x with live := none, shadow := some p }
    match partFault e o with
    | some (c, k) => failRead 1 me p.thread c (mPart o) k e (setMe me swapped s)
    | none =>
      let out := drainOut s e x.ubufs p.entry p
      setMe me swapped (modFlight p.thread (drainInto e me p out) (countEvents out.1 out.2.1 s))
  | _, _ => s

def execDrain (me : Nat) (s : State) : Host.Outcome State Fault Refusal := .next (drainSt me s)

end Sys2Proof.Machine
end

