-- ==== Sys2Proof/Machine/Func.lean ====
section
/-! DEFINITION. Activation function tables: the index modes, the derivative, and the built-in tables (R132 to R136, R555). -/

namespace Sys2Proof.Machine

/-- Header of a function table (Table 5.10); bounds and constants as FP32 encodings. -/
structure FuncHdr where
  mode : Nat
  segs : Nat
  xLo : Nat
  xHi : Nat
  tailLo : Nat
  tailHi : Nat
  cLo : Nat
  cHi : Nat
  deriving DecidableEq, Repr

/-! Fixed-point evaluation of the exact quantities of R555. -/

/-- Fraction bits of the evaluation: far below the smallest FP32 subnormal, so each coefficient rounds as the exact value does. -/
def fxBits : Nat := 640
def fxOne : Int := ((1 <<< fxBits : Nat) : Int)
def fxMul (a b : Int) : Int := (a * b) / fxOne
def fxDiv (a b : Int) : Int := if b == 0 then 0 else (a * fxOne) / b

/-- Alternating or plain series Σ termᵢ, termᵢ₊₁ = termᵢ·x ÷ (i + 1). -/
def fxExpSeries (x : Int) : Nat → Nat → Int → Int → Int
  | 0, _, _, acc => acc
  | f + 1, i, term, acc => fxExpSeries x f (i + 1) (fxMul term x / ((i + 1 : Nat) : Int)) (acc + term)

def fxSquare : Nat → Int → Int
  | 0, v => v
  | n + 1, v => fxSquare n (fxMul v v)

/-- e^x for x ≤ 0: the series at x ÷ 2^10, squared ten times. -/
def fxExpNeg (x : Int) : Int := if x == 0 then fxOne else fxSquare 10 (fxExpSeries (x / 1024) 90 0 fxOne 0)

/-- 2·atanh(z) = 2 Σ z^(2i+1) ÷ (2i+1). -/
def fxAtanh2 (z2 : Int) : Nat → Nat → Int → Int → Int
  | 0, _, _, acc => 2 * acc
  | f + 1, i, p, acc => fxAtanh2 z2 f (i + 1) (fxMul p z2) (acc + p / ((2 * i + 1 : Nat) : Int))

/-- ln(1 + u), 0 ≤ u ≤ 1. -/
def fxLog1p (u : Int) : Int :=
  let z := fxDiv u (2 * fxOne + u)
  fxAtanh2 (fxMul z z) 210 0 z 0

def fxLn2 : Int := fxLog1p fxOne

/-- arctan(1 ÷ n) by its series. -/
def fxAtanInv (n2 : Int) : Nat → Nat → Int → Int → Int
  | 0, _, _, acc => acc
  | f + 1, i, p, acc =>
    let q := p / ((2 * i + 1 : Nat) : Int)
    fxAtanInv n2 f (i + 1) (p / n2) (if i % 2 == 0 then acc + q else acc - q)

/-- π by Machin's formula. -/
def fxPi : Int := 4 * (4 * fxAtanInv 25 160 0 (fxOne / 5) 0 - fxAtanInv 57121 60 0 (fxOne / 239) 0)

def fxSqrt (v : Int) : Int := ((isqrt (v.toNat <<< fxBits) : Nat) : Int)

/-- √(2 ÷ π). -/
def fxSqrt2Pi : Int := fxSqrt (fxDiv (2 * fxOne) fxPi)

/-- Σ (−h)^n ÷ (n!·(2n+1)), the series of erf. -/
def fxErfSeries (h : Int) : Nat → Nat → Int → Int → Int
  | 0, _, _, acc => acc
  | f + 1, n, term, acc =>
    fxErfSeries h f (n + 1) (-(fxMul term h) / ((n + 1 : Nat) : Int)) (acc + term / ((2 * n + 1 : Nat) : Int))

/-- erf(x ÷ √2) = √(2/π)·x·Σ (−x²/2)^n ÷ (n!·(2n+1)). -/
def fxErf (x : Int) : Int := fxMul (fxMul fxSqrt2Pi x) (fxErfSeries (fxMul x x / 2) 700 0 fxOne 0)

/-- 1 ÷ (1 + e^−x). -/
def fxSigmoid (x : Int) : Int :=
  if x < 0 then (let e := fxExpNeg x; fxDiv e (fxOne + e)) else fxDiv fxOne (fxOne + fxExpNeg (-x))

def fxTanh (x : Int) : Int :=
  let e := fxExpNeg (-2 * (if x < 0 then -x else x))
  let v := fxDiv (fxOne - e) (fxOne + e)
  if x < 0 then -v else v

/-- f and f′ of a mode 0 slot at x (Table 5.13, R555). -/
def fxFun (slot : Nat) (x : Int) : Int × Int :=
  match slot with
  | 0 =>
    let ph := (fxOne + fxErf x) / 2
    let pdf := fxMul fxSqrt2Pi (fxExpNeg (-(fxMul x x / 2))) / 2
    (fxMul x ph, ph + fxMul x pdf)
  | 1 =>
    let x2 := fxMul x x
    let t := fxTanh (fxMul fxSqrt2Pi (x + fxMul x2 x * 44715 / 1000000))
    let g' := fxMul fxSqrt2Pi (fxOne + x2 * 134145 / 1000000)
    (fxMul x (fxOne + t) / 2, (fxOne + t) / 2 + fxMul (fxMul x (fxOne - fxMul t t)) g' / 2)
  | 2 =>
    let s := fxSigmoid x
    (fxMul x s, s + fxMul x (fxMul s (fxOne - s)))
  | 3 =>
    let s := fxSigmoid x
    (s, fxMul s (fxOne - s))
  | 4 =>
    let t := fxTanh x
    (t, fxOne - fxMul t t)
  | _ =>
    let a := if x < 0 then -x else x
    ((if x < 0 then 0 else x) + fxLog1p (fxExpNeg (-a)), fxSigmoid x)

/-- A fixed-point value as an exact number. -/
def fxFv (i : Int) : FV := if i == 0 then FV.zero else .num (decide (i < 0)) i.natAbs (-(fxBits : Int))

/-- Headers of the built-in slots (Table 5.13). -/
def builtinHdr (slot : Nat) : Option FuncHdr :=
  match slot with
  | 0 => some ⟨0, 1024, 0xC1800000, 0x41800000, 0, 1, 0, 0⟩
  | 1 => some ⟨0, 1024, 0xC1800000, 0x41800000, 0, 1, 0, 0⟩
  | 2 => some ⟨0, 1024, 0xC2000000, 0x42000000, 0, 1, 0, 0⟩
  | 3 => some ⟨0, 1024, 0xC2000000, 0x42000000, 0, 0, 0, 0x3F800000⟩
  | 4 => some ⟨0, 1024, 0xC1800000, 0x41800000, 0, 0, 0xBF800000, 0x3F800000⟩
  | 5 => some ⟨3, 256, 0xC2D00000, 0x42B17218, 0, 0, 0, 0x7F800000⟩
  | 6 => some ⟨0, 1024, 0xC2000000, 0x42000000, 0, 1, 0, 0⟩
  | 7 => some ⟨1, 256, 0, 0, 0, 0, 0, 0⟩
  | 8 => some ⟨2, 512, 0, 0, 0, 0, 0, 0⟩
  | _ => none

/-- Left end, right end of φ and its derivatives there, for segment k of a built-in slot (R555). -/
def fxPhi (slot k : Nat) : Int × Int × Int × Int :=
  match slot with
  | 5 =>
    let at_ := fun (j : Nat) => fxDiv fxOne (fxExpNeg (-(fxLn2 * j / 256)))
    let a := at_ k
    let b := at_ (k + 1)
    (a, b, fxMul a fxLn2 / 256, fxMul b fxLn2 / 256)
  | 7 =>
    let at_ := fun (j : Nat) => fxOne * 256 / ((256 + j : Nat) : Int)
    let a := at_ k
    let b := at_ (k + 1)
    (a, b, -(fxMul a a) / 256, -(fxMul b b) / 256)
  | 8 =>
    let q := fun (j : Nat) => if k < 256 then fxOne + fxOne * j / 256 else 2 * fxOne + 2 * fxOne * (j - 256) / 256
    let dq : Int := if k < 256 then 1 else 2
    let at_ := fun (j : Nat) => fxDiv fxOne (fxSqrt (q j))
    let a := at_ k
    let b := at_ (k + 1)
    (a, b, -(dq * fxMul a (fxMul a a)) / 512, -(dq * fxMul b (fxMul b b)) / 512)
  | _ =>
    let r : Int := if slot == 0 || slot == 1 || slot == 4 then 16 else 32
    -- w = 2r/1024
    let x := fun (j : Nat) => -r * fxOne + fxOne * r * j / 512
    let (f0, d0) := fxFun slot (x k)
    let (f1, d1) := fxFun slot (x (k + 1))
    (f0, f1, d0 * r / 512, d1 * r / 512)

/-- Coefficients c0 to c3 of a segment. -/
abbrev Cubic := FV × FV × FV × FV

/-- The cubic Hermite coefficients of R555, each rounded once to FP32. -/
def builtinCubic (slot k : Nat) : Cubic :=
  let (a, b, da, db) := fxPhi slot k
  (r32 (fxFv a), r32 (fxFv da), r32 (fxFv (3 * (b - a) - 2 * da - db)), r32 (fxFv (2 * (a - b) + da + db)))

/-- log2(e) rounded to P40 (R133). -/
def log2eP40 : FV := r40 (fxFv (fxDiv fxOne fxLn2))

/-- floor of a finite number. -/
def fvFloor : FV → Int
  | .num n m e =>
    let v : Int := if 0 ≤ e then (m <<< e.toNat : Nat) else (m >>> (-e).toNat : Nat)
    if n then (if 0 ≤ e || m % 2 ^ (-e).toNat == 0 then -v else -v - 1) else v
  | _ => 0

/-- Where an input falls: a fixed value and derivative, or a segment with its local variable and output factors. -/
inductive FuncAt where
  | fixed (value deriv : FV)
  | seg (k : Nat) (t : FV) (neg : Bool) (scale : Int) (dtdx : FV)
  deriving DecidableEq, Repr

/-- k and t of u, with the last segment closed. DESIGN CHOICE (log entry 96): R133 closes it at t = 1 for mode 0; in mode 3, where an f that
rounds to 1 gives u = `SEGS`, the model closes it the same way. -/
def segOf (segs : Nat) (u : FV) : Nat × FV :=
  let k := fvFloor u
  if k < 0 then (0, FV.zero)
  else if (segs : Int) ≤ k then (segs - 1, FV.one)
  else (k.toNat, r40 (fvSub u (fvInt k)))

def tailAt (tail c : Nat) (x : FV) : FuncAt :=
  if tail == 1 then .fixed x FV.one else .fixed (dec32 c) FV.zero

/-- Index modes of Table 5.11 and special inputs of R135. -/
def funcAt (h : FuncHdr) (x : FV) : FuncAt :=
  if fvIsNan x then .fixed .nan .nan
  else if h.mode == 0 || h.mode == 3 then
    if fvLt x (dec32 h.xLo) then tailAt h.tailLo h.cLo x
    else if fvLe (dec32 h.xHi) x then tailAt h.tailHi h.cHi x
    else if h.mode == 0 then
      let w := r40 (fvDiv (r40 (fvSub (dec32 h.xHi) (dec32 h.xLo))) (fvNat h.segs))
      let u := r40 (fvDiv (r40 (fvSub x (dec32 h.xLo))) w)
      let (k, t) := segOf h.segs u
      .seg k t false 0 (fvDiv FV.one w)
    else
      let y := r40 (fvMul x log2eP40)
      let n := fvFloor y
      let f := r40 (fvSub y (fvInt n))
      let (k, t) := segOf h.segs (r40 (fvMul f (fvNat h.segs)))
      .seg k t false n (fvMul (fvNat h.segs) log2eP40)
  else
    match x with
    | .num neg m e =>
      if h.mode == 1 then
        if m == 0 then .fixed (.inf neg) (fvNeg (fvMul (.inf neg) (.inf neg)))
        else
          let ex := leadExp m e
          let fr := FV.num false m (e - ex)
          let (k, t) := segOf h.segs (r40 (fvMul (fvSub fr FV.one) (fvNat h.segs)))
          .seg k t neg (-ex) (.num neg h.segs (-ex))
      else
        if m == 0 then
          let v := FV.inf neg
          .fixed v (fvScale (-1) (fvNeg (fvMul v (fvMul v v))))
        else if neg then .fixed .nan .nan
        else
          let ex := leadExp m e
          let e' := if ex % 2 == 0 then ex else ex - 1
          let q := FV.num false m (e - e')
          let half := h.segs / 2
          if ex % 2 == 0 then
            let (k, t) := segOf half (r40 (fvMul (fvSub q FV.one) (fvNat half)))
            .seg k t false (-(e' / 2)) (.num false half (-e'))
          else
            let (k, t) := segOf half (r40 (fvScale (-1) (fvMul (fvSub q (fvNat 2)) (fvNat half))))
            .seg (half + k) t false (-(e' / 2)) (.num false half (-e' - 1))
    | .inf neg =>
      if h.mode == 1 then
        let v := FV.num neg 0 0
        .fixed v (fvNeg (fvMul v v))
      else if neg then .fixed .nan .nan
      else .fixed FV.zero (fvNeg FV.zero)
    | .nan => .fixed .nan .nan

def negIf (b : Bool) (v : FV) : FV := if b then fvNeg v else v

/-- The value f(x) in FP32 (R133). -/
def funcValue (h : FuncHdr) (cub : Nat → Cubic) (x : FV) : FV :=
  match funcAt h x with
  | .fixed v _ => r32 v
  | .seg k t neg sc _ =>
    let (c0, c1, c2, c3) := cub k
    let p := fma32 t (fma32 t (fma32 t c3 c2) c1) c0
    r32 (negIf neg (fvScale sc p))

/-- The derivative f′(x) in FP32 (R134). -/
def funcDeriv (h : FuncHdr) (cub : Nat → Cubic) (x : FV) : FV :=
  match funcAt h x with
  | .fixed _ d => r32 d
  | .seg k t neg sc dt =>
    let (_, c1, c2, c3) := cub k
    let p := fma32 t (fma32 t (mul32 (fvNat 3) c3) (fvScale 1 c2)) c1
    r32 (negIf neg (fvScale sc (fvMul p dt)))

/-- Load-time checks of R132 on a header. -/
def funcHdrOk (h : FuncHdr) : Bool :=
  let pow2 := h.segs != 0 && h.segs == 2 ^ Nat.log2 h.segs
  h.mode ≤ 3 && 1 ≤ h.segs && h.segs ≤ 1024 && pow2 &&
  (if h.mode == 0 then
    match fvDiv (fvSub (dec32 h.xHi) (dec32 h.xLo)) (fvNat h.segs) with
    | .num false m _ => m != 0 && m == 2 ^ Nat.log2 m
    | _ => false
   else 2 ≤ h.segs)

end Sys2Proof.Machine
end

