-- ==== Sys2Proof/Machine/Vector.lean ====
section
/-! DEFINITION. Vector engines and reduction units: chain records, stages, function tables, reductions; and the entries that lend an
engine to an attention sequencer (R122 to R136). -/

namespace Sys2Proof.Machine

/-! Fields of the vector operation word (Table 5.4) and of a chain record (Tables 5.5, 5.6). -/

def vRedOp (o : Nat) : Nat := bits o 8 4
def vLength (o : Nat) : Nat := bits o 16 24
def vSeg (o : Nat) : Nat := bits o 40 24
def vRec (o : Nat) : Nat := bits o 64 24
def vIn (o j : Nat) : Nat := bits o (88 + 24 * j) 24
def vOut (o : Nat) : Nat := bits o 160 24
def vRed (o : Nat) : Nat := bits o 184 24
def vStart (o : Nat) : Nat := bits o 208 48

def chainHdr (im : Image) (off : Nat) : Nat := ofLe ((im.chainArea.drop off).take 8)
def chainStages (im : Image) (off : Nat) : List Nat :=
  (List.range (bits (chainHdr im off) 32 4)).map (fun i => ofLe ((im.chainArea.drop (off + 8 + 8 * i)).take 8))

/-! Function tables (R131 to R136). -/

/-- Header of a table of the image (Table 5.10). -/
def funcHdrOf (l : List Byte) : FuncHdr :=
  let h := ofLe (l.take 32)
  { mode := bits h 32 8, segs := bits h 48 16, xLo := bits h 64 32, xHi := bits h 96 32, tailLo := bits h 128 8, tailHi := bits h 136 8,
    cLo := bits h 160 32, cHi := bits h 192 32 }

def cubicOf (l : List Byte) (k : Nat) : Cubic :=
  let c := fun i => dec32 (ofLe ((l.drop (32 + 16 * k + 4 * i)).take 4))
  (c 0, c 1, c 2, c 3)

/-- The table of a slot: built in, or the image's. -/
def funcSlot (im : Image) (slot : Nat) : Option (FuncHdr × (Nat → Cubic)) :=
  match builtinHdr slot with
  | some h => some (h, builtinCubic slot)
  | none => (spGet? slot im.funcs).map (fun l => (funcHdrOf l, cubicOf l))

/-! Stages (R126, Table 5.7). -/

def boolFv (b : Bool) : FV := if b then FV.one else FV.zero

/-- a COND b; any comparison with NaN is false except NE. -/
def condHolds (c : Nat) (a b : FV) : Bool :=
  match c with
  | 0 => fvEq a b
  | 1 => !fvEq a b
  | 2 => fvLt a b
  | 3 => fvLe a b
  | 4 => fvLt b a
  | _ => fvLe b a

/-- Result of a stage in FP32. -/
def stageOp (im : Image) (st : Nat) (a b c : FV) : FV :=
  match bits st 0 8 with
  | 0x01 => add32 a b
  | 0x02 => r32 (fvSub a b)
  | 0x03 => mul32 a b
  | 0x04 => fma32 a b c
  | 0x05 => fvMin a b
  | 0x06 => fvMax a b
  | 0x07 => fvAbs a
  | 0x08 => fvNeg a
  | 0x09 => a
  | 0x0A => boolFv (condHolds (bits st 20 3) a b)
  | 0x0B => if fvEq c FV.zero then b else a
  | 0x0C => match funcSlot im (bits st 24 6) with
    | some (h, t) => funcValue h t a
    | none => .nan
  | 0x0D => match funcSlot im (bits st 24 6) with
    | some (h, t) => mul32 (funcDeriv h t a) b
    | none => .nan
  | _ => .nan

/-- A source of a stage: streams, earlier stages, the immediate, the segment index, zero. -/
def stageSrc (ins done : List FV) (st seg code : Nat) : FV :=
  if code < 3 then ins.getD code FV.zero
  else if 4 ≤ code && code ≤ 11 then done.getD (code - 4) FV.zero
  else if code == 12 then dec32 (bits st 32 32)
  else if code == 13 then fvNat seg
  else FV.zero

/-- Results of every stage for one element. -/
def runStages (im : Image) (ins : List FV) (seg : Nat) (stages : List Nat) : List FV :=
  stages.foldl (fun done st =>
    let src := fun lo => stageSrc ins done st seg (bits st lo 4)
    done ++ [stageOp im st (src 8) (src 12) (src 16)]) []

/-! Reductions (R130, Table 5.8). -/

/-- The larger value, the lower index at equal values; the lower-indexed NaN over any number. -/
def argNode (a b : FV × Nat) : FV × Nat := if fvIsNan a.1 then a else if fvIsNan b.1 then b else if fvLt a.1 b.1 then b else a

/-- A segment reduced over the canonical tree. -/
def reduceSeg (op : Nat) (l : List FV) : FV :=
  let k := ceilLog2 l.length
  match op with
  | 1 => sum40all l
  | 2 => sum40all (l.map (fun v => mul40 v v))
  | 3 => (treeSum fvMax k (l.map some)).getD FV.zero
  | 4 => (treeSum fvMin k (l.map some)).getD FV.zero
  | _ => fvNat (((treeSum argNode k (l.zipIdx.map some)).map (·.2)).getD 0)

/-- Lists of n elements cut from a list. -/
def cutEvery {α : Type} (n : Nat) : Nat → List α → List (List α)
  | 0, _ => []
  | k + 1, l => l.take n :: cutEvery n k (l.drop n)

/-! `CHAIN`. -/

/-- Elements of an input stream as FP32, or the failure. -/
def streamVals (e : Env) (i : Nat) (idxs : List Nat) : Except (Nat × Nat) (List FV) :=
  match readAll (readElem e i) idxs with
  | .ok l => .ok (l.map r32)
  | .error x => .error x

/-- The streams that a word names, in order; an unnamed one is empty. -/
def allStreams (e : Env) (o : Nat) (idxs : List Nat) : List Nat → Except (Nat × Nat × Nat) (List (List FV))
  | [] => .ok []
  | j :: r =>
    match if vIn o j == 0 then .ok [] else streamVals e (vIn o j) idxs with
    | .error (c, x) => .error (c, vIn o j, x)
    | .ok l =>
      match allStreams e o idxs r with
      | .error x => .error x
      | .ok ls => .ok (l :: ls)

/-- The VL register after a word's strips: the elements of its last one (R128). -/
def lastStrip (n : Nat) : Nat := n - (n - 1) / 8192 * 8192

def chainIdxs (o : Nat) : List Nat := (List.range (vLength o)).map (vStart o + ·)

/-- A chain entry runs from issue to its stores in the commit buffer. -/
def chainRun (ve qi i ent : Nat) (e : Env) (s : State) : State :=
  let o := tOp ent
  let t := tThread ent
  let idxs := chainIdxs o
  let s1 := takeScales [vOut o, vRed o] (issue 2 ve qi i ent s)
  let e := envAfter e s1
  match allStreams e o idxs [0, 1, 2] with
  | .error (c, d, x) => failRead 2 ve t c d x e s1
  | .ok ins =>
    let stages := chainStages e.im (vRec o)
    let res := (List.range (vLength o)).map (fun k => runStages e.im (ins.map (fun l => l.getD k FV.zero)) (k % vSeg o) stages)
    let outs := idxs.zip (res.map (fun r => r.getD (stages.length - 1) FV.zero))
    let s2 := countFormat (((List.range 3).map (fun j => if vIn o j == 0 then 0 else formatErrorsOf e (vIn o j) idxs)).foldl (· + ·) 0) s1
    let s3 := if vOut o == 0 then s2 else storeTo t e (vOut o) (tMicro ent) outs s2
    let rs := bits (chainHdr e.im (vRec o)) 36 3
    let segs := cutEvery (vSeg o) (vLength o / vSeg o) (res.map (fun r => r.getD rs FV.zero))
    let s4 := if vRedOp o == 0 then s3
      else storeTo t e (vRed o) (tMicro ent) (segs.zipIdx.map (fun g => (g.2, reduceSeg (vRedOp o) g.1))) s3
    doneFlight t { s4 with run := { s4.run with vls := spSet ve (lastStrip (vLength o)) s4.run.vls } }

/-- `CHAIN` on a vector engine. -/
def chainSt (ve : Nat) (s : State) : State :=
  match headOfClass s 2 ve 0x10 (fun x => x == 0x10), envOf s with
  | some (qi, i, ent), some e =>
    let o := tOp ent
    let g := ((List.range 3).map (fun j => if vIn o j == 0 then 0 else gateOf s e (vIn o j) (chainIdxs o))).foldl max 0
    if g == 1 then s
    else if g != 0 then failThread 2 ve (tThread ent) g 0 0xFFFF 0 (issue 2 ve qi i ent s)
    else chainRun ve qi i ent e s
  | _, _ => s

def execChain (ve : Nat) (s : State) : Host.Outcome State Fault Refusal := .next (chainSt ve s)

/-! `LEND` (R122). -/

def lendAs (o : Nat) : Nat := bits o 0 8
def lendThread (o : Nat) : Nat := bits o 8 24

/-- An engine is handed to a sequencer from the moment its entry issues. -/
def lendSt (kind unit : Nat) (s : State) : State :=
  match headOfClass s kind unit 0x70 (fun _ => true) with
  | some (qi, i, ent) =>
    if kind != 1 && kind != 2 then s
    else
      let s1 := issue kind unit qi i ent s
      { s1 with run := { s1.run with lends := s1.run.lends ++ [(kind, unit, lendThread (tOp ent), lendAs (tOp ent))] } }
  | none => s

def execLend (kind unit : Nat) (s : State) : Host.Outcome State Fault Refusal := .next (lendSt kind unit s)

end Sys2Proof.Machine
end

