-- ==== Sys2Proof/Machine/Stem.lean ====
section
/-! DEFINITION. Stem engines: pixels, patches, embeddings and their weight gradient (R163 to R167). -/

namespace Sys2Proof.Machine

/-! Fields of the stem operation word (Table 6.5). -/

def sPix (o : Nat) : Nat := bits o 8 4
def sCh (o : Nat) : Nat := bits o 12 2 + 1
def sPt (o : Nat) : Nat := bits o 16 8
def sPh (o : Nat) : Nat := bits o 24 8
def sPw (o : Nat) : Nat := bits o 32 8
def sFw (o : Nat) : Nat := bits o 48 16
def sFh (o : Nat) : Nat := bits o 64 16
def sFrames (o : Nat) : Nat := bits o 80 16
def sBase (o : Nat) : Nat := bits o 96 48
def sE (o : Nat) : Nat := bits o 144 24
def sY (o : Nat) : Nat := bits o 168 24
def sBias (o : Nat) : Nat := bits o 192 24
def sNorm (o : Nat) : Nat := bits o 216 24

def isYuv (o : Nat) : Bool := 3 ≤ sPix o
/-- Bytes of a container, and bits of a sample (Table 6.6). -/
def sBytes (o : Nat) : Nat := if sPix o % 3 == 0 then 1 else 2
def sBits (o : Nat) : Nat := 8 + 2 * (sPix o % 3)

/-- Bytes of a frame (Table 6.6). -/
def sFrameBytes (o : Nat) : Nat :=
  if isYuv o then sBytes o * (sFw o * sFh o * 3 / 2) else sBytes o * sFw o * sFh o * sCh o

/-- K of a patch (R165). -/
def sK (o : Nat) : Nat := if isYuv o then sPt o * sPh o * sPw o * 3 / 2 else sPt o * sPh o * sPw o * sCh o

/-- Patches of a tile thread. -/
def sPatches (o : Nat) : Nat := (sFrames o / sPt o) * (sFh o / sPh o) * (sFw o / sPw o)

/-- Frame, channel and byte offset within the frame of sample k of patch p (R165). -/
def sampleAt (o p k : Nat) : Nat × Nat × Nat :=
  let nx := sFw o / sPw o
  let ny := sFh o / sPh o
  let px := p % nx
  let py := p / nx % ny
  let f := p / (nx * ny) * sPt o
  let b := sBytes o
  if isYuv o then
    let ya := sPh o * sPw o
    let ca := ya / 4
    let per := ya + 2 * ca
    let dt := k / per
    let r := k % per
    if r < ya then (f + dt, 0, b * ((py * sPh o + r / sPw o) * sFw o + px * sPw o + r % sPw o))
    else
      let ch := 1 + (r - ya) / ca
      let q := (r - ya) % ca
      let hw := sPw o / 2
      let y := py * (sPh o / 2) + q / hw
      let x := px * hw + q % hw
      (f + dt, ch, b * (sFw o * sFh o + (ch - 1) * (sFw o / 2 * (sFh o / 2)) + y * (sFw o / 2) + x))
  else
    let c := k % sCh o
    let dx := k / sCh o % sPw o
    let dy := k / (sCh o * sPw o) % sPh o
    let dt := k / (sCh o * sPw o * sPh o)
    (f + dt, c, b * (((py * sPh o + dy) * sFw o + px * sPw o + dx) * sCh o + c))

/-- Container of a sample, or the failure with its address. -/
def sampleRaw (e : Env) (o p k : Nat) : Except (Nat × Nat) Nat :=
  let (f, _, off) := sampleAt o p k
  let a := sBase o + f * sFrameBytes o + off
  match vaRead e.mem e.im.regions 1 a (sBytes o) with
  | .ok l => .ok (ofLe l)
  | .error c => .error (c, a)

/-- The normalised value of a sample (R166). -/
def sampleValue (o : Nat) (norm : List FV) (p k raw : Nat) : FV :=
  let c := (sampleAt o p k).2.1
  let a := r32 (fvSub (fvNat (raw % 2 ^ sBits o)) (norm.getD (2 * c) FV.zero))
  rBf (mul32 a (norm.getD (2 * c + 1) FV.zero))

def readSamples (e : Env) (o : Nat) (norm : List FV) : List (Nat × Nat) → Except (Nat × Nat) (List FV × Nat)
  | [] => .ok ([], 0)
  | (p, k) :: r =>
    match sampleRaw e o p k with
    | .error x => .error x
    | .ok w =>
      match readSamples e o norm r with
      | .error x => .error x
      | .ok (l, n) => .ok (sampleValue o norm p k w :: l, n + b2n (w >>> sBits o != 0))

/-- All samples of a tile thread, patch by patch: values by p × K + k, and the samples with bits above them. -/
def allSamples (e : Env) (o : Nat) : Except (Nat × Nat) (List FV × Nat) :=
  match readAll (readElem e (sNorm o)) (List.range 8) with
  | .error (c, i) => .error (c, failAddrOf e (sNorm o) i)
  | .ok norm => readSamples e o norm ((List.range (sPatches o)).flatMap (fun p => (List.range (sK o)).map (fun k => (p, k))))

/-- Columns of E. -/
def sD (e : Env) (o : Nat) : Nat := lastDim (descOf e.im (sE o))

/-- Embedding of patch p in column d (R166). -/
def embedElem (o d dd : Nat) (ns : List FV) (em bias : List FV) (p : Nat) : FV :=
  let s := (List.range (sK o)).foldl (fun s k => mac40 s (ns.getD (p * sK o + k) FV.zero) (em.getD (k * dd + d) FV.zero)) FV.zero
  add40 s (bias.getD d FV.zero)

/-- The values of a whole tensor, or the failure. -/
def readTensor (e : Env) (i : Nat) : Except (Nat × Nat) (List FV) := readAll (readElem e i) (List.range (elemCount (descOf e.im i)))

/-- A stem entry of an operation, its samples read. -/
def stemRun (st op : Nat) (g : State → Env → Nat → List FV → State) (s : State) : State :=
  match headOfClass s 6 st 0x50 (fun x => x == op), envOf s with
  | some (qi, i, ent), some e =>
    let o := tOp ent
    let gate := fun i => if op == 0x50 && i != 0 then gateOf s e i (List.range (elemCount (descOf e.im i))) else 0
    let gt := max (gate (sE o)) (gate (sBias o))
    if gt == 1 then s
    else
      let s1 := (if op == 0x50 then takeScales [sY o] else id) (issue 6 st qi i ent s)
      let e := envAfter e s1
      if gt != 0 then failThread 6 st (tThread ent) gt 0 0xFFFF 0 s1
      else
        match allSamples e o with
        | .error (c, a) => failThread 6 st (tThread ent) c 0 0xFFFF a s1
        | .ok (ns, bad) => g (countFormat bad s1) e ent ns
  | _, _ => s

/-- `STEM_EMBED`. DESIGN CHOICE (log entry 97): Table 6.5 gives index 0 of `DESC_BIAS` no meaning; with it no bias is added here and no db
formed in the gradient. -/
def embedRun (st : Nat) (s : State) (e : Env) (ent : Nat) (ns : List FV) : State :=
  let o := tOp ent
  let t := tThread ent
  match readTensor e (sE o) with
  | .error (c, x) => failRead 6 st t c (sE o) x e s
  | .ok em =>
    match if sBias o == 0 then .ok [] else readTensor e (sBias o) with
    | .error (c, x) => failRead 6 st t c (sBias o) x e s
    | .ok bias =>
      let dd := sD e o
      let vals := (List.range (sPatches o * dd)).map (fun i => (i, embedElem o (i % dd) dd ns em bias (i / dd)))
      doneFlight t (storeTo t e (sY o) (tMicro ent) vals s)

/-- `STEM_WEIGHT_GRADIENT`: one P40 addition for each element of dE and db (R167). -/
def stemGradRun (st : Nat) (s : State) (e : Env) (ent : Nat) (ns : List FV) : State :=
  let o := tOp ent
  let t := tThread ent
  match readTensor e (sY o) with
  | .error (c, x) => failRead 6 st t c (sY o) x e s
  | .ok dy =>
    let dd := sD e o
    let ps := List.range (sPatches o)
    let sum := fun (f g : Nat → FV) => enc40 (ps.foldl (fun a p => mac40 a (f p) (g p)) FV.zero)
    let de := (List.range (sK o * dd)).filterMap (fun i => (elemAddr e (descOf e.im (sE o)) 0 i).map (fun a =>
      (a, sum (fun p => ns.getD (p * sK o + i / dd) FV.zero) (fun p => dy.getD (p * dd + i % dd) FV.zero))))
    let db := if sBias o == 0 then [] else (List.range dd).filterMap (fun d => (elemAddr e (descOf e.im (sBias o)) 0 d).map (fun a =>
      (a, sum (fun p => dy.getD (p * dd + d) FV.zero) (fun _ => FV.one))))
    doneFlight t (modFlight t (fun f => { f with adds := f.adds ++ de ++ db }) s)

def execStemEmbed (st : Nat) (s : State) : Host.Outcome State Fault Refusal := .next (stemRun st 0x50 (embedRun st) s)
def execStemWeightGradient (st : Nat) (s : State) : Host.Outcome State Fault Refusal := .next (stemRun st 0x51 (stemGradRun st) s)

end Sys2Proof.Machine
end

