-- ==== Sys2Proof/Machine/Att.lean ====
section
/-! DEFINITION. Attention sequencers: the batch table, masks, the walk with its running softmax, the backward walk, appends and commits of
cisterns, and flushes (R170 to R182, R189 to R192, R195). -/

namespace Sys2Proof.Machine

/-! Fields of the attention operation word (Table 7.2). -/

def aMask (o : Nat) : Nat := bits o 8 2
def aTree (o : Nat) : Bool := bitAt o 10
def aScore (o : Nat) : Bool := bitAt o 11
def aBucket (o : Nat) : Nat := bits o 12 4
def aMeA (o : Nat) : Nat := bits o 16 2
def aMeB (o : Nat) : Nat := bits o 18 2
def aVe (o : Nat) : Nat := bits o 20 1
def aLayer (o : Nat) : Nat := bits o 24 8
def aHead (o : Nat) : Nat := bits o 32 8
def aQHead (o : Nat) : Nat := bits o 40 8
def aQBlock (o : Nat) : Nat := bits o 48 16
def aFrame (o : Nat) : Nat := bits o 64 16
def aPool (o : Nat) : Nat := bits o 80 4
def aWin (o : Nat) : Nat := bits o 88 24
def aSm (o : Nat) : Nat := bits o 128 32
def aBatch (o : Nat) : Nat := bits o 160 24
def aQ (o : Nat) : Nat := bits o 184 24
def aOut (o : Nat) : Nat := bits o 208 24
def aAux (o : Nat) : Nat := bits o 232 24

/-! The batch table (R179, Table 7.8). -/

/-- What an operation word selects: its sequence entry, the number of the block's first row in the table and in the sequence. -/
structure Batch where
  seq : Nat
  qCount : Nat
  qPos0 : Nat
  cand : Nat
  parents : List Nat
  row0 : Nat
  first : Nat
  idx : Nat
  deriving DecidableEq, Repr

/-- The selection of a word, or a code with the address. A bucket or block beyond the table is refused (log entry 25). -/
def batchOf (e : Env) (o : Nat) : Except (Nat × Nat) Batch :=
  let a := dBase (descOf e.im (aBatch o))
  let rd := fun (off n : Nat) => vaRead e.mem e.im.regions 1 (a + off) n
  match rd 0 16 with
  | .error c => .error (c, a)
  | .ok h =>
    let nb := bits (ofLe h) 32 8
    let ns := bits (ofLe h) 48 16
    if nb ≤ aBucket o then .error (0x0105, a)
    else
      match rd 16 (8 * nb) with
      | .error c => .error (c, a + 16)
      | .ok bs =>
        let b := fun i => ofLe ((bs.drop (8 * i)).take 8)
        let rows := ((List.range (aBucket o)).map (fun i => bits (b i) 16 16 * 64 * bits (b i) 32 16)).foldl (· + ·) 0
        let qb := bits (b (aBucket o)) 32 16
        let k := aQBlock o / max 1 qb
        let j := bits (b (aBucket o)) 0 16 + k
        if qb == 0 || bits (b (aBucket o)) 16 16 ≤ k || ns ≤ j then .error (0x0105, a)
        else
          match rd (16 + 8 * nb + 32 * j) 32 with
          | .error c => .error (c, a + 16 + 8 * nb + 32 * j)
          | .ok q =>
            let v := ofLe q
            .ok { seq := bits v 0 12, qCount := bits v 16 16, qPos0 := bits v 32 32, cand := bits v 64 5,
                  parents := (List.range 16).map (fun i => bits v (128 + 8 * i) 8), row0 := rows + aQBlock o * 64,
                  first := 64 * (aQBlock o % max 1 qb), idx := j }

/-- A `PARENT` entry that breaks its rule (R180). -/
def parentsBad (b : Batch) : Bool :=
  16 < b.cand || (List.range b.cand).any (fun i => let p := b.parents.getD i 0; p != 0xFF && i ≤ p)

/-- Depth of candidate i; 0 under the root. -/
def candDepth (ps : List Nat) : Nat → Nat → Nat
  | 0, _ => 0
  | k + 1, i => let p := ps.getD i 0xFF
                if p == 0xFF then 0 else candDepth ps k p + 1

/-- Candidate r is candidate a or its descendant. -/
def isDescendant (ps : List Nat) : Nat → Nat → Nat → Bool
  | 0, a, r => a == r
  | k + 1, a, r => a == r || (ps.getD r 0xFF != 0xFF && isDescendant ps k a (ps.getD r 0xFF))

/-- Valid rows of the block, as offsets in it (R180). -/
def validRows (o : Nat) (b : Batch) : List Nat :=
  (List.range 64).filter (fun i => b.first + i < (if aTree o then b.cand else b.qCount))

/-! The walk (R175, R177, R178). -/

/-- A key block: the page and logical page that hold it, none for the cistern; its half; its keys as position and candidate. -/
structure KeyBlock where
  page : Option (Nat × Nat)
  half : Nat
  keys : List (Nat × Option Nat)
  deriving DecidableEq, Repr

/-- The stream of a word in a pool. -/
def aStream (r o : Nat) : Nat := aLayer o * pHeads r + aHead o

/-- Every key block of a stream in walk order; a hole gives none. -/
def keyBlocks (pages : List Nat) (f c : Nat) (parents : List Nat) : List KeyBlock :=
  let lp := pages.length
  let pgs := pages.zipIdx.flatMap (fun p => if p.1 == hole then [] else
    (List.range 2).map (fun h => { page := some (p.2, p.1), half := h, keys := (List.range 64).map (fun i => (128 * p.2 + 64 * h + i, none)) : KeyBlock }))
  let slot := fun i => if i < f then (128 * lp + i, none) else (128 * lp + f + candDepth parents 16 (i - f), some (i - f))
  let cis := (List.range 2).filterMap (fun h =>
    let l := ((List.range 64).map (64 * h + ·)).filter (· < f + c)
    if l.isEmpty then none else some { page := none, half := h, keys := l.map slot : KeyBlock })
  pgs ++ cis

/-- Mask modes (Table 7.7). -/
def maskAllows (o k q : Nat) : Bool :=
  match aMask o with
  | 0 => true
  | 1 => k ≤ q
  | 2 => k / max 1 (aFrame o) ≤ q / max 1 (aFrame o)
  | _ => k ≤ q && q < k + aWin o

/-- Whether row i of the block sees a key (R177). -/
def sees (o : Nat) (b : Batch) (qpos : Nat) (i : Nat) (k : Nat × Option Nat) : Bool :=
  (match k.2 with
   | none => true
   | some a => aTree o && a < b.cand && isDescendant b.parents 16 a (b.first + i)) && maskAllows o k.1 qpos

/-- Position of query row i (R177). -/
def queryPos (o : Nat) (b : Batch) (lp f i : Nat) : Nat :=
  if aTree o then 128 * lp + f + candDepth b.parents 16 (b.first + i) else b.qPos0 + b.first + i

/-- K part and V parts of a block as the engines read them: a cistern's slots as a flush would convert them, with an S4F pool's candidates
in a block of their own (R191). -/
def readBlock (e : Env) (r seq stream f : Nat) (b : KeyBlock) : Except (Nat × Nat) (List Byte × List (List Byte)) :=
  let rd := fun (a n : Nat) => vaRead e.mem e.im.regions 1 a n
  let at_ := faultAt e.mem e.im.regions
  match b.page with
  | some (_, pg) =>
    match rd (kAddr r pg b.half) (kPart r), rd (vAddr r pg b.half) (vPart r) with
    | .error c, _ => .error (c, at_ (kAddr r pg b.half) (kPart r))
    | _, .error c => .error (c, at_ (vAddr r pg b.half) (vPart r))
    | .ok k, .ok v => .ok (k, [v])
  | none =>
    let n := b.keys.length
    let w := 2 * pD r
    match rd (slotK r seq stream (64 * b.half)) (n * w), rd (slotV r seq stream (64 * b.half)) (n * w) with
    | .error c, _ => .error (c, at_ (slotK r seq stream (64 * b.half)) (n * w))
    | _, .error c => .error (c, at_ (slotV r seq stream (64 * b.half)) (n * w))
    | .ok kb, .ok vb =>
      let rows := fun (l : List Byte) => (List.range n).map (fun i => bfRow ((l.drop (i * w)).take w))
      let m := min n (f - 64 * b.half)
      if isS4 r then
        let cs := (rows vb).zipIdx.map (fun x => if x.2 < m then List.replicate (pD r) FV.zero else x.1)
        .ok (encodeK r (rows kb), [encodeV r ((rows vb).take m)] ++ (if m < n then [encodeV r cs] else []))
      else .ok (encodeK r (rows kb), [encodeV r (rows vb)])

/-! Softmax (R175, R176). -/

def expFv (x : FV) : FV := match builtinHdr 5 with
  | some h => funcValue h (builtinCubic 5) x
  | none => .nan
def rcpFv (x : FV) : FV := match builtinHdr 7 with
  | some h => funcValue h (builtinCubic 7) x
  | none => .nan

/-- T_P of Table 7.3. -/
def tP : FV := .num false 1 (-8)

/-- One row of a block of weights, as converted. -/
inductive PRow where
  | els (l : List FV)
  | blk (raw : Nat)
  deriving DecidableEq, Repr

/-- Convert 64 weights under T_P (Table 7.3). -/
def convP (r : Nat) (p : List FV) : PRow :=
  if isS4 r then .blk (convBlock 8 tP (fun _ => .rne) p).1
  else .els (p.map (fun x => scalarElem 4 (convScalar 4 tP .rne x).1))

/-- A converted weight without T_P. -/
def pRaw (p : PRow) (i : Nat) : FV := match p with
  | .els l => l.getD i FV.zero
  | .blk w => blockElem 8 w i

def pVals (p : PRow) : List FV := (List.range 64).map (fun i => fvMul (pRaw p i) tP)

/-- A dot product on the element path before its factor: exact products into P40. -/
def dotEls (tile : Nat) (a b : List FV) : FV := sumTerms tile (List.zipWith (fun x y => [r40 (fvMul x y)]) a b)

/-- A query row as its engine reads it: elements with their offsets, or blocks with theirs. -/
structure QRow where
  els : List FV
  blks : List (Nat × Int)
  deriving DecidableEq, Repr

def qIndex (d row head : Nat) : Nat := (row * (dDims d).getD 1 1 + head) * lastDim d

/-- Row `row` of a query-shaped tensor, without T. DESIGN CHOICE (log entry 97): R172 and R173 name no refusal of a tensor whose format is not
that of the pool's operand path; its elements are read as they are. -/
def readQ (e : Env) (r i row head : Nat) : Except (Nat × Nat) QRow :=
  let d := descOf e.im i
  let b := qIndex d row head
  if isS4 r then
    match readAll (rawAt e i) ((List.range (kBlocks r)).map (fun k => b + 64 * k)) with
    | .error (c, x) => .error (c, failAddrOf e i x)
    | .ok l => .ok { els := [], blks := l.map (fun x => match x with
        | some (sd, k, raw) => (raw, tileExp e sd (tileOf sd k))
        | none => (padBlock 8, 0)) }
  else
    match readAll (offsetElem e i) ((List.range (pD r)).map (b + ·)) with
    | .error (c, x) => .error (c, failAddrOf e i x)
    | .ok l => .ok { els := l, blks := [] }

/-- q·k of one key of a K part, before its factor. -/
def qkSum (r : Nat) (q : QRow) (part : List Byte) (tile i : Nat) : FV :=
  if isS4 r then sumTerms tile (q.blks.zipIdx.map (fun x => blockTerms 8 x.1.1 x.1.2 8 (kBlk r part i x.2) 0))
  else dotEls tile q.els ((List.range (pD r)).map (kRaw r part i))

/-- p·v in dimension j, before its factor. -/
def pvSum (r : Nat) (p : PRow) (parts : List (List Byte)) (tile j : Nat) : FV :=
  match p with
  | .blk w => sumTerms tile (parts.map (fun v => blockTerms 8 w 0 8 (vBlk v j) 0))
  | .els l => dotEls tile l ((List.range 64).map (fun i => vRaw r (parts.headD []) i j))

/-- Running state of a row: m, l and o. -/
structure RowState where
  m : FV
  l : FV
  o : List FV
  deriving DecidableEq, Repr

def RowState.start (d : Nat) : RowState := { m := .inf true, l := FV.zero, o := List.replicate d FV.zero }

/-- The 64 scores of a row in a block, masked entries −infinity. -/
def rowScores (r o : Nat) (tq : FV) (q : QRow) (part : List Byte) (tile : Nat) (vis : List Bool) : List FV :=
  (List.range 64).map (fun i =>
    if vis.getD i false then mul32 (r40 (fvMul (qkSum r q part (tile + i) i) (fvMul tq (dec32 (pTk r))))) (dec32 (aSm o)) else .inf true)

/-- Scores less a maximum, through exp and the conversion. -/
def rowWeights (r : Nat) (m : FV) (ss : List FV) : PRow := convP r (ss.map (fun x => expFv (r32 (fvSub x m))))

/-- One block of a row: its new state with the row's sum of weights. -/
def rowBlock (r : Nat) (tile : Nat) (ss : List FV) (parts : List (List Byte)) (x : RowState) : RowState × FV :=
  let mn := fvMax x.m (ss.foldl fvMax (.inf true))
  if mn == .inf true then (x, FV.zero)
  else
    let a := expFv (r32 (fvSub x.m mn))
    let p := rowWeights r mn ss
    let rs := sum40all (pVals p)
    let tpv := fvMul tP (dec32 (pTv r))
    let o := x.o.zipIdx.map (fun v => add40 (mul40 v.1 a) (r40 (fvMul (pvSum r p parts (tile + v.2) v.2) tpv)))
    ({ m := mn, l := add40 (mul40 x.l a) rs, o := o }, rs)

/-- What a walk gives: row states by offset, and by block of a page its rows' sums and maxima (R195). -/
structure WalkOut where
  rows : Sp RowState
  recs : List (Nat × Nat × Nat × List (Nat × FV × FV))

/-- The walk over the blocks that some row sees. -/
def walkBlocks (e : Env) (r o seq f lp : Nat) (b : Batch) (tq : FV) (qs : Sp QRow) : List KeyBlock → WalkOut → Except (Nat × Nat) WalkOut
  | [], w => .ok w
  | k :: rest, w =>
    let vis := qs.map (fun q => (q.1, k.keys.map (sees o b (queryPos o b lp f q.1) q.1)))
    if !vis.any (fun v => v.2.any id) then walkBlocks e r o seq f lp b tq qs rest w
    else
      match readBlock e r seq (aStream r o) f k with
      | .error x => .error x
      | .ok (kp, vps) =>
        let res := qs.map (fun q =>
          let tile := (b.row0 + q.1) * 2 ^ 40 + ((k.keys.headD (0, none)).1) * 256
          let ss := rowScores r o tq q.2 kp tile (spGet [] q.1 vis)
          (q.1, rowBlock r tile ss vps (spGet (RowState.start (pD r)) q.1 w.rows)))
        let rows := res.map (fun x => (x.1, x.2.1))
        let recs := match k.page with
          | some (n, pg) => [(n, pg, k.half, res.map (fun x => (x.1, x.2.2, x.2.1.m)))]
          | none => []
        walkBlocks e r o seq f lp b tq qs rest { rows := rows, recs := w.recs ++ recs }

/-- Query rows read for a list of offsets. -/
def readQs (e : Env) (r i head row0 : Nat) : List Nat → Except (Nat × Nat) (Sp QRow)
  | [] => .ok []
  | x :: rest =>
    match readQ e r i (row0 + x) head with
    | .error c => .error c
    | .ok q =>
      match readQs e r i head row0 rest with
      | .error c => .error c
      | .ok l => .ok ((x, q) :: l)

/-- Pool and sequence of a word, or 0x0604 (R172). DESIGN CHOICE (log entry 97): a live sequence of another pool than the word's fails alike.
A thread whose rows are all invalid reads no KV and asks for neither (R180). -/
def kvTarget (s : State) (o seq : Nat) : Option (Pool × KvSeq) :=
  match poolOf s (aPool o), seqOf s seq with
  | some p, some q => if q.pool == aPool o then some (p, q) else none
  | _, _ => none

/-! `ATT_FWD`. -/

/-- Output and stats of a row (R176, R180). -/
def rowOut (d : Nat) (x : Option RowState) : List FV × FV × FV :=
  match x with
  | none => (List.replicate d FV.zero, .inf true, FV.zero)
  | some y =>
    if fvIsNan y.m then (List.replicate d .nan, .nan, y.l)
    else if fvIsZero y.l then (List.replicate d FV.zero, .inf true, FV.zero)
    else
      let rc := rcpFv (r32 y.l)
      (y.o.map (fun v => mul40 v rc), y.m, y.l)

/-- m16 of a page (R195): `n` picks the free value of a mass that is not a number. -/
def massOf (rows : Sp RowState) (recs : List (List (Nat × FV × FV))) (n : Nat) : Nat :=
  let per := rows.map (fun x =>
    if fvIsZero x.2.l then FV.zero
    else
      (recs.flatten.filter (fun v => v.1 == x.1)).foldl (fun a v =>
        add32 a (mul32 (mul32 (r32 v.2.1) (expFv (r32 (fvSub v.2.2 x.2.m)))) (rcpFv (r32 x.2.l)))) FV.zero)
  let mass := r32 (fvDiv (sum40all per) (fvNat rows.length))
  if fvIsNan mass then Config.free n % 65536 else ((roundInt 0 65535 .rne (fvScale 16 mass)).1).toNat

/-- Logical pages whose blocks were walked, each once. -/
def walkedPages (w : WalkOut) : List (Nat × Nat) := (w.recs.map (fun x => (x.1, x.2.1))).eraseDups

/-- The mass records of a walk in its scratch tensor (R195, log entry 25). -/
def massWrites (base : Nat) (w : WalkOut) : List Write :=
  w.recs.flatMap (fun x => x.2.2.2.map (fun v =>
    { addr := base + 1024 * x.1 + 512 * x.2.2.1 + 8 * v.1, bytes := leBytes 8 (enc32 v.2.1 + (enc32 v.2.2 <<< 32)) : Write }))

/-- Every engine that the word names has issued its matching `LEND` (R122). -/
def lendsReady (s : State) (as o thread : Nat) : Bool :=
  [(1, 4 * as + aMeA o), (1, 4 * as + aMeB o), (2, 2 * as + aVe o)].all (fun u => s.run.lends.contains (u.1, u.2, thread, as))

/-- Rows of the block that lie in the queries. -/
def blockRows (e : Env) (o : Nat) (b : Batch) : List Nat :=
  (List.range 64).filter (fun i => b.row0 + i < (dDims (descOf e.im (aQ o))).getD 0 1)

/-- The outputs of a forward walk enter the commit buffer. -/
def landFwd (t micro : Nat) (e : Env) (o : Nat) (b : Batch) (d : Nat) (rows : Sp RowState) (s : State) : State :=
  let outs := (blockRows e o b).map (fun i => (i, rowOut d (spGet? i rows)))
  let vals := outs.flatMap (fun x => x.2.1.zipIdx.map (fun v => (qIndex (descOf e.im (aOut o)) (b.row0 + x.1) (aQHead o) + v.2, v.1)))
  let stats := outs.flatMap (fun x => [x.2.2.1, x.2.2.2, FV.zero, FV.zero].zipIdx.map (fun v =>
    (qIndex (descOf e.im (aQ o + 1)) (b.row0 + x.1) (aQHead o) + v.2, v.1)))
  storePlain t e (aQ o + 1) micro stats (storeTo t e (aOut o) micro vals s)

/-- A walk pin at the current epoch (R187). -/
def addPin (thread seq stream : Nat) (s : State) : State :=
  { s with kv := { s.kv with pins := s.kv.pins ++ [{ thread := thread, seq := seq, stream := stream, epoch := s.kv.epoch }] } }

/-- A forward thread, from its issue to its results in the commit buffer. -/
def fwdRun (as ent : Nat) (e : Env) (s : State) : State :=
  let o := tOp ent
  let t := tThread ent
  let fail := fun (x : Nat × Nat) (s : State) => failThread 4 as t x.1 0 0xFFFF x.2 s
  match batchOf e o with
  | .error x => fail x s
  | .ok b =>
    if parentsBad b then fail (0x0606, 0) s
    else
      let vs := (validRows o b).filter ((blockRows e o b).contains ·)
      if vs.isEmpty then doneFlight t (landFwd t (tMicro ent) e o b (lastDim (descOf e.im (aOut o))) [] s)
      else
        match kvTarget s o b.seq with
        | none => fail (0x0604, 0) s
        | some (p, q) =>
          let r := p.record
          let (f, c) := cisHead s r b.seq (aStream r o)
          let pages := streamPages q (aStream r o)
          if pStreams r ≤ aStream r o || lastDim (descOf e.im (aQ o)) != pD r ||
              (aScore o && occupied e (descOf e.im (aAux o)) < 1024 * q.leaves.length + 1024) then fail (0x0105, 0) s
          else if (headFault s r b.seq [aStream r o]).isSome then fail ((headFault s r b.seq [aStream r o]).getD (0, 0)) s
          else
            match readQs e r (aQ o) (aQHead o) b.row0 vs with
            | .error x => fail x s
            | .ok qs =>
              match walkBlocks e r o b.seq f pages.length b (operT e (aQ o)) qs (keyBlocks pages f c b.parents)
                  { rows := vs.map (fun i => (i, RowState.start (pD r))), recs := [] } with
              | .error x => fail x s
              | .ok w =>
                let pgs := walkedPages w
                let masses := if aScore o then pgs.zipIdx.map (fun x =>
                  (aPool o, x.1.2, massOf w.rows ((w.recs.filter (fun y => y.1 == x.1.1)).map (·.2.2.2)) (s.free + x.2))) else []
                let s1 := addPin t b.seq (aStream r o) (landFwd t (tMicro ent) e o b (pD r) w.rows s)
                let s2 := modFlight t (fun i => { i with
                  writes := i.writes ++ (if aScore o then massWrites (dBase (descOf e.im (aAux o))) w else [])
                  masses := masses }) s1
                doneFlight t { s2 with free := s2.free + pgs.length }

/-- An attention entry of an operation. DEDUCED (log entry 97): `ATT_FWD` and `ATT_BWD` use the engines that the word names and wait for their
`LEND` entries; `ATT_APPEND` and `ATT_COMMIT` use none of them and wait for none. -/
def attRun (as op : Nat) (g : Nat → Env → State → State) (s : State) : State :=
  match headOfClass s 4 as 0x30 (fun x => x == op), envOf s with
  | some (qi, i, ent), some e =>
    if (op == 0x30 || op == 0x31) && !lendsReady s as (tOp ent) (tThread ent) then s
    else
      let s1 := (if op ≤ 0x31 then takeScales [aOut (tOp ent)] else id) (issue 4 as qi i ent s)
      g ent (envAfter e s1) s1
  | _, _ => s

def execAttFwd (as : Nat) (s : State) : Host.Outcome State Fault Refusal := .next (attRun as 0x30 (fwdRun as) s)

/-! `ATT_BWD` (R182). -/

/-- m, l and D of a row. -/
def readStats (e : Env) (o row : Nat) : Except (Nat × Nat) (FV × FV × FV) :=
  let i := aQ o + 1
  let b := qIndex (descOf e.im i) row (aQHead o)
  match readAll (readElem e i) [b, b + 1, b + 2] with
  | .ok [m, l, d] => .ok (m, l, d)
  | .ok _ => .error (0x0105, 0)
  | .error (c, x) => .error (c, failAddrOf e i x)

/-- A row of the backward walk: queries, output gradients, m, l and D. -/
structure BRow where
  q : List FV
  g : List FV
  m : FV
  l : FV
  dd : FV
  deriving DecidableEq, Repr

def readBRows (e : Env) (r o row0 : Nat) : List Nat → Except (Nat × Nat) (Sp BRow)
  | [] => .ok []
  | x :: rest =>
    match readQ e r (aQ o) (row0 + x) (aQHead o), readQ e r (aAux o) (row0 + x) (aQHead o), readStats e o (row0 + x) with
    | .error c, _, _ => .error c
    | _, .error c, _ => .error c
    | _, _, .error c => .error c
    | .ok q, .ok g, .ok (m, l, d) =>
      match readBRows e r o row0 rest with
      | .error c => .error c
      | .ok l' => .ok ((x, { q := q.els, g := g.els, m := m, l := l, dd := d }) :: l')

/-- Weights and score gradients of a row in a block, before conversion; a row that saw no key has none. -/
def bwdRow (e : Env) (r o : Nat) (tile : Nat) (x : BRow) (vis : List Bool) (kp vp : List Byte) : List FV × List FV :=
  if fvIsZero x.l || !vis.any id then (List.replicate 64 FV.zero, List.replicate 64 FV.zero)
  else
    let ss := rowScores r o (operT e (aQ o)) { els := x.q, blks := [] } kp tile vis
    let p := rowWeights r x.m ss
    let rc := rcpFv (r32 x.l)
    let tg := fvMul (operT e (aAux o)) (dec32 (pTv r))
    let ds := (List.range 64).map (fun i =>
      if !vis.getD i false then FV.zero
      else
        let dp := r32 (r40 (fvMul (dotEls (tile + 128 + i) x.g ((List.range (pD r)).map (vRaw r vp i))) tg))
        mul32 (mul32 (mul32 (fvMul (pRaw p i) tP) rc) (r32 (fvSub dp x.dd))) (dec32 (aSm o)))
    ((List.range 64).map (pRaw p), ds)

/-- Block scale of the score gradients: 2^ceil(log2(amax ÷ 57,344)). -/
def dsScale (l : List FV) : FV :=
  match fvDiv (amaxOf l) (fvNat 57344) with
  | .num _ m e => if m == 0 then FV.one else .num false 1 (ceilLog2Fv m e)
  | _ => FV.one

/-- What a block of the backward walk gives: dQ by row, and the additions into the pool's gradient area. -/
def bwdBlock (e : Env) (r o micro : Nat) (b : Batch) (lp f : Nat) (k : KeyBlock) (kp vp : List Byte) (rows : Sp BRow)
    (dq : Sp (List FV)) : Sp (List FV) × List (Nat × Nat) :=
  let tile := fun (i : Nat) => (b.row0 + i) * 2 ^ 40 + ((k.keys.headD (0, none)).1) * 256
  let pd := rows.map (fun x =>
    (x.1, bwdRow e r o (tile x.1) x.2 (k.keys.map (sees o b (queryPos o b lp f x.1) x.1)) kp vp))
  let t := dsScale (pd.flatMap (fun x => x.2.2))
  let conv := fun (row i : Nat) (v : FV) =>
    scalarElem 5 (convScalar 5 t (.sr (Config.scoreWord e.seed e.step micro (b.row0 + row) ((k.keys.getD i (0, none)).1) % 2 ^ 32)) v).1
  let cs := pd.map (fun x => (x.1, x.2.1, x.2.2.zipIdx.map (fun v => conv x.1 v.2 v.1)))
  let tk := fvMul t (dec32 (pTk r))
  let dq1 := dq.map (fun x =>
    let ds := ((spGet? x.1 (cs.map (fun y => (y.1, y.2.2)))).getD [])
    (x.1, x.2.zipIdx.map (fun v => add40 v.1 (r40 (fvMul (dotEls (tile x.1 + v.2) ds ((List.range 64).map (fun i => kRaw r kp i v.2))) tk)))))
  let adds := match k.page with
    | none => []
    | some (_, pg) =>
      if pGrad r == 0 then []
      else
        let gd := descOf e.im (pGrad r)
        let at_ := fun (part i j : Nat) => elemAddr e gd 0 (((pg * 4 + part) * 64 + i) * pD r + j)
        let tq := fvMul t (operT e (aQ o))
        let tv := fvMul tP (operT e (aAux o))
        (List.range 64).flatMap (fun i => (List.range (pD r)).flatMap (fun j =>
          let dk := r40 (fvMul (dotEls (i * 256 + j) (cs.map (fun x => x.2.2.getD i FV.zero)) (rows.map (fun x => x.2.q.getD j FV.zero))) tq)
          let dv := r40 (fvMul (dotEls (i * 256 + j) (cs.map (fun x => x.2.1.getD i FV.zero)) (rows.map (fun x => x.2.g.getD j FV.zero))) tv)
          ((at_ k.half i j).toList.map (fun a => (a, enc40 dk))) ++ ((at_ (2 + k.half) i j).toList.map (fun a => (a, enc40 dv)))))
  (dq1, adds)

def bwdWalk (e : Env) (r o micro : Nat) (b : Batch) (lp f : Nat) (rows : Sp BRow) :
    List KeyBlock → Sp (List FV) → List (Nat × Nat) → Except (Nat × Nat) (Sp (List FV) × List (Nat × Nat))
  | [], dq, ad => .ok (dq, ad)
  | k :: rest, dq, ad =>
    if !rows.any (fun x => k.keys.any (sees o b (queryPos o b lp f x.1) x.1)) then bwdWalk e r o micro b lp f rows rest dq ad
    else
      match readBlock e r b.seq (aStream r o) f k with
      | .error x => .error x
      | .ok (kp, vps) =>
        let z := bwdBlock e r o micro b lp f k kp (vps.headD []) rows dq
        bwdWalk e r o micro b lp f rows rest z.1 (ad ++ z.2)

/-- dQ of the block's rows enters the commit buffer. -/
def landBwd (t micro : Nat) (e : Env) (o : Nat) (b : Batch) (dq : Sp (List FV)) (s : State) : State :=
  let d := lastDim (descOf e.im (aOut o))
  storeTo t e (aOut o) micro ((blockRows e o b).flatMap (fun i =>
    (spGet (List.replicate d FV.zero) i dq).zipIdx.map (fun v => (qIndex (descOf e.im (aOut o)) (b.row0 + i) (aQHead o) + v.2, v.1)))) s

def bwdRun (as ent : Nat) (e : Env) (s : State) : State :=
  let o := tOp ent
  let t := tThread ent
  let fail := fun (x : Nat × Nat) (s : State) => failThread 4 as t x.1 0 0xFFFF x.2 s
  match batchOf e o with
  | .error x => fail x s
  | .ok b =>
    let vs := (validRows o b).filter ((blockRows e o b).contains ·)
    if parentsBad b then fail (0x0606, 0) s
    else if vs.isEmpty then doneFlight t (landBwd t (tMicro ent) e o b [] s)
    else
      match kvTarget s o b.seq with
      | none => fail (0x0604, 0) s
      | some (p, q) =>
        let r := p.record
        let (f, c) := cisHead s r b.seq (aStream r o)
        let pages := streamPages q (aStream r o)
        if isS4 r || pStreams r ≤ aStream r o || lastDim (descOf e.im (aQ o)) != pD r then fail (0x0105, 0) s
        else if (headFault s r b.seq [aStream r o]).isSome then fail ((headFault s r b.seq [aStream r o]).getD (0, 0)) s
        else
          match readBRows e r o b.row0 vs with
          | .error x => fail x s
          | .ok rows =>
            match bwdWalk e r o (tMicro ent) b pages.length f rows (keyBlocks pages f c b.parents)
                (vs.map (fun i => (i, List.replicate (pD r) FV.zero))) [] with
            | .error x => fail x s
            | .ok (dq, ad) =>
              let s1 := addPin t b.seq (aStream r o) (landBwd t (tMicro ent) e o b dq s)
              doneFlight t (modFlight t (fun i => { i with adds := i.adds ++ ad }) s1)

def execAttBwd (as : Nat) (s : State) : Host.Outcome State Fault Refusal := .next (attRun as 0x31 (bwdRun as) s)

/-! `ATT_APPEND` and `ATT_COMMIT`: what a thread brings to its commit (R189, R192). -/

/-- A row of K then V in BF16, as bytes. -/
def appendRow (e : Env) (r o row : Nat) : Except (Nat × Nat) (List Byte) :=
  let d := descOf e.im (aAux o)
  let b := ((row * (dDims d).getD 1 1 + aHead o) * 2) * lastDim d
  match readAll (rawAt e (aAux o)) ((List.range (2 * pD r)).map (b + ·)) with
  | .error (c, x) => .error (c, failAddrOf e (aAux o) x)
  | .ok l => .ok (l.flatMap (fun x => match x with
    | some (_, _, raw) => leBytes 2 raw
    | none => [0, 0]))

def appendRows (e : Env) (r o : Nat) : List Nat → Except (Nat × Nat) (List (List Byte))
  | [] => .ok []
  | x :: rest =>
    match appendRow e r o x with
    | .error c => .error c
    | .ok l =>
      match appendRows e r o rest with
      | .error c => .error c
      | .ok ls => .ok (l :: ls)

/-- The code of an append of n rows, 0 where it may go on (R189). DESIGN CHOICE (log entry 97): a stream beyond the pool's, or rows of another
last dimension than d, fails with 0x0105 as it runs; no rule names a code. -/
def appendCode (s : State) (e : Env) (o : Nat) (b : Batch) (n : Nat) : Nat :=
  match kvTarget s o b.seq with
  | none => 0x0604
  | some (p, q) =>
    let st := aStream p.record o
    let (f, c) := cisHead s p.record b.seq st
    if pStreams p.record ≤ st || (n != 0 && lastDim (descOf e.im (aAux o)) != pD p.record) then 0x0105
    else if c != 0 || (aTree o && 128 < f + b.cand) || 128 * 65536 < 128 * (streamPages q st).length + f + n then 0x0605
    else 0

/-- What stops the reading of the cistern headers that an append or a commit starts from (R263). -/
def kvHeadFault (s : State) (o : Nat) (b : Batch) (commit : Bool) : Option (Nat × Nat) :=
  (kvTarget s o b.seq).bind (fun pq => let r := pq.1.record
    headFault s r b.seq (if commit then List.range (pStreams r) else if aStream r o < pStreams r then [aStream r o] else []))

def appendRun (as ent : Nat) (e : Env) (s : State) : State :=
  let o := tOp ent
  let t := tThread ent
  let fail := fun (x : Nat × Nat) (s : State) => failThread 4 as t x.1 0 0xFFFF x.2 s
  match batchOf e o with
  | .error x => fail x s
  | .ok b =>
    if parentsBad b then fail (0x0606, 0) s
    else
      let vs := validRows o b
      if vs.isEmpty then doneFlight t s
      else
        let c := appendCode s e o b vs.length
        let h := kvHeadFault s o b false
        if h.isSome then fail (h.getD (0, 0)) s
        else if c != 0 then fail (c, 0) s
        else
          match kvTarget s o b.seq with
          | none => fail (0x0604, 0) s
          | some (p, _) =>
            match appendRows e p.record o (vs.map (b.row0 + ·)) with
            | .error x => fail x s
            | .ok rows => doneFlight t (modFlight t (fun i => { i with rows := rows }) s)

/-- A list of accepted candidates forms a path from the root. -/
def isPath (b : Batch) : Nat → List Nat → Bool
  | _, [] => true
  | prev, a :: r => a < b.cand && b.parents.getD a 0 == prev && isPath b a r

/-- The code of a commit of an accept list, 0 where it may go on (R192). -/
def commitCode (s : State) (o : Nat) (b : Batch) (n : Nat) (acc : List Nat) : Nat :=
  match kvTarget s o b.seq with
  | none => 0x0604
  | some (p, _) =>
    if 16 < n || parentsBad b || !isPath b 0xFF acc then 0x0606
    else if (List.range (pStreams p.record)).any (fun st => (cisHead s p.record b.seq st).2 != b.cand) then 0x0605
    else 0

def commitRun (as ent : Nat) (e : Env) (s : State) : State :=
  let o := tOp ent
  let t := tThread ent
  let fail := fun (x : Nat × Nat) (s : State) => failThread 4 as t x.1 0 0xFFFF x.2 s
  match batchOf e o with
  | .error x => fail x s
  | .ok b =>
    match readAll (rawAt e (aAux o)) ((List.range 17).map (17 * b.idx + ·)) with
    | .error (c, x) => fail (c, failAddrOf e (aAux o) x) s
    | .ok l =>
      let v := l.map (fun x => match x with
        | some (_, _, raw) => raw % 256
        | none => 0)
      let n := v.headD 0
      let acc := (v.drop 1).take n
      let c := commitCode s o b n acc
      let h := kvHeadFault s o b true
      if h.isSome then fail (h.getD (0, 0)) s
      else if c != 0 then fail (c, 0) s else doneFlight t (modFlight t (fun i => { i with accept := acc }) s)

def execAttAppend (as : Nat) (s : State) : Host.Outcome State Fault Refusal := .next (attRun as 0x32 (appendRun as) s)
def execAttCommit (as : Nat) (s : State) : Host.Outcome State Fault Refusal := .next (attRun as 0x33 (commitRun as) s)

/-! The landing of a committing thread in its cisterns. -/

/-- Rows enter slots until they are spent or the cistern is full: the rows left. -/
def fillSlots (r seq stream : Nat) : List (List Byte) → Nat → State → State × Nat × List (List Byte)
  | [], f, s => (s, f, [])
  | x :: rest, f, s => if 128 ≤ f then (s, f, x :: rest) else fillSlots r seq stream rest (f + 1) (putSlot r seq stream f x s)

/-- One stream of a commit: accepted candidates move down, the others are cleared (R192). -/
def commitStream (r seq stream cand : Nat) (acc : List Nat) (s : State) : State :=
  let f := (cisHead s r seq stream).1
  let w := 2 * pD r
  let rd := fun (s : State) a => vaPeek s.memory (regionsOf s) a w
  let s1 := acc.zipIdx.foldl (fun t x =>
    putSlot r seq stream (f + x.2) (rd t (slotK r seq stream (f + x.1)) ++ rd t (slotV r seq stream (f + x.1))) t) s
  let s2 := ((List.range cand).drop acc.length).foldl (fun t i => putSlot r seq stream (f + i) (List.replicate (2 * w) 0) t) s1
  putHead r seq stream (f + acc.length) 0 s2

/-- The streams of a commit in order, up to one whose cistern a pin holds or that is full: those left, and whether it ended on a full one. -/
def commitStreams (r seq cand : Nat) (acc : List Nat) : List Nat → State → State × List Nat × Option Nat
  | [], s => (s, [], none)
  | st :: rest, s =>
    if cisPinned s seq st then (s, st :: rest, none)
    else
      let s1 := commitStream r seq st cand acc s
      if 128 ≤ (cisHead s1 r seq st).1 then (s1, rest, some st) else commitStreams r seq cand acc rest s1

def setWait (w : KvWait) (s : State) : State :=
  { s with kv := { s.kv with waiting := (s.kv.waiting.filter (fun x => x.thread != w.thread)) ++ [w] } }
def dropWait (thread : Nat) (s : State) : State :=
  { s with kv := { s.kv with waiting := s.kv.waiting.filter (fun x => x.thread != thread) } }

/-- A waiting entry whose stream is full and awaits a flush. -/
def wantsFlush (s : State) (r : Nat) (w : KvWait) : Bool := w.stream < pStreams r && 128 ≤ (cisHead s r w.seq w.stream).1

/-- What a landing reads first in its cisterns that cannot be read: headers, and the candidates that a commit moves (R263). -/
def landingFault (s : State) (r seq : Nat) (w : KvWait) : Option (Nat × Nat) :=
  (headFault s r seq (w.streams ++ (if w.stream < pStreams r then [w.stream] else []))).orElse (fun _ =>
    w.streams.findSome? (fun st => slotFault s r seq st (w.accept.map ((cisHead s r seq st).1 + ·))))

/-- Carry a landing on from its waiting entry; the entry stays while a flush or a pin holds it. -/
def continueLanding (o : Nat) (b : Batch) (w : KvWait) (s : State) : State :=
  match kvTarget s o b.seq with
  | none => dropWait w.thread (failRun 0x0604 s)
  | some (p, _) =>
    let r := p.record
    let x := landingFault s r b.seq w
    if x.isSome then dropWait w.thread (failAccess w.thread (x.getD (0, 0)).1 (x.getD (0, 0)).2 1 s)
    else if wantsFlush s r w then s
    else if !w.streams.isEmpty then
      match commitStreams r b.seq b.cand w.accept w.streams s with
      | (s1, left, some st) => setWait { w with stream := st, streams := left } s1
      | (s1, [], none) => dropWait w.thread s1
      | (s1, left, none) => setWait { w with stream := pStreams r, streams := left } s1
    else if w.rows.isEmpty then dropWait w.thread s
    else
      let f := (cisHead s r b.seq w.stream).1
      let (s1, f1, left) := fillSlots r b.seq w.stream w.rows f s
      let s2 := putHead r b.seq w.stream f1 0 s1
      if left.isEmpty && f1 < 128 then dropWait w.thread s2 else setWait { w with rows := left } s2

/-- A thread that appends or commits lands its cistern edits at its commit; it waits while its entry stands (R189 to R192). -/
def landCistern (i : InFlight) (e : Env) (s : State) : State :=
  let o := tOp i.entry
  match batchOf e o with
  | .error _ => s
  | .ok b =>
    match s.kv.waiting.find? (fun w => w.thread == i.thread) with
    | some w => continueLanding o b w s
    | none =>
      if bits o 0 8 == 0x33 then
        let c := commitCode s o b i.accept.length i.accept
        if c != 0 then failRun c s
        else
          match kvTarget s o b.seq with
          | none => failRun 0x0604 s
          | some (p, _) => continueLanding o b { thread := i.thread, seq := b.seq, stream := pStreams p.record, rows := [],
                                                 streams := List.range (pStreams p.record), accept := i.accept } s
      else if i.rows.isEmpty then s
      else
        let c := appendCode s e o b i.rows.length
        match kvTarget s o b.seq with
        | none => failRun 0x0604 s
        | some (p, _) =>
          let st := aStream p.record o
          let h := headFault s p.record b.seq (if st < pStreams p.record then [st] else [])
          if h.isSome then failAccess i.thread (h.getD (0, 0)).1 (h.getD (0, 0)).2 1 s
          else if c != 0 then failRun c s
          else if aTree o then
            let f := (cisHead s p.record b.seq st).1
            putHead p.record b.seq st f b.cand (fillSlots p.record b.seq st i.rows f s).1
          else continueLanding o b { thread := i.thread, seq := b.seq, stream := st, rows := i.rows, streams := [], accept := [] } s

/-- `FLUSH` (R190): a full cistern that a committing thread waits on becomes a page, once no walk pin holds it. -/
def flushSt (seq stream : Nat) (s0 : State) : State :=
  let s := settleFrees s0
  match s.kv.waiting.find? (fun w => w.seq == seq && w.stream == stream), seqOf s seq with
  | some w, some q =>
    match poolOf s q.pool with
    | none => s0
    | some p =>
      if !wantsFlush s p.record w || cisPinned s seq stream then s0
      else
        match flushCistern seq stream s with
        | .error c => dropWait w.thread (failAccess w.thread c (((slotFault s p.record seq stream (List.range 128)).map (·.2)).getD 0) 1 s)
        | .ok s1 => syncTables s s1
  | _, _ => s0

def execFlush (seq stream : Nat) (s : State) : Host.Outcome State Fault Refusal := .next (flushSt seq stream s)

end Sys2Proof.Machine
end

