-- ==== Sys2Proof/Machine/Update.lean ====
section
/-! DEFINITION. Update units: recipes, micro-operations, element and factor passes, and the clip (R209 to R222). -/

namespace Sys2Proof.Machine

/-! Fields of the update operation word and of a group entry (Tables 8.5 to 8.7). -/

def uOp (o : Nat) : Nat := bits o 0 8
def uRecipe (o : Nat) : Nat := bits o 8 8
def uGroup (o : Nat) : Nat := bits o 16 12
def uGrad (o : Nat) : Nat := bits o 32 24
def uW (o : Nat) : Nat := bits o 56 24
def uS0 (o : Nat) : Nat := bits o 80 24
def uS1 (o : Nat) : Nat := bits o 104 24
def uPub (o : Nat) : Nat := bits o 128 24
def uRc (o : Nat) : Nat := bits o 152 24
def uStart (o : Nat) : Nat := bits o 176 48
def uLength (o : Nat) : Nat := bits o 224 32

def clipMode (im : Image) : Nat := bits im.groupHead 48 2
def maxNorm (im : Image) : Nat := bits im.groupHead 64 32
def groupEntry (im : Image) (g : Nat) : Nat := im.groups.getD g 0
def grClip (g : Nat) : Bool := bitAt g 24
def grNorms (g : Nat) : Bool := bitAt g 25
def grNoise (g : Nat) : Bool := bitAt g 26
def grInit (g : Nat) : Nat := bits g 32 32
def grH (g i : Nat) : FV := dec32 (bits g (64 + 32 * i) 32)
def grSmall (g : Nat) : Nat := bits g 320 32

/-! Recipes (R211, R216). -/

/-- A micro-operation word. -/
def uop (op dst a b c : Nat) : Nat := pack [(0, 6, op), (8, 4, dst), (16, 5, a), (21, 5, b), (26, 5, c)]

/-- Sources 16 to 23 are `H`; 24, 25 BC1 and BC2; 27 ρ (Table 8.11). -/
def builtinRecipe : Nat → Option (List Nat)
  | 0 => some [uop 3 4 21 0 0, uop 4 2 17 2 4, uop 3 5 0 0 0, uop 3 5 22 5 0, uop 4 3 18 3 5, uop 5 6 2 24 0, uop 5 7 3 25 0,
               uop 6 7 7 0 0, uop 1 7 7 19 0, uop 5 6 6 7 0, uop 4 6 20 1 6, uop 3 6 16 6 0, uop 2 1 1 6 0]
  | 1 => some [uop 3 4 21 0 0, uop 4 4 17 2 4, uop 8 4 4 0 0, uop 4 4 20 1 4, uop 3 4 16 4 0, uop 2 1 1 4 0, uop 3 5 22 0 0,
               uop 4 2 18 2 5]
  | 2 => some [uop 4 2 17 2 0, uop 4 4 20 1 2, uop 3 4 16 4 0, uop 2 1 1 4 0]
  | 3 => some [uop 3 4 12 13 0, uop 3 4 4 27 0, uop 7 4 4 0 0, uop 3 4 0 4 0, uop 3 4 16 4 0, uop 2 1 1 4 0]
  | _ => none

/-- Micro-operations of a slot. -/
def recipeOps (im : Image) (slot : Nat) : List Nat :=
  match builtinRecipe slot with
  | some l => l
  | none =>
    match spGet? slot im.recipes with
    | none => []
    | some l => (List.range (bits (ofLe (l.take 16)) 32 6)).map (fun i => ofLe ((l.drop (16 + 8 * i)).take 8))

def recipeFactored (im : Image) (slot : Nat) : Bool :=
  slot == 3 || (match spGet? slot im.recipes with
    | some l => bitAt (ofLe (l.take 16)) 38
    | none => false)

def signFv (a : FV) : FV :=
  match a with
  | .nan => .nan
  | .inf n => .num n 1 0
  | .num n m _ => if m == 0 then FV.zero else .num n 1 0

/-- A micro-operation in FP32 (Table 8.10). -/
def uopResult (op : Nat) (a b c : FV) : FV :=
  match op with
  | 0x01 => add32 a b
  | 0x02 => r32 (fvSub a b)
  | 0x03 => mul32 a b
  | 0x04 => fma32 a b c
  | 0x05 => r32 (fvDiv a b)
  | 0x06 => r32 (fvSqrt a)
  | 0x07 => r32 (fvRsqrt a)
  | 0x08 => signFv a
  | 0x09 => fvMin a b
  | 0x0A => fvMax a b
  | 0x0B => fvAbs a
  | 0x0C => fvNeg a
  | _ => a

/-- The scalars of a step for a group: BC1, BC2, t and ρ. -/
structure Scalars where
  bc1 : FV
  bc2 : FV
  t : FV
  rho : FV
  deriving DecidableEq, Repr

/-- β^t in FP64 by repeated squaring, over at most k bits of t. -/
def powFv : Nat → FV → Nat → FV → FV
  | 0, _, _, acc => acc
  | k + 1, b, t, acc =>
    if t == 0 then acc else powFv k (r64 (fvMul b b)) (t / 2) (if t % 2 == 1 then r64 (fvMul acc b) else acc)

/-- 1 − β^t (R213). -/
def biasCorr (b : FV) (t : Nat) : FV := r32 (r64 (fvSub FV.one (powFv 64 b t FV.one)))

/-- A source (Table 8.11). -/
def uSource (g : Nat) (x : Scalars) (regs : List FV) (i : Nat) : FV :=
  if i < 16 then regs.getD i FV.zero
  else if i < 24 then grH g (i - 16)
  else if i == 24 then x.bc1
  else if i == 25 then x.bc2
  else if i == 26 then x.t
  else if i == 27 then x.rho
  else if i == 28 then FV.one
  else if i == 29 then fvNeg FV.one
  else FV.zero

/-- The element registers after a recipe. -/
def runRecipe (g : Nat) (x : Scalars) (ops : List Nat) (regs : List FV) : List FV :=
  ops.foldl (fun r u => r.set (bits u 8 4)
    (uopResult (bits u 0 6) (uSource g x r (bits u 16 5)) (uSource g x r (bits u 21 5)) (uSource g x r (bits u 26 5)))) regs

/-! Gradients (R217). -/

/-- The collective that lands in a tensor. -/
def collInto (im : Image) (desc : Nat) : Option Nat :=
  (im.car.colls.zipIdx.find? (fun c => coKind c.1 != 2 && coLand c.1 == desc)).map (·.2)

/-- Chunk of an element: half of its logical tile. -/
def chunkAt (d idx : Nat) : Nat :=
  let l := tileShape d
  let c := coordsOf l idx
  2 * tileOf d idx + (c.getD (l.length - 2) 0 % 64) / 32

/-- Where n_r of the chunk that holds an element of a landing tensor stands: in its landing record. -/
def nrRange (e : Env) (grad idx : Nat) : Option (Nat × Nat) :=
  (collInto e.im grad).bind (fun k => (recAddr e k (chunkAt (descOf e.im (coDw (collOf e.im k))) idx)).map (·, 4))

/-- n_r of that chunk; 1 of a tensor that no collective lands in. -/
def nrAt (e : Env) (grad idx : Nat) : Nat := ((nrRange e grad idx).map (fun r => max 1 (bits (peekN e r.1 4) 0 21))).getD 1

/-- What stops its reading (R263). -/
def nrFault (e : Env) (grad idx : Nat) : Option (Nat × Nat) := rangesFault e.mem e.im.regions (nrRange e grad idx).toList

/-- g of an element; a gather view's is that of the element it names (R242). -/
def gradAt (e : Env) (grad idx : Nat) : Except Nat FV :=
  match locate e (descOf e.im grad) idx with
  | .error c => .error c
  | .ok none => .ok FV.zero
  | .ok (some (d, k)) =>
    match readPlain e d 0 k, nrFault e (baseIdx e grad) k with
    | .error c, _ => .error c
    | .ok _, some x => .error x.1
    | .ok v, none => .ok (r32 (fvDiv v (fvNat (nrAt e (baseIdx e grad) k))))

/-! The clip (R219, R220). -/

/-- c of a global norm. -/
def clipOf (im : Image) (g2 : FV) : FV :=
  let m := dec32 (maxNorm im)
  if clipMode im == 0 || fvIsNan g2 || fvLe g2 (fvMul m m) then FV.one else mul32 m (r32 (fvRsqrt g2))

/-- The factor of a pass: mode 1 applies the clip directly, and mode 2 on its repeated passes. -/
def passClip (s : State) (im : Image) (again : Bool) (g : Nat) : FV :=
  if grClip (groupEntry im g) && (clipMode im == 1 || again) then dec32 s.update.clip else FV.one

/-! Passes. -/

/-- t of a group, with the count of this step's first entry. -/
def groupCount (s : State) (g : Nat) : Nat := s.update.counts.getD g 0

/-- Count a group's update once a step (R213). -/
def countGroup (g : Nat) (s : State) : State :=
  if s.update.counted.contains g then s
  else { s with update := { s.update with counts := s.update.counts.set g (s.update.counts.getD g 0 + 1), counted := s.update.counted ++ [g] } }

/-- R_i and C_j in FP32, and ρ from the R (R215). -/
def rcAt (e : Env) (o k : Nat) : FV := valueOr (readElem e (uRc o) k)

/-- The first element of an operand that cannot be read, as code and address. -/
def elemFault (e : Env) (i : Nat) (idxs : List Nat) : Option (Nat × Nat) :=
  idxs.findSome? (fun k => match readElem e i k with
    | .error c => some (c, failAddrOf e i k)
    | .ok _ => none)

/-- What stops the reading of a gradient: its element, or the record with its n_r. -/
def gradFault (e : Env) (grad idx : Nat) : Option (Nat × Nat) :=
  (elemFault e grad [idx]).orElse (fun _ => match locate e (descOf e.im grad) idx with
    | .ok (some (_, k)) => nrFault e (baseIdx e grad) k
    | _ => none)

/-- The first of the factors that a pass reads that cannot be read. -/
def rcFault (e : Env) (o n : Nat) : Option (Nat × Nat) := elemFault e (uRc o) (List.range n)

def rhoOf (e : Env) (o : Nat) : FV :=
  let rows := matRows (descOf e.im (uW o))
  r32 (fvDiv (fvNat rows) (((List.range rows).map (rcAt e o)).foldl fvAdd FV.zero))

def scalarsOf (s : State) (e : Env) (o : Nat) : Scalars :=
  let g := groupEntry e.im (uGroup o)
  let t := groupCount s (uGroup o)
  { bc1 := biasCorr (grH g 1) t, bc2 := biasCorr (grH g 2) t, t := r32 (fvNat t),
    rho := if recipeFactored e.im (uRecipe o) then rhoOf e o else FV.zero }

/-- An optional tensor's element in force, +0 for none. -/
def stateAt (e : Env) (i idx : Nat) : Except Nat FV :=
  if i == 0 then .ok FV.zero else readElem e i idx

/-- e1, e2 and e3 of an element after its recipe. -/
def elemUpdate (e : Env) (o : Nat) (x : Scalars) (c : FV) (ops : List Nat) (idx : Nat) : Except Nat (FV × FV × FV) :=
  let g := groupEntry e.im (uGroup o)
  match gradAt e (uGrad o) idx, stateAt e (uW o) idx, stateAt e (uS0 o) idx, stateAt e (uS1 o) idx with
  | .error k, _, _, _ => .error k
  | _, .error k, _, _ => .error k
  | _, _, .error k, _ => .error k
  | _, _, _, .error k => .error k
  | .ok gv, .ok w, .ok s0, .ok s1 =>
    let cols := matCols (descOf e.im (uW o))
    let rows := matRows (descOf e.im (uW o))
    let rc := fun k => if recipeFactored e.im (uRecipe o) then rcAt e o k else FV.zero
    let z := FV.zero
    let r := runRecipe g x ops [mul32 gv c, w, s0, s1, z, z, z, z, z, z, z, z, rc (idx / cols), rc (rows + idx % cols), z, z]
    .ok (r.getD 1 z, r.getD 2 z, r.getD 3 z)

/-- A master or state element as it is written: its raw value, decoded value and flags (R214). An element of a gather view is keyed and
converted as the one it names (R242). -/
def wroteElem (e : Env) (i idx : Nat) (v : FV) : Nat × FV × CFlag :=
  let (d, k) := match locate e (descOf e.im i) idx with
    | .ok (some x) => x
    | _ => (descOf e.im (baseIdx e i), idx)
  let rm : Rm := if dFmt d == 2 then .sr (srWord e.seed e.step (dTid d) k 0 2) else .rne
  let r := convScalar (dFmt d) FV.one rm v
  (r.1, scalarElem (dFmt d) r.1, r.2)

/-- Where an element is written: no place where the view's tile is discarded (R243), or the code where it has none here. -/
def writePlace (e : Env) (i idx : Nat) : Except Nat (Option Nat) :=
  match locate e (descOf e.im i) idx with
  | .error c => .error c
  | .ok none => .ok none
  | .ok (some (d, k)) => match elemAddr e d (storeHalf e i) k with
    | none => .error 0x0303
    | some a => .ok (some a)

/-- Writes of one tensor, with its counts. -/
def writeAll (e : Env) (i : Nat) (vals : List (Nat × FV)) : Stored :=
  if i == 0 then {}
  else
    let d := descOf e.im i
    let l := vals.map (fun v => (writePlace e i v.1, wroteElem e i v.1 v.2))
    let fault := if dKind d == 2 then scatterFault e d (vals.map (·.1))
      else vals.findSome? (fun v => match writePlace e i v.1 with
        | .error c => some (c, dBase d)
        | .ok _ => none)
    { writes := l.filterMap (fun x => match x.1 with
        | .ok (some a) => some { addr := a, bytes := leBytes (fmtBytes (dFmt (descOf e.im (baseIdx e i)))) x.2.1 : Write }
        | _ => none),
      nf := (l.map (fun x => x.2.2.2.nf)).foldl (· + ·) 0, fail := (fault.map (·.1)).getD 0, failAddr := (fault.map (·.2)).getD 0 }

/-- What an element pass writes, by tensor: master, states and published copy; or the failure. -/
def elementPassOut (s : State) (e : Env) (o : Nat) (c : FV) : Except (Nat × Nat) (List (Nat × Stored)) :=
  let x := scalarsOf s e o
  let ops := recipeOps e.im (uRecipe o)
  let idxs := (List.range (uLength o)).map (uStart o + ·)
  match (if recipeFactored e.im (uRecipe o) then rcFault e o (matRows (descOf e.im (uW o)) + matCols (descOf e.im (uW o))) else none),
      readAll (elemUpdate e o x c ops) idxs with
  | some x, _ => .error x
  | _, .error (k, i) => .error (((gradFault e (uGrad o) i).orElse (fun _ => [uW o, uS0 o, uS1 o].findSome? (fun d => if d == 0 then none else elemFault e d [i]))).getD (k, 0))
  | none, .ok l =>
    let vs := idxs.zip l
    let w := vs.map (fun v => (v.1, v.2.1))
    let asWritten := w.map (fun v => (v.1, (wroteElem e (uW o) v.1 v.2).2.1))
    .ok [(uW o, writeAll e (uW o) w), (uS0 o, writeAll e (uS0 o) (vs.map (fun v => (v.1, v.2.2.1)))),
         (uS1 o, writeAll e (uS1 o) (vs.map (fun v => (v.1, v.2.2.2)))),
         (uPub o, storeInto e s.scales.events (uPub o) (storeHalf e (uPub o)) (fun _ _ => .rne) asWritten)]

/-- Readers of a publish entry's tensor: the members of its reader group (R366, R381). -/
def readersOf (im : Image) (pub : Nat) : List Nat := groupOf im (im.readers.getD pub 0xFFFF)

/-- The version that the step reads of a shard is current, and every reader has acknowledged the step that made it so (R382). Acknowledged steps are kept plus 1. -/
def shardAcked (s : State) (e : Env) (pub shard : Nat) : Bool :=
  match findVer s pub shard with
  | none => true
  | some v =>
    v.cur == spGet 0 pub s.versions.expected && (v.pubStep == 0xFFFFFFFF ||
    (readersOf e.im pub).all (fun m => (goneModules s).contains m || v.pubStep + 1 ≤ spGet 0 m s.versions.acks))

/-- Publish entries that carry a tensor, and the shard of an element under the table in force. -/
def pubsFrom (im : Image) (i : Nat) : List Nat := (im.car.pubs.zipIdx.filter (fun p => puPub p.1 == i)).map (·.2)

def shardIdx (e : Env) (i idx : Nat) : Nat :=
  let (d, k) := match locate e (descOf e.im i) idx with
    | .ok (some x) => x
    | _ => (descOf e.im (baseIdx e i), 0)
  ((ownShards e (dOwners d)).findIdx? (fun sh =>
    let t := tileOf d k
    decide (shFirst sh ≤ t) && decide (t < shFirst sh + shTiles sh))).getD 0

/-- A checkpoint of an earlier step has still to copy bytes that an entry would write (R342). -/
def ckptHolds (s : State) (e : Env) (i : Nat) : Bool :=
  i != 0 && (match s.ckpt.active with
    | none => false
    | some (l, p, st, v) =>
      st != s.run.step && ((e.im.car.ckpts.getD l []).drop p).any (fun x => bits x 0 24 == i) &&
      (!doubled e.im i || storeHalf e i % 2 == (verOf e i + v + s.reductions.ring) % 2)) ||
  (i != 0 && s.ckpt.waiting.any (fun w => w.2.1 != s.run.step && (e.im.car.ckpts.getD w.1 []).any (fun x => bits x 0 24 == i) &&
      (!doubled e.im i || storeHalf e i % 2 == (verOf e i + w.2.2 + s.reductions.ring) % 2)))

/-- A factor pass of the same group that issued before a thread and has not committed. -/
def factorPending (s : State) (t g : Nat) : Bool :=
  (s.run.inflight.takeWhile (fun i => i.thread != t)).any (fun i => i.kind == 5 && uOp (tOp i.entry) == 0x41 && uGroup (tOp i.entry) == g)

/-- Whether an issued entry may run its pass now (R220, R382, R342). -/
def passReady (s : State) (e : Env) (t o : Nat) : Bool :=
  let g := groupEntry e.im (uGroup o)
  (clipMode e.im != 1 || !grClip g || s.update.g2.isSome) &&
  (pubsFrom e.im (baseIdx e (uPub o))).all (fun p => shardAcked s e p (shardIdx e (uPub o) (uStart o))) &&
  !(([uW o, uS0 o, uS1 o, uPub o, uRc o].map (baseIdx e)).any (ckptHolds s e)) &&
  (uOp o == 0x41 || !factorPending s t (uGroup o))

/-- Results of a pass join its thread's commit buffer. -/
def landAll (e : Env) (t : Nat) (l : List (Nat × Stored)) (s : State) : State :=
  l.foldl (fun s x => if x.1 == 0 then s else modFlight t (landStored (baseIdx e x.1) x.2) (countEvents (baseIdx e x.1) x.2 s)) s

/-- r_i or c_j: squares plus `H[7]` over a fixed tree (R215). -/
def factorSum (h7 : FV) (gs : List FV) : FV := sum40all (gs.map (fun g => add40 (mul40 g g) h7))

/-- rne(h2·x + h6·y ÷ k) in FP32, rounded once. -/
def factorMix (h2 x h6 y : FV) (k : Nat) : FV := r32 (fvDiv (fvAdd (fvMul (fvMul h2 x) (fvNat k)) (fvMul h6 y)) (fvNat k))

/-- R and C of a factor pass's tensor as they stand, encoded. -/
def factorsNow (e : Env) (o : Nat) : List Nat :=
  (List.range (matRows (descOf e.im (uW o)) + matCols (descOf e.im (uW o)))).map (fun k => enc32 (rcAt e o k))

/-- What a factor pass writes into `DESC_RC` from the factors before it. -/
def factorPassOut (e : Env) (o : Nat) (old : List Nat) (c : FV) : Except (Nat × Nat) (List (Nat × Stored)) :=
  let g := groupEntry e.im (uGroup o)
  let rows := matRows (descOf e.im (uW o))
  let cols := matCols (descOf e.im (uW o))
  match rcFault e o (rows + cols), readAll (gradAt e (uGrad o)) (List.range (rows * cols)) with
  | some x, _ => .error x
  | _, .error (k, i) => .error ((gradFault e (uGrad o) i).getD (k, 0))
  | none, .ok l =>
    let was := fun k => dec32 (old.getD k 0)
    let gs := l.map (fun v => mul32 v c)
    let at_ := fun i j => gs.getD (i * cols + j) FV.zero
    let rs := (List.range rows).map (fun i =>
      factorMix (grH g 2) (was i) (grH g 6) (factorSum (grH g 7) ((List.range cols).map (at_ i))) cols)
    let cs := (List.range cols).map (fun j =>
      factorMix (grH g 2) (was (rows + j)) (grH g 6) (factorSum (grH g 7) ((List.range rows).map (fun i => at_ i j))) rows)
    .ok [(uRc o, writeAll e (uRc o) ((rs ++ cs).zipIdx.map (fun x => (x.2, x.1))))]

/-- The factors before a step's factor pass stay for its repetition in clip mode 2 (R220, log entry 53). -/
def keepFactors (e : Env) (o : Nat) (s : State) : State :=
  if clipMode e.im == 2 then { s with update := { s.update with oldFactors := spSet (uRc o) (factorsNow e o) s.update.oldFactors } } else s

/-- Run an issued entry's pass. -/
def runUpd (uu : Nat) (e : Env) (t o : Nat) (s0 : State) : State :=
  let s := if uOp o == 0x40 then takeScales [uPub o] s0 else keepFactors e o s0
  let e := envAfter e s
  let c := passClip s e.im false (uGroup o)
  match if uOp o == 0x41 then factorPassOut e o (factorsNow e o) c else elementPassOut s e o c with
  | .error (k, a) => failThread 5 uu t k 0 0xFFFF a s
  | .ok l => doneFlight t (landAll e t l s)

/-- The issued entry of a unit whose pass comes next: passes run in the order in which their entries issued (R119, log entry 53). -/
def nextPass (s : State) (uu : Nat) : Option InFlight := (flightOf s 5 uu).find? (fun i => !i.done)

/-- An update entry of an operation code: an issued one that waited and may go on, or the queue's next, which waits in flight where it may
not run yet (R222, R382). On a step that does not reduce, it does nothing. -/
def updSt (op uu : Nat) (s : State) : State :=
  match envOf s with
  | none => s
  | some e =>
    match (nextPass s uu).filter (fun i => uOp (tOp i.entry) == op && passReady s e i.thread (tOp i.entry)) with
    | some i => if runGoes s && !unitHeld s 5 uu then runUpd uu e i.thread (tOp i.entry) s else s
    | none =>
      match headOfClass s 5 uu 0x40 (fun x => x == op) with
      | none => s
      | some (qi, i, ent) =>
        let s1 := issue 5 uu qi i ent s
        if !reducesStep s then doneFlight (tThread ent) s1
        else
          let s2 := countGroup (uGroup (tOp ent)) s1
          if (nextPass s uu).isNone && passReady s2 e (tThread ent) (tOp ent) then runUpd uu e (tThread ent) (tOp ent) s2 else s2

/-! Repeated element passes (R220). -/

/-- A step that clips in mode 2. -/
def stepClips (s : State) (im : Image) : Bool :=
  clipMode im == 2 && reducesStep s && s.update.g2.isSome && fvLt (dec32 s.update.clip) FV.one

/-- The unit's last entry has run its own pass and waits to commit. -/
def lastEntry (s : State) (uu : Nat) : Option InFlight := (flightOf s 5 uu).find? (fun i => i.done && tStepEnd i.entry)

/-- Passes of the step that a unit has run, in queue order: the element passes, and, so that modes 1 and 2 give the same bits, the factor
passes they rest on (R220, log entry 53). -/
def passesRun (s : State) (uu : Nat) : List Nat :=
  match queueOf s 5 uu with
  | none => []
  | some (_, q, p) => q.entries.take p.next

/-- Writes that follow one another at adjoining addresses are one write, which may cover a whole failed unit (R262). -/
def joinWrites : List Write → List Write
  | [] => []
  | w :: r =>
    match joinWrites r with
    | [] => [w]
    | x :: t => if w.addr + w.bytes.length == x.addr then { addr := w.addr, bytes := w.bytes ++ x.bytes } :: t else w :: x :: t

/-- Writes at device virtual addresses, in order. -/
def applyWrites (e : Env) (ws : List Write) (m : Memory) : Memory :=
  (joinWrites ws).foldl (fun m w => vaPut m e.im.regions w.addr w.bytes) m

/-- The first write that cannot be made (R261). -/
def putFault (e : Env) (ws : List Write) : Option (Nat × Nat) := rangeFault e 2 (ws.map (fun w => (w.addr, w.bytes.length)))

/-! Scales, counts and warnings. -/

def spSum (a b : Sp Nat) : Sp Nat := b.foldl (fun m v => spPut 0 v.1 (wrapAdd 64 (spGet 0 v.1 m) v.2) m) a

/-- Tiles that clamps reach for the first time in the step, counted by tensor: a key is tensor × 2^48 + tile (R100). -/
def newTiles (old sat : Sp Nat) : Sp Nat :=
  sat.foldl (fun m v =>
    let i := v.1 / 2 ^ 48
    if v.2 == 0 || spGet 0 v.1 old != 0 then m else spPut 0 i (spGet 0 i m + 1) m) []

/-- A thread's counts join the telemetry and each tile's count of clamps, and its warnings the command (R54, R73, R100). -/
def noteCounts (i : InFlight) (s : State) : State :=
  let c := s.scales
  let s1 := { s with
    scales := { c with nonfinite := spSum c.nonfinite i.nf, saturated := spSum c.saturated (newTiles c.tileSats i.sat),
                       tileSats := spSum c.tileSats i.sat, replays := spSum c.replays i.replays }
    run := { s.run with replays := s.run.replays + (i.replays.map (·.2)).foldl (· + ·) 0 } }
  let s2 := if i.nf.any (fun v => v.2 != 0) then warnRun 0x0409 s1 else s1
  if i.sat.any (fun v => v.2 != 0) then warnRun 0x0401 s2 else s2

/-- What a committed pass counts when it runs again: its events, replays and flags (R73, R74). -/
def noteAgain (e : Env) (ent : Nat) (l : List (Nat × Stored)) (s : State) : State :=
  let f := (l.filter (fun x => x.1 != 0)).foldl (fun f x => landStored (baseIdx e x.1) x.2 f) (flight 5 0 0 ent)
  noteCounts f ((l.filter (fun x => x.1 != 0)).foldl (fun s x => countEvents (baseIdx e x.1) x.2 s) s)

/-- Run a pass again: a committed one writes at once, and one in flight has its commit buffer filled anew. A factor pass starts from the
factors before the step's own. -/
def repeatPass (uu ent : Nat) (e0 : Env) (s : State) : State :=
  let t := tThread ent
  let e := envAfter e0 s
  let o := tOp ent
  let c := passClip s e.im true (uGroup o)
  match if uOp o == 0x41 then factorPassOut e o (spGet [] (uRc o) s.update.oldFactors) c else elementPassOut s e o c with
  | .error (k, a) => failThread 5 uu t k 0 0xFFFF a s
  | .ok l =>
    let bad := (l.map (·.2.fail)).foldl max 0
    if (findFlight s t).isSome then
      landAll e t l (modFlight t (fun i => { i with writes := [], amax := [], nf := [], sat := [], fail := 0 }) s)
    else if bad != 0 then failThread 5 uu t bad 0 0xFFFF 0 s
    else noteAgain e ent l { s with memory := applyWrites e (l.flatMap (·.2.writes)) s.memory }

/-- `REPEATED_ELEMENT_PASSES`: every pass of the step that the unit has run runs again with the new c. -/
def repeatSt (uu : Nat) (s : State) : State :=
  match envOf s, lastEntry s uu with
  | some e, some _ =>
    if !stepClips s e.im || s.update.repeats.contains uu || !runGoes s || (flightOf s 5 uu).any (fun i => !i.done) then s
    else
      let s1 := (passesRun s uu).foldl (fun t ent => repeatPass uu ent e t) s
      { s1 with update := { s1.update with
          repeats := s1.update.repeats ++ [uu]
          redone := if s1.update.repeats.isEmpty then (s1.update.redone + 1) % 2 ^ 32 else s1.update.redone } }
  | _, _ => s

end Sys2Proof.Machine
end

