-- ==== Sys2Proof/Machine/Xfer.lean ====
section
/-! DEFINITION. Transfer engines: copies with conversion, zeroing, spills and fills; import, export and copy by host command
(R58 to R60, R246 to R248, R264 to R266, R422, R423). -/

namespace Sys2Proof.Machine

/-! Fields of the transfer operation word (Table 10.5). -/

def xOp (o : Nat) : Nat := bits o 0 8
def xCarEn (o : Nat) : Bool := bitAt o 8
def xCar (o : Nat) : Nat := bits o 9 12
def xSrc (o : Nat) : Nat := bits o 32 24
def xDst (o : Nat) : Nat := bits o 56 24
def xLedger (o : Nat) : Nat := bits o 80 24
def xStage (o : Nat) : Nat := bits o 104 24
def xMe (o : Nat) : Nat := bits o 128 5
def xSlot (o : Nat) : Nat := bits o 133 10
def xSpill (o : Nat) : Nat := bits o 144 48

/-! Extents and overlap (R235, R247). -/

/-- Byte ranges that a plain tensor occupies in one half: one, or one a row where `PITCH` leaves gaps. -/
def halfSpans (e : Env) (d half : Nat) : List (Nat × Nat) :=
  let base := dBase d + halfOff e d half
  if dOwners d != 0 || dLayout d != 0 || dRank d < 2 || stride1 d == units0 d * unitSize d then [(base, occupied e d)]
  else
    let outer := prod ((List.range (dRank d - 1)).map (fun j => memDim d (j + 1)))
    (List.range outer).map (fun r => (base + r * stride1 d, units0 d * unitSize d))

/-- Byte ranges of a tensor, both halves of a double-buffered one; those of its source for a view. -/
def spansOf (e : Env) (i : Nat) : List (Nat × Nat) :=
  let b := baseIdx e i
  let d := descOf e.im b
  halfSpans e d 0 ++ (if doubled e.im b then halfSpans e d 1 else [])

/-- Physical pieces of virtual ranges; ranges that do not translate have none. -/
def piecesOf (e : Env) (l : List (Nat × Nat)) : List (Nat × Nat × Nat) :=
  l.flatMap (fun r => match translate e.mem e.im.regions 0 (e.im.regions.length + 1) r.1 r.2 with
    | .ok ps => ps
    | .error _ => [])

def overlap (a b : List (Nat × Nat × Nat)) : Bool :=
  a.any (fun x => b.any (fun y => x.1 == y.1 && decide (x.2.1 < y.2.1 + y.2.2) && decide (y.2.1 < x.2.1 + x.2.2)))

/-- The code of the rights that every byte of some ranges needs. -/
def spansCode (e : Env) (need : Nat) (l : List (Nat × Nat)) : Nat :=
  (l.findSome? (fun r => match translate e.mem e.im.regions need (e.im.regions.length + 1) r.1 r.2 with
    | .ok _ => none
    | .error c => some c)).getD 0

/-- Byte ranges that a store into a tensor writes: its own and its dual's (R237, R240). -/
def storeSpans (e : Env) (i : Nat) : List (Nat × Nat) :=
  let x := dDual (descOf e.im (baseIdx e i))
  spansOf e i ++ (if x == 0 then [] else spansOf e x)

/-- The rights that a use of a tensor or gather view needs: its bytes, its list, and its `AUX_BASE` space (R240). -/
def useCode (e : Env) (i need : Nat) : Nat :=
  let d := descOf e.im i
  let c := spansCode e need (if need == 2 then storeSpans e i else spansOf e i)
  if c != 0 then c
  else if dKind d == 2 then
    let g := dRecord d
    spansCode e 1 [(gList g, 8 * (gRows g * gCols g))]
  else 0

/-! The copy (R238, R247, R248, R265). -/

/-- A descriptor with the memory order of logical axes `RANK` − 2 and `RANK` − 1 exchanged. -/
def swapPerm (d : Nat) : List Nat :=
  (List.range (dRank d)).map (fun j =>
    let p := dPerm d j
    if p + 1 == dRank d then dRank d - 2 else if p + 2 == dRank d then dRank d - 1 else p)

/-- The in-place transpose of Table 9.8. -/
def inPlace (a b : Nat) : Bool :=
  dKind a == 0 && dKind b == 0 && dBase a == dBase b && dFmt a == dFmt b && !fmtBlock (dFmt a) && dLayout a == 1 && dLayout b == 1 &&
  dOwners a == dOwners b && 2 ≤ dRank a && dDims a == dDims b && (List.range (dRank b)).map (dPerm b) == swapPerm a &&
  dDim a (dRank a - 1) == dDim a (dRank a - 2) && dDim a (dRank a - 1) % 64 == 0

/-- A descriptor that a copy may name: a plain tensor or a gather view. -/
def copyable (e : Env) (i : Nat) : Bool := i != 0 && i ≤ e.im.descs.length && (dKind (descOf e.im i) == 0 || dKind (descOf e.im i) == 2)

/-- The code of a copy's static checks (R265, Table 9.8, R240), 0 where it may run. -/
def copyCode (e : Env) (src dst stage : Nat) : Nat :=
  let a := descOf e.im src
  let b := descOf e.im dst
  if !copyable e src || !copyable e dst then 0x0105
  else if dDims a != dDims b then 0x0105
  else
    let rs := useCode e src 1
    let rd := useCode e dst 2
    if rs != 0 then rs
    else if rd != 0 then rd
    else if a == b then (if stage == 0 then 0 else 0x0105)
    else
      let pa := piecesOf e (spansOf e src)
      let pb := piecesOf e (storeSpans e dst)
      if !overlap pa pb then (if stage == 0 then 0 else 0x0105)
      else if !inPlace a b || stage == 0 then 0x0806
      else if !copyable e stage || dKind (descOf e.im stage) != 0 || occupied e (descOf e.im stage) < 2 * tileBytes a then 0x0105
      else
        let rg := useCode e stage 3
        if rg != 0 then rg else if overlap (pa ++ pb) (piecesOf e (spansOf e stage)) then 0x0806 else 0

/-- Whether a copy moves bytes unchanged: one format, one blocking, and a destination whose scale is its own. -/
def copiesBytes (e : Env) (src dst : Nat) : Bool :=
  let a := descOf e.im (baseIdx e src)
  let b := descOf e.im (baseIdx e dst)
  dFmt a == dFmt b && (!fmtBlock (dFmt a) || dPerm a 0 + dRank b == dPerm b 0 + dRank a) &&
  (dKind (descOf e.im dst) == 0 || !fmtScaled (dFmt b))

/-- Indices at which a stored unit of a tensor begins: every element, or the first of each block. -/
def unitStarts (e : Env) (i : Nat) : List Nat :=
  let d := descOf e.im i
  let b := descOf e.im (baseIdx e i)
  let ax := if dKind d == 2 then (if dPerm b 0 + 1 == dRank b then 1 else 0) else dPerm d 0
  (List.range (elemCount d)).filter (fun x => !fmtBlock (dFmt b) || (coordsOf (dDims d) x).getD ax 0 % 64 == 0)

/-- A raw unit as zeros of a format. -/
def zeroUnit (fmt : Nat) : Nat := if fmtBlock fmt then packBlock fmt [] 127 0 else 0

/-- The place of an element of an output, none for one that is discarded. -/
def outPlace (e : Env) (i half x : Nat) : Except Nat (Option Nat) :=
  match locate e (descOf e.im i) x with
  | .error c => .error c
  | .ok none => .ok none
  | .ok (some (sd, k)) => match elemAddr e sd half k with
    | none => .error 0x0303
    | some a => .ok (some a)

/-- A scatter whose list names one source tile twice (R243). -/
def scatterTwice (e : Env) (i : Nat) : Bool :=
  let d := descOf e.im i
  if dKind d != 2 then false
  else
    let l := (List.range (gRows (dRecord d) * gCols (dRecord d))).filterMap (fun t => match gatherTile e d t with
      | .ok x => x
      | .error _ => none)
    l.eraseDups.length != l.length

/-- Raw units moved unchanged. -/
def rawMoves (e : Env) (src dst half : Nat) : List Nat → Except (Nat × Nat × Nat) (List Write)
  | [] => .ok []
  | x :: r =>
    match rawAt e src x, outPlace e dst half x with
    | .error c, _ => .error (c, src, x)
    | _, .error c => .error (c, dst, x)
    | .ok v, .ok p =>
      match rawMoves e src dst half r with
      | .error y => .error y
      | .ok l =>
        let b := descOf e.im (baseIdx e dst)
        let w := match v with
          | some (_, _, raw) => raw
          | none => zeroUnit (dFmt b)
        match p with
        | none => .ok l
        | some a => .ok ({ addr := a, bytes := leBytes (unitSize b) w } :: l)

/-- T and the tile offsets of the source, in the destination's `AUX_BASE` space. -/
def scaleMoves (e : Env) (src dst : Nat) : List Write :=
  let d := descOf e.im dst
  if !fmtScaled (dFmt d) || dKind d != 0 then []
  else
    let off := fun (t : Nat) =>
      match (tileElem d t 0 0).map (rawAt e src) with
      | some (.ok (some (sd, k, _))) => tileExp e sd (tileOf sd k)
      | _ => 0
    { addr := dAux d + 12, bytes := leBytes 4 (scaleT e (baseDesc e src)) } ::
      (List.range (tileCount d)).map (fun t => { addr := dAux d + 80 + t, bytes := leBytes 1 (ofSigned 8 (off t)) })

/-- A tile of a dual-blocked destination whose own blocks come unchanged: the other half is converted from the source's values under the
source's scale; an overflow there raises the shared `TILE_EXP`, and both halves convert again (R237). -/
def dualTile (e : Env) (events : Sp Nat) (src dst half seq tile : Nat) (vals : Sp FV) : Stored :=
  let d := descOf e.im dst
  let f := descOf e.im (dDual d)
  let k := match (vals.head?).map (fun v => rawAt e src v.1) with
    | some (.ok (some (sd, k, _))) => tileExp e sd (tileOf sd k)
    | _ => 0
  let t32 := scaleT e (baseDesc e src)
  let idxs := vals.map (·.1)
  let one := convTile e [f] half t32 (classRm e f seq) vals idxs 0 k
  let q := if one.2.2.2.2 == 0x0402 then
      convTile e [d, f] half t32 (classRm e d seq) vals idxs (4 - spGet 0 (dst * 2 ^ 48 + tile) events) k else one
  { writes := q.1 ++ (if q.2.2.1 == k then [] else [{ addr := dAux d + 80 + tile, bytes := leBytes 1 (ofSigned 8 q.2.2.1) : Write }]),
    nf := q.2.1.nf, sat := if q.2.1.sat == 0 then [] else [(tile, q.2.1.sat)], replays := q.2.2.2.1,
    events := if q.2.2.2.1 == 0 then [] else [(tile, q.2.2.2.1)], fail := q.2.2.2.2 }

/-- What a copy whose bytes move unchanged does to a dual-blocked destination besides. -/
def dualMoves (e : Env) (events : Sp Nat) (src dst half seq : Nat) (vals : List (Nat × FV)) : Stored :=
  let d := descOf e.im dst
  if dDual d == 0 then {}
  else ((groupTiles d vals).map (fun g => dualTile e events src dst half seq g.1 g.2)).foldl stMerge {}

/-- The bytes of the last pair of tiles that an in-place transpose leaves in its staging tensor: tile (i, j), then (j, i). -/
def stagedPair (e : Env) (src stage : Nat) : List Write :=
  let a := descOf e.im src
  let n := dDim a (dRank a - 1) / 64
  let g := descOf e.im stage
  if stage == 0 || n < 2 then []
  else
    let t := tileCount a - n * n
    let one := fun (tile k : Nat) => ((List.range 4096).filterMap (fun i =>
      match (tileElem a (t + tile) (i / 64) (i % 64)).map (rawAt e src) with
      | some (.ok (some (_, _, raw))) => some { addr := dBase g + k * tileBytes a + i * unitSize a, bytes := leBytes (unitSize a) raw : Write }
      | _ => none))
    one ((n - 2) * n + (n - 1)) 0 ++ one ((n - 1) * n + (n - 2)) 1

/-- What a copy writes: everything a commit buffer needs, or a failing element's code, tensor and index. -/
def copyOut (s : State) (e : Env) (src dst stage half seq : Nat) : Except (Nat × Nat × Nat) Stored :=
  let a := descOf e.im src
  let b := descOf e.im dst
  if a == b then .ok {}
  else if scatterTwice e dst then .ok { fail := 0x0806 }
  else if copiesBytes e src dst then
    match rawMoves e src dst half (unitStarts e dst) with
    | .error x => .error x
    | .ok ws =>
      let vals := if dDual b == 0 then [] else (List.range (elemCount b)).map (fun x => (x, valueOr (readElem e src x)))
      .ok (stMerge { writes := ws ++ scaleMoves e src dst ++ stagedPair e src stage } (dualMoves e s.scales.events src dst half seq vals))
  else
    match readAll (readElem e src) (List.range (elemCount a)) with
    | .error (c, x) => .error (c, src, x)
    | .ok l => .ok (storeInto e s.scales.events dst half (fun d x => classRm e d seq x) (l.zipIdx.map (fun v => (v.2, v.1))))

/-- +0 over the logical extent of a tensor and of its dual (R265). -/
def zeroOut (e : Env) (dst half : Nat) : Except Nat (List Write) :=
  let one := fun (i : Nat) => (unitStarts e i).foldr (fun x (acc : Except Nat (List Write)) =>
    match outPlace e i half x, acc with
    | .error c, _ => .error c
    | _, .error c => .error c
    | .ok none, .ok l => .ok l
    | .ok (some a), .ok l =>
      let d := descOf e.im (baseIdx e i)
      .ok ({ addr := a, bytes := leBytes (unitSize d) (zeroUnit (dFmt d)) } :: l)) (.ok [])
  let dual := dDual (descOf e.im dst)
  match one dst, if dual == 0 then .ok [] else one dual with
  | .ok a, .ok b => .ok (a ++ b)
  | .error c, _ => .error c
  | _, .error c => .error c

/-! Transfer entries. -/

/-- A transfer entry that may issue: its caravan has departed in the step where it waits for one (R266). -/
def xferHead (s : State) (xe op : Nat) : Option (Nat × Nat × Nat) :=
  match headOfClass s 7 xe 0x60 (fun x => x == op) with
  | none => none
  | some x =>
    let o := tOp x.2.2
    if xCarEn o && !s.reductions.departures.any (fun d => d.1 == xCar o && d.2.1 == s.run.step) then none else some x

/-- Format errors that a copy meets where it decodes its source (R45). -/
def copyErrors (e : Env) (src dst : Nat) : Nat :=
  if copiesBytes e src dst && dDual (descOf e.im dst) == 0 then 0 else formatErrorsOf e src (List.range (elemCount (descOf e.im src)))

/-- `COPY`. -/
def copySt (xe : Nat) (s : State) : State :=
  match xferHead s xe 0x60, envOf s with
  | some (qi, i, ent), some e =>
    let o := tOp ent
    let t := tThread ent
    let g := gateOf s e (xSrc o) (List.range (elemCount (descOf e.im (xSrc o))))
    if g == 1 then s
    else
      let s1 := (if copiesBytes e (xSrc o) (xDst o) then id else takeScales [xDst o]) (issue 7 xe qi i ent s)
      let e := envAfter e s1
      if g != 0 then failThread 7 xe t g 0 0xFFFF 0 s1
      else
        match copyOut s1 e (xSrc o) (xDst o) (xStage o) (storeHalf e (xDst o)) (tMicro ent) with
        | .error (c, d, x) => failRead 7 xe t c d x e s1
        | .ok st =>
          let b := baseIdx e (xDst o)
          doneFlight t (modFlight t (landStored b st) (countEvents b st (countFormat (copyErrors e (xSrc o) (xDst o)) s1)))
  | _, _ => s

/-- `ZERO`. -/
def zeroSt (xe : Nat) (s : State) : State :=
  match xferHead s xe 0x63, envOf s with
  | some (qi, i, ent), some e =>
    let t := tThread ent
    let dst := xDst (tOp ent)
    let s1 := issue 7 xe qi i ent s
    if scatterTwice e dst then failThread 7 xe t 0x0806 0 0xFFFF 0 s1
    else
      match zeroOut e dst (storeHalf e dst) with
      | .error c => failRead 7 xe t c dst 0 e s1
      | .ok ws => doneFlight t (modFlight t (fun f => { f with writes := f.writes ++ ws }) s1)
  | _, _ => s

/-- The state word of a slot (Table 8.2). -/
def slotWord (w : WgbSlot) : Nat := pack [(0, 3, w.st), (8, 32, w.done)]

/-- `SPILL`: the slot's bytes and its state go to the spill area; the slot moves at the commit. -/
def spillSt (xe : Nat) (s : State) : State :=
  match xferHead s xe 0x61 with
  | none => s
  | some (qi, i, ent) =>
    let o := tOp ent
    let t := tThread ent
    let s1 := issue 7 xe qi i ent s
    match slotOf s (xMe o) (xSlot o) with
    | none => failThread 7 xe t 0x0406 0 0xFFFF 0 s1
    | some w =>
      if w.st != 1 then failThread 7 xe t 0x0406 0 0xFFFF 0 s1
      else doneFlight t (modFlight t (fun f => { f with writes :=
        [{ addr := xSpill o, bytes := p40Bytes w.vals }, { addr := xSpill o + 20480, bytes := leBytes 8 (slotWord w) }] }) s1)

/-- `FILL`: the spill area's bytes go back; the slot moves at the commit. -/
def fillSt (xe : Nat) (s : State) : State :=
  match xferHead s xe 0x62, envOf s with
  | some (qi, i, ent), some e =>
    let o := tOp ent
    let t := tThread ent
    let s1 := issue 7 xe qi i ent s
    if ((slotOf s (xMe o) (xSlot o)).map (·.st)).getD 0 != 5 then failThread 7 xe t 0x0406 0 0xFFFF 0 s1
    else
      match vaRead e.mem e.im.regions 1 (xSpill o) 20488 with
      | .error c => failThread 7 xe t c 0 0xFFFF (xSpill o) s1
      | .ok l => doneFlight t (modFlight t (fun f => { f with rows := [l] }) s1)
  | _, _ => s

/-- What a committing spill or fill does to its slot (Table 8.3); a committed copy's T shows in the resident descriptor (R228). -/
def commitSlot (i : InFlight) (s : State) : State :=
  let o := tOp i.entry
  if i.kind != 7 then s
  else if xOp o == 0x60 then syncScale (xDst o) s
  else if xOp o == 0x61 then modSlot (xMe o) (xSlot o) (fun w => { w with st := 5 }) s
  else if xOp o == 0x62 then
    match i.rows with
    | l :: _ => modSlot (xMe o) (xSlot o) (fun w => { w with st := 1, vals := cutNats 5 4096 l, done := bits (ofLe (l.drop 20480)) 8 32 }) s
    | [] => s
  else s

def execCopy (xe : Nat) (s : State) : Host.Outcome State Fault Refusal := .next (copySt xe s)
def execSpill (xe : Nat) (s : State) : Host.Outcome State Fault Refusal := .next (spillSt xe s)
def execFill (xe : Nat) (s : State) : Host.Outcome State Fault Refusal := .next (fillSt xe s)
def execZero (xe : Nat) (s : State) : Host.Outcome State Fault Refusal := .next (zeroSt xe s)

/-! Host buffers (R58 to R60). -/

/-- Formats of a host buffer (R58). -/
def hostFmtOk (f : Nat) : Bool := [1, 2, 3, 4, 5, 6, 8, 9, 10, 12, 13, 0x20].contains f

/-- First elements of the blocks of a Slauc host buffer, in order: the tensor's own blocks where it has that format, else blocks
along the last axis of a shape. -/
def hostBlocks (dims : List Nat) (ax : Nat) : List Nat :=
  (List.range (prod dims)).filter (fun x => (coordsOf dims x).getD ax 0 % 64 == 0)

/-- Axis of the blocks of a Slauc host buffer of a tensor. -/
def hostAxis (d hf : Nat) : Nat := if dFmt d == hf then dPerm d 0 else dRank d - 1

/-- Bytes of a host buffer of a shape. -/
def hostBytes (dims : List Nat) (ax hf : Nat) : Nat :=
  if fmtBlock hf then (hostBlocks dims ax).length * blockBytes hf else prod dims * fmtBytes hf

/-- Offset of the unit that holds an element in a host buffer, and the element's position in its block. -/
def hostUnit (dims : List Nat) (ax hf x : Nat) : Nat × Nat :=
  if fmtBlock hf then
    let c := coordsOf dims x
    let k := c.getD ax 0
    let g := dims.set ax (ceilDiv (dims.getD ax 1) 64)
    (indexOf g (c.set ax (k / 64)) * blockBytes hf, k % 64)
  else (x * fmtBytes hf, 0)

def hostUnitBytes (hf : Nat) : Nat := if fmtBlock hf then blockBytes hf else fmtBytes hf

/-- Value of an element of a host buffer, whose own scale is 1. -/
def hostValue (dims : List Nat) (ax hf : Nat) (data : List Byte) (x : Nat) : FV :=
  let u := hostUnit dims ax hf x
  let raw := ofLe ((data.drop u.1).take (hostUnitBytes hf))
  if fmtBlock hf then blockElem hf raw u.2 else scalarElem hf raw

/-! Import (R59, R422). -/

def idleOnly (s : State) : Bool := s.run.active

/-- An operation that holds the transfer engines of both dies while it runs (Table 17.1). -/
def bothEngines (o : Op) : Bool := [0x0305, 0x0307, 0x0400].contains o.opcode && !opFinal o.state

/-- State of a new import, copy or load: it waits for another. -/
def engineState (s : State) : Nat := if s.sessions.ops.any bothEngines then 1 else 2

/-- The one of those operations that may run: in progress, else the one of highest priority, the earliest accepted among equals. -/
def engineTurn (s : State) : Option Op :=
  let l := s.sessions.ops.filter bothEngines
  match l.find? (fun o => o.state != 1) with
  | some o => some o
  | none =>
    let p := (l.map (·.prio)).foldl max 0
    (l.filter (fun o => o.prio == p)).foldl (fun a o => match a with
      | none => some o
      | some b => if o.order < b.order then some o else some b) none

/-- The next such operation starts once the engines are free. -/
def engineNext (s : State) : State :=
  match engineTurn s with
  | some o => if o.state == 1 then beginOp o.sid o.handle s else s
  | none => s

/-- An operation of an opcode that is running and may reach its completion point. -/
def runningOp (s : State) (sid h opc : Nat) : Option Op :=
  match findOp s.sessions sid h with
  | none => none
  | some o => if o.opcode == opc && o.state == 2 && !o.aborting && !o.haboobHeld then some o else none

/-- The running import, copy or load, once its turn has come. -/
def engineOp (s : State) (sid h opc : Nat) : Option (Op × State) :=
  let s1 := match engineTurn s with
    | some o => if opIs sid h o then engineNext s else s
    | none => s
  (runningOp s1 sid h opc).map (fun o => (o, s1))

/-- A descriptor that names a tensor. -/
def isTensor (e : Env) (i : Nat) : Bool := i != 0 && i ≤ e.im.descs.length && dKind (descOf e.im i) == 0

/-- A positive normal FP32 number (R50). -/
def normalT (w : Nat) : Bool := bits w 31 1 == 0 && 0 < bits w 23 8 && bits w 23 8 < 255

/-- `TENSOR_IMPORT`. -/
def tensorImportPart : Part := fun s _ d =>
  let i := prm d 0 24
  let hf := prm d 32 8
  let t := prm d 64 32
  let a := prm d 128 48
  match envOf s with
  | none => ansCode s 0x0407
  | some e =>
    let x := descOf e.im i
    if idleOnly s then ansCode s 0x0408
    else if !isTensor e i || !hostFmtOk hf || (fmtScaled (dFmt x) && t != 0 && !normalT t) then ansCode s 0x0105
    else
      let n := hostBytes (dDims x) (hostAxis x hf) hf
      let c := firstCode [useCode e i 2, spansCode e 1 [(a, n)]]
      if c != 0 then ansCode s c
      else if overlap (piecesOf e [(a, n)]) (piecesOf e (storeSpans e i)) then ansCode s 0x0806
      else ansLong s (engineState s)

/-- T that an import leaves: the command's, the scouted one, or the tensor's own where nothing is converted. -/
def importScale (e : Env) (d t hf : Nat) (vals : List FV) : Option Nat :=
  if !fmtScaled (dFmt d) then none
  else if t != 0 then some t
  else if hf == dFmt d then none
  else some (newScale (dFmt d) (dHead d) (scaleT e d) (amaxOf vals))

/-- What an import writes, with its counts; an overflow fails it. -/
def importOut (e : Env) (i t hf : Nat) (data : List Byte) : Stored :=
  let d := descOf e.im i
  let ax := hostAxis d hf
  let dims := dDims d
  let half := curHalf e i
  let idxs := List.range (elemCount d)
  let vals := idxs.map (hostValue dims ax hf data)
  let nt := importScale e d t hf vals
  let aux := match nt with
    | none => []
    | some w => { addr := dAux d + 12, bytes := leBytes 4 w : Write } ::
        (List.range (tileCount d)).map (fun k => { addr := dAux d + 80 + k, bytes := [0] })
  let conv := fun (f : Nat) =>
    let tiles := groupTiles f (idxs.zip vals)
    let r := tiles.map (fun g =>
      let k := if nt.isSome then 0 else tileExp e f g.1
      convUnits e f half (effScale (nt.getD (scaleT e f)) k) (classRm e f 0) (if hf == dFmt d then
        g.2.map (fun v => (v.1, fvMul v.2 (effScale (nt.getD (scaleT e f)) k))) else g.2) (g.2.map (·.1)))
    { writes := r.flatMap (·.1), nf := ((r.map (·.2.1.nf)).foldl (· + ·) 0), sat := ((tiles.zip r).filter (fun x => x.2.2.1.sat != 0)).map (fun x => (x.1.1, x.2.2.1.sat)),
      fail := if r.any (fun x => !x.2.2) then 0x0303 else if r.any (fun x => x.2.1.exc.isSome) then 0x0402 else 0 : Stored }
  let own := if hf == dFmt d then
      let us := (unitStarts e i).map (fun x => (elemAddr e d half x, ((data.drop (hostUnit dims ax hf x).1).take (hostUnitBytes hf))))
      { writes := us.filterMap (fun u => u.1.map (fun a => { addr := a, bytes := u.2 })), fail := if us.any (·.1.isNone) then 0x0303 else 0 : Stored }
    else conv d
  let both := if dDual d == 0 then own else stMerge own (conv (descOf e.im (dDual d)))
  { both with writes := both.writes ++ aux }

/-- Format errors of an S2T host buffer that an import decodes (R45). -/
def importErrors (d hf : Nat) (data : List Byte) : Nat :=
  if hf == 10 && (dFmt d != 10 || dDual d != 0) then
    ((cutNats (blockBytes 10) (data.length / blockBytes 10) data).map (blockFormatErrors 10)).foldl (· + ·) 0
  else 0

/-- Units of 4,096 elements. -/
def granules (n : Nat) : Nat := ceilDiv n 4096

/-- Writes of a host command land, its counts join the telemetry of the tensor, and its warnings its status word (R54). -/
def landHost (sid h i : Nat) (e : Env) (st : Stored) (s : State) : State :=
  let c := s.scales
  let add := fun (m : Sp Nat) (n : Nat) => spPut 0 i (spGet 0 i m + n) m
  let s1 := { s with
    memory := applyWrites e st.writes s.memory
    scales := { c with nonfinite := add c.nonfinite st.nf, saturated := add c.saturated (st.sat.map (·.1)).eraseDups.length,
                       replays := add c.replays st.replays } }
  let warn := fun (w : Nat) (b : Bool) (s : State) =>
    if !b then s
    else
      let first := ((findOp s.sessions sid h).map (·.warn)).getD false
      { s with sessions := modOp s.sessions sid h (fun o => opWarn o w)
               scales := if first then { s.scales with extraWarnings := tick64 s.scales.extraWarnings } else s.scales }
  warn 0x0401 (!st.sat.isEmpty) (warn 0x0409 (st.nf != 0) (syncScale i s1))

/-- A host command's read fails: an uncorrectable error leaves its record (R263), and the operation fails. -/
def failHost (sid h code addr : Nat) (s : State) : State :=
  let s1 := if code == 0x0601 then
      match badOf s addr 1 with
      | some (t, k) => addMemError t k 0xFFFFFFFF s
      | none => s
    else s
  finishOp sid h 5 code s1

def opProgress (sid h n : Nat) (s : State) : State := { s with sessions := modOp s.sessions sid h (setProgress n) }

/-- First failed byte of a range, for its record. -/
def badByte (s : State) (a n : Nat) : Nat := ((List.range n).find? (fun k => (badOf s (a + k) 1).isSome)).getD 0 + a

/-- `TENSOR_IMPORT_COMPLETE`. -/
def importDone (sid h : Nat) (s : State) : State :=
  match engineOp s sid h 0x0305 with
  | none => s
  | some (o, s0) =>
    engineNext (match envOf s0 with
      | none => finishOp sid h 5 0x0407 s0
      | some e =>
        let i := bits o.params 0 24
        let d := descOf e.im i
        let hf := bits o.params 32 8
        let a := bits o.params 128 48
        let n := hostBytes (dDims d) (hostAxis d hf) hf
        match vaRead e.mem e.im.regions 1 a n with
        | .error c => failHost sid h c (badByte s0 a n) s0
        | .ok data =>
          let st := importOut e i (bits o.params 64 32) hf data
          let s0 := countFormat (importErrors d hf data) s0
          if st.fail != 0 then failHost sid h st.fail st.failAddr s0
          else
            let s1 := landHost sid h i e st s0
            let s2 := if fmtScaled (dFmt d) && bits o.params 64 32 != 0 || hf != dFmt d then
                { s1 with scales := { s1.scales with nextScale := spDel (pairKey e.im i) s1.scales.nextScale } } else s1
            finishOp sid h 4 0 (opProgress sid h (granules (elemCount d)) s2))

/-! Export (R60, R246, R422). -/

def padLo (p i : Nat) : Nat := bits p (192 + 16 * i) 16
def padHi (p i : Nat) : Nat := bits p (288 + 16 * i) 16

/-- Shape of the padded tensor. -/
def padDims (p : Nat) (dims : List Nat) : List Nat := dims.zipIdx.map (fun x => padLo p x.2 + x.1 + padHi p x.2)

def padded (p : Nat) : Bool := (List.range 6).any (fun i => padLo p i != 0 || padHi p i != 0)

/-- Blocks keep the tensor's own axis only where the bytes go unchanged. -/
def exportAxis (d hf p : Nat) : Nat := if padded p then dRank d - 1 else hostAxis d hf

/-- The logical element at a place of the padded shape, none for padding. -/
def unpad (p : Nat) (dims : List Nat) (x : Nat) : Option Nat :=
  let cs := coordsOf (padDims p dims) x
  let ok := cs.zipIdx.all (fun c => decide (padLo p c.2 ≤ c.1) && decide (c.1 < padLo p c.2 + dims.getD c.2 0))
  if ok then some (indexOf dims (cs.zipIdx.map (fun c => c.1 - padLo p c.2))) else none

/-- `TENSOR_EXPORT`: it waits where it must first pre-empt a transfer engine. -/
def tensorExportPart : Part := fun s x d =>
  let i := prm d 0 24
  let hf := prm d 32 8
  let p := d.params
  match envOf s with
  | none => ansCode s 0x0407
  | some e =>
    let t := descOf e.im i
    let dims := dDims t
    let extra := (List.range 6).any (fun k => dims.length ≤ k && (padLo p k != 0 || padHi p k != 0))
    if x.role == 3 && !windowOpen s then ansCode s 0x0203
    else if !copyable e i || !hostFmtOk hf || extra then ansCode s 0x0105
    else
      let c := useCode e i 1
      let n := hostBytes (padDims p dims) (exportAxis t hf p) hf
      if c != 0 then ansCode s c
      else if (hostKeyFor x (prm d 64 32) (prm d 128 64) n).isNone then ansCode s 0x0304
      else
        let die := tensorDie s i
        let fresh : Op := { sid := x.sid, handle := x.nextHandle, prio := x.prio, role := x.role, cert := 0, opcode := 0x0306,
                            order := s.sessions.opOrder, state := 1, progress := 0, code := 0, warn := false, moreWarns := 0, part := false,
                            aborting := false, slotHeld := true, params := p, queuedAt := 0, queuedAwake := 0, started := false,
                            holds := [], holdBy := [], haboobHeld := false }
        ansLong s (if s.sessions.ops.any (isVictim s fresh die) then 1 else 2)

/-- A unit of an exported buffer, at the first element that it holds, with the flags of its conversion (R60, R54). -/
def exportUnit (e : Env) (i hf p ax : Nat) (x : Nat) : Except (Nat × Nat) (List Byte × CFlag) :=
  let d := descOf e.im i
  let b := baseDesc e i
  let dims := padDims p (dDims d)
  if !padded p && dFmt b == hf && (!fmtBlock hf || dKind d == 0) then
    match rawAt e i x with
    | .error c => .error (c, x)
    | .ok none => .ok (leBytes (hostUnitBytes hf) (zeroUnit hf), {})
    | .ok (some (_, _, raw)) => .ok (leBytes (hostUnitBytes hf) raw, {})
  else
    let c := coordsOf dims x
    let n := if fmtBlock hf then min 64 (dims.getD ax 1 - c.getD ax 0) else 1
    let xs := (List.range n).map (fun j => unpad p (dDims d) (indexOf dims (c.set ax (c.getD ax 0 + j))))
    match readAll (fun y => readElem e i y) (xs.filterMap id) with
    | .error (k, y) => .error (k, y)
    | .ok _ =>
      let vs := xs.map (fun y => match y with
        | none => FV.zero
        | some z => valueOr (readElem e i z))
      let one : Option Nat := match xs with
        | [some z] => if dFmt b == hf && !fmtBlock hf then
            (match rawAt e i z with
             | .ok (some (_, _, raw)) => some raw
             | _ => none)
          else none
        | _ => none
      let r := match one with
        | some raw => (raw, ({} : CFlag))
        | none => if fmtBlock hf then convBlock hf FV.one (fun _ => .rne) vs else convScalar hf FV.one .rne (vs.headD FV.zero)
      .ok (leBytes (hostUnitBytes hf) r.1, r.2)

/-- What an export counts: nonfinite values and saturated tiles of the tensor, by the unit at which they are met. -/
def exportStored (e : Env) (i p : Nat) (l : List (Nat × CFlag)) : Stored :=
  let d := descOf e.im i
  { nf := (l.map (·.2.nf)).foldl (· + ·) 0,
    sat := (l.filter (fun x => x.2.sat != 0)).map (fun x => (tileOf d ((unpad p (dDims d) x.1).getD 0), x.2.sat)) }

/-- Format errors of an S2T tensor that an export decodes (R45). -/
def exportErrors (e : Env) (i hf p : Nat) : Nat :=
  if !padded p && dFmt (baseDesc e i) == hf then 0 else formatErrorsOf e i (List.range (elemCount (descOf e.im i)))

/-- `TENSOR_EXPORT_COMPLETE`: the buffer as the tensor stands. -/
def exportDone (sid h : Nat) (s : State) : State :=
  let s0 := match findOp s.sessions sid h with
    | some o => if o.opcode == 0x0306 && o.state == 1 && !o.aborting && !s.sessions.ops.any (isVictim s o (tensorDie s (bits o.params 0 24)))
        then beginOp sid h s else s
    | none => s
  match runningOp s0 sid h 0x0306 with
  | none => s0
  | some o =>
    match envOf s0, findSession s0.sessions sid with
    | some e, some x =>
      let i := bits o.params 0 24
      let d := descOf e.im i
      let hf := bits o.params 32 8
      let p := o.params
      let ax := exportAxis d hf p
      let dims := padDims p (dDims d)
      let units := if fmtBlock hf then hostBlocks dims ax else List.range (prod dims)
      match hostKeyFor x (bits p 64 32) (bits p 128 64) (hostBytes dims ax hf) with
      | none => finishOp sid h 5 0x0304 s0
      | some k =>
        match readAll (fun x => match exportUnit e i hf p ax x with
            | .ok l => .ok l
            | .error c => .error c.1) units with
        | .error (c, u) =>
          let y := match exportUnit e i hf p ax u with
            | .error z => z.2
            | .ok _ => 0
          failHost sid h c (failAddrOf e i y) s0
        | .ok l => finishOp sid h 4 0 (opProgress sid h (granules (prod dims)) (landHost sid h (baseIdx e i) e
            (exportStored e i p (units.zip (l.map (·.2)))) (countFormat (exportErrors e i hf p)
              (rdmaSend k.qpn k.key (bits p 128 64) (l.flatMap (·.1)) s0))))
    | none, _ => finishOp sid h 5 0x0407 s0
    | _, none => s0

/-! Copy by command (R423). -/

/-- `MEM_COPY`. -/
def memCopyPart : Part := fun s _ d =>
  match envOf s with
  | none => ansCode s 0x0407
  | some e =>
    if idleOnly s then ansCode s 0x0408
    else
      let c := copyCode e (prm d 0 24) (prm d 24 24) (prm d 64 24)
      if c != 0 then ansCode s c else ansLong s (engineState s)

/-- `MEM_COPY_COMPLETE`. The copy is part of no step: no pending T takes effect for it (R68), and its SR words take sequence 0 with the seed and
the step of the last run (DESIGN CHOICE, log entry 56: R56 names the thread's sequence and the run's seed and step). -/
def memCopyDone (sid h : Nat) (s : State) : State :=
  match engineOp s sid h 0x0307 with
  | none => s
  | some (o, s0) =>
    engineNext (match envOf s0 with
      | none => finishOp sid h 5 0x0407 s0
      | some e =>
        let src := bits o.params 0 24
        let dst := bits o.params 24 24
        match copyOut s0 e src dst (bits o.params 64 24) (curHalf e dst) 0 with
        | .error (c, i, x) => failHost sid h c (failAddrOf e i x) s0
        | .ok st =>
          if st.fail != 0 then failHost sid h st.fail st.failAddr s0
          else finishOp sid h 4 0 (opProgress sid h (tileCount (descOf e.im dst))
            (landHost sid h (baseIdx e dst) e st (countFormat (copyErrors e src dst) s0))))

def execTensorImport (d : Datagram) (s : State) : Host.Outcome State Fault Refusal :=
  .next (ycp 0x0305 (.tensorImport d) tensorImportPart d s)
def execTensorImportComplete (sid handle : Nat) (s : State) : Host.Outcome State Fault Refusal := .next (importDone sid handle s)
def execTensorExport (d : Datagram) (s : State) : Host.Outcome State Fault Refusal :=
  .next (ycp 0x0306 (.tensorExport d) tensorExportPart d s)
def execTensorExportComplete (sid handle : Nat) (s : State) : Host.Outcome State Fault Refusal := .next (exportDone sid handle s)
def execMemCopy (d : Datagram) (s : State) : Host.Outcome State Fault Refusal := .next (ycp 0x0307 (.memCopy d) memCopyPart d s)
def execMemCopyComplete (sid handle : Nat) (s : State) : Host.Outcome State Fault Refusal := .next (memCopyDone sid handle s)

end Sys2Proof.Machine
end

