-- ==== Sys2Proof/Machine/Commit.lean ====
section
/-! DEFINITION. The commit of a tile thread: what it writes and adds, weight-gradient slots, its counts, scale history, the ledger, and
its counter (R66, R106, R119, R120, R204 to R206, R269, R484). -/

namespace Sys2Proof.Machine

/-! What entries write and read. -/

/-- Tensors that an entry converts values into (R66). A copy that moves bytes unchanged converts nothing, and update entries do nothing
on a step that does not reduce. -/
def outputsOf (e : Env) (reduces : Bool) (ent : Nat) : List Nat :=
  let o := tOp ent
  let l :=
    match tClass ent with
    | 0x01 => if mLast o && !mAmaxOnly o && mTiles o != [] && !isFold e o then [outDesc e o] else []
    | 0x10 => [vOut o, vRed o]
    | 0x30 => if bits o 0 8 ≤ 0x31 then [aOut o] else []
    | 0x40 => if uOp o == 0x40 && reduces then [uPub o] else []
    | 0x50 => if bits o 0 8 == 0x50 then [sY o] else []
    | 0x60 => if xOp o == 0x60 && !copiesBytes e (xSrc o) (xDst o) then [xDst o] else []
    | _ => []
  (l.filter (· != 0)).map (baseIdx e)

/-- Tensors that an entry reads as operands. -/
def inputsOf (e : Env) (ent : Nat) : List Nat :=
  let o := tOp ent
  let l :=
    match tClass ent with
    | 0x01 => [mA o, mB o] ++ (if mOp o == 2 then [mAux o] else [])
    | 0x10 => [vIn o 0, vIn o 1, vIn o 2]
    | 0x30 => [aQ o, aAux o]
    | 0x40 => [uGrad o]
    | 0x50 => if bits o 0 8 == 0x51 then [sY o] else [sE o, sBias o]
    | 0x60 => if xOp o == 0x60 then [xSrc o] else []
    | _ => []
  (l.filter (· != 0)).map (baseIdx e)

/-! Weight-gradient slots (R204 to R206). -/

def wmAdds (w : Nat) : Nat := bits w 64 32

/-- What a read-modify-write meets: 0 it may go on, 1 it waits for the slot to empty, 2 a count breach, 3 a spilled slot. -/
def wgbMeets (s : State) (im : Image) (a : WgbAdd) : Nat :=
  match slotOf s a.me a.slot with
  | none => 2
  | some w =>
    let adds := wmAdds (mapEntryOf im a.me a.slot)
    if w.st == 5 then 3
    else if w.st == 2 || w.st == 3 || w.st == 4 then
      (if (w.addedBy.getLast?.map (·.2)) == some s.run.step then 2 else 1)
    else
      let n := if w.st == 0 then 1 else w.done + 1
      if adds < n || (n == adds && !reducesStep s) then 2 else 0

/-- One addition of a product into a slot's element: RNE, or SR on stream 3 in bootstrap (R76, R205). -/
def wgbSum (e : Env) (ent me slot i old new : Nat) : Nat :=
  let m := mapEntryOf e.im me slot
  let d := descOf e.im (wmDesc m)
  let sum := fvAdd (dec40 old) (dec40 new)
  if inBootstrap e d then
    match tileElem d (wmTile m) (i / 64) (i % 64) with
    | none => enc40 sum
    | some x => encodeFlt p40 (roundTo p40 (.sr (srWord e.seed e.step (dTid d) x (tMicro ent) 3)) sum)
  else enc40 sum

/-- A read-modify-write takes effect: the first of a period stores its product. -/
def wgbApply (e : Env) (ent : Nat) (s : State) (a : WgbAdd) : State :=
  let adds := wmAdds (mapEntryOf e.im a.me a.slot)
  modSlot a.me a.slot (fun w =>
    let first := w.st == 0
    let n := if first then 1 else w.done + 1
    { w with
      st := if n == adds then 2 else 1
      done := n
      vals := if first then a.vals else (w.vals.zip a.vals).zipIdx.map (fun v => wgbSum e ent a.me a.slot v.2 v.1.1 v.1.2)
      addedBy := (if first then [] else w.addedBy) ++ [(tThread ent, s.run.step)] }) s

/-- A count breach: the command fails with 0x0406, and the fault log names the engine and the slot. -/
def wgbBreach (thread me slot done adds : Nat) (s : State) : State :=
  failRun 0x0406 (addFault 6 1 0 0 me
    (pack [(0, 32, thread), (32, 16, 0x0406), (48, 8, 6), (64, 16, slot), (128, 32, done), (160, 32, adds)]) 32 s)

/-! Additions in memory. -/

/-- P40 additions at addresses in order; the first address that cannot be read ends them. -/
def applyAdds (e : Env) : List (Nat × Nat) → Memory → Except (Nat × Nat) Memory
  | [], m => .ok m
  | (a, v) :: r, m =>
    match vaRead m e.im.regions 1 a 5 with
    | .error c => .error (c, a)
    | .ok l => applyAdds e r (vaPut m e.im.regions a (leBytes 5 (addP40 (ofLe l) v)))

/-! Scales. -/

/-- A managed tensor in a format with a tensor scale (Table 3.2). -/
def managed (d : Nat) : Bool := fmtScaled (dFmt d) && dMode d < 2

/-- The step's amax of the scaled tensors that a thread converted into (R65); that of a fixed one enters its history too (R66, log entry 98). -/
def noteAmax (im : Image) (l : List (Nat × Nat)) (m : Sp Nat) : Sp Nat :=
  l.foldl (fun m v =>
    if fmtScaled (dFmt (descOf im v.1)) then
      let k := pairKey im v.1
      spSet k (enc40 (fvMax (dec40 (spGet 0 k m)) (dec40 v.2))) m
    else m) m

/-- Append an entry to a tensor's history record: when the ring is full, the oldest entry goes (R66). -/
def appendEntry (e : Env) (d amax : Nat) (m : Memory) : Memory :=
  let n := histCount e d
  let h := histHead e d % 16
  let x := histExchanged e d
  let m1 := vaPut m e.im.regions (dAux d + 16 + 4 * h) (leBytes 4 (amaxEnc (dec40 amax)))
  vaPut m1 e.im.regions (dAux d + 8) (leBytes 3 (pack [(0, 8, min 16 (n + 1)), (8, 8, (h + 1) % 16),
    (16, 8, if n == 16 then x - 1 else x)]))

/-- Whether an entry of a queue has committed in this step. -/
def hasCommitted (s : State) (q : Queue) (p : QPos) (i : Nat) : Bool :=
  i < p.next && !p.again.contains i && !s.run.inflight.any (fun f => f.kind == q.kind && f.unit == q.unit && f.qidx == i)

/-- Every entry of the step that a predicate takes has committed. -/
def allCommitted (s : State) (im : Image) (p : Nat → Bool) : Bool :=
  (im.queues.zip s.run.queues).all (fun qp => qp.1.entries.zipIdx.all (fun x => !p x.1 || hasCommitted s qp.1 qp.2 x.2))

/-- The first history record of some tensors that cannot be read (R263). -/
def historyFault (e : Env) (l : List Nat) : Option (Nat × Nat) :=
  rangesFault e.mem e.im.regions (l.map (fun i => (dAux (descOf e.im i), 80)))

/-- A scaled tensor that a commit completes has its amax appended (R66). -/
def appendHistory (e : Env) (outs : List Nat) (s : State) : State :=
  (outs.map (pairKey e.im)).eraseDups.foldl (fun s k =>
    let d := descOf e.im k
    let r := reducesStep s
    let mine := fun (ent : Nat) => (outputsOf e r ent).any (fun b => pairKey e.im b == k)
    if !fmtScaled (dFmt d) || s.scales.appended.contains k || !allCommitted s e.im mine then s
    else match historyFault e [k] with
    | some (c, a) => failBytes c a 1 s
    | none => { s with
      memory := appendEntry (envAfter e s) d (spGet 0 k s.scales.amax) s.memory
      scales := { s.scales with appended := s.scales.appended ++ [k] } }) s

/-! The activation ledger (Tables 10.6, 10.7). -/

def lgAct (l : Nat) : Nat := bits l 0 24
def lgDisp (l : Nat) : Nat := bits l 24 2
def lgOff (l : Nat) : Nat := bits l 64 32
def lgBack (l : Nat) : Nat := bits l 96 32
def lgRcFirst (l : Nat) : Nat := bits l 160 32
def lgRcCount (l : Nat) : Nat := bits l 192 32

/-- State of a ledger entry with the step of its last move. -/
def ledgerAt (s : State) (i : Nat) : Nat × Nat := spGet (0, 0) i s.run.ledger

/-- Where a commit moves an entry, none for nowhere. -/
def ledgerMove (s : State) (e : Env) (l st : Nat) (f : InFlight) : Option Nat :=
  let act := baseIdx e (lgAct l)
  let recipe := lgDisp l == 3 && lgRcFirst l ≤ f.thread && f.thread < lgRcFirst l + lgRcCount l
  let restore := lgDisp l != 0 && (f.thread == lgBack l || recipe)
  let makes := fun (ent : Nat) => (outputsOf e true ent).contains act && !(lgDisp l != 0 && tThread ent == lgBack l) &&
    !(lgDisp l == 3 && lgRcFirst l ≤ tThread ent && tThread ent < lgRcFirst l + lgRcCount l)
  if restore && f.thread == lgBack l then some 3
  else if (lgDisp l == 1 || lgDisp l == 2) && f.thread == lgOff l then some 2
  else if st == 0 && makes f.entry && allCommitted s e.im makes then some 1
  else if st == 1 && lgDisp l == 3 && !recipe && (inputsOf e f.entry).contains act then some 2
  else none

/-- The ledger follows a commit (R269). -/
def moveLedger (e : Env) (f : InFlight) (s : State) : State :=
  let moved := e.im.ledger.zipIdx.foldl (fun m l =>
    match ledgerMove s e l.1 (ledgerAt s l.2).1 f with
    | none => m
    | some x => spSet l.2 (x, s.run.step) m) s.run.ledger
  { s with run := { s.run with ledger := moved } }

/-! The commit. -/

/-- A step that clips in mode 2 holds back a unit's last entry until the passes have been repeated (R220). -/
def clipHolds (s : State) (im : Image) (i : InFlight) : Bool :=
  i.kind == 5 && tStepEnd i.entry && clipMode im == 2 && reducesStep s && im.groups.any grClip &&
  !(s.update.g2.isSome && (!stepClips s im || s.update.repeats.contains i.unit))

/-- Whether a finished thread may commit: engines with one path to memory commit in issue order (R105, R119). -/
def mayCommit (s : State) (im : Image) (i : InFlight) : Bool :=
  s.run.active && i.done && tClass i.entry != 0x70 && !clipHolds s im i &&
  (!(i.kind == 1 || i.kind == 2 || i.kind == 6) || (flightOf s i.kind i.unit).head?.map (·.thread) == some i.thread)

/-- A thread leaves flight: its queue retires with its last entry, its pins go, and its counter is signalled (R120). -/
def signalThread (i : InFlight) (s0 : State) : State :=
  let s := noteLimit i s0
  let retire := fun (p : QPos) => { p with retired := p.retired || tStepEnd i.entry }
  let qs := match queueOf s i.kind i.unit with
    | some (q, _, p) => s.run.queues.set q (retire p)
    | none => s.run.queues
  let r := { s.run with
    queues := qs
    inflight := s.run.inflight.filter (fun f => f.thread != i.thread)
    threads := s.run.threads.filter (fun h => h.2.thread != i.thread || i.kind != 3)
    lends := s.run.lends.filter (fun l => !(l.1 == i.kind && l.2.1 == i.unit && tClass i.entry == 0x70)) }
  let pins := s.kv.pins.filter (fun p => p.thread != i.thread)
  let s1 := settleFrees { s with run := r, kv := { s.kv with pins := pins }, power := { s.power with idleSince := nowNs s } }
  addCtr (tSig i.entry) (tInc i.entry) s1

/-- Engines lent to an attention thread go back, and their entries commit with it (R122). -/
def commitLends (i : InFlight) (s : State) : State :=
  if i.kind != 4 then s
  else
    let ls := s.run.inflight.filter (fun f => tClass f.entry == 0x70 && lendThread (tOp f.entry) == i.thread &&
      lendAs (tOp f.entry) == i.unit)
    ls.foldl (fun s f => signalThread f s) s

/-- Everything that a thread wrote and added lands as one act. -/
def landThread (e : Env) (i : InFlight) (s : State) : State :=
  match putFault e i.writes, applyAdds e i.adds (applyWrites e i.writes s.memory) with
  | some (c, a), _ => failThread i.kind i.unit i.thread c 0 0xFFFF a s
  | _, .error (c, a) => failThread i.kind i.unit i.thread c 0 0xFFFF a s
  | none, .ok m =>
    let s1 := i.wgb.foldl (wgbApply e i.entry) { s with memory := m }
    let some_ := !(i.writes.isEmpty && i.adds.isEmpty && i.wgb.isEmpty && i.rows.isEmpty)
    let s2 := commitSlot i { s1 with
      kv := { s1.kv with masses := s1.kv.masses ++ i.masses.map (fun m => (i.thread, m.1, m.2.1, m.2.2)) }
      scales := { s1.scales with amax := noteAmax e.im i.amax s1.scales.amax }
      run := { s1.run with wrote := s1.run.wrote || some_ } }
    let s3 := commitLends i (signalThread i (noteCounts i s2))
    moveLedger e i (appendHistory e (outputsOf e (reducesStep s) i.entry) (countUnitReads s3))

/-- Commit a thread that may. -/
def commitFlight (e : Env) (i : InFlight) (s0 : State) : State :=
  if i.fail != 0 then failThread i.kind i.unit i.thread i.fail i.failCause 0xFFFF i.failAddr s0
  else
    let s := if i.kind == 4 then landCistern i e s0 else s0
    if !s.run.active || s.kv.waiting.any (fun w => w.thread == i.thread) then s
    else
      let meets := i.wgb.map (fun a => (wgbMeets s e.im a, a))
      match meets.find? (fun m => m.1 == 3), meets.find? (fun m => m.1 == 2) with
      | some _, _ => failThread i.kind i.unit i.thread 0x0406 0 0xFFFF 0 s
      | none, some (_, a) =>
        wgbBreach i.thread a.me a.slot (((slotOf s a.me a.slot).map (·.done)).getD 0) (wmAdds (mapEntryOf e.im a.me a.slot)) s
      | none, none => if meets.any (fun m => m.1 == 1) then s else landThread (envAfter e s) i s

/-- `TILE_THREAD_COMMIT`. -/
def commitSt (thread : Nat) (s : State) : State :=
  match envOf s, findFlight s thread with
  | some e, some i => if mayCommit s e.im i then commitFlight e i s else s
  | _, _ => s

end Sys2Proof.Machine
end

