-- ==== Sys2Proof/Machine/Record.lean ====
section
/-! DEFINITION. Records of a step: shard sums and amax entries, the items that carry them, and what the complete set gives: G², the clip,
the norm table, the noise statistics and the scale exchange (R65 to R68, R219, R223 to R226, R336, R337, R556). -/

namespace Sys2Proof.Machine

/-! The shards that have sums. -/

/-- Element passes of the image. -/
def elementPasses (im : Image) : List Nat :=
  ((im.queues.filter (fun q => q.kind == 5)).flatMap (·.entries)).filter (fun e => tClass e == 0x40 && uOp (tOp e) == 0x40)

/-- Weight-gradient tensors whose groups have sums, each with its collective, landing tensor and group. -/
def recordDws (im : Image) : List (Nat × Nat × Nat × Nat) :=
  ((elementPasses im).filterMap (fun e =>
    let g := groupEntry im (uGroup (tOp e))
    if grClip g || grNorms g || grNoise g then
      let g := baseOf im (uGrad (tOp e))
      (collInto im g).map (fun k => (coDw (collOf im k), k, g, uGroup (tOp e)))
    else none)).eraseDups

/-- The owner that contributes for a shard: the one listed first that is present (R219, R337). -/
def speaker (s : State) (sh : Nat) : Nat := if (goneModules s).contains (shOwner0 sh) then shOwner1 sh else shOwner0 sh

/-- Shards of a tensor, by index, for which this module contributes. -/
def spokenShards (s : State) (e : Env) (dw : Nat) : List (Nat × Nat) :=
  ((ownShards e (dOwners (descOf e.im dw))).zipIdx.filter (fun x => shOwns e.id x.1 && speaker s x.1 == e.id)).map (fun x => (x.2, x.1))

/-- Tiles of a shard, and its elements in logical order. -/
def shardTiles (sh : Nat) : List Nat := (List.range (shTiles sh)).map (shFirst sh + ·)

def shardElems (d sh : Nat) : List Nat :=
  (List.range (elemCount d)).filter (fun x => decide (shFirst sh ≤ tileOf d x) && decide (tileOf d x < shFirst sh + shTiles sh))

/-- Every chunk of a shard has landed in a step. -/
def shardLanded (s : State) (step coll sh : Nat) : Bool :=
  (shardTiles sh).all (fun t => [2 * t, 2 * t + 1].all (fun c => ((findChunk s coll c step).map (·.landed)).getD false))

/-! The sums of a shard. -/

/-- Size of the largest aligned range that starts at p and ends by q, n being the end of the whole range. -/
def alignedLen (n p q : Nat) : Nat → Nat
  | 0 => 1
  | k + 1 => if p % 2 ^ (k + 1) == 0 && (p + 2 ^ (k + 1) ≤ q || q == n && n < p + 2 ^ (k + 1) && q ≤ p + 2 ^ (k + 1)) then 2 ^ (k + 1) else alignedLen n p q k

/-- A part's sum: its largest aligned ranges, each by its subtree, from left to right (R83). -/
def partSum (vals : List FV) (q : Nat) : Nat → Nat → Option FV → Option FV
  | 0, _, acc => acc
  | k + 1, p, acc =>
    if q ≤ p then acc
    else
      let l := alignedLen vals.length p q (ceilLog2 vals.length)
      let x := sum40 ((List.range l).map (fun i => if p + i < q then vals[p + i]? else none))
      partSum vals q k (p + l) (match acc with
        | none => some x
        | some a => some (add40 a x))

/-- Whether a part is one aligned range. -/
def isAligned (n p q : Nat) : Bool := q ≤ p + alignedLen n p q (ceilLog2 n)

/-- Positions of a sorted list of elements that an entry's range covers, as start and end. -/
def rangeIn (els : List Nat) (start len : Nat) : Nat × Nat :=
  ((els.filter (· < start)).length, (els.filter (· < start + len)).length)

/-- Sum over a shard whose entries cover parts of it (R219, R83). -/
def shardTree (vals : List FV) (parts : List (Nat × Nat)) : FV :=
  if parts.all (fun p => isAligned vals.length p.1 p.2) then sum40all vals
  else sum40all (parts.filterMap (fun p => partSum vals p.2 (p.2 - p.1) p.1 none))

/-- Parts of a shard by the element passes over a landing tensor, in element order. -/
def shardParts (im : Image) (grad : Nat) (els : List Nat) : List (Nat × Nat) :=
  let rs := ((elementPasses im).filter (fun e => baseOf im (uGrad (tOp e)) == grad)).map (fun e => rangeIn els (uStart (tOp e)) (uLength (tOp e)))
  let ok := (rs.filter (fun r => r.1 < r.2)).eraseDups
  (List.range (els.length + 1)).flatMap (fun p => ok.filter (fun r => r.1 == p))

/-- G² of a shard, in P40. -/
def shardG2 (e : Env) (grad : Nat) (els : List Nat) : FV :=
  let sq := els.map (fun x => let g := valueOr (gradAt e grad x); mul40 g g)
  shardTree sq (shardParts e.im grad els)

/-- Q_s of a shard: `SSQ` of its tiles' landing records (R207, R225). -/
def shardQs (e : Env) (coll sh : Nat) : FV :=
  sum40all ((shardTiles sh).map (fun t => match recAddr e coll (2 * t) with
    | none => FV.zero
    | some a => dec40 (bits (peekN e a 32) 96 40)))

/-- Q_b of a shard: ‖S‖². -/
def shardQb (e : Env) (grad : Nat) (els : List Nat) : FV :=
  sum40all (els.map (fun x => let v := valueOr (readPlain e (descOf e.im grad) 0 x); mul40 v v))

/-- The first byte of what a shard's sums read that cannot be read (R263). -/
def sumFault (e : Env) (coll grad dw sh : Nat) : Option (Nat × Nat) :=
  match readFault e (descOf e.im grad) 0 (shardElems (descOf e.im dw) sh) with
  | some x => some x
  | none => (shardTiles sh).findSome? (fun t => (recAddr e coll (2 * t)).bind (fun a => match vaRead e.mem e.im.regions 0 a 32 with
    | .error c => some (c, a)
    | .ok _ => none))

/-- An item of shard sums (Table 12.10). -/
def sumItem (e : Env) (dw coll grad k sh : Nat) : Nat :=
  let els := shardElems (descOf e.im dw) sh
  pack [(0, 8, 1), (8, 24, dw), (32, 24, k), (64, 40, enc40 (shardG2 e grad els)), (104, 40, enc40 (shardQs e coll sh)),
        (144, 40, enc40 (shardQb e grad els))]

/-- One landing tensor per weight-gradient tensor. -/
def recordTensors (im : Image) : List (Nat × Nat × Nat × Nat) :=
  (recordDws im).foldl (fun l x => if l.any (fun y => y.1 == x.1) then l else l ++ [x]) []

/-- Every shard sum that this module contributes to a step is complete. -/
def sumsReady (s : State) (e : Env) (step : Nat) : Bool :=
  (recordTensors e.im).all (fun x => (spokenShards s e x.1).all (fun sh => shardLanded s step x.2.1 sh.2))

def sumItems (s : State) (e : Env) : List Nat :=
  (recordTensors e.im).flatMap (fun x => (spokenShards s e x.1).map (fun sh => sumItem e x.1 x.2.1 x.2.2.1 sh.1 sh.2))

/-- The first failure of what these items read. -/
def sumsFault (s : State) (e : Env) : Option (Nat × Nat) :=
  (recordTensors e.im).findSome? (fun x => (spokenShards s e x.1).findSome? (fun sh => sumFault e x.2.1 x.2.2.1 x.1 sh.2))

/-! Amax entries (R66, R67). -/

/-- Managed tensors of the image, a dual pair once. -/
def managedTensors (im : Image) : List Nat :=
  ((List.range im.descs.length).map (· + 1)).filter (fun i => dKind (descOf im i) == 0 && managed (descOf im i) && pairKey im i == i)

/-- Managed tensors that the step produces. -/
def producedTensors (s : State) (im : Image) : List Nat :=
  (((im.queues.flatMap (·.entries)).flatMap (outputsOf { mem := s.memory, im := im, ver := s.versions, id := 0, seed := 0, step := 0 } (reducesStep s))).map
    (pairKey im)).eraseDups.filter (fun k => managed (descOf im k))

/-- The produced tensors' entries have been appended. -/
def amaxReady (s : State) (im : Image) : Bool := (producedTensors s im).all s.scales.appended.contains

/-- Entries beyond `EXCHANGED`, oldest first, and the ring index of the j-th. -/
def newEntries (e : Env) (d : Nat) : Nat := histCount e d - histExchanged e d
def ringAt (e : Env) (d j : Nat) : Nat := (histHead e d + 32 - newEntries e d + j) % 16
def ringEntry (e : Env) (d r : Nat) : Nat := peekN e (dAux d + 16 + 4 * r) 4

/-- Amax items of a module; the index of an entry is its place in the ring (Table 3.3; DEDUCED, log entry 98). -/
def amaxItems (e : Env) : List Nat :=
  (managedTensors e.im).flatMap (fun i =>
    let d := descOf e.im i
    (List.range (newEntries e d)).map (fun j =>
      let r := ringAt e d j
      pack [(0, 8, 2), (32, 32, dTid d), (64, 4, r), (68, 32, ringEntry e d r)]))

/-- What an exchange takes, at the send of the items: each managed tensor with new entries, their number, the ring's head, and the `COUNT`
entries held, oldest first (R67). -/
def scaleSnap (e : Env) : List (Nat × Nat × Nat × List Nat) :=
  ((managedTensors e.im).filter (fun i => newEntries e (descOf e.im i) != 0)).map (fun i =>
    let d := descOf e.im i
    let c := histCount e d
    (i, newEntries e d, histHead e d, (List.range c).map (fun j => ringEntry e d ((histHead e d + 32 - c + j) % 16))))

/-- The exchange of a tensor's entries with the reduced ones, and its new T, which waits for the next step's first conversion (R67, R68).
Entries that the next step has appended since the send stay unexchanged and out of A (log entry 98). -/
def exchangeTensor (reduced : Nat → Nat → Nat) (x : Nat × Nat × Nat × List Nat) (s : State) : State :=
  match envOf s with
  | none => s
  | some e =>
    let (i, n, head, vals) := x
    let d := descOf e.im i
    let later := (histHead e d + 16 - head) % 16
    let at_ := fun j => (head + 32 - n + j) % 16
    let red := fun j => fvMax (dec32 (vals.getD (vals.length - n + j) 0)) (dec32 (reduced (dTid d) (at_ j)))
    let m1 := ((List.range n).filter (fun j => n + later ≤ 16 + j)).foldl (fun m j =>
      vaPut m e.im.regions (dAux d + 16 + 4 * at_ j) (leBytes 4 (encodeFlt fp32 (red j)))) s.memory
    let m2 := vaPut m1 e.im.regions (dAux d + 10) (leBytes 1 (histCount e d - later))
    let a := (((vals.take (vals.length - n)).map dec32) ++ (List.range n).map red).foldl fvMax FV.zero
    let t := newScale (dFmt d) (dHead d) (scaleT e d) a
    { s with memory := m2, scales := { s.scales with
        nextScale := spSet i t s.scales.nextScale, exchanged := (s.scales.exchanged ++ [i]).eraseDups } }

def exchangeAll (reduced : Nat → Nat → Nat) (l : List (Nat × Nat × Nat × List Nat)) (s : State) : State :=
  l.foldl (fun t x => exchangeTensor reduced x t) s

/-- The module's own entries are the reduced ones (R556). -/
def exchangeLocal (s : State) : State :=
  match envOf s with
  | none => s
  | some e => match historyFault e (managedTensors e.im) with
  | some (c, a) => failBytes c a 1 s
  | none => exchangeAll (fun _ _ => 0) (scaleSnap e) s

/-! What the sums give. -/

/-- Items of sums, one for each tensor and shard, in order of tensor and then shard (R337). -/
def sortedSums (items : List Nat) : List Nat :=
  let key := fun (x : Nat) => bits x 8 24 * 2 ^ 24 + bits x 32 24
  let m : Sp Nat := (items.filter (fun x => bits x 0 8 == 1)).foldl (fun m x => if (spGet? (key x) m).isSome then m else spSet (key x) x m) []
  m.map (·.2)

/-- Groups of a tensor as this module's own entries give them. -/
def groupsOfDw (im : Image) (dw : Nat) : List Nat := ((recordDws im).filter (fun x => x.1 == dw)).map (·.2.2.2)

/-- A sum enters the global norm; one of a tensor that no entry here updates does (log entry 26). -/
def entersNorm (im : Image) (x : Nat) : Bool :=
  let gs := groupsOfDw im (bits x 8 24)
  gs.isEmpty || gs.any (fun g => grClip (groupEntry im g))

def sumField (lo : Nat) (l : List Nat) : FV := sum40all (l.map (fun x => dec40 (bits x lo 40)))

/-- Change a norm entry for a step; figures of an earlier step lose their valid bits. -/
def noteNorm (g step : Nat) (f : NormEntry → NormEntry) (s : State) : State :=
  let fresh := fun (n : NormEntry) => if n.step == step then n else { n with step := step, wValid := false, gValid := false, uValid := false, rValid := false }
  { s with update := { s.update with norms := s.update.norms.map (fun n => if n.group == g then f (fresh n) else n) } }

/-- Where n_r stands in the landing records held here of a group's tensors, for every shard that this module owns. -/
def noiseRecords (e : Env) (g : Nat) : List (Nat × Nat) :=
  ((recordTensors e.im).filter (fun x => x.2.2.2 == g)).flatMap (fun x =>
    ((ownShards e (dOwners (descOf e.im x.1))).filter (shOwns e.id)).flatMap (fun sh => (shardTiles sh).flatMap (fun t => [2 * t, 2 * t + 1].flatMap (fun c =>
      (recAddr e x.2.1 c).toList.map (·, 4)))))

/-- n_r of a group's sample: the number that the landing records held here, those of every shard that this module owns, agree on, else an open
one (log entry 54). -/
def noiseNr (e : Env) (g : Nat) : Nat :=
  let ns := (noiseRecords e g).map (fun r => bits (peekN e r.1 4) 0 21)
  match ns.eraseDups with
  | [n] => n
  | _ => Config.noiseCount ns

/-- Raw estimates of R225, in FP64 and rounded once to FP32: G2 and TR. -/
def noiseRaw (b nr : Nat) (qs qb : FV) : FV × FV :=
  let bs := fvNat b
  let bl := fvNat (b * nr)
  let small := r64 (fvDiv qs (r64 (fvMul (fvNat nr) (r64 (fvMul bs bs)))))
  let big := r64 (fvDiv qb (r64 (fvMul bl bl)))
  let g2 := r64 (fvDiv (r64 (fvSub (r64 (fvMul bl big)) (r64 (fvMul bs small)))) (r64 (fvSub bl bs)))
  let tr := r64 (fvDiv (r64 (fvSub small big)) (r64 (fvSub (r64 (fvDiv FV.one bs)) (r64 (fvDiv FV.one bl)))))
  (r32 g2, r32 tr)

/-- A running estimate after a sample (R226). -/
def runningEst (first : Bool) (k : Nat) (est raw : FV) : FV :=
  if first then raw else add32 est (r32 (fvScale (-(k : Int)) (r32 (fvSub raw est))))

/-- A noise entry after a sample. -/
def noiseSample (k step b nr : Nat) (qs qb : FV) (n : NoiseEntry) : NoiseEntry :=
  let raw := noiseRaw b nr qs qb
  let g2 := runningEst (n.samples == 0) k (dec32 n.g2) raw.1
  let tr := runningEst (n.samples == 0) k (dec32 n.tr) raw.2
  { n with
    samples := min 255 (n.samples + 1), step := step, g2 := enc32 g2, tr := enc32 tr, rawG2 := enc32 raw.1, rawTr := enc32 raw.2
    bNoise := if fvLe g2 FV.zero then 0 else enc32 (fvDiv tr g2) }

/-- A group's noise sample of a step, none where n_r is 1. -/
def noteNoise (e : Env) (step : Nat) (items : List Nat) (g : Nat) (s : State) : State :=
  let mine := items.filter (fun x => (groupsOfDw e.im (bits x 8 24)).contains g)
  let nr := noiseNr e g
  if mine.isEmpty then s
  else match rangesFault e.mem e.im.regions (noiseRecords e g) with
  | some (c, a) => failBytes c a 1 s
  | none => if nr ≤ 1 then s else { s with update := { s.update with noise := s.update.noise.map (fun n =>
      if n.group == g then noiseSample (bits e.im.groupHead 52 3) step (grSmall (groupEntry e.im g)) nr (sumField 104 mine) (sumField 144 mine) n else n) } }

/-- RATIO from the other two norms of one step. -/
def noteRatio (n : NormEntry) : NormEntry :=
  if n.wValid && n.uValid && !fvIsZero (dec32 n.wNorm) then { n with rValid := true, ratio := enc32 (fvDiv (dec32 n.uNorm) (dec32 n.wNorm)) }
  else { n with rValid := false }

/-- G², the clip, the gradient norms and the noise statistics from the complete sums (R219, R223, R225). -/
def applySums (all : List Nat) (step : Nat) (s : State) : State :=
  match envOf s with
  | none => s
  | some e =>
    let items := sortedSums all
    let g2 := sumField 64 (items.filter (entersNorm e.im))
    let c := clipOf e.im g2
    let u := s.update
    let s1 := { s with update := { u with
      g2 := if step == s.run.step then some (enc40 g2) else u.g2
      clip := if step == s.run.step then enc32 c else u.clip
      normStep := step, gGlobal := enc32 (fvSqrt g2), clipC := enc32 c
      clips := if fvLt c FV.one then (u.clips + 1) % 2 ^ 32 else u.clips
      valid := true } }
    let groups := (List.range e.im.groups.length)
    let s2 := groups.foldl (fun t g =>
      let mine := items.filter (fun x => (groupsOfDw e.im (bits x 8 24)).contains g)
      if mine.isEmpty then t
      else noteNorm g step (fun n => { n with gValid := true, gNorm := enc32 (fvSqrt (sumField 64 mine)) }) t) s1
    if bitAt e.im.groupHead 50 then groups.foldl (fun t g => if grNoise (groupEntry e.im g) then noteNoise e step items g t else t) s2 else s2

/-! The step image without a record collective (R556). -/

def hasRecordColl (im : Image) : Bool := im.car.colls.any (fun c => coKind c == 2)

/-- The module's own sums are the complete set, from the moment that they are complete. -/
def localSums (s : State) : State :=
  match envOf s with
  | none => s
  | some e =>
    if !s.run.active || !s.run.begun || hasRecordColl e.im || !reducesStep s || s.update.g2.isSome || e.im.groups.isEmpty || !sumsReady s e s.run.step then s
    else
      match sumsFault s e with
      | some (c, a) => failBytes c a 1 s
      | none => applySums (sumItems s e) s.run.step s

def execTileThreadCommit (thread : Nat) (s : State) : Host.Outcome State Fault Refusal := .next (commitSt thread (localSums s))
def execElementPass (uu : Nat) (s : State) : Host.Outcome State Fault Refusal := .next (updSt 0x40 uu (localSums s))
def execFactorPass (uu : Nat) (s : State) : Host.Outcome State Fault Refusal := .next (updSt 0x41 uu (localSums s))
def execRepeatedElementPasses (uu : Nat) (s : State) : Host.Outcome State Fault Refusal := .next (repeatSt uu (localSums s))

/-! Record collectives (R336, R337). -/

/-- Items are kept with the module that sent them. -/
def tagItem (src x : Nat) : Nat := x + src * 2 ^ 256
def itemSrc (x : Nat) : Nat := x >>> 256
def itemBody (x : Nat) : Nat := x % 2 ^ 256

/-- Frames of items (Table 12.16), from a frame number on. -/
def recordFrames (s : State) (im : Image) (coll step : Nat) : Nat → Nat → List Nat → List (Option Nat × Frame)
  | 0, _, _ => []
  | k + 1, seq, items =>
    let last := items.length ≤ 286
    (none, mkFrame s.fabric 7 true (coMcast (collOf im coll)) 0
      [(128, 8, 1), (136, 12, coll), (148, 2, step), (150, 1, b2n last), (151, 16, seq)] ((items.take 286).flatMap (leBytes 32))) ::
      (if last then [] else recordFrames s im coll step k (seq + 1) (items.drop 286))

/-- Frames of a source are all in: numbers from 0 to that of a last one. -/
def sourceDone (c : CollRt) (src : Nat) : Bool :=
  c.frames.any (fun f => f.1 == src && f.2.2 && (List.range f.2.1).all (fun n => c.frames.any (fun g => g.1 == src && g.2.1 == n)))

/-- Shards of a lost owner listed first, whose twin is present, with their tensors: their sums come from the twin. -/
def twinDue (s : State) (e : Env) : List (Nat × Nat) :=
  (recordTensors e.im).flatMap (fun x => (((ownShards e (dOwners (descOf e.im x.1))).zipIdx.filter (fun sh =>
    (goneModules s).contains (shOwner0 sh.1) && shOwner1 sh.1 != 0xFFFF && !(goneModules s).contains (shOwner1 sh.1))).map (fun sh => (x.1, sh.2))))

/-- Every item due has come. -/
def itemsComplete (s : State) (e : Env) (c : CollRt) : Bool :=
  c.itemsSent &&
  (membersOf e.im c.coll).all (fun m => m == e.id || (goneModules s).contains m || sourceDone c m) &&
  (twinDue s e).all (fun x => c.items.any (fun i => bits i 0 8 == 1 && bits i 8 24 == x.1 && bits i 32 24 == x.2))

/-- The reduced amax entry of a tensor: the largest of the present members' items. -/
def reducedAmax (s : State) (items : List Nat) (tid j : Nat) : Nat :=
  encodeFlt fp32 (((items.filter (fun x => !(goneModules s).contains (itemSrc x) && bits x 0 8 == 2 && bits x 32 32 == tid && bits x 64 4 == j)).map
    (fun x => dec32 (bits x 68 32))).foldl fvMax FV.zero)

/-- On the complete set, everything that the records give. -/
def finishItems (coll step : Nat) (s : State) : State :=
  match envOf s, findColl s coll step with
  | some e, some c =>
    if c.complete || !itemsComplete s e c then s
    else
      let s1 := modColl coll step (fun c => { c with complete := true }) s
      exchangeAll (reducedAmax s c.items) c.snap (applySums (c.items.map itemBody) step s1)
  | _, _ => s

/-- After a loss, the twin sends the sums of the lost owner's shards that have landed and that it has not sent, in further frames (R337). -/
def twinItems (coll step : Nat) (s : State) : State :=
  match envOf s, findColl s coll step with
  | some e, some c =>
    if coKind (collOf e.im coll) != 2 || !c.itemsSent || c.complete then s
    else
      match sumsFault s e with
      | some (k, a) => failBytes k a 1 s
      | none =>
      let sent := fun (dw k : Nat) => c.items.any (fun i => itemSrc i == e.id && bits i 0 8 == 1 && bits i 8 24 == dw && bits i 32 24 == k)
      let items := (recordTensors e.im).flatMap (fun x => ((spokenShards s e x.1).filter (fun sh =>
        (goneModules s).contains (shOwner0 sh.2) && shardLanded s step x.2.1 sh.2 && !sent x.1 sh.1)).map (fun sh => sumItem e x.1 x.2.1 x.2.2.1 sh.1 sh.2))
      let s1 := modColl coll step (fun c => { c with items := c.items ++ items.map (tagItem e.id) }) s
      let sent := ceilDiv (c.items.filter (fun x => itemSrc x == e.id)).length 286
      let s2 := if items.isEmpty then s1 else sendOrFail (recordFrames s1 e.im coll step (items.length + 1) (max 1 sent) items) s1
      finishItems coll step s2
  | _, _ => s

/-- `RECORD_ITEMS_SEND`: the oldest launched record of a collective whose own items have not gone, once they are complete; where all have
gone, the sums that a loss has left to this module. -/
def recordItemsSt (coll : Nat) (s : State) : State :=
  match envOf s, s.reductions.colls.find? (fun c => c.coll == coll && c.launched && !c.itemsSent) with
  | some e, some c =>
    let st := c.step
    if coKind (collOf e.im coll) != 2 || !s.run.active || !sumsReady s e st || !(stepOver s st || amaxReady s e.im) then s
    else
      match (sumsFault s e).orElse (fun _ => historyFault e (managedTensors e.im)) with
      | some (c, a) => failBytes c a 1 s
      | none =>
      let items := sumItems s e ++ amaxItems e
      let s1 := modColl coll st (fun c => { c with itemsSent := true, snap := scaleSnap e, items := c.items ++ items.map (tagItem e.id) }) s
      finishItems coll st (sendOrFail (recordFrames s1 e.im coll st (items.length + 1) 0 items) s1)
  | some _, none => match s.reductions.colls.find? (fun c => c.coll == coll && c.launched && !c.complete) with
    | some c => if s.run.active then twinItems coll c.step s else s
    | none => s
  | _, _ => s

/-- Items of a frame; those of an unassigned kind are refused and counted. -/
def frameItems (f : Frame) : List Nat := cutNats 32 (f.payload.length / 32) f.payload

/-- `NORM_REC`. -/
def normRecSt (f : Frame) (s : State) : State :=
  match s.image with
  | none => takeFrame f (discardOn (portOf s f) s)
  | some im =>
    let coll := tsp f 136 12
    let step := stepOf2 s (tsp f 148 2)
    if f.ftype != 7 || tsp f 128 8 != 1 || !s.run.active || coKind (collOf im coll) != 2 || !(membersOf im coll).contains f.src then
      takeFrame f (discardOn (portOf s f) s)
    else
      let s1 := ensureColl coll step s
      match findColl s1 coll step with
      | none => s
      | some c =>
        if c.frames.any (fun x => x.1 == f.src && x.2.1 == tsp f 151 16) then duplicate f s1
        else
          let all := frameItems f
          let good := all.filter (fun x => bits x 0 8 == 1 || bits x 0 8 == 2)
          let port := portOf s f
          let s2 := (List.range (all.length - good.length)).foldl (fun t _ => discardOn port t) s1
          let s3 := modColl coll step (fun c => { c with
            frames := c.frames ++ [(f.src, tsp f 151 16, tsp f 150 1 == 1)], items := c.items ++ good.map (tagItem f.src) }) s2
          finishItems coll step (takeFrame f s3)

def execRecordItemsSend (coll : Nat) (s : State) : Host.Outcome State Fault Refusal := .next (recordItemsSt coll s)
def execNormRec (f : Frame) (s : State) : Host.Outcome State Fault Refusal := .next (ofType f 7 (some (8, 1)) (normRecSt f s) s)

end Sys2Proof.Machine
end

