-- ==== Sys2Proof/Machine/General.lean ====
section
/-! DEFINITION. General cores: tile threads on hardware threads, and the module's own instructions (R137 to R143). -/

namespace Sys2Proof.Machine

/-- Key of a hardware thread. -/
def htKey (gc ht : Nat) : Nat := 8 * gc + ht

/-- A hardware thread that runs a tile thread and stalls on no wait instruction. -/
def htRuns (s : State) (gc ht : Nat) : Option HThread :=
  if !s.run.active || 8 ≤ ht then none
  else
    match spGet? (htKey gc ht) s.run.threads with
    | none => none
    | some h => if h.waitCtr.isNone && h.waitCar.isNone then some h else none

def setHt (gc ht : Nat) (h : HThread) (s : State) : State := { s with run := { s.run with threads := spSet (htKey gc ht) h s.run.threads } }

/-- An integer register; x0 reads zero. -/
def xReg (h : HThread) (r : Nat) : Nat := if r == 0 then 0 else h.x.getD r 0

/-- Write an integer register; a write to x0 is dropped. -/
def setX (h : HThread) (r v : Nat) : HThread := if r == 0 then h else { h with x := h.x.set r (v % 2 ^ 64) }

/-- An instruction retires. -/
def retireIns (h : HThread) : HThread := { h with pc := (h.pc + 4) % 2 ^ 64, instret := (h.instret + 1) % 2 ^ 64 }

/-- A core issues an instruction of a hardware thread: it looks for the next one from the thread behind it (R138). -/
def issued (gc ht : Nat) (s : State) : State := { s with run := { s.run with htNext := spSet gc ((ht + 1) % 8) s.run.htNext } }

/-- Registers at the start of a tile thread (R138). DESIGN CHOICE (log entry 62): the spec gives `cycle` and `instret` no start value; both start
at 0 with the thread. -/
def startThread (ent : Nat) : HThread :=
  let o := tOp ent
  { thread := tThread ent, pc := bits o 0 64,
    x := (((List.replicate 32 0).set 10 (bits o 64 64)).set 11 (bits o 128 64)).set 12 (bits o 192 64) |>.set 13 (tThread ent),
    f := List.replicate 32 0, v := List.replicate 32 0, fcsr := 0, vcsr := 0, vl := 0, vtype := 0, vstart := 0, cycle := 0, instret := 0,
    waitCtr := none, waitCar := none, adds := [], resv := none }

/-- `CORE`: an entry goes to the lowest free hardware thread. -/
def coreSt (gc : Nat) (s : State) : State :=
  match headOfClass s 3 gc 0x20 (fun _ => true), (List.range 8).find? (fun ht => (spGet? (htKey gc ht) s.run.threads).isNone) with
  | some (qi, i, ent), some ht => setHt gc ht (startThread ent) (issue 3 gc qi i ent s)
  | _, _ => s

/-- A core exception: the thread, the program counter and the cause are logged, and the command fails (R141, R241). -/
def coreFault (gc : Nat) (h : HThread) (cause : Nat) (s : State) : State := failThread 3 gc h.thread 0x0404 cause 0xFFFF h.pc s

/-- `TT.FENCE`: every store and atomic of the thread is visible already. -/
def fenceSt (gc ht : Nat) (s : State) : State :=
  match htRuns s gc ht with
  | none => s
  | some h => setHt gc ht (retireIns h) (issued gc ht s)

/-- `CTR.WAIT`. A counter that does not exist reads 0. -/
def ctrWaitSt (gc ht rs1 rs2 : Nat) (s : State) : State :=
  match htRuns s gc ht with
  | none => s
  | some h =>
    let c := xReg h rs1
    let v := xReg h rs2 % 2 ^ 32
    if v ≤ ctrAt s c then setHt gc ht (retireIns h) (issued gc ht s) else setHt gc ht { h with waitCtr := some (c, v) } (issued gc ht s)

/-- The wait of `CTR.WAIT` ends. -/
def ctrWaitEndSt (gc ht : Nat) (s : State) : State :=
  match spGet? (htKey gc ht) s.run.threads with
  | none => s
  | some h =>
    match h.waitCtr with
    | none => s
    | some (c, v) => if s.run.active && v ≤ ctrAt s c then setHt gc ht (retireIns { h with waitCtr := none }) s else s

/-- Departure time of an entry in the current step, in ns. -/
def departedAt (s : State) (k : Nat) : Option Nat :=
  (s.reductions.departures.find? (fun d => d.1 == k && d.2.1 == s.run.step)).map (·.2.2)

/-- `CAR.WAIT`. -/
def carWaitSt (gc ht rs1 rd : Nat) (s : State) : State :=
  match htRuns s gc ht with
  | none => s
  | some h =>
    let k := xReg h rs1
    match departedAt s k with
    | some t => setHt gc ht (retireIns (setX h rd t)) (issued gc ht s)
    | none => setHt gc ht { h with waitCar := some (k, rd) } (issued gc ht s)

/-- The wait of `CAR.WAIT` ends. -/
def carWaitEndSt (gc ht : Nat) (s : State) : State :=
  match spGet? (htKey gc ht) s.run.threads with
  | none => s
  | some h =>
    match h.waitCar with
    | none => s
    | some (k, rd) =>
      match s.run.active, departedAt s k with
      | true, some t => setHt gc ht (retireIns (setX { h with waitCar := none } rd t)) s
      | _, _ => s

/-- The address of an element or of the first byte of its block; none outside the shape, for padding or a zero tile, and for a tile that
is not held here (R139, R245). -/
def xltAddr (e : Env) (i x : Nat) : Option Nat :=
  let d := descOf e.im i
  if i == 0 || e.im.descs.length < i then none
  else if dKind d == 1 then
    let w := dRecord d
    let cols := if wMode w == 1 then wTaps w * wCCnt w else wK w
    let m := x / cols
    let k := x % cols
    let tc := if wMode w == 1 then (k / wCCnt w, wCOff w + k % wCCnt w) else wTapChan w k
    if wRows e.im w ≤ m then none
    else (wIndex e.im w m tc.1 tc.2).bind (elemAddr e (descOf e.im (wSrc w)) (curHalf e (wSrc w)))
  else if elemCount d ≤ x then none
  else
    match locate e d x with
    | .ok (some (sd, k)) => elemAddr e sd (if dKind d == 0 then curHalf e i else curHalf e (gSrc (dRecord d))) k
    | _ => none

/-- `DESC.XLT`. -/
def descXltSt (gc ht rs1 rs2 rd : Nat) (s : State) : State :=
  match htRuns s gc ht, envOf s with
  | some h, some e =>
    setHt gc ht (retireIns (setX h rd ((xltAddr e (xReg h rs1) (xReg h rs2)).getD (2 ^ 64 - 1)))) (issued gc ht s)
  | _, _ => s

/-- The total that the module has recorded for a tile thread and a counter (R143). -/
def recordedTotal (s : State) (thread c : Nat) : Nat := spGet 0 c (spGet [] thread s.run.totals)

/-- Add to a counter from a core: the fifth distinct counter faults, and a replayed thread adds only what goes beyond the total that
the module has recorded. -/
def coreCount (gc ht : Nat) (h : HThread) (c v rd : Nat) (s : State) : State :=
  if (spGet? c h.adds).isNone && 4 ≤ h.adds.length then coreFault gc h 2 s
  else
    let mine := spGet 0 c h.adds + v
    let rec_ := recordedTotal s h.thread c
    let extra := mine - rec_
    let h1 := retireIns (setX { h with adds := spSet c mine h.adds } rd 0)
    let totals := spSet h.thread (spSet c (max mine rec_) (spGet [] h.thread s.run.totals)) s.run.totals
    addCtr c extra { setHt gc ht h1 s with run := { (setHt gc ht h1 s).run with totals := totals } }

/-- A store of a core ends every reservation that it overlaps. -/
def breakResv (a n : Nat) (s : State) : State :=
  { s with run := { s.run with threads := s.run.threads.map (fun t => (t.1, match t.2.resv with
      | none => t.2
      | some r => if a < r.1 + r.2.1 && r.1 < a + n then { t.2 with resv := none } else t.2)) } }

/-- `AMOADD.W`: to the counter window, or to memory. -/
def amoaddSt (gc ht rs1 rs2 rd : Nat) (s0 : State) : State :=
  match htRuns s0 gc ht with
  | none => s0
  | some h =>
    let s := issued gc ht s0
    let a := xReg h rs1
    let v := xReg h rs2 % 2 ^ 32
    match regionAt (regionsOf s) a with
    | none => coreFault gc h 3 s
    | some r =>
      if a % 4 != 0 then coreFault gc h 2 s
      else if rgRights r &&& 3 != 3 then coreFault gc h 4 s
      else if rgTier r == 3 then
        let c := (rgPbase r + (a - rgBase r)) / 4
        if 65535 ≤ c then coreFault gc h 2 s else coreCount gc ht h c v rd s
      else
        match vaRead s.memory (regionsOf s) 3 a 4 with
        | .error c => if c == 0x0303 then coreFault gc h 3 s else if c == 0x0304 then coreFault gc h 4 s
            else failThread 3 gc h.thread c 0 0xFFFF a s
        | .ok l =>
          let old := ofLe l
          let s1 := { s with memory := vaPut s.memory (regionsOf s) a (leBytes 4 (old + v)) }
          breakResv a 4 (setHt gc ht (retireIns (setX h rd (ofSigned 64 (toSigned 32 old)))) s1)

/-- `ECALL`: with a7 = 0 the thread ends and commits (R140); any other value is an exception. -/
def ecallSt (gc ht : Nat) (s0 : State) : State :=
  match htRuns s0 gc ht, envOf s0 with
  | some h, some e =>
    let s := issued gc ht s0
    if xReg h 17 != 0 then coreFault gc h 2 s
    else
      match findFlight s h.thread with
      | none => s
      | some i => commitFlight e { i with done := true } s
  | _, _ => s0

def execCore (gc : Nat) (s : State) : Host.Outcome State Fault Refusal := .next (coreSt gc s)
def execTtFence (gc ht : Nat) (s : State) : Host.Outcome State Fault Refusal := .next (fenceSt gc ht s)
def execCtrWait (gc ht rs1 rs2 : Nat) (s : State) : Host.Outcome State Fault Refusal := .next (ctrWaitSt gc ht rs1 rs2 s)
def execCtrWaitEnd (gc ht : Nat) (s : State) : Host.Outcome State Fault Refusal := .next (ctrWaitEndSt gc ht s)
def execCarWait (gc ht rs1 rd : Nat) (s : State) : Host.Outcome State Fault Refusal := .next (carWaitSt gc ht rs1 rd s)
def execCarWaitEnd (gc ht : Nat) (s : State) : Host.Outcome State Fault Refusal := .next (carWaitEndSt gc ht s)
def execDescXlt (gc ht rs1 rs2 rd : Nat) (s : State) : Host.Outcome State Fault Refusal := .next (descXltSt gc ht rs1 rs2 rd s)
def execAmoaddW (gc ht rs1 rs2 rd : Nat) (s : State) : Host.Outcome State Fault Refusal := .next (amoaddSt gc ht rs1 rs2 rd s)
def execEcall (gc ht : Nat) (s : State) : Host.Outcome State Fault Refusal := .next (ecallSt gc ht s)

end Sys2Proof.Machine
end

