-- ==== Sys2Proof/Machine/RvFloat.lean ====
section
/-! DEFINITION. RISC-V floating point of the general cores (R137, R141): the F and D operations with their five rounding modes and their
flags. PRESUMED (log entry 62): the spec names the extensions and leaves their content to the RISC-V specification. -/

namespace Sys2Proof.Machine

/-- Flags of `fflags`: inexact 1, underflow 2, overflow 4, division by zero 8, invalid 16. -/
structure FRes where
  v : Nat
  fl : Nat
  deriving DecidableEq, Repr

/-- The coefficient of m × 2^e as a multiple of 2^q under a rounding mode: 0 nearest even, 1 toward zero, 2 down, 3 up, 4 nearest away,
and 6 to odd. -/
def rvRoundQ (rm : Nat) (neg : Bool) (m : Nat) (e q : Int) : Nat × Bool :=
  if q ≤ e then (m <<< (e - q).toNat, false)
  else
    let s := (q - e).toNat
    let lo := m >>> s
    let rem := m % 2 ^ s
    let up := if rm == 0 then 2 * rem > 2 ^ s || (2 * rem == 2 ^ s && lo % 2 == 1)
      else if rm == 2 then neg && rem != 0
      else if rm == 3 then !neg && rem != 0
      else if rm == 4 then 2 ^ s ≤ 2 * rem
      else if rm == 6 then rem != 0 && lo % 2 == 0
      else false
    (if up then lo + 1 else lo, rem != 0)

/-- Beyond the largest finite number a mode gives infinity, or the largest finite number. -/
def rvOverflow (f : Flt) (rm : Nat) (neg : Bool) : Nat :=
  let inf := rm == 0 || rm == 4 || (rm == 2 && neg) || (rm == 3 && !neg)
  (b2n neg <<< (f.eb + f.fb)) + ((2 ^ f.eb - 1) <<< f.fb) - (if inf then 0 else 1)

/-- Round to a format: the encoding and the flags. Tininess is detected after rounding. -/
def rvRound (f : Flt) (rm : Nat) : FV → FRes
  | .nan => ⟨encodeFlt f .nan, 0⟩
  | .inf n => ⟨encodeFlt f (.inf n), 0⟩
  | .num n m e =>
    if m == 0 then ⟨encodeFlt f (.num n 0 0), 0⟩
    else
      let q := max (leadExp m e) (minExp f) - f.fb
      let c := rvRoundQ rm n m e q
      if c.1 != 0 && maxExp f < leadExp c.1 q then ⟨rvOverflow f rm n, 5⟩
      else
        let q1 := leadExp m e - f.fb
        let tiny := leadExp (rvRoundQ rm n m e q1).1 q1 < minExp f
        ⟨encodeFlt f (.num n c.1 q), if c.2 then (if tiny then 3 else 1) else 0⟩

def rvIsNan (f : Flt) (w : Nat) : Bool := fvIsNan (decodeFlt f w)
def rvIsSnan (f : Flt) (w : Nat) : Bool := rvIsNan f w && !bitAt w (f.fb - 1)
def rvNan (f : Flt) : Nat := encodeFlt f .nan

/-- A result, or the canonical NaN: invalid where an operand signals, or where numbers give none. -/
def rvNanOr (f : Flt) (ops : List Nat) (bad : Bool) (r : FRes) : FRes :=
  if ops.any (rvIsSnan f) || bad then ⟨rvNan f, 16⟩
  else if ops.any (rvIsNan f) then ⟨rvNan f, 0⟩
  else r

/-- The exact sum of two numbers; an exact zero of opposite signs is -0 when rounding down. -/
def rvSum (rm : Nat) (a b : FV) : FV :=
  match fvAdd a b with
  | .num n m e => if m == 0 && fvNegB a != fvNegB b then .num (rm == 2) 0 0 else .num n m e
  | v => v

def rvAddV (f : Flt) (rm : Nat) (ops : List Nat) (a b : FV) : FRes :=
  rvNanOr f ops (fvIsInf a && fvIsInf b && fvNegB a != fvNegB b) (rvRound f rm (rvSum rm a b))

def rvAdd (f : Flt) (rm a b : Nat) : FRes := rvAddV f rm [a, b] (decodeFlt f a) (decodeFlt f b)
def rvSub (f : Flt) (rm a b : Nat) : FRes := rvAddV f rm [a, b] (decodeFlt f a) (fvNeg (decodeFlt f b))

/-- Infinity times zero. -/
def rvBadMul (a b : FV) : Bool := (fvIsInf a && fvIsZero b) || (fvIsZero a && fvIsInf b)

def rvMul (f : Flt) (rm a b : Nat) : FRes :=
  let x := decodeFlt f a
  let y := decodeFlt f b
  rvNanOr f [a, b] (rvBadMul x y) (rvRound f rm (fvMul x y))

def rvDiv (f : Flt) (rm a b : Nat) : FRes :=
  let x := decodeFlt f a
  let y := decodeFlt f b
  let r := rvRound f rm (fvDiv x y)
  rvNanOr f [a, b] ((fvIsInf x && fvIsInf y) || (fvIsZero x && fvIsZero y))
    (if fvIsZero y && fvFinite x then ⟨r.v, 8⟩ else r)

def rvSqrt (f : Flt) (rm a : Nat) : FRes :=
  let x := decodeFlt f a
  rvNanOr f [a] (fvNegB x && !fvIsZero x) (rvRound f rm (fvSqrt x))

/-- Fused a × b + c, with the signs of the product and of the addend changed as asked. Infinity times zero is invalid whatever c is. -/
def rvFma (f : Flt) (rm : Nat) (negP negC : Bool) (a b c : Nat) : FRes :=
  let x := decodeFlt f a
  let y := decodeFlt f b
  let z := if negC then fvNeg (decodeFlt f c) else decodeFlt f c
  let p := if negP then fvNeg (fvMul x y) else fvMul x y
  rvNanOr f [a, b, c] (rvBadMul x y || (fvIsInf p && fvIsInf z && fvNegB p != fvNegB z)) (rvRound f rm (rvSum rm p z))

/-- The lesser or the greater; one NaN gives the other operand, and -0 lies below +0. -/
def rvMinMax (f : Flt) (mx : Bool) (a b : Nat) : FRes :=
  let fl := if rvIsSnan f a || rvIsSnan f b then 16 else 0
  if rvIsNan f a && rvIsNan f b then ⟨rvNan f, fl⟩
  else if rvIsNan f a then ⟨b, fl⟩
  else if rvIsNan f b then ⟨a, fl⟩
  else
    let x := decodeFlt f a
    let y := decodeFlt f b
    let aFirst := fvLt x y || (fvEq x y && fvNegB x)
    ⟨if aFirst != mx then a else b, fl⟩

/-- Comparisons: equal is quiet, less and less or equal signal on any NaN. -/
def rvFeq (f : Flt) (a b : Nat) : FRes :=
  ⟨b2n (fvEq (decodeFlt f a) (decodeFlt f b)), if rvIsSnan f a || rvIsSnan f b then 16 else 0⟩
def rvFlt (f : Flt) (a b : Nat) : FRes :=
  ⟨b2n (fvLt (decodeFlt f a) (decodeFlt f b)), if rvIsNan f a || rvIsNan f b then 16 else 0⟩
def rvFle (f : Flt) (a b : Nat) : FRes :=
  ⟨b2n (fvLe (decodeFlt f a) (decodeFlt f b)), if rvIsNan f a || rvIsNan f b then 16 else 0⟩

/-- Sign injection: 0 the sign of b, 1 its opposite, 2 the two signs combined. -/
def rvSgnj (f : Flt) (k a b : Nat) : Nat :=
  let w := f.eb + f.fb
  let s := if k == 0 then bitAt b w else if k == 1 then !bitAt b w else bitAt a w != bitAt b w
  a % 2 ^ w + (b2n s <<< w)

/-- The class of a number, one bit of ten. -/
def rvClass (f : Flt) (a : Nat) : Nat :=
  let sub := bits a f.fb f.eb == 0
  match decodeFlt f a with
  | .nan => if rvIsSnan f a then 256 else 512
  | .inf n => if n then 1 else 128
  | .num n m _ => if m == 0 then (if n then 8 else 16) else if sub then (if n then 4 else 32) else (if n then 2 else 64)

/-- To an integer of w bits, signed or not; a number out of range, an infinity and a NaN are invalid and give the nearest end, a NaN the
upper one. -/
def rvToInt (w : Nat) (sgn : Bool) (rm : Nat) (v : FV) : FRes :=
  let hi : Int := if sgn then (2 ^ (w - 1) : Nat) - 1 else (2 ^ w : Nat) - 1
  let lo : Int := if sgn then -(2 ^ (w - 1) : Nat) else 0
  match v with
  | .nan => ⟨ofSigned w hi, 16⟩
  | .inf n => ⟨ofSigned w (if n then lo else hi), 16⟩
  | .num n m e =>
    let c := rvRoundQ rm n m e 0
    let i : Int := if n then -(c.1 : Int) else c.1
    if i < lo then ⟨ofSigned w lo, 16⟩ else if hi < i then ⟨ofSigned w hi, 16⟩ else ⟨ofSigned w i, b2n c.2⟩

/-- From an integer. -/
def rvFromInt (f : Flt) (rm : Nat) (i : Int) : FRes := rvRound f rm (fvInt i)

/-- From one format to another. -/
def rvCvt (src dst : Flt) (rm a : Nat) : FRes :=
  if rvIsNan src a then ⟨rvNan dst, if rvIsSnan src a then 16 else 0⟩ else rvRound dst rm (decodeFlt src a)

/-- An estimate of 1 ÷ a to seven bits. -/
def rvRec7 (f : Flt) (rm a : Nat) : FRes :=
  let n := bitAt a (f.eb + f.fb)
  let sgn := b2n n <<< (f.eb + f.fb)
  match decodeFlt f a with
  | .nan => ⟨rvNan f, if rvIsSnan f a then 16 else 0⟩
  | .inf _ => ⟨sgn, 0⟩
  | .num _ m _ =>
    if m == 0 then ⟨sgn + ((2 ^ f.eb - 1) <<< f.fb), 8⟩
    else
      let ex := bits a f.fb f.eb
      let sh := if ex == 0 then f.fb - Nat.log2 m else 0
      let sig := (bits a 0 f.fb <<< sh) % 2 ^ f.fb
      let top : Int := (2 * f.bias : Nat) - 1
      let out : Int := top - ((if ex == 0 then 1 - (sh : Int) else ex))
      let i := sig >>> (f.fb - 7)
      let y := (512 * 128 - 128 * (2 * i + 257) + (2 * i + 257) / 2) / (2 * i + 257)
      if top + 1 < out then ⟨rvOverflow f rm n, 5⟩
      else if 0 < out then ⟨sgn + (out.toNat <<< f.fb) + (y <<< (f.fb - 7)), 0⟩
      else ⟨sgn + ((2 ^ f.fb + (y <<< (f.fb - 7))) >>> (1 - out).toNat), 0⟩

/-- An estimate of 1 ÷ √a to seven bits. -/
def rvRsqrt7 (f : Flt) (a : Nat) : FRes :=
  match decodeFlt f a with
  | .nan => ⟨rvNan f, if rvIsSnan f a then 16 else 0⟩
  | .inf n => if n then ⟨rvNan f, 16⟩ else ⟨0, 0⟩
  | .num n m _ =>
    if m == 0 then ⟨(b2n n <<< (f.eb + f.fb)) + ((2 ^ f.eb - 1) <<< f.fb), 8⟩
    else if n then ⟨rvNan f, 16⟩
    else
      let ex := bits a f.fb f.eb
      let sh := if ex == 0 then f.fb - Nat.log2 m else 0
      let sig := (bits a 0 f.fb <<< sh) % 2 ^ f.fb
      let exn : Int := if ex == 0 then 1 - (sh : Int) else ex
      let odd := exn % 2 != 0
      let i := sig >>> (f.fb - 6)
      -- the middle of the step, in units of 2^-7, of a significand in [1, 2) or [2, 4)
      let t := (2 * i + 129) * (if odd then 1 else 2)
      let y := isqrt (2 ^ 25 / t)
      let out := ((3 * (f.bias : Int) - 1 - exn) / 2).toNat
      ⟨(out <<< f.fb) + ((((y + 1) / 2) % 128) <<< (f.fb - 7)), 0⟩

end Sys2Proof.Machine
end

