-- ==== Sys2Proof/Machine/RvCore.lean ====
section
/-! DEFINITION. The scalar RISC-V instructions of the general cores (R137, R141, R142): RV64I, M, A, F, D, C, Zicsr, Zifencei and Zicntr, in
user mode. PRESUMED (log entry 62): the spec names the extensions and leaves their content to the RISC-V specification. -/

namespace Sys2Proof.Machine

/-- Why an instruction does not retire: the code that the command fails with, the cause, and the address that the log records. -/
structure RvTrap where
  code : Nat
  cause : Nat
  addr : Nat
  deriving DecidableEq, Repr

/-- An exception of the core (R141): illegal instruction, breakpoint, access fault of an atomic or of the counter window. -/
def rvException (h : HThread) : RvTrap := ⟨0x0404, 2, h.pc⟩

/-- A failed access: unmapped or without the right it is an exception of the core with its cause; a failed unit keeps its own code. -/
def rvAccess (h : HThread) (c a : Nat) : RvTrap :=
  if c == 0x0303 then ⟨0x0404, 3, h.pc⟩ else if c == 0x0304 then ⟨0x0404, 4, h.pc⟩ else ⟨c, 0, a⟩

/-- What an instruction leaves: the thread and the state, or a trap. -/
abbrev RvOut := Except RvTrap (HThread × State)

def rvIllegal (h : HThread) : RvOut := .error (rvException h)

/-! Memory (R137, R142). -/

/-- The counter that an address in the counter window names. -/
def rvWindow (s : State) (a : Nat) : Option Nat :=
  match regionAt (regionsOf s) a with
  | none => none
  | some r => if rgTier r == 3 then some ((rgPbase r + (a - rgBase r)) / 4) else none

/-- Read n bytes as an unsigned number. In the counter window only `LW` may read, at a multiple of 4 (R142). -/
def rvLoad (h : HThread) (s : State) (lw : Bool) (a n : Nat) : Except RvTrap Nat :=
  match regionAt (regionsOf s) a, rvWindow s a with
  | some r, some c =>
    if rgRights r &&& 1 != 1 then .error (rvAccess h 0x0304 a)
    else if !lw || a % 4 != 0 || 65535 ≤ c then .error (rvException h)
    else .ok (ctrAt s c)
  | _, _ =>
    match vaRead s.memory (regionsOf s) 1 a n with
    | .error c => .error (rvAccess h c a)
    | .ok l => .ok (ofLe l)

/-- Write n bytes; a store to the counter window is an access fault (R142). -/
def rvStore (h : HThread) (s : State) (a n v : Nat) : Except RvTrap State :=
  if (rvWindow s a).isSome then .error (rvException h)
  else
    match vaWrite s.memory (regionsOf s) 2 a (leBytes n v) with
    | .error c => .error (rvAccess h c a)
    | .ok m => .ok (breakResv a n { s with memory := m })

/-- Fetch 2 bytes, and 4 where the instruction is not a compressed one; the region needs `X`. -/
def rvFetch (h : HThread) (s : State) : Except RvTrap (Nat × Nat) :=
  if h.pc % 2 != 0 then .error (rvException h)
  else
    match vaRead s.memory (regionsOf s) 4 h.pc 2 with
    | .error c => .error (rvAccess h c h.pc)
    | .ok l =>
      if ofLe l % 4 != 3 then .ok (ofLe l, 2)
      else
        match vaRead s.memory (regionsOf s) 4 h.pc 4 with
        | .error c => .error (rvAccess h c h.pc)
        | .ok l4 => .ok (ofLe l4, 4)

/-! Fields. -/

def rvOpc (w : Nat) : Nat := bits w 0 7
def rvRd (w : Nat) : Nat := bits w 7 5
def rvF3 (w : Nat) : Nat := bits w 12 3
def rvRs1 (w : Nat) : Nat := bits w 15 5
def rvRs2 (w : Nat) : Nat := bits w 20 5
def rvF7 (w : Nat) : Nat := bits w 25 7
def rvImmI (w : Nat) : Int := toSigned 12 (bits w 20 12)
def rvImmS (w : Nat) : Int := toSigned 12 (bits w 7 5 + 32 * bits w 25 7)
def rvImmB (w : Nat) : Int := toSigned 13 (2 * bits w 8 4 + 32 * bits w 25 6 + 2048 * bits w 7 1 + 4096 * bits w 31 1)
def rvImmU (w : Nat) : Int := toSigned 32 (4096 * bits w 12 20)
def rvImmJ (w : Nat) : Int := toSigned 21 (2 * bits w 21 10 + 2048 * bits w 20 1 + 4096 * bits w 12 8 + 1048576 * bits w 31 1)

/-- A 64-bit sum with a signed offset. -/
def rvPlus (a : Nat) (i : Int) : Nat := ofSigned 64 (a + i)

/-- The low w bits sign-extended to 64. -/
def rvSext (w v : Nat) : Nat := ofSigned 64 (toSigned w v)

/-! The compressed instructions, each as the 32-bit instruction that it stands for. -/

def rvEncI (opc rd f3 rs1 imm : Nat) : Nat := pack [(0, 7, opc), (7, 5, rd), (12, 3, f3), (15, 5, rs1), (20, 12, imm)]
def rvEncS (opc f3 rs1 rs2 imm : Nat) : Nat :=
  pack [(0, 7, opc), (7, 5, imm), (12, 3, f3), (15, 5, rs1), (20, 5, rs2), (25, 7, imm >>> 5)]
def rvEncR (opc rd f3 rs1 rs2 f7 : Nat) : Nat := pack [(0, 7, opc), (7, 5, rd), (12, 3, f3), (15, 5, rs1), (20, 5, rs2), (25, 7, f7)]
def rvEncB (f3 rs1 imm : Nat) : Nat :=
  pack [(0, 7, 0x63), (7, 1, imm >>> 11), (8, 4, imm >>> 1), (12, 3, f3), (15, 5, rs1), (25, 6, imm >>> 5), (31, 1, imm >>> 12)]
def rvEncJ (rd imm : Nat) : Nat :=
  pack [(0, 7, 0x6F), (7, 5, rd), (12, 8, imm >>> 12), (20, 1, imm >>> 11), (21, 10, imm >>> 1), (31, 1, imm >>> 20)]

/-- A field of six bits, sign-extended to w. -/
def rvSix (w c : Nat) : Nat := ofSigned w (toSigned 6 (bits c 2 5 + 32 * bits c 12 1))

def rvQuad0 (c : Nat) : Option Nat :=
  let rd := 8 + bits c 2 3
  let rs := 8 + bits c 7 3
  let d := 8 * bits c 10 3 + 64 * bits c 5 2
  let w := 8 * bits c 10 3 + 4 * bits c 6 1 + 64 * bits c 5 1
  let sp := 16 * bits c 11 2 + 64 * bits c 7 4 + 4 * bits c 6 1 + 8 * bits c 5 1
  match bits c 13 3 with
  | 0 => if sp == 0 then none else some (rvEncI 0x13 rd 0 2 sp)
  | 1 => some (rvEncI 0x07 rd 3 rs d)
  | 2 => some (rvEncI 0x03 rd 2 rs w)
  | 3 => some (rvEncI 0x03 rd 3 rs d)
  | 5 => some (rvEncS 0x27 3 rs rd d)
  | 6 => some (rvEncS 0x23 2 rs rd w)
  | 7 => some (rvEncS 0x23 3 rs rd d)
  | _ => none

def rvQuad1Alu (c : Nat) : Option Nat :=
  let rd := 8 + bits c 7 3
  let rs := 8 + bits c 2 3
  let sh := bits c 2 5 + 32 * bits c 12 1
  match bits c 10 2 with
  | 0 => some (rvEncI 0x13 rd 5 rd sh)
  | 1 => some (rvEncI 0x13 rd 5 rd (0x400 + sh))
  | 2 => some (rvEncI 0x13 rd 7 rd (rvSix 12 c))
  | _ =>
    match bits c 12 1, bits c 5 2 with
    | 0, 0 => some (rvEncR 0x33 rd 0 rd rs 0x20)
    | 0, 1 => some (rvEncR 0x33 rd 4 rd rs 0)
    | 0, 2 => some (rvEncR 0x33 rd 6 rd rs 0)
    | 0, _ => some (rvEncR 0x33 rd 7 rd rs 0)
    | _, 0 => some (rvEncR 0x3B rd 0 rd rs 0x20)
    | _, 1 => some (rvEncR 0x3B rd 0 rd rs 0)
    | _, _ => none

def rvQuad1 (c : Nat) : Option Nat :=
  let rd := bits c 7 5
  let j := 2048 * bits c 12 1 + 16 * bits c 11 1 + 256 * bits c 9 2 + 1024 * bits c 8 1 + 64 * bits c 7 1 + 128 * bits c 6 1 +
    2 * bits c 3 3 + 32 * bits c 2 1
  let b := 256 * bits c 12 1 + 8 * bits c 10 2 + 64 * bits c 5 2 + 2 * bits c 3 2 + 32 * bits c 2 1
  let sp := 512 * bits c 12 1 + 16 * bits c 6 1 + 64 * bits c 5 1 + 128 * bits c 3 2 + 32 * bits c 2 1
  match bits c 13 3 with
  | 0 => some (rvEncI 0x13 rd 0 rd (rvSix 12 c))
  | 1 => if rd == 0 then none else some (rvEncI 0x1B rd 0 rd (rvSix 12 c))
  | 2 => some (rvEncI 0x13 rd 0 0 (rvSix 12 c))
  | 3 =>
    if rd == 2 then (if sp == 0 then none else some (rvEncI 0x13 2 0 2 (ofSigned 12 (toSigned 10 sp))))
    else if rvSix 6 c == 0 then none
    else some (pack [(0, 7, 0x37), (7, 5, rd), (12, 20, rvSix 20 c)])
  | 4 => rvQuad1Alu c
  | 5 => some (rvEncJ 0 (ofSigned 21 (toSigned 12 j)))
  | 6 => some (rvEncB 0 (8 + bits c 7 3) (ofSigned 13 (toSigned 9 b)))
  | _ => some (rvEncB 1 (8 + bits c 7 3) (ofSigned 13 (toSigned 9 b)))

def rvQuad2 (c : Nat) : Option Nat :=
  let rd := bits c 7 5
  let rs := bits c 2 5
  let dl := 32 * bits c 12 1 + 8 * bits c 5 2 + 64 * bits c 2 3
  let wl := 32 * bits c 12 1 + 4 * bits c 4 3 + 64 * bits c 2 2
  let ds := 8 * bits c 10 3 + 64 * bits c 7 3
  let ws := 4 * bits c 9 4 + 64 * bits c 7 2
  match bits c 13 3 with
  | 0 => some (rvEncI 0x13 rd 1 rd (rs + 32 * bits c 12 1))
  | 1 => some (rvEncI 0x07 rd 3 2 dl)
  | 2 => if rd == 0 then none else some (rvEncI 0x03 rd 2 2 wl)
  | 3 => if rd == 0 then none else some (rvEncI 0x03 rd 3 2 dl)
  | 4 =>
    if bits c 12 1 == 0 then
      (if rs != 0 then some (rvEncR 0x33 rd 0 0 rs 0) else if rd == 0 then none else some (rvEncI 0x67 0 0 rd 0))
    else if rs != 0 then some (rvEncR 0x33 rd 0 rd rs 0)
    else if rd == 0 then some 0x00100073
    else some (rvEncI 0x67 1 0 rd 0)
  | 5 => some (rvEncS 0x27 3 2 rs ds)
  | 6 => some (rvEncS 0x23 2 2 rs ws)
  | _ => some (rvEncS 0x23 3 2 rs ds)

/-- The 32-bit instruction of a fetched word; none for a reserved compressed one. -/
def rvExpand (w : Nat) : Option Nat :=
  match w % 4 with
  | 0 => rvQuad0 w
  | 1 => rvQuad1 w
  | 2 => rvQuad2 w
  | _ => some w

/-! Integer arithmetic. -/

/-- The base operations on wd bits, the result sign-extended; `alt` selects subtraction and the arithmetic shift. -/
def rvAlu (wd f3 : Nat) (alt : Bool) (a b : Nat) : Nat :=
  let sh := b % wd
  match f3 with
  | 0 => rvSext wd (if alt then a + 2 ^ 64 - b else a + b)
  | 1 => rvSext wd (a <<< sh)
  | 2 => b2n (decide (toSigned 64 a < toSigned 64 b))
  | 3 => b2n (decide (a < b))
  | 4 => Nat.xor a b
  | 5 => if alt then ofSigned 64 (toSigned wd a / (2 ^ sh : Nat)) else rvSext wd ((a % 2 ^ wd) >>> sh)
  | 6 => a ||| b
  | _ => a &&& b

/-- Multiplication and division on wd bits. Division by zero gives all ones and the dividend; the overflow gives the dividend and zero. -/
def rvMulDiv (wd f3 a b : Nat) : Nat :=
  let ua := a % 2 ^ wd
  let ub := b % 2 ^ wd
  let sa := toSigned wd a
  let sb := toSigned wd b
  match f3 with
  | 0 => rvSext wd (ua * ub)
  | 1 => ofSigned 64 (sa * sb / (2 ^ wd : Nat))
  | 2 => ofSigned 64 (sa * ub / (2 ^ wd : Nat))
  | 3 => ua * ub / 2 ^ wd
  | 4 => if ub == 0 then 2 ^ 64 - 1 else rvSext wd (ofSigned 64 (sa.tdiv sb))
  | 5 => if ub == 0 then 2 ^ 64 - 1 else rvSext wd (ua / ub)
  | 6 => if ub == 0 then rvSext wd ua else rvSext wd (ofSigned 64 (sa.tmod sb))
  | _ => if ub == 0 then rvSext wd ua else rvSext wd (ua % ub)

/-- Register and register: none where the encoding is not assigned. -/
def rvOpReg (wd w a b : Nat) : Option Nat :=
  let f3 := rvF3 w
  if rvF7 w == 1 then (if wd == 32 && (f3 == 1 || f3 == 2 || f3 == 3) then none else some (rvMulDiv wd f3 a b))
  else if wd == 32 && f3 != 0 && f3 != 1 && f3 != 5 then none
  else if rvF7 w == 0 then some (rvAlu wd f3 false a b)
  else if rvF7 w == 0x20 && (f3 == 0 || f3 == 5) then some (rvAlu wd f3 true a b)
  else none

/-- Register and immediate. -/
def rvOpImm (wd w a : Nat) : Option Nat :=
  let f3 := rvF3 w
  let top := bits w 20 12 / wd
  if f3 == 1 then (if top == 0 then some (rvAlu wd 1 false a (bits w 20 12)) else none)
  else if f3 == 5 then
    (if top == 0 then some (rvAlu wd 5 false a (bits w 20 12))
     else if top == 1024 / wd then some (rvAlu wd 5 true a (bits w 20 12)) else none)
  else if wd == 32 && f3 != 0 then none
  else some (rvAlu wd f3 false a (ofSigned 64 (rvImmI w)))

/-- Whether a branch is taken; none where the condition is not assigned. -/
def rvTaken (f3 a b : Nat) : Option Bool :=
  match f3 with
  | 0 => some (a == b)
  | 1 => some (a != b)
  | 4 => some (decide (toSigned 64 a < toSigned 64 b))
  | 5 => some (decide (toSigned 64 b ≤ toSigned 64 a))
  | 6 => some (decide (a < b))
  | 7 => some (decide (b ≤ a))
  | _ => none

/-! Atomics (A). -/

/-- The value that an atomic operation of wd bits leaves in memory. -/
def rvAmo (wd f5 old b : Nat) : Option Nat :=
  let v := b % 2 ^ wd
  match f5 with
  | 0 => some (old + v)
  | 1 => some v
  | 4 => some (Nat.xor old v)
  | 8 => some (old ||| v)
  | 12 => some (old &&& v)
  | 16 => some (if toSigned wd old ≤ toSigned wd v then old else v)
  | 20 => some (if toSigned wd old ≤ toSigned wd v then v else old)
  | 24 => some (min old v)
  | 28 => some (max old v)
  | _ => none

/-- `LR`, `SC` and the atomic operations; a misaligned one is an access fault (Table 5.14). `AMOADD.W` has its own meaning (R142). An `SC`
succeeds with the address and size of its `LR`, while nothing has stored there: no store of a core, and the bytes are those that `LR` read. -/
def rvAtomic (h : HThread) (s : State) (w : Nat) : RvOut :=
  let wd := if rvF3 w == 2 then 32 else 64
  let n := wd / 8
  let a := xReg h (rvRs1 w)
  let b := xReg h (rvRs2 w)
  let f5 := bits w 27 5
  if (rvF3 w != 2 && rvF3 w != 3) || (f5 == 2 && rvRs2 w != 0) || (f5 != 2 && f5 != 3 && (rvAmo wd f5 0 0).isNone) then rvIllegal h
  else if a % n != 0 || (rvWindow s a).isSome then .error (rvException h)
  else
    match vaRead s.memory (regionsOf s) (if f5 == 3 then 2 else if f5 == 2 then 1 else 3) a n with
    | .error c => .error (rvAccess h c a)
    | .ok l =>
      let old := ofLe l
      if f5 == 2 then .ok ({ setX h (rvRd w) (rvSext wd old) with resv := some (a, n, old) }, s)
      else if f5 == 3 then
        if h.resv != some (a, n, old) then .ok ({ setX h (rvRd w) 1 with resv := none }, s)
        else
          match rvStore h s a n b with
          | .error t => .error t
          | .ok s1 => .ok ({ setX h (rvRd w) 0 with resv := none }, s1)
      else
        match rvStore h s a n ((rvAmo wd f5 old b).getD old) with
        | .error t => .error t
        | .ok s1 => .ok (setX h (rvRd w) (rvSext wd old), s1)

/-! Floating point (F, D). A single-precision number stands in a register with all ones above it; what does not is the canonical NaN. -/

def rvFmt (w : Nat) : Flt := if bits w 25 2 == 0 then fp32 else fp64

def fReg (h : HThread) (f : Flt) (r : Nat) : Nat :=
  let v := h.f.getD r 0
  if f.eb == 11 then v else if v >>> 32 == 2 ^ 32 - 1 then v % 2 ^ 32 else rvNan fp32

def setF (h : HThread) (f : Flt) (r v : Nat) : HThread :=
  { h with f := h.f.set r (if f.eb == 11 then v % 2 ^ 64 else v % 2 ^ 32 + (2 ^ 32 - 1) * 2 ^ 32) }

/-- Flags accumulate in `fflags`. -/
def rvFlags (h : HThread) (fl : Nat) : HThread := { h with fcsr := h.fcsr ||| fl }

def setFr (h : HThread) (f : Flt) (rd : Nat) (r : FRes) : HThread := rvFlags (setF h f rd r.v) r.fl
def setXr (h : HThread) (rd : Nat) (r : FRes) : HThread := rvFlags (setX h rd r.v) r.fl

/-- The rounding mode of an instruction: its own, or `frm`; none where it is reserved. -/
def rvRm (h : HThread) (rm : Nat) : Option Nat :=
  let m := if rm == 7 then bits h.fcsr 5 3 else rm
  if m < 5 then some m else none

/-- Conversions to and from integers and the operations that take a rounding mode. -/
def rvRounded (h : HThread) (w rm : Nat) : Option HThread :=
  let f := rvFmt w
  let rd := rvRd w
  let a := fReg h f (rvRs1 w)
  let b := fReg h f (rvRs2 w)
  let iw := if rvRs2 w < 2 then 32 else 64
  let sgn := rvRs2 w % 2 == 0
  match bits w 27 5 with
  | 0 => some (setFr h f rd (rvAdd f rm a b))
  | 1 => some (setFr h f rd (rvSub f rm a b))
  | 2 => some (setFr h f rd (rvMul f rm a b))
  | 3 => some (setFr h f rd (rvDiv f rm a b))
  | 11 => if rvRs2 w == 0 then some (setFr h f rd (rvSqrt f rm a)) else none
  | 8 =>
    if f.eb == 8 && rvRs2 w == 1 then some (setFr h f rd (rvCvt fp64 fp32 rm (fReg h fp64 (rvRs1 w))))
    else if f.eb == 11 && rvRs2 w == 0 then some (setFr h f rd (rvCvt fp32 fp64 rm (fReg h fp32 (rvRs1 w))))
    else none
  | 24 =>
    if 4 ≤ rvRs2 w then none
    else
      let r := rvToInt iw sgn rm (decodeFlt f a)
      some (setXr h rd ⟨rvSext iw r.v, r.fl⟩)
  | 26 =>
    if 4 ≤ rvRs2 w then none
    else
      let x := xReg h (rvRs1 w)
      some (setFr h f rd (rvFromInt f rm (if sgn then toSigned iw x else ((x % 2 ^ iw : Nat) : Int))))
  | _ => none

/-- The operations that take none. -/
def rvUnrounded (h : HThread) (w : Nat) : Option HThread :=
  let f := rvFmt w
  let wd := if f.eb == 8 then 32 else 64
  let rd := rvRd w
  let a := fReg h f (rvRs1 w)
  let b := fReg h f (rvRs2 w)
  let f3 := rvF3 w
  match bits w 27 5 with
  | 4 => if f3 < 3 then some (setF h f rd (rvSgnj f f3 a b)) else none
  | 5 => if f3 < 2 then some (setFr h f rd (rvMinMax f (f3 == 1) a b)) else none
  | 20 =>
    if f3 == 2 then some (setXr h rd (rvFeq f a b))
    else if f3 == 1 then some (setXr h rd (rvFlt f a b))
    else if f3 == 0 then some (setXr h rd (rvFle f a b))
    else none
  | 28 =>
    if rvRs2 w != 0 then none
    else if f3 == 0 then some (setX h rd (rvSext wd (h.f.getD (rvRs1 w) 0)))
    else if f3 == 1 then some (setX h rd (rvClass f a))
    else none
  | 30 => if rvRs2 w == 0 && f3 == 0 then some (setF h f rd (xReg h (rvRs1 w))) else none
  | _ => none

/-- Whether an operation takes a rounding mode. -/
def rvTakesRm (w : Nat) : Bool := [0, 1, 2, 3, 8, 11, 24, 26].contains (bits w 27 5)

def rvFloat (h : HThread) (s : State) (w : Nat) : RvOut :=
  let r := if 2 ≤ bits w 25 2 then none
    else if rvTakesRm w then (rvRm h (rvF3 w)).bind (rvRounded h w)
    else rvUnrounded h w
  match r with
  | none => rvIllegal h
  | some h1 => .ok (h1, s)

/-- The fused operations: the signs that each takes of product and addend. -/
def rvFused (h : HThread) (s : State) (w : Nat) : RvOut :=
  let f := rvFmt w
  let k := rvOpc w
  let negP := k == 0x4B || k == 0x4F
  let negC := k == 0x47 || k == 0x4F
  match (if 2 ≤ bits w 25 2 then none else rvRm h (rvF3 w)) with
  | none => rvIllegal h
  | some rm =>
    .ok (setFr h f (rvRd w) (rvFma f rm negP negC (fReg h f (rvRs1 w)) (fReg h f (rvRs2 w)) (fReg h f (bits w 27 5))), s)

/-! Control and status registers of user mode (Zicsr, Zicntr, F, V). -/

/-- The value of a register; none where user mode has none. `time` is fabric time in ns (Table 5.14). -/
def rvCsr (h : HThread) (s : State) (n : Nat) : Option Nat :=
  match n with
  | 0x001 => some (bits h.fcsr 0 5)
  | 0x002 => some (bits h.fcsr 5 3)
  | 0x003 => some (bits h.fcsr 0 8)
  | 0x008 => some h.vstart
  | 0x009 => some (bits h.vcsr 0 1)
  | 0x00A => some (bits h.vcsr 1 2)
  | 0x00F => some (bits h.vcsr 0 3)
  | 0xC00 => some h.cycle
  | 0xC01 => some (nowNs s % 2 ^ 64)
  | 0xC02 => some h.instret
  | 0xC20 => some h.vl
  | 0xC21 => some h.vtype
  | 0xC22 => some 64
  | _ => none

/-- The thread with a register written. `vstart` holds the nine bits that an element index needs. -/
def rvSetCsr (h : HThread) (n v : Nat) : HThread :=
  match n with
  | 0x001 => { h with fcsr := 32 * bits h.fcsr 5 3 + v % 32 }
  | 0x002 => { h with fcsr := bits h.fcsr 0 5 + 32 * (v % 8) }
  | 0x003 => { h with fcsr := v % 256 }
  | 0x008 => { h with vstart := v % 512 }
  | 0x009 => { h with vcsr := 2 * bits h.vcsr 1 2 + v % 2 }
  | 0x00A => { h with vcsr := bits h.vcsr 0 1 + 2 * (v % 4) }
  | 0x00F => { h with vcsr := v % 8 }
  | _ => h

/-- `CSRRW`, `CSRRS` and `CSRRC` and their immediate forms; a write to a read-only register is illegal. -/
def rvCsrOp (h : HThread) (s : State) (w : Nat) : RvOut :=
  let n := bits w 20 12
  let k := rvF3 w
  let src := if 4 ≤ k then rvRs1 w else xReg h (rvRs1 w)
  let writes := k % 4 == 1 || rvRs1 w != 0
  match rvCsr h s n with
  | none => rvIllegal h
  | some old =>
    if writes && n >>> 10 == 3 then rvIllegal h
    else
      let v := if k % 4 == 1 then src else if k % 4 == 2 then old ||| src else Nat.xor old (old &&& src)
      .ok (setX (if writes then rvSetCsr h n v else h) (rvRd w) old, s)

/-! One scalar instruction. -/

def rvLoadX (h : HThread) (s : State) (w : Nat) : RvOut :=
  let f3 := rvF3 w
  let n := 2 ^ (f3 % 4)
  let a := rvPlus (xReg h (rvRs1 w)) (rvImmI w)
  if f3 == 7 then rvIllegal h
  else
    match rvLoad h s (f3 == 2) a n with
    | .error t => .error t
    | .ok v => .ok (setX h (rvRd w) (if 4 ≤ f3 then v else rvSext (8 * n) v), s)

def rvStoreX (h : HThread) (s : State) (w : Nat) : RvOut :=
  if 4 ≤ rvF3 w then rvIllegal h
  else
    match rvStore h s (rvPlus (xReg h (rvRs1 w)) (rvImmS w)) (2 ^ rvF3 w) (xReg h (rvRs2 w)) with
    | .error t => .error t
    | .ok s1 => .ok (h, s1)

def rvLoadF (h : HThread) (s : State) (w : Nat) : RvOut :=
  let f := if rvF3 w == 2 then fp32 else fp64
  match rvLoad h s false (rvPlus (xReg h (rvRs1 w)) (rvImmI w)) (2 ^ rvF3 w) with
  | .error t => .error t
  | .ok v => .ok (setF h f (rvRd w) v, s)

def rvStoreF (h : HThread) (s : State) (w : Nat) : RvOut :=
  match rvStore h s (rvPlus (xReg h (rvRs1 w)) (rvImmS w)) (2 ^ rvF3 w) (h.f.getD (rvRs2 w) 0) with
  | .error t => .error t
  | .ok s1 => .ok (h, s1)

/-- An instruction that only computes a register, or an illegal one. -/
def rvWrites (h : HThread) (s : State) (rd : Nat) (v : Option Nat) : RvOut :=
  match v with
  | none => rvIllegal h
  | some x => .ok (setX h rd x, s)

end Sys2Proof.Machine
end

