-- ==== Sys2Proof/Machine/RvVec.lean ====
section
/-! DEFINITION. The vector extension of the general cores (R137): V 1.0 with VLEN = 512 and ELEN = 64. PRESUMED (log entry 62): the spec names
the extension and leaves its content to the RISC-V specification. Agnostic elements stay undisturbed, which that specification allows. -/

namespace Sys2Proof.Machine

/-! Configuration and elements. -/

/-- Eight times `LMUL`; 0 for a reserved code. -/
def vLmulOf (c : Nat) : Nat := [8, 16, 32, 64, 0, 1, 2, 4].getD c 0
def vSew (h : HThread) : Nat := 8 <<< bits h.vtype 3 3
def vL8 (h : HThread) : Nat := vLmulOf (bits h.vtype 0 3)

/-- A `vtype` that the core supports. -/
def vtypeOk (t : Nat) : Bool :=
  t < 256 && bits t 3 3 < 4 && vLmulOf (bits t 0 3) != 0 && 8 <<< bits t 3 3 ≤ 8 * vLmulOf (bits t 0 3)

def vlMax (t : Nat) : Nat := 64 * vLmulOf (bits t 0 3) / (8 <<< bits t 3 3)

/-- Registers of a group of eight times `LMUL`. -/
def vRegs (l8 : Nat) : Nat := max 1 (l8 / 8)

/-- A group that exists, at a register that is a multiple of its size. -/
def vGroup (l8 r : Nat) : Bool := 1 ≤ l8 && l8 ≤ 64 && r % vRegs l8 == 0

/-- Whether a destination group may meet a source group: with one element width always, narrower in the source's lowest registers, wider in
its own highest. -/
def vMeet (vd de dl vs se sl : Nat) : Bool :=
  let nd := vRegs dl
  let ns := vRegs sl
  !(vd < vs + ns && vs < vd + nd) || de == se || (de < se && vd == vs) || (se < de && 8 ≤ sl && vs + ns == vd + nd)

/-- Two groups apart. -/
def vApart (a la b lb : Nat) : Bool := !(a < b + vRegs lb && b < a + vRegs la)

/-- Element i of w bits of the group at register r. -/
def vGet (h : HThread) (r w i : Nat) : Nat := bits (h.v.getD (r + i * w / 512) 0) (i * w % 512) w

def vPut (h : HThread) (r w i x : Nat) : HThread :=
  let k := r + i * w / 512
  let old := h.v.getD k 0
  let at_ := i * w % 512
  { h with v := h.v.set k (old - ((bits old at_ w) <<< at_) + ((x % 2 ^ w) <<< at_)) }

/-- Bit i of the mask register r. -/
def vBit (h : HThread) (r i : Nat) : Bool := bitAt (h.v.getD r 0) i

/-- Body elements from `vstart` that the mask lets through. -/
def vActive (h : HThread) (vm : Bool) : List Nat := ((List.range h.vl).drop h.vstart).filter (fun i => vm || vBit h 0 i)

/-- What an element operation gives: the element, the floating-point flags, and whether it saturated. -/
structure VRes where
  v : Nat
  fl : Nat
  sat : Bool
  deriving DecidableEq, Repr

def vPlain (v : Nat) : VRes := ⟨v, 0, false⟩
def vOfF (r : FRes) : VRes := ⟨r.v, r.fl, false⟩

/-- Write the elements of a list, each from its index and its old value; sources are read before anything is written. -/
def vMap (h : HThread) (vd w : Nat) (l : List Nat) (f : Nat → Nat → VRes) : HThread :=
  let rs := l.map (fun i => (i, f i (vGet h vd w i)))
  let h1 := rs.foldl (fun t r => vPut t vd w r.1 r.2.v) h
  { h1 with
    fcsr := rs.foldl (fun a r => a ||| r.2.fl) h1.fcsr
    vcsr := if rs.any (·.2.sat) then h1.vcsr ||| 1 else h1.vcsr
    vstart := 0 }

/-- A vector instruction that leaves the state as it is: the thread, or an illegal instruction. -/
def vDone (h : HThread) (s : State) (ok : Bool) (r : HThread) : RvOut := if ok then .ok ({ r with vstart := 0 }, s) else rvIllegal h

/-! `vsetvli`, `vsetivli`, `vsetvl`. -/

/-- The length and type set: an unsupported type sets `vill`, and the length is the lesser of the one asked for and `VLMAX`. -/
def vSet (h : HThread) (t avl : Nat) : HThread :=
  if vtypeOk t then { h with vtype := t, vl := min avl (vlMax t), vstart := 0 } else { h with vtype := 2 ^ 63, vl := 0, vstart := 0 }

def rvVset (h : HThread) (s : State) (w : Nat) : RvOut :=
  let reg := fun (t : Nat) =>
    if rvRs1 w != 0 then vSet h t (xReg h (rvRs1 w))
    else if rvRd w != 0 then vSet h t (2 ^ 64 - 1)
    else if vlMax t == vlMax h.vtype && vtypeOk h.vtype then vSet h t h.vl
    else vSet h (2 ^ 63) 0
  let r := if bits w 31 1 == 0 then some (reg (bits w 20 11))
    else if bits w 30 2 == 3 then some (vSet h (bits w 20 10) (rvRs1 w))
    else if rvF7 w == 0x40 then some (reg (xReg h (rvRs2 w)))
    else none
  match r with
  | none => rvIllegal h
  | some h1 => .ok (setX h1 (rvRd w) h1.vl, s)

/-! Loads and stores. Each access is an address, a register group and an element. -/

/-- One element of a segment. -/
structure VAcc where
  addr : Nat
  reg : Nat
  i : Nat
  deriving DecidableEq, Repr

/-- Load the accesses of a list; a failure names its element. -/
def vLoads (h : HThread) (s : State) (w : Nat) : List VAcc → HThread → Except (RvTrap × Nat × HThread) HThread
  | [], t => .ok t
  | a :: r, t =>
    match rvLoad h s false a.addr (w / 8) with
    | .error e => .error (e, a.i, t)
    | .ok v => vLoads h s w r (vPut t a.reg w a.i v)

def vStores (h : HThread) (w : Nat) : List VAcc → State → Except RvTrap State
  | [], s => .ok s
  | a :: r, s =>
    match rvStore h s a.addr (w / 8) (vGet h a.reg w a.i) with
    | .error e => .error e
    | .ok s1 => vStores h w r s1

/-- The accesses of a vector memory instruction with their width, or none where it is reserved. -/
def vAccesses (h : HThread) (w : Nat) (store : Bool) : Option (Nat × List VAcc) :=
  let nf := bits w 29 3 + 1
  let mop := bits w 26 2
  let vm := bitAt w 25
  let f3 := rvF3 w
  let ew := if f3 == 0 then 8 else 8 <<< (f3 - 4)
  let vd := rvRd w
  let base := xReg h (rvRs1 w)
  let sew := vSew h
  let l8 := vL8 h
  let um := rvRs2 w
  if bitAt w 28 then none
  else if mop == 0 && um == 8 then
    if !vm || (nf != 1 && nf != 2 && nf != 4 && nf != 8) || vd % nf != 0 || (store && ew != 8) then none
    else some (ew, ((List.range (nf * 512 / ew)).drop h.vstart).map (fun i => ⟨rvPlus base (i * (ew / 8) : Nat), vd, i⟩))
  else if !vtypeOk h.vtype then none
  else if mop == 0 && um == 11 then
    if !vm || nf != 1 || ew != 8 then none
    else some (8, ((List.range (ceilDiv h.vl 8)).drop h.vstart).map (fun i => ⟨rvPlus base (i : Nat), vd, i⟩))
  else if mop == 0 && um != 0 && (store || um != 16) then none
  else
    let indexed := mop % 2 == 1
    let dw := if indexed then sew else ew
    let dl := if indexed then l8 else l8 * ew / sew
    let il := l8 * ew / sew
    let nr := vRegs dl
    let ok := vGroup dl vd && dl * sew == l8 * dw && nf * nr ≤ 8 && vd + nf * nr ≤ 32 && (store || vm || vd != 0) &&
      (!indexed || (vGroup il um && il * sew == l8 * ew && (store || (if nf == 1 then vMeet vd sew l8 um ew il else vApart vd (8 * nf * nr) um il))))
    if !ok then none
    else
      let off := fun (i : Nat) => if mop == 0 then i * nf * (dw / 8) else if mop == 2 then i * xReg h um else vGet h um ew i
      some (dw, (vActive h vm).flatMap (fun i => (List.range nf).map (fun k => ⟨rvPlus base ((off i + k * (dw / 8) : Nat)), vd + k * nr, i⟩)))

/-- A vector load. One that gives up at the first failure shortens `vl` to the element that failed, unless that is the first. -/
def rvVload (h : HThread) (s : State) (w : Nat) : RvOut :=
  match vAccesses h w false with
  | none => rvIllegal h
  | some (ew, l) =>
    match vLoads h s ew l h with
    | .ok t => .ok ({ t with vstart := 0 }, s)
    | .error (e, i, t) => if bits w 26 2 == 0 && rvRs2 w == 16 && i != 0 then .ok ({ t with vl := i, vstart := 0 }, s) else .error e

def rvVstore (h : HThread) (s : State) (w : Nat) : RvOut :=
  match vAccesses h w true with
  | none => rvIllegal h
  | some (ew, l) =>
    match vStores h ew l s with
    | .ok s1 => .ok ({ h with vstart := 0 }, s1)
    | .error e => .error e

/-! Integer elements. Each operation takes the width, `vxrm`, the element of vs2 and the second operand. -/

/-- A value shifted right by d with the rounding of `vxrm`: up, to even, down, to odd. -/
def vRoundOff (xrm : Nat) (x : Int) (d : Nat) : Int :=
  if d == 0 then x
  else
    let q := x / (2 ^ d : Nat)
    let rest := (x % (2 ^ d : Nat)).toNat
    let up : Bool := match xrm with
      | 0 => decide (2 ^ d ≤ 2 * rest)
      | 1 => decide (2 ^ d < 2 * rest) || (2 * rest == 2 ^ d && q % 2 != 0)
      | 2 => false
      | _ => rest != 0 && q % 2 == 0
    if up then q + 1 else q

/-- Clamp to the signed or unsigned range of w bits. -/
def vClip (sgn : Bool) (w : Nat) (x : Int) : VRes :=
  let lo : Int := if sgn then -(2 ^ (w - 1) : Nat) else 0
  let hi : Int := if sgn then (2 ^ (w - 1) : Nat) - 1 else (2 ^ w : Nat) - 1
  ⟨ofSigned w (clampI lo hi x), 0, decide (x < lo) || decide (hi < x)⟩

/-- The operand forms of an operation: 1 vector, 2 scalar, 4 immediate. -/
def vFormsI (f6 : Nat) : Nat :=
  match f6 with
  | 0x00 => 7 | 0x02 => 3 | 0x03 => 6 | 0x04 => 3 | 0x05 => 3 | 0x06 => 3 | 0x07 => 3 | 0x09 => 7 | 0x0A => 7 | 0x0B => 7
  | 0x18 => 7 | 0x19 => 7 | 0x1A => 3 | 0x1B => 3 | 0x1C => 7 | 0x1D => 7 | 0x1E => 6 | 0x1F => 6
  | 0x20 => 7 | 0x21 => 7 | 0x22 => 3 | 0x23 => 3 | 0x25 => 7 | 0x27 => 3 | 0x28 => 7 | 0x29 => 7 | 0x2A => 7 | 0x2B => 7
  | 0x2C => 7 | 0x2D => 7 | 0x2E => 7 | 0x2F => 7
  | _ => 0

/-- Operations of one width. -/
def vAluI (f6 w xrm a b : Nat) : VRes :=
  let sa := toSigned w a
  let sb := toSigned w b
  let sh := b % w
  match f6 with
  | 0x00 => vPlain (a + b)
  | 0x02 => vPlain (a + 2 ^ w - b)
  | 0x03 => vPlain (b + 2 ^ w - a)
  | 0x04 => vPlain (min a b)
  | 0x05 => vPlain (if sa ≤ sb then a else b)
  | 0x06 => vPlain (max a b)
  | 0x07 => vPlain (if sa ≤ sb then b else a)
  | 0x09 => vPlain (a &&& b)
  | 0x0A => vPlain (a ||| b)
  | 0x0B => vPlain (Nat.xor a b)
  | 0x20 => vClip false w (a + b : Nat)
  | 0x21 => vClip true w (sa + sb)
  | 0x22 => vClip false w ((a : Int) - b)
  | 0x23 => vClip true w (sa - sb)
  | 0x25 => vPlain (a <<< sh)
  | 0x27 => vClip true w (vRoundOff xrm (sa * sb) (w - 1))
  | 0x28 => vPlain (a >>> sh)
  | 0x29 => vPlain (ofSigned w (sa / (2 ^ sh : Nat)))
  | 0x2A => vPlain (vRoundOff xrm a sh).toNat
  | _ => vPlain (ofSigned w (vRoundOff xrm sa sh))

/-- Narrowing shifts and clips: a has twice the width. -/
def vNarrowI (f6 w xrm a b : Nat) : VRes :=
  let sa := toSigned (2 * w) a
  let sh := b % (2 * w)
  match f6 with
  | 0x2C => vPlain (a >>> sh)
  | 0x2D => vPlain (ofSigned w (sa / (2 ^ sh : Nat)))
  | 0x2E => vClip false w (vRoundOff xrm a sh)
  | _ => vClip true w (vRoundOff xrm sa sh)

/-- Comparisons. -/
def vCmpI (f6 w a b : Nat) : Bool :=
  match f6 with
  | 0x18 => a == b
  | 0x19 => a != b
  | 0x1A => decide (a < b)
  | 0x1B => decide (toSigned w a < toSigned w b)
  | 0x1C => decide (a ≤ b)
  | 0x1D => decide (toSigned w a ≤ toSigned w b)
  | 0x1E => decide (b < a)
  | _ => decide (toSigned w b < toSigned w a)

/-- Averaging, division and multiplication. -/
def vAluM (f6 w xrm a b : Nat) : VRes :=
  let sa := toSigned w a
  let sb := toSigned w b
  match f6 with
  | 0x08 => vPlain (vRoundOff xrm (a + b : Nat) 1).toNat
  | 0x09 => vPlain (ofSigned w (vRoundOff xrm (sa + sb) 1))
  | 0x0A => vPlain (ofSigned w (vRoundOff xrm ((a : Int) - b) 1))
  | 0x0B => vPlain (ofSigned w (vRoundOff xrm (sa - sb) 1))
  | 0x20 => vPlain (if b == 0 then 2 ^ w - 1 else a / b)
  | 0x21 => vPlain (if b == 0 then 2 ^ w - 1 else ofSigned w (sa.tdiv sb))
  | 0x22 => vPlain (if b == 0 then a else a % b)
  | 0x23 => vPlain (if b == 0 then a else ofSigned w (sa.tmod sb))
  | 0x24 => vPlain (a * b / 2 ^ w)
  | 0x25 => vPlain (a * b)
  | 0x26 => vPlain (ofSigned w (sa * b / (2 ^ w : Nat)))
  | _ => vPlain (ofSigned w (sa * sb / (2 ^ w : Nat)))

/-- Multiply and add, from the element of vs2, the second operand and the old destination. -/
def vMacM (f6 w a b d : Nat) : VRes :=
  match f6 with
  | 0x29 => vPlain (b * d + a)
  | 0x2B => vPlain (ofSigned w ((a : Int) - b * d))
  | 0x2D => vPlain (a * b + d)
  | _ => vPlain (ofSigned w ((d : Int) - a * b))

/-- Widening operations: the sum, difference or product in twice the width. -/
def vWideM (f6 w a b d : Nat) : VRes :=
  let w2 := 2 * w
  let sa := toSigned w a
  let sb := toSigned w b
  match f6 with
  | 0x30 => vPlain (a + b)
  | 0x31 => vPlain (ofSigned w2 (sa + sb))
  | 0x32 => vPlain (ofSigned w2 ((a : Int) - b))
  | 0x33 => vPlain (ofSigned w2 (sa - sb))
  | 0x34 => vPlain (a + b)
  | 0x35 => vPlain (ofSigned w2 (toSigned w2 a + sb))
  | 0x36 => vPlain (ofSigned w2 ((a : Int) - b))
  | 0x37 => vPlain (ofSigned w2 (toSigned w2 a - sb))
  | 0x38 => vPlain (a * b)
  | 0x3A => vPlain (ofSigned w2 (sa * b))
  | 0x3B => vPlain (ofSigned w2 (sa * sb))
  | 0x3C => vPlain (a * b + d)
  | 0x3D => vPlain (ofSigned w2 (sa * sb + d))
  | 0x3E => vPlain (ofSigned w2 (sa * b + d))
  | _ => vPlain (ofSigned w2 ((a : Int) * sb + d))

/-- Reductions. -/
def vRedM (f6 w a b : Nat) : Nat :=
  match f6 with
  | 0 => (a + b) % 2 ^ w
  | 1 => a &&& b
  | 2 => a ||| b
  | 3 => Nat.xor a b
  | 4 => min a b
  | 5 => if toSigned w a ≤ toSigned w b then a else b
  | 6 => max a b
  | _ => if toSigned w a ≤ toSigned w b then b else a

/-! Operands. -/

/-- 1 vector, 2 scalar, 4 immediate. -/
def vForm (w : Nat) : Nat := match rvF3 w with
  | 3 => 4
  | 4 => 2
  | 5 => 2
  | 6 => 2
  | _ => 1

/-- The second operand as an element of ew bits: of vs1, of an integer register, or an immediate. -/
def vOpB (h : HThread) (w ew : Nat) (i : Nat) : Nat :=
  match vForm w with
  | 1 => vGet h (rvRs1 w) ew i
  | 2 => xReg h (rvRs1 w) % 2 ^ ew
  | _ => ofSigned ew (toSigned 5 (rvRs1 w))

/-- The same where the immediate is unsigned: shifts, clips, slides and gathers. -/
def vOpU (h : HThread) (w ew : Nat) (i : Nat) : Nat := if vForm w == 4 then rvRs1 w else vOpB h w ew i

/-- vs1 stands in a group of its own where the form has one. -/
def vOneOk (w l8 : Nat) : Bool := vForm w != 1 || vGroup l8 (rvRs1 w)

/-- A masked destination is not the mask itself. -/
def vMaskOk (w : Nat) : Bool := bitAt w 25 || rvRd w != 0

/-- A mask destination from sources of the width in force. -/
def vMaskDest (h : HThread) (w : Nat) : Bool :=
  let l8 := vL8 h
  let sew := vSew h
  vGroup l8 (rvRs2 w) && vOneOk w l8 && vMeet (rvRd w) 1 8 (rvRs2 w) sew l8 && (vForm w != 1 || vMeet (rvRd w) 1 8 (rvRs1 w) sew l8)

/-! `OPIVV`, `OPIVX`, `OPIVI`. -/

/-- Gathers, slides, merges, carries and whole-register moves. -/
def vOddI (h : HThread) (s : State) (w : Nat) : RvOut :=
  let f6 := bits w 26 6
  let vm := bitAt w 25
  let vd := rvRd w
  let a2 := rvRs2 w
  let a1 := rvRs1 w
  let sew := vSew h
  let l8 := vL8 h
  let mx := vlMax h.vtype
  let form := vForm w
  let same := vGroup l8 vd && vGroup l8 a2 && vOneOk w l8
  let act := vActive h vm
  let all := (List.range h.vl).drop h.vstart
  let far := fun (j : Nat) => if mx ≤ j then 0 else vGet h a2 sew j
  let b := vOpB h w sew
  let cin := fun (i : Nat) => if vm then 0 else b2n (vBit h 0 i)
  match f6 with
  | 0x0C => -- vrgather
    vDone h s (same && vMaskOk w && vApart vd l8 a2 l8 && (form != 1 || vApart vd l8 a1 l8))
      (vMap h vd sew act (fun i _ => vPlain (far (if form == 2 then xReg h a1 else vOpU h w sew i))))
  | 0x0E =>
    if form == 1 then -- vrgatherei16
      let il := l8 * 16 / sew
      vDone h s (vGroup l8 vd && vGroup l8 a2 && vGroup il a1 && vMaskOk w && vApart vd l8 a2 l8 && vApart vd l8 a1 il)
        (vMap h vd sew act (fun i _ => vPlain (far (vGet h a1 16 i))))
    else -- vslideup
      let off := if form == 2 then xReg h a1 else a1
      vDone h s (same && vMaskOk w && vApart vd l8 a2 l8)
        (vMap h vd sew (act.filter (off ≤ ·)) (fun i _ => vPlain (vGet h a2 sew (i - off))))
  | 0x0F => -- vslidedown
    let off := if form == 2 then xReg h a1 else a1
    vDone h s (form != 1 && same && vMaskOk w) (vMap h vd sew act (fun i _ => vPlain (far (i + off))))
  | 0x10 => -- vadc
    vDone h s (!vm && vd != 0 && same) (vMap h vd sew all (fun i _ => vPlain (vGet h a2 sew i + b i + cin i)))
  | 0x11 => -- vmadc
    vDone h s (vMaskDest h w) (vMap h vd 1 all (fun i _ => vPlain (b2n (decide (2 ^ sew ≤ vGet h a2 sew i + b i + cin i)))))
  | 0x12 => -- vsbc
    vDone h s (form != 4 && !vm && vd != 0 && same)
      (vMap h vd sew all (fun i _ => vPlain (vGet h a2 sew i + 2 ^ (sew + 1) - b i - cin i)))
  | 0x13 => -- vmsbc
    vDone h s (form != 4 && vMaskDest h w) (vMap h vd 1 all (fun i _ => vPlain (b2n (decide (vGet h a2 sew i < b i + cin i)))))
  | 0x17 => -- vmerge, vmv.v
    vDone h s (vGroup l8 vd && vOneOk w l8 && (if vm then a2 == 0 else vd != 0 && vGroup l8 a2))
      (vMap h vd sew all (fun i _ => vPlain (if vm || vBit h 0 i then b i else vGet h a2 sew i)))
  | 0x27 => -- vmv<nr>r
    let nr := a1 + 1
    vDone h s (form == 4 && vm && (nr == 1 || nr == 2 || nr == 4 || nr == 8) && vd % nr == 0 && a2 % nr == 0)
      (vMap h vd sew ((List.range (nr * 512 / sew)).drop h.vstart) (fun i _ => vPlain (vGet h a2 sew i)))
  | 0x30 => -- vwredsumu
    vDone h s (form == 1 && h.vstart == 0 && vGroup l8 a2 && sew ≤ 32)
      (if h.vl == 0 then h else vPut h vd (2 * sew) 0 (act.foldl (fun x i => x + vGet h a2 sew i) (vGet h a1 (2 * sew) 0)))
  | 0x31 => -- vwredsum
    vDone h s (form == 1 && h.vstart == 0 && vGroup l8 a2 && sew ≤ 32)
      (if h.vl == 0 then h else vPut h vd (2 * sew) 0
        (act.foldl (fun x i => x + ofSigned (2 * sew) (toSigned sew (vGet h a2 sew i))) (vGet h a1 (2 * sew) 0)))
  | _ => rvIllegal h

def rvVint (h : HThread) (s : State) (w : Nat) : RvOut :=
  let f6 := bits w 26 6
  let vd := rvRd w
  let a2 := rvRs2 w
  let sew := vSew h
  let l8 := vL8 h
  let xrm := bits h.vcsr 1 2
  let act := vActive h (bitAt w 25)
  if vFormsI f6 &&& vForm w == 0 then vOddI h s w
  else if 0x18 ≤ f6 && f6 < 0x20 then
    vDone h s (vMaskDest h w) (vMap h vd 1 act (fun i _ => vPlain (b2n (vCmpI f6 sew (vGet h a2 sew i) (vOpB h w sew i)))))
  else if 0x2C ≤ f6 then
    vDone h s (sew ≤ 32 && vGroup l8 vd && vGroup (2 * l8) a2 && vOneOk w l8 && vMaskOk w && vMeet vd sew l8 a2 (2 * sew) (2 * l8))
      (vMap h vd sew act (fun i _ => vNarrowI f6 sew xrm (vGet h a2 (2 * sew) i) (vOpU h w sew i)))
  else
    let b := if f6 == 0x25 || 0x28 ≤ f6 then vOpU h w sew else vOpB h w sew
    vDone h s (vGroup l8 vd && vGroup l8 a2 && vOneOk w l8 && vMaskOk w)
      (vMap h vd sew act (fun i _ => vAluI f6 sew xrm (vGet h a2 sew i) (b i)))

/-! `OPMVV`, `OPMVX`. -/

/-- Mask logic on two mask bits. -/
def vLogic (f6 : Nat) (a b : Bool) : Bool :=
  match f6 with
  | 0x18 => a && !b
  | 0x19 => a && b
  | 0x1A => a || b
  | 0x1B => a != b
  | 0x1C => a || !b
  | 0x1D => !(a && b)
  | 0x1E => !(a || b)
  | _ => a == b

/-- Set before, only and including first, iota and index. -/
def vUnaryMask (h : HThread) (s : State) (w : Nat) : RvOut :=
  let vm := bitAt w 25
  let vd := rvRd w
  let a2 := rvRs2 w
  let sew := vSew h
  let l8 := vL8 h
  let act := vActive h vm
  let first := act.find? (fun i => vBit h a2 i)
  let mask := fun (f : Nat → Nat → Bool) => vDone h s (h.vstart == 0 && vd != a2 && vMaskOk w)
    (vMap h vd 1 act (fun i _ => vPlain (b2n (match first with
      | none => f i h.vl
      | some j => f i j))))
  match rvRs1 w with
  | 1 => mask (fun i j => decide (i < j))
  | 2 => mask (fun i j => i == j)
  | 3 => mask (fun i j => decide (i ≤ j))
  | 16 => vDone h s (h.vstart == 0 && vGroup l8 vd && vMaskOk w && vApart vd l8 a2 8)
      (vMap h vd sew act (fun i _ => vPlain ((act.filter (fun j => j < i && vBit h a2 j)).length)))
  | 17 => vDone h s (a2 == 0 && vGroup l8 vd && vMaskOk w) (vMap h vd sew act (fun i _ => vPlain i))
  | _ => rvIllegal h

/-- Moves between element 0 and an integer register, the population count and the first set bit. -/
def vMoveX (h : HThread) (s : State) (w : Nat) : RvOut :=
  let vm := bitAt w 25
  let a2 := rvRs2 w
  let sew := vSew h
  if vForm w == 2 then
    vDone h s (vm && a2 == 0) (if h.vl ≤ h.vstart then h else vPut h (rvRd w) sew 0 (xReg h (rvRs1 w)))
  else
    let act := vActive h vm
    match rvRs1 w with
    | 0 => vDone h s vm (setX h (rvRd w) (rvSext sew (vGet h a2 sew 0)))
    | 16 => vDone h s (h.vstart == 0) (setX h (rvRd w) ((act.filter (vBit h a2)).length))
    | 17 => vDone h s (h.vstart == 0) (setX h (rvRd w) ((act.find? (vBit h a2)).getD (2 ^ 64 - 1)))
    | _ => rvIllegal h

/-- Extension to the width in force from a half, a quarter or an eighth of it. -/
def vExtend (h : HThread) (s : State) (w : Nat) : RvOut :=
  let vd := rvRd w
  let a2 := rvRs2 w
  let sew := vSew h
  let l8 := vL8 h
  let k := rvRs1 w
  let d := 8 >>> ((k - 2) / 2)
  if k < 2 || 8 ≤ k then rvIllegal h
  else
    let ew := sew / d
    vDone h s (8 ≤ ew && l8 % d == 0 && vGroup l8 vd && vGroup (l8 / d) a2 && vMaskOk w && vMeet vd sew l8 a2 ew (l8 / d))
      (vMap h vd sew (vActive h (bitAt w 25)) (fun i _ => vPlain (if k % 2 == 1 then ofSigned sew (toSigned ew (vGet h a2 ew i)) else vGet h a2 ew i)))

def rvVmul (h : HThread) (s : State) (w : Nat) : RvOut :=
  let f6 := bits w 26 6
  let vm := bitAt w 25
  let vd := rvRd w
  let a1 := rvRs1 w
  let a2 := rvRs2 w
  let sew := vSew h
  let l8 := vL8 h
  let xrm := bits h.vcsr 1 2
  let vv := vForm w == 1
  let act := vActive h vm
  let b := vOpB h w sew
  let same := vGroup l8 vd && vGroup l8 a2 && vOneOk w l8 && vMaskOk w
  if f6 < 8 then
    vDone h s (vv && h.vstart == 0 && vGroup l8 a2)
      (if h.vl == 0 then h else vPut h vd sew 0 (act.foldl (fun x i => vRedM f6 sew (vGet h a2 sew i) x) (vGet h a1 sew 0)))
  else if f6 < 0x0C then vDone h s same (vMap h vd sew act (fun i _ => vAluM f6 sew xrm (vGet h a2 sew i) (b i)))
  else if f6 == 0x0E then -- vslide1up
    vDone h s (!vv && same && vApart vd l8 a2 l8)
      (vMap h vd sew act (fun i _ => vPlain (if i == 0 then xReg h a1 else vGet h a2 sew (i - 1))))
  else if f6 == 0x0F then -- vslide1down
    vDone h s (!vv && same) (vMap h vd sew act (fun i _ => vPlain (if i + 1 == h.vl then xReg h a1 else vGet h a2 sew (i + 1))))
  else if f6 == 0x10 then vMoveX h s w
  else if f6 == 0x12 then (if vv then vExtend h s w else rvIllegal h)
  else if f6 == 0x14 then (if vv then vUnaryMask h s w else rvIllegal h)
  else if f6 == 0x17 then -- vcompress
    let kept := (List.range h.vl).filter (vBit h a1)
    vDone h s (vv && vm && h.vstart == 0 && vGroup l8 vd && vGroup l8 a2 && vApart vd l8 a2 l8 && vApart vd l8 a1 8)
      (kept.zipIdx.foldl (fun t p => vPut t vd sew p.2 (vGet h a2 sew p.1)) h)
  else if 0x18 ≤ f6 && f6 < 0x20 then
    vDone h s (vv && vm) (vMap h vd 1 ((List.range h.vl).drop h.vstart) (fun i _ => vPlain (b2n (vLogic f6 (vBit h a2 i) (vBit h a1 i)))))
  else if 0x20 ≤ f6 && f6 < 0x28 then vDone h s same (vMap h vd sew act (fun i _ => vAluM f6 sew xrm (vGet h a2 sew i) (b i)))
  else if f6 == 0x29 || f6 == 0x2B || f6 == 0x2D || f6 == 0x2F then
    vDone h s same (vMap h vd sew act (fun i d => vMacM f6 sew (vGet h a2 sew i) (b i) d))
  else if 0x30 ≤ f6 && f6 != 0x39 then
    let wide2 := 0x34 ≤ f6 && f6 < 0x38
    let ew := if wide2 then 2 * sew else sew
    let el := if wide2 then 2 * l8 else l8
    vDone h s (sew ≤ 32 && vGroup (2 * l8) vd && vGroup el a2 && vOneOk w l8 && vMaskOk w && (f6 != 0x3E || !vv) &&
        vMeet vd (2 * sew) (2 * l8) a2 ew el && (!vv || vMeet vd (2 * sew) (2 * l8) a1 sew l8))
      (vMap h vd (2 * sew) act (fun i d => vWideM f6 sew (vGet h a2 ew i) (b i) d))
  else rvIllegal h

/-! `OPFVV`, `OPFVF`: elements of 32 and 64 bits. -/

/-- The format of a width. -/
def vFlt (w : Nat) : Flt := if w == 32 then fp32 else fp64

/-- The second operand: an element of vs1, or a floating-point register. -/
def vOpF (h : HThread) (w ew : Nat) (i : Nat) : Nat := if vForm w == 1 then vGet h (rvRs1 w) ew i else fReg h (vFlt ew) (rvRs1 w)

/-- The operations of one width. -/
def vAluF (f6 ew rm a b : Nat) : Option FRes :=
  let f := vFlt ew
  match f6 with
  | 0x00 => some (rvAdd f rm a b)
  | 0x02 => some (rvSub f rm a b)
  | 0x04 => some (rvMinMax f false a b)
  | 0x06 => some (rvMinMax f true a b)
  | 0x08 => some ⟨rvSgnj f 0 a b, 0⟩
  | 0x09 => some ⟨rvSgnj f 1 a b, 0⟩
  | 0x0A => some ⟨rvSgnj f 2 a b, 0⟩
  | 0x20 => some (rvDiv f rm a b)
  | 0x21 => some (rvDiv f rm b a)
  | 0x24 => some (rvMul f rm a b)
  | 0x27 => some (rvSub f rm b a)
  | _ => none

/-- The fused operations: the first four multiply the destination, the others add to it. -/
def vMacF (f6 ew rm a b d : Nat) : FRes :=
  let f := vFlt ew
  let p := f6 % 2 == 1
  let c := f6 % 4 == 1 || f6 % 4 == 2
  if f6 < 0x2C then rvFma f rm p c b d a else rvFma f rm p c b a d

/-- Comparisons. -/
def vCmpF (f6 ew a b : Nat) : Option FRes :=
  let f := vFlt ew
  match f6 with
  | 0x18 => some (rvFeq f a b)
  | 0x19 => some (rvFle f a b)
  | 0x1B => some (rvFlt f a b)
  | 0x1C => some ⟨1 - (rvFeq f a b).v, (rvFeq f a b).fl⟩
  | 0x1D => some (rvFlt f b a)
  | 0x1F => some (rvFle f b a)
  | _ => none

/-- A value of one width as one of twice the width, exact. -/
def vWiden (ew a : Nat) : FRes := rvCvt (vFlt ew) (vFlt (2 * ew)) 0 a

/-- Widening sums, products and fused operations of 32-bit elements. -/
def vWideF (f6 rm a b d : Nat) : Option FRes :=
  let x := vWiden 32 a
  let y := vWiden 32 b
  let fl := fun (r : FRes) (k : Nat) => some (⟨r.v, r.fl ||| k⟩ : FRes)
  match f6 with
  | 0x30 => fl (rvAdd fp64 rm x.v y.v) (x.fl ||| y.fl)
  | 0x32 => fl (rvSub fp64 rm x.v y.v) (x.fl ||| y.fl)
  | 0x34 => fl (rvAdd fp64 rm a y.v) y.fl
  | 0x36 => fl (rvSub fp64 rm a y.v) y.fl
  | 0x38 => fl (rvMul fp64 rm x.v y.v) (x.fl ||| y.fl)
  | 0x3C => fl (rvFma fp64 rm false false y.v x.v d) (x.fl ||| y.fl)
  | 0x3D => fl (rvFma fp64 rm true true y.v x.v d) (x.fl ||| y.fl)
  | 0x3E => fl (rvFma fp64 rm false true y.v x.v d) (x.fl ||| y.fl)
  | 0x3F => fl (rvFma fp64 rm true false y.v x.v d) (x.fl ||| y.fl)
  | _ => none

/-- Conversions: k names the kind, sw and dw the widths of source and destination. -/
def vConvert (k sw dw rm a : Nat) : Option FRes :=
  match k with
  | 0 => some (rvToInt dw false rm (decodeFlt (vFlt sw) a))
  | 1 => some (rvToInt dw true rm (decodeFlt (vFlt sw) a))
  | 2 => some (rvFromInt (vFlt dw) rm (a : Nat))
  | 3 => some (rvFromInt (vFlt dw) rm (toSigned sw a))
  | 4 => if sw == dw then none else some (rvCvt (vFlt sw) (vFlt dw) rm a)
  | 5 => if dw < sw then some (rvCvt (vFlt sw) (vFlt dw) 6 a) else none
  | 6 => some (rvToInt dw false 1 (decodeFlt (vFlt sw) a))
  | 7 => some (rvToInt dw true 1 (decodeFlt (vFlt sw) a))
  | _ => none

/-- A width that holds a floating-point number, where a conversion needs one. -/
def vFltWidth (w : Nat) : Bool := w == 32 || w == 64

def vUnaryF (h : HThread) (s : State) (w rm : Nat) : RvOut :=
  let vd := rvRd w
  let a2 := rvRs2 w
  let sew := vSew h
  let l8 := vL8 h
  let act := vActive h (bitAt w 25)
  let kind := rvRs1 w / 8
  let k := rvRs1 w % 8
  let sw := if kind == 2 then 2 * sew else sew
  let dw := if kind == 1 then 2 * sew else sew
  let sl := if kind == 2 then 2 * l8 else l8
  let dl := if kind == 1 then 2 * l8 else l8
  let toInt := k < 2 || 6 ≤ k
  let fromInt := k == 2 || k == 3
  let widths := (if fromInt then vFltWidth dw && 8 ≤ sw && sw ≤ 64 else vFltWidth sw && 8 ≤ dw && dw ≤ 64) &&
    (toInt || fromInt || (vFltWidth sw && vFltWidth dw))
  if 3 ≤ kind || !widths || (vConvert k sw dw rm 0).isNone then rvIllegal h
  else
    vDone h s (vGroup dl vd && vGroup sl a2 && vMaskOk w && vMeet vd dw dl a2 sw sl)
      (vMap h vd dw act (fun i _ => vOfF ((vConvert k sw dw rm (vGet h a2 sw i)).getD ⟨0, 0⟩)))

/-- Square root, the two estimates and the class. -/
def vUnaryG (h : HThread) (s : State) (w rm : Nat) : RvOut :=
  let sew := vSew h
  let f := vFlt sew
  let op := fun (a : Nat) => match rvRs1 w with
    | 0 => some (rvSqrt f rm a)
    | 4 => some (rvRsqrt7 f a)
    | 5 => some (rvRec7 f rm a)
    | 16 => some ⟨rvClass f a, 0⟩
    | _ => none
  if (op 0).isNone then rvIllegal h
  else vDone h s (vGroup (vL8 h) (rvRd w) && vGroup (vL8 h) (rvRs2 w) && vMaskOk w)
    (vMap h (rvRd w) sew (vActive h (bitAt w 25)) (fun i _ => vOfF ((op (vGet h (rvRs2 w) sew i)).getD ⟨0, 0⟩)))

/-- A reduction from the first element of vs1, in element order, with the flags of each step. -/
def vReduceF (op : Nat → Nat → FRes) (l : List Nat) (x : Nat) : FRes :=
  l.foldl (fun r a => let q := op r.v a; ⟨q.v, r.fl ||| q.fl⟩) ⟨x, 0⟩

/-- Element 0 of the destination takes a reduction's result. -/
def vPutRed (h : HThread) (vd w : Nat) (r : FRes) : HThread := if h.vl == 0 then h else rvFlags (vPut h vd w 0 r.v) r.fl

def rvVflt (h : HThread) (s : State) (w : Nat) : RvOut :=
  let f6 := bits w 26 6
  let vm := bitAt w 25
  let vd := rvRd w
  let a1 := rvRs1 w
  let a2 := rvRs2 w
  let sew := vSew h
  let l8 := vL8 h
  let f := vFlt sew
  let vv := vForm w == 1
  let act := vActive h vm
  let b := vOpF h w sew
  let vs := act.map (vGet h a2 sew)
  let same := vGroup l8 vd && vGroup l8 a2 && vOneOk w l8 && vMaskOk w
  let scalar := f6 == 0x21 || f6 == 0x27 || f6 == 0x1D || f6 == 0x1F
  match rvRm h 7 with
  | none => rvIllegal h
  | some rm =>
    if f6 == 0x12 then (if vv then vUnaryF h s w rm else rvIllegal h)
    else if !vFltWidth sew then rvIllegal h
    else if f6 == 0x01 || f6 == 0x03 || f6 == 0x05 || f6 == 0x07 then
      let op := if f6 < 4 then rvAdd f rm else rvMinMax f (f6 == 7)
      vDone h s (vv && h.vstart == 0 && vGroup l8 a2) (vPutRed h vd sew (vReduceF op vs (vGet h a1 sew 0)))
    else if f6 == 0x31 || f6 == 0x33 then
      let op := fun (x a : Nat) => let y := vWiden 32 a; let q := rvAdd fp64 rm x y.v; (⟨q.v, q.fl ||| y.fl⟩ : FRes)
      vDone h s (vv && h.vstart == 0 && sew == 32 && vGroup l8 a2) (vPutRed h vd 64 (vReduceF op vs (vGet h a1 64 0)))
    else if f6 == 0x0E then
      vDone h s (!vv && same && vApart vd l8 a2 l8) (vMap h vd sew act (fun i _ => vPlain (if i == 0 then b i else vGet h a2 sew (i - 1))))
    else if f6 == 0x0F then
      vDone h s (!vv && same) (vMap h vd sew act (fun i _ => vPlain (if i + 1 == h.vl then b i else vGet h a2 sew (i + 1))))
    else if f6 == 0x10 then
      if vv then vDone h s (vm && a1 == 0) (setF h f vd (vGet h a2 sew 0))
      else vDone h s (vm && a2 == 0) (if h.vl ≤ h.vstart then h else vPut h vd sew 0 (b 0))
    else if f6 == 0x13 then (if vv then vUnaryG h s w rm else rvIllegal h)
    else if f6 == 0x17 then
      vDone h s (!vv && vGroup l8 vd && (if vm then a2 == 0 else vd != 0 && vGroup l8 a2))
        (vMap h vd sew ((List.range h.vl).drop h.vstart) (fun i _ => vPlain (if vm || vBit h 0 i then b i else vGet h a2 sew i)))
    else if (vCmpF f6 sew 0 0).isSome then
      vDone h s ((!scalar || !vv) && vMaskDest h w) (vMap h vd 1 act (fun i _ => vOfF ((vCmpF f6 sew (vGet h a2 sew i) (b i)).getD ⟨0, 0⟩)))
    else if (vAluF f6 sew rm 0 0).isSome then
      vDone h s ((!scalar || !vv) && same) (vMap h vd sew act (fun i _ => vOfF ((vAluF f6 sew rm (vGet h a2 sew i) (b i)).getD ⟨0, 0⟩)))
    else if 0x28 ≤ f6 && f6 < 0x30 then
      vDone h s same (vMap h vd sew act (fun i d => vOfF (vMacF f6 sew rm (vGet h a2 sew i) (b i) d)))
    else if sew == 32 && (vWideF f6 rm 0 0 0).isSome then
      let wide2 := f6 == 0x34 || f6 == 0x36
      let ew := if wide2 then 64 else 32
      let el := if wide2 then 2 * l8 else l8
      vDone h s (vGroup (2 * l8) vd && vGroup el a2 && vOneOk w l8 && vMaskOk w && vMeet vd 64 (2 * l8) a2 ew el &&
          (!vv || vMeet vd 64 (2 * l8) a1 32 l8))
        (vMap h vd 64 act (fun i d => vOfF ((vWideF f6 rm (vGet h a2 ew i) (b i) d).getD ⟨0, 0⟩)))
    else rvIllegal h

/-- An instruction of the vector opcode. -/
def rvVector (h : HThread) (s : State) (w : Nat) : RvOut :=
  if rvF3 w == 7 then rvVset h s w
  else if !vtypeOk h.vtype then rvIllegal h
  else
    match rvF3 w with
    | 1 => rvVflt h s w
    | 5 => rvVflt h s w
    | 2 => rvVmul h s w
    | 6 => rvVmul h s w
    | _ => rvVint h s w

end Sys2Proof.Machine
end

