-- ==== Sys2Proof/Machine/RvExec.lean ====
section
/-! DEFINITION. What a general core does in a cycle: it fetches and executes the next instruction of a hardware thread, in round-robin order
(R137 to R142). PRESUMED (log entry 62): the content of the extensions is the RISC-V specification's. -/

namespace Sys2Proof.Machine

/-- A branch or a jump. -/
def rvJump (h : HThread) (s : State) (w len : Nat) : RvOut :=
  let link := (h.pc + len) % 2 ^ 64
  match rvOpc w with
  | 0x63 =>
    match rvTaken (rvF3 w) (xReg h (rvRs1 w)) (xReg h (rvRs2 w)) with
    | none => rvIllegal h
    | some t => .ok ({ h with pc := if t then rvPlus h.pc (rvImmB w) else link }, s)
  | 0x67 =>
    let dest := rvPlus (xReg h (rvRs1 w)) (rvImmI w)
    if rvF3 w == 0 then .ok ({ setX h (rvRd w) link with pc := dest - dest % 2 }, s) else rvIllegal h
  | _ => .ok ({ setX h (rvRd w) link with pc := rvPlus h.pc (rvImmJ w) }, s)

/-- Every other instruction that goes on to the next. In user mode `EBREAK`, `WFI` and the returns of machine mode are exceptions. -/
def rvStraight (h : HThread) (s : State) (w : Nat) : RvOut :=
  let a := xReg h (rvRs1 w)
  let b := xReg h (rvRs2 w)
  let f3 := rvF3 w
  let vec := f3 == 0 || 5 ≤ f3
  match rvOpc w with
  | 0x03 => rvLoadX h s w
  | 0x07 => if vec then rvVload h s w else if f3 == 2 || f3 == 3 then rvLoadF h s w else rvIllegal h
  | 0x0F => if f3 < 2 then .ok (h, s) else rvIllegal h
  | 0x13 => rvWrites h s (rvRd w) (rvOpImm 64 w a)
  | 0x17 => .ok (setX h (rvRd w) (rvPlus h.pc (rvImmU w)), s)
  | 0x1B => rvWrites h s (rvRd w) (rvOpImm 32 w a)
  | 0x23 => rvStoreX h s w
  | 0x27 => if vec then rvVstore h s w else if f3 == 2 || f3 == 3 then rvStoreF h s w else rvIllegal h
  | 0x2F => rvAtomic h s w
  | 0x33 => rvWrites h s (rvRd w) (rvOpReg 64 w a b)
  | 0x37 => .ok (setX h (rvRd w) (ofSigned 64 (rvImmU w)), s)
  | 0x3B => rvWrites h s (rvRd w) (rvOpReg 32 w a b)
  | 0x43 => rvFused h s w
  | 0x47 => rvFused h s w
  | 0x4B => rvFused h s w
  | 0x4F => rvFused h s w
  | 0x53 => rvFloat h s w
  | 0x57 => rvVector h s w
  | 0x73 => if f3 % 4 == 0 then rvIllegal h else rvCsrOp h s w
  | _ => rvIllegal h

/-- One instruction: the thread behind it, or a trap. -/
def rvExec (h : HThread) (s : State) (w len : Nat) : RvOut :=
  if rvOpc w == 0x63 || rvOpc w == 0x67 || rvOpc w == 0x6F then rvJump h s w len
  else
    match rvStraight h s w with
    | .error t => .error t
    | .ok (h1, s1) => .ok ({ h1 with pc := (h.pc + len) % 2 ^ 64 }, s1)

/-- A trap fails the command, and the log holds the thread, the cause and the program counter or address (R141, R241). -/
def rvFail (gc : Nat) (h : HThread) (t : RvTrap) (s : State) : State := failThread 3 gc h.thread t.code t.cause 0xFFFF t.addr s

/-- The module's own instructions: custom-0 in R-type form with `funct7` 0; every other encoding is illegal (R139). Operands that Table 5.15 does
not name are x0: DESIGN CHOICE (log entry 62). -/
def rvCustom (gc ht w : Nat) (h : HThread) (s : State) : State :=
  let rd := rvRd w
  let a := rvRs1 w
  let b := rvRs2 w
  if rvF7 w != 0 then rvFail gc h (rvException h) (issued gc ht s)
  else if rvF3 w == 0 && rd == 0 && a == 0 && b == 0 then fenceSt gc ht s
  else if rvF3 w == 1 && rd == 0 then ctrWaitSt gc ht a b s
  else if rvF3 w == 2 && b == 0 then carWaitSt gc ht a rd s
  else if rvF3 w == 3 then descXltSt gc ht a b rd s
  else rvFail gc h (rvException h) (issued gc ht s)

/-- A core issues the instruction at a thread's program counter. -/
def rvIssue (gc ht : Nat) (s : State) : State :=
  match htRuns s gc ht with
  | none => s
  | some h =>
    let s0 := issued gc ht s
    match rvFetch h s with
    | .error t => rvFail gc h t s0
    | .ok (raw, len) =>
      match rvExpand raw with
      | none => rvFail gc h (rvException h) s0
      | some w =>
        if rvOpc w == 0x0B then rvCustom gc ht w h s
        else if w == 0x73 then ecallSt gc ht s
        else if rvOpc w == 0x2F && rvF3 w == 2 && bits w 27 5 == 0 then amoaddSt gc ht (rvRs1 w) (rvRs2 w) (rvRd w) s
        else
          match rvExec h s0 w len with
          | .error t => rvFail gc h t s0
          | .ok (h1, s1) => setHt gc ht { h1 with instret := (h.instret + 1) % 2 ^ 64 } s1

/-- The ready thread that is next in round-robin order (R138). -/
def nextReady (gc : Nat) (s : State) : Option Nat :=
  ((List.range 8).map (fun k => (spGet 0 gc s.run.htNext + k) % 8)).find? (fun ht => (htRuns s gc ht).isSome)

/-- Waits that are over end (R139). -/
def endWaits (gc : Nat) (s : State) : State :=
  (List.range 8).foldl (fun t ht => carWaitEndSt gc ht (ctrWaitEndSt gc ht t)) s

/-- A cycle of a core: `cycle` of its threads counts, waits end, and one instruction issues. -/
def coreCycle (gc : Nat) (s : State) : State :=
  let s1 := endWaits gc { s with run := { s.run with threads := s.run.threads.map (fun t =>
    (t.1, if t.1 / 8 == gc then { t.2 with cycle := (t.2.cycle + 1) % 2 ^ 64 } else t.2)) } }
  match nextReady gc s1 with
  | none => s1
  | some ht => rvIssue gc ht s1

/-- Every core that holds a tile thread takes a cycle, outside the low states (R456). DESIGN CHOICE (log entry 62): one cycle in each idle
step. -/
def cyclesSt (s : State) : State :=
  if s.power.ps != 0 then s
  else ((s.run.threads.map (fun t => t.1 / 8)).eraseDups).foldl (fun t gc => coreCycle gc t) s

end Sys2Proof.Machine
end

