-- ==== Sys2Proof/Machine/Clock.lean ====
section
/-! DEFINITION. What the module does when no command waits: a fenced command that may start does, else every general core with a tile thread
issues an instruction, and fabric time moves by 1 ns of its own oscillator, corrected by frequency (R303), and the PTP messages then due leave. DESIGN CHOICE (log entry 4). -/

namespace Sys2Proof.Machine

/-- One nanosecond of fabric time, in units of 2^-16 ns, with the frequency correction in force. -/
def tick (t : TimeState) : TimeState :=
  let w : Int := (t.frac : Int) + 65536 * t.freqPpb
  { t with now := (t.now + (65536 + w / 1000000000).toNat) % 2 ^ 80, frac := (w % 1000000000).toNat }

/-- Whether a period of so many ns has ended between two times. -/
def periodEnds (ns a b : Nat) : Bool := a / (ns * 65536) != b / (ns * 65536)

/-- Ports that serve and have a `TIME` value that a predicate takes. -/
def ptpPorts (fab : Fabric) (ok : Nat → Bool) : List Nat :=
  (List.range 32).filter (fun p => portServes fab p && ok (peTime (portEntry fab p)))

/-- A Sync with its Follow_Up on each child port, every 15,625,000 ns, while the module has a time to give (R300). -/
def syncsDue (s : State) (b : Nat) : List Emission :=
  if s.time.state == 0 || !periodEnds 15625000 s.time.now b then []
  else
    let q := b / (15625000 * 65536) % 65536
    (ptpPorts s.fabric (· == 3)).flatMap (fun p => [ptpOut s.fabric p 0 q b, ptpOut s.fabric p 1 q b])

/-- Ports on which a Pdelay_Req leaves: every time port, once a second. -/
def reqPorts (s : State) (b : Nat) : List Nat := if periodEnds 1000000000 s.time.now b then ptpPorts s.fabric (· != 0) else []

/-- A tick that finds the module busy breaks its idleness, so that a dwell begins no earlier (R459). -/
def watchIdle (ns : Nat) (s : State) : Power := if moduleIdle s then s.power else { s.power with idleSince := ns }

/-- Fabric time moves on. -/
def passTime (s : State) : State :=
  let t := tick s.time
  let rs := reqPorts s t.now
  let q := t.now / (1000000000 * 65536) % 65536
  (List.range 3).foldl (fun s n => resumePort t.now n s)
  { s with
    power := watchIdle (t.now >>> 16) s
    time := { t with pd := rs.foldl (fun m p => spSet p (q, stamp16 t.now, 0, 0) m) t.pd }
    out := s.out ++ syncsDue s t.now ++ rs.map (fun p => ptpOut s.fabric p 2 q t.now) }

/-- An idle step. -/
def idle (s : State) : State := passTime (cyclesSt s)

/-- Put the command that a word spells at the front of the queue; no word spells one. -/
def putFront (c : Option Instr) (s : State) : State :=
  match c with
  | none => s
  | some i => { s with pending := i :: s.pending }

end Sys2Proof.Machine
end

