-- ==== Sys2Proof/Machine/Federation.lean ====
section
/-! DEFINITION. The federation: the exchange of parameters between sites, its datagrams and the offsets of the sites' times (R343 to R346). -/

namespace Sys2Proof.Machine

/-! Fields of the federation map (Table 12.14, R343). -/

def fedSites (im : Image) : Nat := bits im.car.fedHead 32 4 + 1
def fedSite (im : Image) : Nat := bits im.car.fedHead 36 4
def fedWait (im : Image) : Nat := bits im.car.fedHead 64 32 * 1000000 * 65536
def fedDefers (im : Image) : Bool := bitAt im.car.fedHead 96

def rangeOf (im : Image) (r : Nat) : Nat := im.car.fedRanges.getD r 0
def frW (r : Nat) : Nat := bits r 0 24
def frAnchor (r : Nat) : Nat := bits r 24 24
def frFirst (r : Nat) : Nat := bits r 48 48
def frSlices (r : Nat) : Nat := bits r 96 32
def frOwner0 (r j : Nat) : Nat := bits r (128 + 32 * j) 16
def frOwner1 (r j : Nat) : Nat := bits r (144 + 32 * j) 16

/-- The lead site of a slice, and its elements. -/
def leadOf (im : Image) (f : Nat) : Nat := f % fedSites im
def sliceElems (r f : Nat) : List Nat := (List.range 256).map (frFirst r + 256 * f + ·)

/-! Updates that have been written. -/

/-- Whether an element pass updates a tensor at some element that a predicate takes. -/
def passOver (field : Nat → Nat) (i : Nat) (p : Nat → Bool) (ent : Nat) : Bool :=
  tClass ent == 0x40 && uOp (tOp ent) == 0x40 && field (tOp ent) == i && (List.range (uLength (tOp ent))).any (fun k => p (uStart (tOp ent) + k))

/-- In clip mode 2, G² is known and the units that ran a pass have repeated it where the step clips (R220). -/
def repeatsDone (s : State) (im : Image) (pass : Nat → Bool) : Bool :=
  clipMode im != 2 || !im.groups.any grClip ||
  (s.update.g2.isSome && (!stepClips s im || (im.queues.filter (fun q => q.kind == 5 && q.entries.any pass)).all (fun q => s.update.repeats.contains q.unit)))

/-- The step's updates of part of a tensor have been written: every pass over it has committed and been repeated. -/
def written (s : State) (im : Image) (field : Nat → Nat) (i : Nat) (p : Nat → Bool) : Bool :=
  allCommitted s im (passOver field i p) && repeatsDone s im (passOver field i p)

/-! Slices. -/

def isSlice (r f : Nat) (x : Slice) : Bool := x.range == r && x.slice == f
def findSlice (s : State) (r f : Nat) : Option Slice := s.federation.slices.find? (isSlice r f)
def modSlice (r f : Nat) (g : Slice → Slice) (s : State) : State :=
  { s with federation := { s.federation with slices := s.federation.slices.map (fun x => if isSlice r f x then g x else x) } }

/-- The version that the updates of a step write of a tensor. -/
def nextVer (s : State) (i st : Nat) : Nat := (spGet 0 i s.versions.local_ + 1 + 2 ^ 32 - backOf s st) % 2 ^ 32

/-- `FEDERATE` of a step: an exchange opens with every slice that this module owns; deferred Δ carry over. -/
def federate (st : Nat) (s : State) : State :=
  match envOf s with
  | none => s
  | some e =>
    let j := fedSite e.im
    let mine := e.im.car.fedRanges.zipIdx.filter (fun r => e.id != 0xFFFF && (frOwner0 r.1 j == e.id || frOwner1 r.1 j == e.id))
    let new := mine.flatMap (fun r => (List.range (frSlices r.1)).map (fun f =>
      ({ range := r.2, slice := f, departed := s.time.now, ver := nextVer s (frW r.1) st, deltas := [], late := ((findSlice s r.2 f).map (·.late)).getD [], sent := none,
         combined := false, done := false, resend := [] } : Slice)))
    { s with federation := { s.federation with xchg := (s.federation.xchg + 1) % 2 ^ 32, slices := new } }

/-! Datagrams (Table 12.15). -/

/-- The host port from which datagrams leave: the lowest that is up. DESIGN CHOICE (log entry 27). -/
def fedPort (s : State) : Nat := (s.host.ports.findIdx? (·.up)).getD 0

/-- Send a datagram of a slice to a module of a site. -/
def fedSend (im : Image) (ftype site m r f : Nat) (data : List Byte) (s : State) : State :=
  match s.federation.addrs.find? (fun a => a.1 == site && a.2.1 == m) with
  | none => s
  | some (_, _, udp, ip) =>
    let now := nowNs s
    let echo := spGet (0, now) site s.federation.lastTx
    let h := pack [(0, 8, 0x46), (8, 4, 1), (12, 4, ftype), (16, 4, fedSite im), (20, 6, 32), (32, 32, s.federation.xchg),
      (64, 24, frW (rangeOf im r)), (88, 40, f), (128, 64, now), (192, 32, echo.1 % 2 ^ 32), (224, 32, min (now - echo.2) (2 ^ 32 - 1))]
    emit [.fed (fedPort s) ip udp h (ofLe data) data.length (tag16 s.federation.key (leBytes 32 h ++ data))] s

/-- A datagram that passes the checks of R345. -/
def fedGood (s : State) (im : Image) (ftype : Nat) (g : FedDgram) : Bool :=
  bits g.header 0 8 == 0x46 && bits g.header 8 4 == 1 && bits g.header 12 4 == ftype && bits g.header 20 6 == 32 && bits g.header 26 6 == 0 &&
  bits g.header 16 4 < fedSites im && bits g.header 32 32 == s.federation.xchg && g.dataLen == (if ftype == 2 then 0 else 1280) &&
  g.tag == tag16 s.federation.key (leBytes 32 g.header ++ leBytes g.dataLen g.data)

/-- A discarded federation datagram is counted on its host port. -/
def fedDiscard (port : Nat) (s : State) : State :=
  { s with host := modHostPort s.host port (fun x => { x with fedDiscards := tick64 x.fedDiscards }) }

/-- Offset and round trip from a datagram of a peer site that echoes one of this site's (R346). -/
def fedClock (im : Image) (g : FedDgram) (s : State) : State :=
  let site := bits g.header 16 4
  if site == fedSite im then s
  else
    let t4 := nowNs s
    let t3 := bits g.header 128 64
    let echo := bits g.header 192 32
    let dwell := bits g.header 224 32
    let t1 : Int := (t4 : Int) - (((t4 : Int) - echo) % 4294967296)
    let t2 : Int := (t3 : Int) - dwell
    let pair := (((t2 - t1) + ((t3 : Int) - t4)) / 2, ((t4 : Int) - t1) - dwell)
    let f := s.federation
    let peers := if echo == 0 && dwell == 0 then f.peers else spSet site (keepLast 64 (spGet [] site f.peers ++ [pair])) f.peers
    { s with federation := { f with peers := peers, lastTx := spSet site (t3, t4) f.lastTx } }

/-- The range of a datagram that holds its slice. -/
def fedRange (im : Image) (g : FedDgram) : Option Nat :=
  im.car.fedRanges.findIdx? (fun r => frW r == bits g.header 64 24 && decide (bits g.header 88 40 < frSlices r))

def fedVals (g : FedDgram) : List Nat := cutNats 5 256 (leBytes 1280 g.data)

/-! The acts of an exchange (R344). -/

/-- The half of a tensor that holds a version. -/
def halfFor (e : Env) (i ver : Nat) : Nat := if doubled e.im i then ver % 2 else 0

/-- The updates of a slice have been written; those of a step that the module has left have. -/
def sliceWritten (s : State) (im : Image) (rg f ver : Nat) : Bool :=
  ver != nextVer s (frW rg) s.run.step || written s im uW (frW rg) (sliceElems rg f).contains

def anchorAt (e : Env) (r x : Nat) : FV := valueOr (readPlain e (descOf e.im (frAnchor r)) (curHalf e (frAnchor r)) x)

/-- The first element of a slice's master or anchor that cannot be read. -/
def sliceFault (e : Env) (r f ver : Nat) : Option (Nat × Nat) :=
  match readFault e (descOf e.im (frW r)) (halfFor e (frW r) ver) (sliceElems r f) with
  | some x => some x
  | none => readFault e (descOf e.im (frAnchor r)) (curHalf e (frAnchor r)) (sliceElems r f)

/-- Δ of a slice in P40. -/
def deltaVals (e : Env) (r f ver : Nat) : List Nat :=
  (sliceElems r f).map (fun x => enc40 (fvSub (valueOr (readPlain e (descOf e.im (frW r)) (halfFor e (frW r) ver) x)) (anchorAt e r x)))

/-- `FEDERATION_DELTA_SEND`: the first-listed owner forms Δ; one at the lead keeps it, any other sends it. -/
def deltaSendSt (r f : Nat) (s : State) : State :=
  match envOf s, findSlice s r f with
  | some e, some x =>
    let rg := rangeOf e.im r
    let site := fedSite e.im
    if !s.run.active || x.done || x.combined || x.sent.isSome || x.deltas.any (fun d => d.1 == site) || frOwner0 rg site != e.id ||
        !sliceWritten s e.im rg f x.ver then s
    else
      match sliceFault e rg f x.ver with
      | some (c, a) => failBytes c a 1 s
      | none =>
      let v := deltaVals e rg f x.ver
      let lead := leadOf e.im f
      if lead == site then modSlice r f (fun y => { y with deltas := y.deltas ++ [(site, v)] }) s
      else fedSend e.im 0 lead (frOwner0 rg lead) r f (p40Bytes v)
        (modSlice r f (fun y => { y with sent := some (0, v), resend := [(lead, frOwner0 rg lead)] }) s)
  | _, _ => s

/-- `DELTA`; one that comes after the lead has combined, or after its wait, is late. -/
def deltaSt (port : Nat) (g : FedDgram) (s : State) : State :=
  match s.image with
  | none => fedDiscard port s
  | some im =>
    if !fedGood s im 0 g then fedDiscard port s
    else
      let s1 := fedClock im g s
      match fedRange im g with
      | none => fedDiscard port s1
      | some r =>
        let f := bits g.header 88 40
        let site := bits g.header 16 4
        let rg := rangeOf im r
        match findSlice s1 r f with
        | none => fedDiscard port s1
        | some x =>
          let ended := x.combined || x.done || decide (x.departed + fedWait im ≤ s.time.now)
          if leadOf im f != fedSite im || frOwner0 rg (fedSite im) != myId s.fabric then fedDiscard port s1
          else if x.deltas.any (fun d => d.1 == site) || x.late.any (fun d => ended && d.1 == site) then
            fedSend im 2 site (frOwner0 rg site) r f [] s1
          else if ended then
            (if fedDefers im then fedSend im 2 site (frOwner0 rg site) r f [] (modSlice r f (fun y => { y with late := y.late ++ [(site, fedVals g)] }) s1)
             else fedDiscard port s1)
          else fedSend im 2 site (frOwner0 rg site) r f [] (modSlice r f (fun y => { y with deltas := y.deltas ++ [(site, fedVals g)] }) s1)

/-- A site's Δ with what it deferred. -/
def siteDelta (x : Slice) (j k : Nat) : Option FV :=
  match x.deltas.find? (fun d => d.1 == j) with
  | none => none
  | some d => some ((x.late.filter (fun l => l.1 == j)).foldl (fun a l => add40 a (dec40 (l.2.getD k 0))) (dec40 (d.2.getD k 0)))

/-- w_new of a slice, in the master's format, as values. -/
def combineVals (e : Env) (rg f : Nat) (x : Slice) : List FV :=
  let k := x.deltas.length
  (sliceElems rg f).zipIdx.map (fun el =>
    let d := sum40 ((List.range (fedSites e.im)).map (fun j => siteDelta x j el.2))
    let w := add40 (anchorAt e rg el.1) (r40 (fvDiv d (fvNat k)))
    let fmt := dFmt (descOf e.im (frW rg))
    scalarElem fmt (convScalar fmt FV.one .rne w).1)

/-- The published copy of a master, by the element passes that update it. -/
def pubOfMaster (im : Image) (w : Nat) : Option Nat :=
  ((elementPasses im).find? (fun t => uW (tOp t) == w)).map (fun t => uPub (tOp t))

/-- An owner writes w_new as master and anchor, and derives the published copy (R214). -/
def takeResult (rg f ver : Nat) (vals : List FV) (s : State) : State :=
  match envOf s with
  | none => s
  | some e =>
    let els := sliceElems rg f
    let put := fun (i half : Nat) (m : Memory) => (els.zip vals).foldl (fun m v =>
      let d := descOf e.im i
      match elemAddr e d half v.1 with
      | none => m
      | some a => vaPut m e.im.regions a (leBytes (fmtBytes (dFmt d)) (convScalar (dFmt d) FV.one .rne v.2).1)) m
    let at_ := fun (i half : Nat) => els.filterMap (fun x => (elemAddr e (descOf e.im i) half x).map (fun a => (a, fmtBytes (dFmt (descOf e.im i)))))
    match rangeFault e 2 (at_ (frAnchor rg) (curHalf e (frAnchor rg)) ++ at_ (frW rg) (halfFor e (frW rg) ver)) with
    | some (c, a) => failBytes c a 1 s
    | none =>
    let m1 := put (frAnchor rg) (curHalf e (frAnchor rg)) (put (frW rg) (halfFor e (frW rg) ver) s.memory)
    match pubOfMaster e.im (frW rg) with
    | none => { s with memory := m1 }
    | some p =>
      let e1 := { e with mem := m1 }
      let st := storeInto e1 s.scales.events p (halfFor e p ver) (fun _ _ => .rne) (els.zip vals)
      let s1 := countEvents p st { s with memory := applyWrites e1 st.writes m1 }
      if st.fail != 0 then failBytes st.fail st.failAddr 1 s1 else s1

/-- Send what a slice holds to every owner that has not acknowledged it. -/
def sendAll (im : Image) (r f : Nat) (s : State) : State :=
  match findSlice s r f with
  | none => s
  | some x =>
    match x.sent with
    | none => s
    | some (ty, v) => x.resend.foldl (fun t d => fedSend im ty d.1 d.2 r f (p40Bytes v) t) s

/-- `FEDERATION_COMBINE`. -/
def combineSt (r f : Nat) (s : State) : State :=
  match envOf s, findSlice s r f with
  | some e, some x =>
    let rg := rangeOf e.im r
    let site := fedSite e.im
    let want := (List.range (fedSites e.im)).filter (fun j => frOwner0 rg j != 0xFFFF)
    let all := want.all (fun j => x.deltas.any (fun d => d.1 == j))
    if !s.run.active || x.done || x.combined || leadOf e.im f != site || frOwner0 rg site != e.id || !x.deltas.any (fun d => d.1 == site) ||
        (!all && s.time.now < x.departed + fedWait e.im) then s
    else
      match sliceFault e rg f x.ver with
      | some (c, a) => failBytes c a 1 s
      | none =>
      let vals := combineVals e rg f x
      let dests := ((List.range (fedSites e.im)).flatMap (fun j => (if j == site then [] else [(j, frOwner0 rg j)]) ++ [(j, frOwner1 rg j)])).filter
        (fun d => d.2 != 0xFFFF)
      let s1 := modSlice r f (fun y =>
        { y with combined := true, done := true, late := y.late.filter (fun l => !y.deltas.any (fun d => d.1 == l.1)),
                 sent := some (1, vals.map enc40), resend := dests }) s
      sendAll e.im r f (takeResult rg f x.ver vals s1)
  | _, _ => s

/-- `RESULT`. -/
def resultSt (port : Nat) (g : FedDgram) (s : State) : State :=
  match envOf s with
  | none => fedDiscard port s
  | some e =>
    if !fedGood s e.im 1 g then fedDiscard port s
    else
      let s1 := fedClock e.im g s
      match fedRange e.im g with
      | none => fedDiscard port s1
      | some r =>
        let f := bits g.header 88 40
        let site := bits g.header 16 4
        let rg := rangeOf e.im r
        match findSlice s1 r f with
        | none => fedDiscard port s1
        | some x =>
          let ackIt := fedSend e.im 2 site (frOwner0 rg site) r f []
          if site != leadOf e.im f || (leadOf e.im f == fedSite e.im && frOwner0 rg site == e.id) then fedDiscard port s1
          else if x.combined then ackIt s1
          else if x.done || !sliceWritten s e.im rg f x.ver then fedDiscard port s1
          else ackIt (takeResult rg f x.ver ((fedVals g).map dec40) (modSlice r f (fun y => { y with combined := true, done := true, resend := [] }) s1))

/-- `FEDERATION_RESULT_TIMEOUT`. -/
def resultTimeoutSt (r f : Nat) (s : State) : State :=
  match s.image, findSlice s r f with
  | some im, some x =>
    if x.done || !s.run.active || s.time.now < x.departed + 2 * fedWait im then s
    else warnRun 0x0507 (modSlice r f (fun y => { y with done := true, resend := [] }) s)
  | _, _ => s

/-- `FEDERATION_RESEND_TIMER`. -/
def resendSt (r f : Nat) (s : State) : State :=
  match s.image, findSlice s r f with
  | some im, some x => if x.departed + 2 * fedWait im ≤ s.time.now then s else sendAll im r f s
  | _, _ => s

/-- `ACK`. -/
def fedAckSt (port : Nat) (g : FedDgram) (s : State) : State :=
  match s.image with
  | none => fedDiscard port s
  | some im =>
    if !fedGood s im 2 g then fedDiscard port s
    else
      let s1 := fedClock im g s
      match fedRange im g, s.federation.addrs.find? (fun a => a.1 == bits g.header 16 4 && a.2.2.2 == g.srcIp) with
      | some r, some a => modSlice r (bits g.header 88 40) (fun y => { y with resend := y.resend.filter (· != (a.1, a.2.1)) }) s1
      | _, _ => fedDiscard port s1

def execFederationDeltaSend (range slice : Nat) (s : State) : Host.Outcome State Fault Refusal := .next (deltaSendSt range slice s)
def execDelta (port : Nat) (g : FedDgram) (s : State) : Host.Outcome State Fault Refusal := .next (deltaSt port g s)
def execFederationCombine (range slice : Nat) (s : State) : Host.Outcome State Fault Refusal := .next (combineSt range slice s)
def execResult (port : Nat) (g : FedDgram) (s : State) : Host.Outcome State Fault Refusal := .next (resultSt port g s)
def execFederationResultTimeout (range slice : Nat) (s : State) : Host.Outcome State Fault Refusal := .next (resultTimeoutSt range slice s)
def execFederationResendTimer (range slice : Nat) (s : State) : Host.Outcome State Fault Refusal := .next (resendSt range slice s)
def execAck (port : Nat) (g : FedDgram) (s : State) : Host.Outcome State Fault Refusal := .next (fedAckSt port g s)

end Sys2Proof.Machine
end

