-- ==== Sys2Proof/Machine/Publish.lean ====
section
/-! DEFINITION. Publication of shards, version states and acknowledgements, and checkpoints (R338 to R342, R379 to R383, R554). -/

namespace Sys2Proof.Machine

/-! Version states (Table 14.7). -/

def isVer (pub shard : Nat) (v : ShardVer) : Bool := v.pub == pub && v.shard == shard

def modVer (pub shard : Nat) (f : ShardVer → ShardVer) (s : State) : State :=
  { s with versions := { s.versions with shards := s.versions.shards.map (fun v => if isVer pub shard v then f v else v) } }

/-- A shard's version state at load. -/
def newVer (pub shard : Nat) : ShardVer :=
  { pub := pub, shard := shard, cur := 0, pubStep := 0xFFFFFFFF, half0 := 0, half1 := 0xFFFFFFFF, rxVer := 0, frames := [], total := none,
    departed := none, pver := 0, sent := false }

/-- A publish entry of a tensor held whole (R338). -/
def isWhole (e : Env) (pub : Nat) : Bool := dOwners (descOf e.im (puPub (pubOf e.im pub))) == 0

/-- A tensor held whole, as one shard. -/
def wholeShard (d : Nat) : Nat := pack [(40, 24, tileCount d), (64, 16, 0xFFFF), (80, 16, 0xFFFF)]

def pubDesc (e : Env) (pub : Nat) : Nat := descOf e.im (puPub (pubOf e.im pub))

/-- Shards of a publish entry under the table in force. -/
def pubShards (e : Env) (pub : Nat) : List Nat :=
  if isWhole e pub then [wholeShard (pubDesc e pub)] else ownShards e (dOwners (pubDesc e pub))

/-- Number of the k-th reducing step from the current one on. -/
def reducingFrom (s : State) (k : Nat) : Nat :=
  if (s.image.map isFederated).getD false then (s.run.step + k) % 2 ^ 32
  else (s.run.step + (s.run.n - 1 - s.run.count % s.run.n) + k * s.run.n) % 2 ^ 32

/-- The reducing step that ended k reducing steps before the last one that ended. -/
def lastReduced (s : State) (k : Nat) : Nat := (((s.run.records.filter (·.reduced)).reverse[k]?).map (·.step)).getD 0xFFFFFFFF

/-- The step whose publication carries a version. -/
def stepOfVersion (s : State) (pub pver : Nat) : Nat :=
  let d := (pver + 2 ^ 32 - expectedVer s pub) % 2 ^ 32
  if d == 0 then lastReduced s 0 else if 2 ^ 31 ≤ d then lastReduced s (2 ^ 32 - d) else reducingFrom s (d - 1)

/-- A shard becomes current. -/
def makeCurrent (pub shard pver : Nat) (s : State) : State :=
  let st := stepOfVersion s pub pver
  modVer pub shard (fun v =>
    { v with cur := pver, pubStep := st, half0 := if pver % 2 == 0 then pver else v.half0, half1 := if pver % 2 == 1 then pver else v.half1,
             frames := [], total := none }) s

/-! The stream (R339). -/

/-- Address of a logical tile of a tensor in a half, none where it is not held here. -/
def tileAddr (e : Env) (d half t : Nat) : Option Nat :=
  if dOwners d == 0 then (tileElem d t 0 0).bind (elemAddr e d half)
  else (localTile e.id (shardsOf e d) t 0).map (fun k => dBase d + halfOff e d half + k * tileBytes d)

/-- Place of the unit that holds an element within its stored tile (R232, R233). -/
def innerOff (d idx : Nat) : Nat :=
  let cs := coordsOf (dDims d) idx
  let x1 := if dRank d < 2 then 0 else memCoord d cs 1
  if fmtBlock (dFmt d) then x1 % 64 * unitSize d else (x1 % 64 * 64 + memCoord d cs 0 % 64) * unitSize d

/-- Where the bytes of a published tile stand in a tensor: offset in the tile, address, length. A `TILED` tensor takes the tile whole;
a `LINEAR` one takes each of its units at that unit's address. DEDUCED (log entry 89). -/
def tilePieces (e : Env) (d half t : Nat) : List (Nat × Nat × Nat) :=
  if dLayout d == 1 then (tileAddr e d half t).toList.map (fun a => (0, a, tileBytes d))
  else
    (List.range 64).flatMap (fun r => (List.range 64).filterMap (fun c =>
      match tileElem d t r c with
      | none => none
      | some i =>
        if fmtBlock (dFmt d) && memCoord d (coordsOf (dDims d) i) 0 % 64 != 0 then none
        else (elemAddr e d half i).map (fun a => (innerOff d i, a, unitSize d))))

/-- Bytes of a shard. -/
def shardBytes (d sh : Nat) : Nat := shTiles sh * tileBytes d

def readShard (e : Env) (d half sh : Nat) : List Byte :=
  (shardTiles sh).flatMap (fun t => match tileAddr e d half t with
    | none => List.replicate (tileBytes d) 0
    | some a => vaPeek e.mem e.im.regions a (tileBytes d))

/-- The first code that a read of a shard meets, with its address. -/
def shardFault (e : Env) (d half sh : Nat) : Option (Nat × Nat) :=
  (shardTiles sh).findSome? (fun t => match tileAddr e d half t with
    | none => none
    | some a => match vaRead e.mem e.im.regions 0 a (tileBytes d) with
      | .error c => some (c, a)
      | .ok _ => none)

/-- Chunks of a shard whose exponents travel with it. -/
def expChunks (im : Image) (pub sh : Nat) : List Nat :=
  if puColl (pubOf im pub) == 0xFFF then [] else (shardTiles sh).flatMap (fun t => [2 * t, 2 * t + 1])

/-- The sums of squares of w before the update and of Δw over a shard (R224). -/
def shardNorms (e : Env) (pub sh half : Nat) : Nat × Nat :=
  let p := puPub (pubOf e.im pub)
  let ps := (elementPasses e.im).filter (fun t => uPub (tOp t) == p)
  match ps.head? with
  | none => (0, 0)
  | some t =>
    let w := descOf e.im (uW (tOp t))
    let els := shardElems (pubDesc e pub) sh
    let parts := ((ps.map (fun t => rangeIn els (uStart (tOp t)) (uLength (tOp t)))).filter (fun r => r.1 < r.2)).eraseDups
    let sorted := (List.range (els.length + 1)).flatMap (fun p => parts.filter (fun r => r.1 == p))
    let at_ := fun (h x : Nat) => valueOr (readPlain e w h x)
    let ws := els.map (fun x => let v := at_ (half + 1) x; mul40 v v)
    let us := els.map (fun x => let v := r40 (fvSub (at_ half x) (at_ (half + 1) x)); mul40 v v)
    (enc40 (shardTree ws sorted), enc40 (shardTree us sorted))

/-- The first failure of what a shard's publication reads, its tail's sums among it, as code, address and bytes. -/
def pubFault (e : Env) (pub half sh : Nat) : Option (Nat × Nat × Nat) :=
  match shardFault e (pubDesc e pub) half sh with
  | some (c, a) => some (c, a, tileBytes (pubDesc e pub))
  | none => match rangesFault e.mem e.im.regions ((expChunks e.im pub sh).flatMap (fun c =>
      (histAddr e (puColl (pubOf e.im pub)) c 0).toList.map (·, 16))) with
  | some (c, a) => some (c, a, 1)
  | none => match (elementPasses e.im).find? (fun t => uPub (tOp t) == puPub (pubOf e.im pub)) with
    | none => none
    | some t =>
      let w := descOf e.im (uW (tOp t))
      let els := shardElems (pubDesc e pub) sh
      match readFault e w (half + 1) els, readFault e w half els with
      | some (c, a), _ => some (c, a, 1)
      | none, some (c, a) => some (c, a, 1)
      | none, none => none

/-- The exponent bytes and the tail of a shard's stream. -/
def streamEnd (e : Env) (pub sh half : Nat) : List Byte :=
  let n := shardNorms e pub sh half
  (expChunks e.im pub sh).map (fun c => BitVec.ofNat 8 (nextExp e (puColl (pubOf e.im pub)) c)) ++ leBytes 5 n.1 ++ leBytes 5 n.2 ++ List.replicate 6 0

/-- Frames of a stream as offset and payload: 8,192 bytes each, the tail whole in the last (R339, R350; log entry 28). -/
def cutStream : Nat → Nat → List Byte → List (Nat × List Byte)
  | 0, _, _ => []
  | k + 1, off, l =>
    if l.length ≤ 8192 then [(off, l)]
    else
      let n := if l.length < 8192 + 16 then 7936 else 8192
      (off, l.take n) :: cutStream k (off + n / 256) (l.drop n)

/-! Landing (R341). -/

/-- Write part of a shard's bytes, from a position on, into a tensor. -/
def putShard (e : Env) (d half sh pos : Nat) (bs : List Byte) (m : Memory) : Memory :=
  let tb := tileBytes d
  (shardTiles sh).zipIdx.foldl (fun m t =>
    if min (pos + bs.length) ((t.2 + 1) * tb) ≤ max pos (t.2 * tb) then m
    else (tilePieces e d half t.1).foldl (fun m p =>
      let at_ := t.2 * tb + p.1
      let lo := max pos at_
      let hi := min (pos + bs.length) (at_ + p.2.2)
      if hi ≤ lo then m else vaPut m e.im.regions (p.2.1 + (lo - at_)) ((bs.drop (lo - pos)).take (hi - lo))) m) m

/-- Write exponent bytes of a shard's chunks, from a position on. -/
def putExps (e : Env) (pub sh half pos : Nat) (bs : List Byte) (m : Memory) : Memory :=
  let d := descOf e.im (coAexp (collOf e.im (puColl (pubOf e.im pub))))
  ((expChunks e.im pub sh).drop pos).zip bs |>.foldl (fun m c =>
    match elemAddr e d half c.1 with
    | none => m
    | some a => vaPut m e.im.regions a [c.2]) m

/-- Groups that the passes over a published tensor update. -/
def groupsOfPub (im : Image) (pub : Nat) : List Nat :=
  (((elementPasses im).filter (fun t => uPub (tOp t) == puPub (pubOf im pub))).map (fun t => uGroup (tOp t))).eraseDups

/-- Publish entries of a group. -/
def pubsOfGroup (im : Image) (g : Nat) : List Nat := (List.range im.car.pubs.length).filter (fun p => (groupsOfPub im p).contains g)

/-- A shard's tail enters the norm table: a group's figures are complete with the sums of all its shards (R223, R224). -/
def noteTail (pub shard pver w u : Nat) (s : State) : State :=
  match envOf s with
  | none => s
  | some e =>
    let rest := s.update.pubNorms.filter (fun x => !(x.1 == pub && x.2.1 == shard))
    let s1 := { s with update := { s.update with pubNorms := rest ++ [(pub, shard, pver, w, u)] } }
    (groupsOfPub e.im pub).foldl (fun t g =>
      let want := (pubsOfGroup e.im g).flatMap (fun p => (List.range (pubShards e p).length).map (fun k => (p, k)))
      let sums := want.map (fun pk => t.update.pubNorms.find? (fun x => x.1 == pk.1 && x.2.1 == pk.2 && x.2.2.1 == pver))
      if sums.any (·.isNone) then t
      else
        let l := sums.filterMap id
        let total := fun (f : Nat × Nat × Nat × Nat × Nat → Nat) => enc32 (fvSqrt (sum40all (l.map (fun x => dec40 (f x)))))
        noteNorm g (stepOfVersion t pub pver) (fun n =>
          noteRatio { n with wValid := true, uValid := true, wNorm := total (fun x => x.2.2.2.1), uNorm := total (fun x => x.2.2.2.2) }) t) s1

/-- Land bytes of a shard's stream from a position on: parameters on a reader, exponents, and the tail when it comes. -/
def landStream (pub shard pver pos : Nat) (sh : Nat) (bs : List Byte) (s : State) : State :=
  match envOf s with
  | none => s
  | some e =>
    let half := pver % 2
    let recv := puRecv (pubOf e.im pub)
    let n := shardBytes (pubDesc e pub) sh
    let x := (expChunks e.im pub sh).length
    let reads := (readersOf e.im pub).contains e.id && recv != puPub (pubOf e.im pub)
    match if reads then rangeFault e 18 ((shardTiles sh).flatMap (fun t =>
        (tilePieces e (descOf e.im recv) half t).map (·.2))) else none with
    | some (c, a) => failBytes c a 1 s
    | none =>
    let m1 := if reads then putShard e (descOf e.im recv) half sh pos (bs.take (n - pos)) s.memory else s.memory
    let m2 := putExps e pub sh half (pos - n) ((bs.drop (n - pos)).take (n + x - max pos n)) m1
    let s1 := { s with memory := m2 }
    if n + x + 16 ≤ pos + bs.length then
      let t := bs.drop (n + x - pos)
      noteTail pub shard pver (ofLe (t.take 5)) (ofLe ((t.drop 5).take 5)) s1
    else s1

/-! Sending (R340). -/

/-- `PUBLISH` of a step departs: the shards owned here, with their owner table entries, wait to be published. -/
def publishDeparts (pub st : Nat) (s : State) : State :=
  match envOf s with
  | none => s
  | some e =>
    (pubShards e pub).zipIdx.foldl (fun t sh =>
      if isWhole e pub || shOwns e.id sh.1 then
        modVer pub sh.2 (fun v => { v with departed := some sh.1, pver := (expectedVer s pub + 1 + 2 ^ 32 - backOf s st) % 2 ^ 32, sent := false }) t
      else t) s

/-- Elements of a shard. -/
def inShard (d sh x : Nat) : Bool := decide (shFirst sh ≤ tileOf d x) && decide (tileOf d x < shFirst sh + shTiles sh)

/-- The step's `FEDERATE` has departed. -/
def federateDone (s : State) (im : Image) : Bool :=
  im.car.entries.zipIdx.all (fun x => caAction x.1 != 7 || s.reductions.departures.any (fun d => d.1 == x.2 && d.2.1 == s.run.step))

/-- The updates of a shard's version have been written, and where their step is an exchange step its slices are done. Those of a step that the
module has left have been written. -/
def shardWritten (s : State) (e : Env) (pub pver sh : Nat) : Bool :=
  let d := pubDesc e pub
  (pver != (expectedVer s pub + 1) % 2 ^ 32 || written s e.im uPub (puPub (pubOf e.im pub)) (inShard d sh)) &&
  (pver != (expectedVer s pub + 1) % 2 ^ 32 || !exchangeStep s || federateDone s e.im) && s.federation.slices.all (fun x =>
    let rg := rangeOf e.im x.range
    x.done || x.ver != pver || pubOfMaster e.im (frW rg) != some (puPub (pubOf e.im pub)) || !(sliceElems rg x.slice).any (inShard d sh))

/-- A departed shard that has still to be published, and may be now. -/
def publishable (s : State) (e : Env) (v : ShardVer) : Bool :=
  !v.sent && (match v.departed with
    | none => false
    | some sh => s.run.active && shardWritten s e v.pub v.pver sh)

/-- `SHARD_PUBLICATION`: the shard's bytes, exponents and tail are taken locally, and its first-listed owner streams them. -/
def shardPubSt (pub shard : Nat) (s : State) : State :=
  match envOf s, findVer s pub shard with
  | some e, some v =>
    match v.departed with
    | none => s
    | some sh =>
      if !publishable s e v || s.versions.shards.any (fun u => u.pub == pub && u.shard < shard && publishable s e u) then s
      else
        let d := pubDesc e pub
        match pubFault e pub (v.pver % 2) sh with
        | some (c, a, n) => failBytes c a n s
        | none =>
          let bytes := readShard e d (v.pver % 2) sh ++ streamEnd e pub sh (v.pver % 2)
          let s1 := modVer pub shard (fun v => { v with sent := true }) s
          let s2 := if v.cur == v.pver then s1 else makeCurrent pub shard v.pver (landStream pub shard v.pver 0 sh bytes s1)
          if isWhole e pub || speaker s sh != e.id then s2
          else
            let l := cutStream (bytes.length + 1) 0 bytes
            sendOrFail (l.zipIdx.map (fun f => (some (dFmt d), mkFrame s.fabric 3 true (puMcast (pubOf e.im pub)) (shard % 256)
              [(128, 12, pub), (140, 24, shard), (164, 32, v.pver), (196, 32, f.1.1), (228, 1, b2n (f.2 + 1 == l.length))] f.1.2))) s2
  | _, _ => s

/-- `PUBLISH`: a frame of a stream lands; with every byte up to the trailer in, the shard is current. -/
def publishSt (f : Frame) (s : State) : State :=
  let pub := tsp f 128 12
  let shard := tsp f 140 24
  let pver := tsp f 164 32
  let off := tsp f 196 32
  match envOf s, findVer s pub shard with
  | some e, some v =>
    if f.ftype != 3 then takeFrame f (discardOn (portOf s f) s)
    else
      match (pubShards e pub)[shard]? with
      | none => takeFrame f (discardOn (portOf s f) s)
      | some sh =>
        let ahead := (pver + 2 ^ 32 - v.cur) % 2 ^ 32
        if ahead == 0 || 2 ^ 31 ≤ ahead || (v.rxVer == pver && v.frames.any (fun x => x.1 == off)) then duplicate f s
        else
          let s1 := modVer pub shard (fun v =>
            let old := if v.rxVer == pver then v.frames else []
            { v with rxVer := pver, frames := old ++ [(off, f.payload.length)],
                     total := if tsp f 228 1 == 1 then some (256 * off + f.payload.length) else (if v.rxVer == pver then v.total else none) })
            (takeFrame f s)
          let s2 := landStream pub shard pver (256 * off) sh f.payload s1
          match (findVer s2 pub shard) with
          | none => s2
          | some u =>
            if u.total == some ((u.frames.map (·.2)).foldl (· + ·) 0) then makeCurrent pub shard pver s2 else s2
  | _, _ => takeFrame f (discardOn (portOf s f) s)

def execShardPublication (pub shard : Nat) (s : State) : Host.Outcome State Fault Refusal := .next (shardPubSt pub shard s)
def execPublish (f : Frame) (s : State) : Host.Outcome State Fault Refusal := .next (ofType f 3 none (publishSt f s) s)

/-! Acknowledgements of backward passes (R381, R382). -/

def ackMcast (im : Image) : Nat := bits im.mapHead 192 16
def bwdCtr (im : Image) : Nat := bits im.mapHead 208 16
def bwdValue (im : Image) : Nat := bits im.mapHead 224 32

/-- A module's acknowledgement of a step, kept plus 1. -/
def noteAck (m step : Nat) (s : State) : State :=
  { s with versions := { s.versions with acks := spSet m (max (spGet 0 m s.versions.acks) (step + 1)) s.versions.acks } }

/-- The step's acknowledgement leaves, once. -/
def sendBwdAck (s : State) : State :=
  match s.image with
  | none => s
  | some im =>
    if s.versions.ackSent then s
    else
      let s1 := noteAck (myId s.fabric) s.run.step { s with versions := { s.versions with ackSent := true } }
      sendOrFail [(none, mkFrame s.fabric 7 true (ackMcast im) 0 [(128, 8, 2), (136, 32, s.run.step)] [])] s1

/-- `BWD_ACK_SEND`: the counter has reached its value in this step. -/
def bwdAckSendSt (s : State) : State :=
  match s.image with
  | none => s
  | some im => if s.run.active && s.run.begun && bwdCtr im != 0xFFFF && waitMet s (bwdCtr im) (bwdValue im) then sendBwdAck s else s

/-- `BWD_ACK`. -/
def bwdAckSt (f : Frame) (s : State) : State :=
  if f.ftype != 7 || tsp f 128 8 != 2 then takeFrame f (discardOn (portOf s f) s) else noteAck f.src (tsp f 136 32) (takeFrame f s)

def execBwdAckSend (s : State) : Host.Outcome State Fault Refusal := .next (bwdAckSendSt s)
def execBwdAck (f : Frame) (s : State) : Host.Outcome State Fault Refusal := .next (ofType f 7 (some (8, 2)) (bwdAckSt f s) s)

/-! Checkpoints (R342). -/

/-- `CHECKPOINT` departs: its list starts, or waits for the one still running. The version is that of this step's publication. -/
def checkpointDeparts (list st : Nat) (s : State) : State :=
  let v := ringOf s st + 1
  { s with ckpt := match s.ckpt.active with
    | none => { s.ckpt with active := some (list, 0, st, v) }
    | some _ => { s.ckpt with waiting := s.ckpt.waiting ++ [(list, st, v)] } }

/-- Whether an update entry writes a tensor. -/
def updWrites (i ent : Nat) : Bool :=
  let o := tOp ent
  tClass ent == 0x40 && (if uOp o == 0x40 then uW o == i || uS0 o == i || uS1 o == i || uPub o == i else uRc o == i)

/-- The last update entry of a step that writes a tensor has committed, its passes repeated where the step clips. -/
def sourceReady (s : State) (im : Image) (i step : Nat) : Bool :=
  s.run.records.any (fun r => r.step == step && r.valid) ||
  (s.run.active && s.run.step == step && allCommitted s im (updWrites i) && (!(im.queues.flatMap (·.entries)).any (updWrites i) || repeatsDone s im (updWrites i)))

/-- Bytes, history record and tile offsets of a pair. -/
def copyPair (e : Env) (ring src dst v : Nat) : Except (Nat × Nat) (List Write) :=
  let d := descOf e.im src
  let t := descOf e.im dst
  let hs := if doubled e.im src then (verOf e src + v + ring) % 2 else 0
  let ht := if doubled e.im dst then (verOf e src + v + ring) % 2 else 0
  let unit := fun (x : Nat) =>
    match elemAddr e d hs x, elemAddr e t ht x with
    | some _, some b => match readRaw e d hs x with
      | .error c => .error c
      | .ok raw => .ok [{ addr := b, bytes := leBytes (unitSize d) raw : Write }]
    | _, _ => .ok []
  match readAll unit (unitStarts e src) with
  | .error (c, x) => .error (c, faultAddr e d hs x)
  | .ok l => match (putFault e l.flatten).orElse (fun _ =>
      if fmtScaled (dFmt d) then rangesFault e.mem e.im.regions [(dAux d, 80 + tileCount d)] else none) with
    | some x => .error x
    | none => .ok (l.flatten ++ (if fmtScaled (dFmt d) then
      [{ addr := dAux t, bytes := vaPeek e.mem e.im.regions (dAux d) (80 + tileCount d) : Write }] else []))

/-- `CHECKPOINT_COPY`: the next pair of the list in progress. -/
def checkpointSt (pair : Nat) (s : State) : State :=
  match envOf s, s.ckpt.active with
  | some e, some (l, p, st, v) =>
    match (e.im.car.ckpts.getD l [])[p]? with
    | none => s
    | some x =>
      if p != pair || !sourceReady s e.im (bits x 0 24) st then s
      else
        let s1 := { s with ckpt := { s.ckpt with active := some (l, p + 1, st, v) } }
        match copyPair e s.reductions.ring (bits x 0 24) (bits x 24 24) v with
        | .ok ws => syncScale (bits x 24 24) { s1 with memory := applyWrites e ws s1.memory }
        | .error (c, a) => failBytes c a 1 s1
  | _, _ => s

/-- `CHECKPOINT_COMPLETE`: every pair has been copied. -/
def checkpointDone (s : State) : State :=
  match s.image, s.ckpt.active with
  | some im, some (l, p, st, _) =>
    if p < (im.car.ckpts.getD l []).length then s
    else
      let c := s.ckpt
      { s with ckpt := { completed := tick64 c.completed, lastStep := st, waiting := c.waiting.drop 1,
                         active := c.waiting.head?.map (fun w => (w.1, 0, w.2.1, w.2.2)) } }
  | _, _ => s

def execCheckpointCopy (pair : Nat) (s : State) : Host.Outcome State Fault Refusal := .next (checkpointSt pair s)
def execCheckpointComplete (s : State) : Host.Outcome State Fault Refusal := .next (checkpointDone s)

end Sys2Proof.Machine
end

