-- ==== Sys2Proof/Machine/Links.lean ====
section
/-! DEFINITION. Stage links and re-cuts between modules (R366 to R374). -/

namespace Sys2Proof.Machine

/-! Streams of `BULK` frames (R351). -/

/-- A frame of a stream, with its format where it is compressed. -/
def bulkFrame (s : State) (kind : Nat) (cmp : Option Nat) (dst desc xid step flow : Nat) (last : Bool) (off : Nat) (bs : List Byte) : Option Nat × Frame :=
  (cmp, mkFrame s.fabric 6 false dst flow
    [(128, 4, kind), (132, 1, b2n cmp.isSome), (133, 1, b2n last), (136, 24, desc), (160, 40, off), (200, 24, xid), (224, 32, step)] bs)

/-- Cut a stream into frames of 8,192 bytes. -/
def cutBulk : Nat → Nat → List Byte → List (Nat × List Byte)
  | 0, _, _ => []
  | k + 1, off, l => if l.length ≤ 8192 then [(off, l)] else (off, l.take 8192) :: cutBulk k (off + 32) (l.drop 8192)

def bulkFrames (s : State) (kind : Nat) (cmp : Option Nat) (dst desc xid step flow : Nat) (bytes : List Byte) : List (Option Nat × Frame) :=
  let l := cutBulk (bytes.length + 1) 0 bytes
  l.zipIdx.map (fun f => bulkFrame s kind cmp dst desc xid step flow (f.2 + 1 == l.length) f.1.1 f.1.2)

def isStream (idx step : Nat) (x : Stream) : Bool := x.idx == idx && x.step == step

/-- A stream's record with a frame more. -/
def addFrame (idx step off len : Nat) (last : Bool) (l : List Stream) : List Stream :=
  let x := (l.find? (isStream idx step)).getD { idx := idx, step := step, frames := [], total := none }
  l.filter (fun y => !isStream idx step y) ++
    [{ x with frames := x.frames ++ [(off, len)], total := if last then some (256 * off + len) else x.total }]

def streamHas (l : List Stream) (idx step off : Nat) : Bool := l.any (fun x => isStream idx step x && x.frames.any (fun f => f.1 == off))

/-- Every byte up to the trailer is in. -/
def streamWhole (l : List Stream) (idx step : Nat) : Bool :=
  l.any (fun x => isStream idx step x && x.total == some ((x.frames.map (·.2)).foldl (· + ·) 0))

/-! Stage links (Table 14.2). -/

def liRecv (l : Nat) : Bool := bitAt l 0
def liCmp (l : Nat) : Bool := bitAt l 1
def liPeer (l : Nat) : Nat := bits l 8 16
def liLocal (l : Nat) : Nat := bits l 24 24
def liOdd (l : Nat) : Nat := bits l 48 24
def liDescPeer (l : Nat) : Nat := bits l 72 24
def liCtr (l : Nat) : Nat := bits l 96 16
def liValue (l : Nat) : Nat := bits l 128 32

/-- Bytes of the scale part of a stream. -/
def scaleBytes (d : Nat) : Nat := if fmtScaled (dFmt d) then 256 + ceilDiv (tileCount d) 256 * 256 else 0

/-- The scale part: T, then the tile offset table (R368). -/
def scalePart (e : Env) (d : Nat) : List Byte :=
  if fmtScaled (dFmt d) then
    leBytes 256 (scaleT e d) ++ vaPeek e.mem e.im.regions (dAux d + 80) (tileCount d) ++
      List.replicate (ceilDiv (tileCount d) 256 * 256 - tileCount d) 0
  else []

/-- Where a scale part is read. -/
def scaleRanges (d : Nat) : List (Nat × Nat) := if fmtScaled (dFmt d) then [(dAux d + 12, 4), (dAux d + 80, tileCount d)] else []

/-- `STAGE_LINK_SEND`: a sending entry whose counter has reached its value, once a step. -/
def linkSendSt (link : Nat) (s : State) : State :=
  match envOf s with
  | none => s
  | some e =>
    match e.im.links[link]? with
    | none => s
    | some l =>
      if liRecv l || !s.run.active || !s.run.begun || s.mapping.linkSent.contains (link, s.run.step) || !waitMet s (liCtr l) (liValue l) then s
      else
        let d := descOf e.im (liLocal l)
        let base := dBase d + halfOff e d (curHalf e (liLocal l))
        let n := occupied e d
        match vaRead s.memory e.im.regions 0 base n, rangesFault s.memory e.im.regions (scaleRanges d) with
        | .error c, _ => failBytes c base n s
        | .ok _, some (c, a) => failBytes c a 1 s
        | .ok bs, none =>
          let s1 := { s with mapping := { s.mapping with linkSent := s.mapping.linkSent ++ [(link, s.run.step)] } }
          sendOrFail (bulkFrames s 0 (if liCmp l then some (dFmt d) else none) (liPeer l) (liDescPeer l) link s.run.step (link % 256) (scalePart e d ++ bs)) s1

/-- Bytes of a stream that fall into [lo, hi), with their place from `lo`. -/
def windowOf (pos : Nat) (bs : List Byte) (lo hi : Nat) : Nat × List Byte :=
  let a := max pos lo
  (a - lo, (bs.drop (a - pos)).take (hi - a))

def putWindow (e : Env) (base : Nat) (w : Nat × List Byte) (m : Memory) : Memory :=
  if w.2.isEmpty then m else vaPut m e.im.regions (base + w.1) w.2

/-- A stage link's bytes land in a buffer, its scale part in the buffer's `AUX_BASE` (R369). -/
def landLink (e : Env) (d pos : Nat) (bs : List Byte) (m : Memory) : Memory :=
  let sp := scaleBytes d
  let m1 := if sp == 0 then m
    else putWindow e (dAux d + 80) (windowOf pos bs 256 (256 + tileCount d)) (putWindow e (dAux d + 12) (windowOf pos bs 0 4) m)
  putWindow e (dBase d) (windowOf pos bs sp (sp + occupied e d)) m1

/-- A tile offset table that comes with 0x80 in an entry is refused (R62). -/
def badOffsets (w : Nat × List Byte) : Bool := w.2.contains 0x80

/-- Where those windows would be written. -/
def windowRange (base : Nat) (w : Nat × List Byte) : List (Nat × Nat) := if w.2.isEmpty then [] else [(base + w.1, w.2.length)]

def linkRanges (e : Env) (d pos : Nat) (bs : List Byte) : List (Nat × Nat) :=
  let sp := scaleBytes d
  (if sp == 0 then [] else windowRange (dAux d + 12) (windowOf pos bs 0 4) ++ windowRange (dAux d + 80) (windowOf pos bs 256 (256 + tileCount d))) ++
    windowRange (dBase d) (windowOf pos bs sp (sp + occupied e d))

/-- The receiving entry of a frame. -/
def linkEntryFor (im : Image) (f : Frame) : Option (Nat × Nat) :=
  (im.links.zipIdx.find? (fun l => liRecv l.1 && liPeer l.1 == f.src && liLocal l.1 == tsp f 136 24)).map (fun l => (l.2, l.1))

/-- `STAGE_LINK_FRAME`. -/
def linkFrameSt (f : Frame) (s : State) : State :=
  match envOf s with
  | none => takeFrame f (discardOn (portOf s f) s)
  | some e =>
    let step := tsp f 224 32
    let off := tsp f 160 40
    if f.ftype != 6 || tsp f 128 4 != 0 || !s.run.active then takeFrame f (discardOn (portOf s f) s)
    else
      match linkEntryFor e.im f with
      | none => failRun 0x050A (takeFrame f (discardOn (portOf s f) s))
      | some (i, l) =>
        if step != s.run.step && step != (s.run.step + 1) % 2 ^ 32 then failRun 0x050A (takeFrame f (discardOn (portOf s f) s))
        else if streamHas s.mapping.links i step off then duplicate f s
        else
          let buf := if step % 2 == 0 then liLocal l else liOdd l
          let d := descOf e.im buf
          if fmtScaled (dFmt d) && badOffsets (windowOf (256 * off) f.payload 256 (256 + tileCount d)) then
            failRun 0x0105 (takeFrame f (discardOn (portOf s f) s))
          else
          match rangeFault e 18 (linkRanges e d (256 * off) f.payload) with
          | some (c, a) => failBytes c a 1 (takeFrame f s)
          | none =>
          let links := addFrame i step off f.payload.length (tsp f 133 1 == 1) s.mapping.links
          let s1 := syncScale buf (takeFrame f { s with memory := landLink e d (256 * off) f.payload s.memory, mapping := { s.mapping with links := links } })
          if step == s.run.step && streamWhole links i step then addCtr (liCtr l) 1 s1 else s1

/-- Streams that were complete before their step began are signalled after its counters are reset (R369). -/
def signalLinks (s : State) : State :=
  match s.image with
  | none => s
  | some im => im.links.zipIdx.foldl (fun t l => if liRecv l.1 && streamWhole t.mapping.links l.2 t.run.step then addCtr (liCtr l.1) 1 t else t) s

def execStageLinkSend (link : Nat) (s : State) : Host.Outcome State Fault Refusal := .next (linkSendSt link s)
def execStageLinkFrame (f : Frame) (s : State) : Host.Outcome State Fault Refusal := .next (ofType f 6 (some (4, 0)) (linkFrameSt f s) s)

/-! Re-cuts (Tables 14.3 to 14.5). -/

def rcPhase (h : Nat) : Nat := bits h 32 1
def rcDoneCtr (h : Nat) : Nat := bits h 96 16
def rcMoveCtr (h : Nat) : Nat := bits h 112 16
def rcDoneValue (h : Nat) : Nat := bits h 128 32
def rcStage (h step : Nat) : Nat := if step % 2 == 0 then bits h 160 48 else bits h 208 48

def rtOld (t : Nat) : Nat := bits t 0 24
def rtNew (t : Nat) : Nat := bits t 24 24
def rtPair (t : Nat) : Nat := bits t 48 16

def mvTensor (m : Nat) : Nat := bits m 0 24
def mvFirst (m : Nat) : Nat := bits m 24 40
def mvTiles (m : Nat) : Nat := bits m 64 24
def mvFrom (m : Nat) : Nat := bits m 88 16
def mvTo (m : Nat) : Nat := bits m 104 16
def mvRange (m : Nat) : List Nat := (List.range (mvTiles m)).map (mvFirst m + ·)

def recutOf (im : Image) (list : Nat) : Recut := im.recuts.getD list { head := 0, tensors := [], moves := [] }

/-- Descriptors of a tensor entry: old and new. -/
def rtDescs (im : Image) (t : Nat) : Nat × Nat := (descOf im (rtOld t), descOf im (rtNew t))

/-- `RECUT` of a step departs: `CUR` of every listed pair goes to the new table. -/
def recutDeparts (list st : Nat) (s : State) : State :=
  match s.image with
  | none => s
  | some im =>
    let r := recutOf im list
    let cur := r.tensors.foldl (fun m t => spSet (rtPair t) (1 - rcPhase r.head) m) s.versions.cur
    { s with versions := { s.versions with cur := cur }, mapping := { s.mapping with recutDep := s.mapping.recutDep ++ [(list, st)] } }

/-- The owners of a tile under a table. -/
def tileOwners (shs : List Nat) (t : Nat) : List Nat :=
  match shs.find? (fun sh => decide (shFirst sh ≤ t) && decide (t < shFirst sh + shTiles sh)) with
  | none => []
  | some sh => [shOwner0 sh, shOwner1 sh].filter (· != 0xFFFF)

/-- The module that sends a move: `FROM`, or once that is lost the holder that every tile of the move has beside it (R374). -/
def moverOf (s : State) (im : Image) (r : Recut) (m : Nat) : Option Nat :=
  if !(goneModules s).contains (mvFrom m) then some (mvFrom m)
  else
    let e : Env := { mem := s.memory, im := im, ver := s.versions, id := 0, seed := 0, step := 0 }
    let shs := shardsOf e (rtDescs im (r.tensors.getD (mvTensor m) 0)).1
    let other := fun (t : Nat) => (tileOwners shs t).find? (fun o => o != mvFrom m && !(goneModules s).contains o)
    match other (mvFirst m) with
    | none => none
    | some o => if (mvRange m).all (fun t => other t == some o) then some o else none

/-- A tile's offset byte, 0 for a format without a tensor scale. -/
def tileExpByte (e : Env) (d t : Nat) : Nat := if fmtScaled (dFmt d) then peekN e (dAux d + 80 + t) 1 else 0

/-- Where a tile's offset byte is read. -/
def tileExpRange (d t : Nat) : List (Nat × Nat) := if fmtScaled (dFmt d) then [(dAux d + 80 + t, 1)] else []

/-- A move's bytes: its tiles, then one `TILE_EXP` each (log entry 29). -/
def moveBytes (e : Env) (old m : Nat) : Except (Nat × Nat) (List Byte) :=
  match readAll (fun t => match tileAddr e old 0 t with
      | none => .error 0x0303
      | some a => vaRead e.mem e.im.regions 0 a (tileBytes old)) (mvRange m) with
  | .error (c, t) => .error (c, (tileAddr e old 0 t).getD 0)
  | .ok l => match rangesFault e.mem e.im.regions ((mvRange m).flatMap (tileExpRange old)) with
    | some x => .error x
    | none => .ok (l.flatten ++ (mvRange m).map (fun t => BitVec.ofNat 8 (tileExpByte e old t)))

/-- Send the moves of a list in a step that a predicate takes and that fall to this module. -/
def sendMoves (list st : Nat) (p : Nat → Bool) (s : State) : State :=
  match envOf s with
  | none => s
  | some e =>
    let r := recutOf e.im list
    r.moves.zipIdx.foldl (fun t m =>
      if !p m.1 || moverOf t e.im r m.1 != some e.id then t
      else
        let ds := rtDescs e.im (r.tensors.getD (mvTensor m.1) 0)
        match moveBytes e ds.1 m.1 with
        | .error (c, a) => failBytes c a (tileBytes ds.1) t
        | .ok bs => sendOrFail (bulkFrames t 2 (some (dFmt ds.1)) (mvTo m.1) (rtNew (r.tensors.getD (mvTensor m.1) 0)) (0x800000 + m.2) st (m.2 % 256) bs) t) s

/-- Copy a tile's bytes and its offset to its place in a tensor. -/
def putTile (e : Env) (d t : Nat) (bs : List Byte) (ex : Nat) (m : Memory) : Memory :=
  match tileAddr e d 0 t with
  | none => m
  | some a =>
    let m1 := vaPut m e.im.regions a bs
    if fmtScaled (dFmt d) then vaPut m1 e.im.regions (dAux d + 80 + t) (leBytes 1 ex) else m1

/-- The first read of whole tiles, or write of tiles, that fails (R261, R263). -/
def tilesFault (e : Env) (src dst : List (Nat × Nat)) : Option (Nat × Nat) :=
  (rangesFault e.mem e.im.regions src).orElse (fun _ => rangeFault e 2 dst)

/-- Tiles of a list's tensors held here under both tables go from old to new. -/
def copyHeldTiles (list : Nat) (s : State) : State :=
  match envOf s with
  | none => s
  | some e =>
    let both := (recutOf e.im list).tensors.flatMap (fun t =>
      let ds := rtDescs e.im t
      (List.range (tileCount ds.1)).filterMap (fun k => match tileAddr e ds.1 0 k, tileAddr e ds.2 0 k with
        | some a, some b => some ((a, tileBytes ds.1) :: tileExpRange ds.1 k, (b, tileBytes ds.1))
        | _, _ => none))
    match tilesFault e (both.flatMap (·.1)) (both.map (·.2)) with
    | some (c, a) => failBytes c a 1 s
    | none =>
    let m := (recutOf e.im list).tensors.foldl (fun m t =>
      let ds := rtDescs e.im t
      (List.range (tileCount ds.1)).foldl (fun m k =>
        match tileAddr e ds.1 0 k, tileAddr e ds.2 0 k with
        | some a, some _ => putTile e ds.2 k (vaPeek e.mem e.im.regions a (tileBytes ds.1)) (tileExpByte e ds.1 k) m
        | _, _ => m) m) s.memory
    { s with memory := m }

/-- A move to this module that nothing can send. -/
def moveLost (s : State) (im : Image) (r : Recut) : Bool := r.moves.any (fun m => mvTo m == myId s.fabric && (moverOf s im r m).isNone)

/-- The first step that a list records in one table and not in another. -/
def firstStep (a b : List (Nat × Nat)) (list : Nat) : Option Nat := (a.find? (fun x => x.1 == list && !b.contains x)).map (·.2)

/-- `RECUT_MOVES_SEND`: in the step of the list's departure, or past it, the old phase's use has ended; for `PHASE` 1 the boundary into the
step has passed. -/
def movesSendSt (list : Nat) (s : State) : State :=
  match s.image, firstStep s.mapping.recutDep s.mapping.recutSent list with
  | some im, some st =>
    let r := recutOf im list
    if !s.run.active || !(stepOver s st || (st == s.run.step && s.run.begun &&
        (rcPhase r.head == 1 || waitMet s (rcDoneCtr r.head) (rcDoneValue r.head)))) then s
    else if moveLost s im r then failRun 0x050B s
    else copyHeldTiles list (sendMoves list st (fun _ => true)
      { s with mapping := { s.mapping with recutSent := s.mapping.recutSent ++ [(list, st)] } })
  | _, _ => s

/-- Moves to this module, with their index, and the bytes and tiles that precede each in staging. -/
def incoming (im : Image) (id : Nat) (r : Recut) : List (Nat × Nat × Nat × Nat) :=
  (r.moves.zipIdx.foldl (fun (a : List (Nat × Nat × Nat × Nat) × Nat × Nat) m =>
    if mvTo m.1 != id then a
    else
      let tb := tileBytes (rtDescs im (r.tensors.getD (mvTensor m.1) 0)).2
      (a.1 ++ [(m.1, m.2, a.2.1, a.2.2)], a.2.1 + mvTiles m.1 * tb, a.2.2 + mvTiles m.1)) ([], 0, 0)).1

/-- Bytes of all incoming tiles of a list: the offsets follow them in staging. -/
def incomingBytes (im : Image) (id : Nat) (r : Recut) : Nat :=
  ((incoming im id r).map (fun m => mvTiles m.1 * tileBytes (rtDescs im (r.tensors.getD (mvTensor m.1) 0)).2)).foldl (· + ·) 0

/-- The list and move that a frame belongs to. -/
def moveFor (s : State) (im : Image) (f : Frame) : Option (Nat × Nat × Nat × Nat × Nat) :=
  im.recuts.zipIdx.findSome? (fun r =>
    ((incoming im (myId s.fabric) r.1).find? (fun m => 0x800000 + m.2.1 == tsp f 200 24 &&
      rtNew (r.1.tensors.getD (mvTensor m.1) 0) == tsp f 136 24 && (mvFrom m.1 == f.src || moverOf s im r.1 m.1 == some f.src))).map (fun m => (r.2, m)))

/-- Identity of a move's stream. -/
def moveKey (list move : Nat) : Nat := list * 2 ^ 24 + move

/-- `RECUT_MOVE_FRAME`. -/
def moveFrameSt (f : Frame) (s : State) : State :=
  match envOf s with
  | none => takeFrame f (discardOn (portOf s f) s)
  | some e =>
    let step := tsp f 224 32
    let off := tsp f 160 40
    if f.ftype != 6 || tsp f 128 4 != 2 || !s.run.active then takeFrame f (discardOn (portOf s f) s)
    else if step != s.run.step && step != (s.run.step + 1) % 2 ^ 32 then failRun 0x050A (takeFrame f (discardOn (portOf s f) s))
    else
      match moveFor s e.im f with
      | none => takeFrame f (discardOn (portOf s f) s)
      | some (list, m, i, before, tilesBefore) =>
        let k := moveKey list i
        if streamHas s.mapping.moves k step off then duplicate f s
        else
          let r := recutOf e.im list
          let n := mvTiles m * tileBytes (rtDescs e.im (r.tensors.getD (mvTensor m) 0)).2
          let st := rcStage r.head step
          let w1 := windowOf (256 * off) f.payload 0 n
          let w2 := windowOf (256 * off) f.payload n (n + mvTiles m)
          if badOffsets w2 then failRun 0x0105 (takeFrame f (discardOn (portOf s f) s))
          else
          match rangeFault e 18 (windowRange (st + before) w1 ++ windowRange (st + incomingBytes e.im e.id r + tilesBefore) w2) with
          | some (c, a) => failBytes c a 1 (takeFrame f s)
          | none =>
          let m1 := putWindow e (st + before) w1 s.memory
          let m2 := putWindow e (st + incomingBytes e.im e.id r + tilesBefore) w2 m1
          takeFrame f { s with memory := m2, mapping := { s.mapping with
            moves := addFrame k step off f.payload.length (tsp f 133 1 == 1) s.mapping.moves } }

/-- The first staged tile that cannot be read, or place that cannot be written. -/
def stagedFault (e : Env) (r : Recut) (base : Nat) (ins : List (Nat × Nat × Nat × Nat)) : Option (Nat × Nat) :=
  let l := ins.flatMap (fun m =>
    let d := (rtDescs e.im (r.tensors.getD (mvTensor m.1) 0)).2
    (mvRange m.1).zipIdx.map (fun t => (base + m.2.2.1 + t.2 * tileBytes d, tileBytes d, tileAddr e d 0 t.1)))
  let exps := ins.map (fun m => (base + incomingBytes e.im e.id r + m.2.2.2, mvTiles m.1))
  tilesFault e (l.map (fun x => (x.1, x.2.1)) ++ exps) (l.filterMap (fun x => x.2.2.map (fun a => (a, x.2.1))))

/-- `RECUT_STAGE_COPY`: every move has gone and come; the staged tiles take their places. -/
def stageCopySt (list : Nat) (s : State) : State :=
  match envOf s, firstStep s.mapping.recutSent s.mapping.recutDone list with
  | some e, some st =>
    let r := recutOf e.im list
    let ins := incoming e.im e.id r
    if !s.run.active ||
        !ins.all (fun m => streamWhole s.mapping.moves (moveKey list m.2.1) st) then s
    else
      let base := rcStage r.head st
      let exps := base + incomingBytes e.im e.id r
      match stagedFault e r base ins with
      | some (c, a) => failBytes c a 1 s
      | none =>
      let mem := ins.foldl (fun mm m =>
        let d := (rtDescs e.im (r.tensors.getD (mvTensor m.1) 0)).2
        (mvRange m.1).zipIdx.foldl (fun mm t =>
          putTile e d t.1 (vaPeek e.mem e.im.regions (base + m.2.2.1 + t.2 * tileBytes d) (tileBytes d))
            (peekN e (exps + m.2.2.2 + t.2) 1) mm) mm) s.memory
      addCtr (rcMoveCtr r.head) 1 { s with memory := mem, mapping := { s.mapping with recutDone := s.mapping.recutDone ++ [(list, st)] } }
  | _, _ => s

def execRecutMovesSend (list : Nat) (s : State) : Host.Outcome State Fault Refusal := .next (movesSendSt list s)
def execRecutMoveFrame (f : Frame) (s : State) : Host.Outcome State Fault Refusal := .next (ofType f 6 (some (4, 2)) (moveFrameSt f s) s)
def execRecutStageCopy (list : Nat) (s : State) : Host.Outcome State Fault Refusal := .next (stageCopySt list s)

end Sys2Proof.Machine
end

