-- ==== Sys2Proof/Machine/Peers.lean ====
section
/-! DEFINITION. Modules that leave: loss of a peer, retirement with notice, and what each does to the reductions, publications and moves
under way (R332, R337, R340, R374, R493, R529 to R534). -/

namespace Sys2Proof.Machine

/-! Loss (R332, R493). -/

/-- The position of a lost peer in a chunk's group. -/
def lostPos (im : Image) (ch : ChunkRt) (m : Nat) : Option Nat := posOf (membersOf im ch.coll) m

/-- Nodes that a site expects from a lost peer's position and has not received. -/
def lostNodes (t : Tree) (me p : Nat) (parts : List (Nat × Nat × Partial)) : List (Nat × Nat) :=
  (expectedNodes t me).filter (fun n => (partAt parts n.1 n.2).isNone && site t n.2 n.1 == some p)

/-- A chunk after a loss: reduced again where its root is lost and a twin owner is left; else the position is absent from its tree from
now on, and the nodes that were to come from it are stood in for at once (log entry 88). -/
def chunkAfterLoss (m : Nat) (k : Nat × Nat × Nat) (s : State) : State :=
  match s.image, findChunk s k.1 k.2.1 k.2.2 with
  | some im, some ch =>
    match lostPos im ch m with
    | none => s
    | some p =>
      if ch.acked || !ch.launched then s
      else if ch.rho == p then
        (if ch.own1 != 0xFFFF && ch.own1 != m && !(goneModules s).contains ch.own1 then redoChunk k.1 k.2.1 k.2.2 s else failRun 0x0510 s)
      else
        let me := (posOf (membersOf im ch.coll) (myId s.fabric)).getD 0
        let t1 := treeOf im { ch with absent := ch.absent ++ [p] }
        let gone := fun (parts : List (Nat × Nat × Partial)) => (lostNodes (treeOf im ch) me p parts).filter (expectedNodes t1 me).contains
        let s1 := modChunk k.1 k.2.1 k.2.2 (fun h => { h with absent := h.absent ++ [p] }) s
        if !ch.formed then substitute k.1 k.2.1 k.2.2 (gone ch.parts) s1
        else if ch.rplExp == 0 || ch.rplFormed then s1
        else substituteReplay k.1 k.2.1 k.2.2 (modChunk k.1 k.2.1 k.2.2 (fun h => { h with subst := h.subst ++ gone h.rplParts }) s1)
  | _, _ => s

/-- A shard of a lost owner that no other owner holds (R332). -/
def orphanShard (s : State) (e : Env) (m : Nat) : Bool :=
  (List.range e.im.owners.length).any (fun i => (ownShards e (i + 1)).any (fun sh =>
    (shOwner0 sh == m || shOwner1 sh == m) &&
    !([shOwner0 sh, shOwner1 sh].any (fun o => o != m && o != 0xFFFF && !(goneModules s).contains o))))

/-- The twin publishes again what it has taken locally in this step (R340). -/
def republish (m : Nat) (s : State) : State :=
  { s with versions := { s.versions with shards := s.versions.shards.map (fun v =>
      match v.departed with
      | some sh => if shOwner0 sh == m && (v.pver == v.cur || v.pver == (expectedVer s v.pub + 1) % 2 ^ 32) then { v with sent := false } else v
      | none => v) } }

/-- Re-cut moves of a lost peer (R374). -/
def movesAfterLoss (m : Nat) (s : State) : State :=
  match s.image with
  | none => s
  | some im =>
    let live := s.mapping.recutSent.filter (fun l => !s.mapping.recutDone.contains l)
    live.foldl (fun t l => if moveLost t im (recutOf im l.1) then failRun 0x050B t else sendMoves l.1 l.2 (fun v => mvFrom v == m) t) s

/-- Everything that a run holds answers the loss of a peer. -/
def runAfterLoss (m : Nat) (s : State) : State :=
  match envOf s with
  | none => s
  | some e =>
    if !s.run.active then s
    else if orphanShard s e m then failRun 0x0510 s
    else
      let s1 := (s.reductions.chunks.map (fun c => (c.coll, c.chunk, c.step))).foldl (fun t k => chunkAfterLoss m k t) s
      let s2 := ((s1.reductions.colls.filter (fun c => !c.complete && coKind (collOf e.im c.coll) == 2)).map (fun c => (c.coll, c.step))).foldl
        (fun t k => finishItems k.1 k.2 (twinItems k.1 k.2 t)) s1
      movesAfterLoss m (republish m s2)

/-- The loss notice: on `ACK_MCAST`, or to each neighbour when no image is resident. It goes to whom it can reach. -/
def lossNotice (m : Nat) (s : State) : State :=
  let mk := fun (mc : Bool) (dst : Nat) => (none, mkFrame s.fabric 7 mc dst 0 [(128, 8, 16), (136, 16, m), (152, 32, stepInForce s)] [])
  match s.image with
  | some im => (sendFrames [mk true (ackMcast im)] s).1
  | none =>
    let ns := (((List.range 32).filter (portServes s.fabric)).map (fun p => pePeer (portEntry s.fabric p))).eraseDups
    (sendFrames (ns.map (mk false)) s).1

/-- A peer is declared lost: absent from now on, its routes failed, the event recorded once, the notice sent. -/
def declareLost (m : Nat) (s : State) : State :=
  let r := s.reductions
  let s1 := addEvent 11 m 8 { s with
    reductions := { r with lost := r.lost ++ [m] }
    fabric := { s.fabric with peerRoutes := s.fabric.peerRoutes ++ [m] } }
  lossNotice m (runAfterLoss m s1)

/-- A module that this one already treats as absent, or that has given notice. -/
def knownAbsent (s : State) (m : Nat) : Bool := (goneModules s).contains m || s.reductions.leaving.any (fun l => l.1 == m)

/-- Ports toward a neighbour. -/
def portsToward (fab : Fabric) (m : Nat) : List Nat := (List.range 32).filter (fun p => inUse fab p && pePeer (portEntry fab p) == m)

/-- `PEER_LOSS_DECLARED`: every port toward a neighbour has failed, and the neighbour has not retired with notice. -/
def peerLossSt (m : Nat) (s : State) : State :=
  let ps := portsToward s.fabric m
  if ps.isEmpty || ps.any (portServes s.fabric) || knownAbsent s m then s else declareLost m s

/-- `LOSS`. -/
def lossSt (f : Frame) (s : State) : State :=
  let m := tsp f 136 16
  if f.ftype != 7 || tsp f 128 8 != 16 || knownAbsent s m || m == myId s.fabric then takeFrame f (discardOn (portOf s f) s)
  else declareLost m (takeFrame f s)

def execPeerLossDeclared (peer : Nat) (s : State) : Host.Outcome State Fault Refusal := .next (peerLossSt peer s)
def execLoss (f : Frame) (s : State) : Host.Outcome State Fault Refusal := .next (ofType f 7 (some (8, 16)) (lossSt f s) s)

/-! Retirement (R530 to R532). -/

/-- Shards that a module owns under the tables in force. -/
def shardsOwnedBy (e : Env) (m : Nat) : List Nat :=
  ((List.range e.im.owners.length).flatMap (fun i => ownShards e (i + 1))).filter (shOwns m)

/-- The other owner of a shard, if there is one present. -/
def twinOf (s : State) (m sh : Nat) : Option Nat :=
  [shOwner0 sh, shOwner1 sh].find? (fun o => o != m && o != 0xFFFF && !(goneModules s).contains o)

/-- The retirement under way. -/
def retireOp (s : State) : Option Op := s.sessions.ops.find? (fun o => o.opcode == 0x050B && o.state == 2 && !o.aborting)

/-- Ports go quiet where they may (R468). -/
def quietPorts (s : State) : State :=
  let r := lowPorts 2 ((List.range 32).filter (portServes s.fabric)) s.fabric
  { s with fabric := r.1, out := s.out ++ r.2 }

/-- The run ends after its last boundary: 0x0001 where it read an empty view and wrote nothing (R409). -/
def doneRun (s : State) : State :=
  endRun true (finishOp s.run.sid s.run.handle 4 (if s.run.emptyView && !s.run.wrote then 1 else 0) s)

/-- `RETIRE` from a module with no run, on every port in use. -/
def retireAlone (s : State) : State :=
  let ps := (List.range 32).filter (portServes s.fabric)
  let r := ps.foldl (fun (a : Fabric × List Emission) p =>
    let q := originate a.1 p none (mkFrame a.1 7 false (pePeer (portEntry a.1 p)) 0 [(128, 8, 17), (136, 16, myId a.1), (152, 32, 0xFFFFFFFF)] [])
    (q.1, a.2 ++ q.2)) (s.fabric, [])
  quietPorts { s with fabric := r.1, out := s.out ++ r.2, boot := { s.boot with retired := true } }

/-- A retirement accepted with no run in progress is carried out at once. -/
def retireIdle (s : State) : State :=
  match retireOp s with
  | none => s
  | some o => if s.run.active then s else finishOp o.sid o.handle 4 0 (retireAlone s)

/-- `MODULE_RETIRE` (R530, Table 21.5). -/
def moduleRetirePart : Part := fun s _ d =>
  if prm d 0 32 == 0 || 600000 < prm d 0 32 then ansCode s 0x0105
  else if s.boot.retired then ansCode s 0x050E
  else
    match s.run.active, envOf s with
    | true, some e =>
      if (shardsOwnedBy e e.id).all (fun sh => (twinOf s e.id sh).isSome) then ansLong s 2 else ansCode s 0x050E
    | _, _ => ansLong s 2

/-- A caravan entry of a step has departed. -/
def hasDeparted (s : State) (k step : Nat) : Bool := s.reductions.departures.any (fun d => d.1 == k && d.2.1 == step)

/-- Everything that has departed has ended: no step left behind has a departure due, every publication has left and every chunk is acknowledged. -/
def departedSettled (s : State) : Bool :=
  s.reductions.past.isEmpty && s.reductions.chunks.all (fun c => !c.launched || c.acked) &&
  s.versions.shards.all (fun v => v.departed.isNone || v.sent)

/-- The step's departures are over, its publications have left and its chunks are acknowledged. -/
def stepSettled (s : State) : Bool :=
  departedSettled s && (match s.image with
    | none => true
    | some im => (List.range im.car.entries.length).all (fun k => hasDeparted s k s.run.step))

/-- Every shard has been taken over: both commands end, and the ports go quiet. -/
def retireDone (s : State) : State :=
  match envOf s, retireOp s with
  | some e, some o =>
    if s.run.retireAt.isNone || o.progress < (shardsOwnedBy e e.id).length then s
    else quietPorts (finishOp o.sid o.handle 4 0 (doneRun { s with boot := { s.boot with retired := true } }))
  | _, _ => s

/-- The notice of this module's retirement at the next step. -/
def noticeFrame (im : Image) (s : State) : Frame :=
  mkFrame s.fabric 7 true (ackMcast im) 0 [(128, 8, 17), (136, 16, myId s.fabric), (152, 32, (s.run.step + 1) % 2 ^ 32)] []

/-- At the boundary of the step in progress, the notice leaves, and the run begins no further step. -/
def retireNotice (s : State) : State :=
  match s.image, retireOp s with
  | some im, some _ =>
    retireDone (sendFrames [(none, noticeFrame im s)]
      { s with run := { s.run with retireAt := some ((s.run.step + 1) % 2 ^ 32), finishing := true } }).1
  | _, _ => s

/-- The retirement begins at this boundary: it has been asked for, and its notice finds a valid multicast entry. -/
def retiresNow (s : State) : Bool :=
  match s.image, retireOp s with
  | some im, some _ => (sendFrames [(none, noticeFrame im s)] s).2
  | _, _ => false

/-- A retirement whose notice finds no valid multicast entry fails with 0x0503 (R296). The run goes on: DESIGN CHOICE (log entry 99). -/
def retireUnsent (s : State) : State :=
  match retireOp s with
  | none => s
  | some o => finishOp o.sid o.handle 5 0x0503 s

/-- `RETIRE_DEADLINE_EXPIRY`. -/
def retireExpires (sid handle : Nat) (s : State) : State :=
  match findOp s.sessions sid handle with
  | none => s
  | some o =>
    if o.opcode != 0x050B || opFinal o.state || nowNs s < o.queuedAt + 1000000 * bits o.params 0 32 then s else finishOp sid handle 5 0x050F s

/-- Modules that leave at a step are absent once it is reached. -/
def leaveNow (s : State) : State :=
  let go := s.reductions.leaving.filter (fun l => !s.run.active || (s.run.step + 2 ^ 32 - l.2) % 2 ^ 32 < 2 ^ 31)
  { s with reductions := { s.reductions with
      leaving := s.reductions.leaving.filter (fun l => !go.contains l), retired := s.reductions.retired ++ go.map (·.1) } }

/-- `RETIRE`: the peer is absent from its step on; a twin owner says how many shards it takes over; a neighbour's ports toward the peer
count as failed. -/
def retireSt (f : Frame) (s : State) : State :=
  let m := tsp f 136 16
  if f.ftype != 7 || tsp f 128 8 != 17 || knownAbsent s m || m == myId s.fabric then takeFrame f (discardOn (portOf s f) s)
  else
    let s1 := leaveNow (takeFrame f { s with reductions := { s.reductions with
      leaving := s.reductions.leaving ++ [(m, if tsp f 152 32 == 0xFFFFFFFF then s.run.step else tsp f 152 32)] } })
    let n := match envOf s with
      | none => 0
      | some e => ((shardsOwnedBy e m).filter (fun sh => twinOf s m sh == some e.id)).length
    let s2 := if n == 0 then s1
      else (sendFrames [(none, mkFrame s1.fabric 7 false m 0 [(128, 8, 18), (136, 16, m), (152, 32, n)] [])] s1).1
    (portsToward s2.fabric m).foldl (fun t p => if portServes t.fabric p then portFails p t else t) s2

/-- `RETIRE_ACK`. -/
def retireAckSt (f : Frame) (s : State) : State :=
  if f.ftype != 7 || tsp f 128 8 != 18 || tsp f 136 16 != myId s.fabric || s.run.retireAt.isNone then takeFrame f (discardOn (portOf s f) s)
  else
    match retireOp s with
    | none => takeFrame f (discardOn (portOf s f) s)
    | some o =>
      retireDone (takeFrame f { s with sessions := modOp s.sessions o.sid o.handle (fun o => setProgress (o.progress + tsp f 152 32) o) })

def execModuleRetire (d : Datagram) (s : State) : Host.Outcome State Fault Refusal :=
  .next (retireIdle (ycp 0x050B (.moduleRetire d) moduleRetirePart d s))
def execRetireDeadlineExpiry (sid handle : Nat) (s : State) : Host.Outcome State Fault Refusal := .next (retireExpires sid handle s)
def execRetire (f : Frame) (s : State) : Host.Outcome State Fault Refusal := .next (ofType f 7 (some (8, 17)) (retireSt f s) s)
def execRetireAck (f : Frame) (s : State) : Host.Outcome State Fault Refusal := .next (ofType f 7 (some (8, 18)) (retireAckSt f s) s)

end Sys2Proof.Machine
end

