-- ==== Sys2Proof/Machine/Caravan.lean ====
section
/-! DEFINITION. The caravan table: the checks that it must pass, and its changes by command (R310 to R313, R429, R431). -/

namespace Sys2Proof.Machine

/-! The checks of R313, with the rules of Table 12.3 and R371 on entries. -/

/-- An operand names an entry of its table; a `RECUT` carries its list's phase (R371). -/
def caravanOperandOk (im : Image) (e : Nat) : Bool :=
  match caAction e with
  | 0 | 4 | 7 => true
  | 1 | 5 => decide (caOp0 e < im.car.colls.length)
  | 2 => decide (caOp0 e < im.car.pubs.length)
  | 3 => decide (caOp0 e < im.recuts.length) && rcPhase (recutOf im (caOp0 e)).head == caOp1 e % 2
  | 6 => decide (caOp0 e < im.car.ckpts.length)
  | _ => false

/-- At most one entry of an action for a collective. -/
def actionOnce (im : Image) (action coll : Nat) : Bool :=
  decide ((im.car.entries.filter (fun e => caAction e == action && caOp0 e == coll)).length ≤ 1)

/-- Whether the module uses a collective. -/
def usesColl (im : Image) (id k : Nat) : Bool :=
  let c := collOf im k
  (match entryFor im 1 k with
   | none => false
   | some i => coKind c != 0 || im.wgbMap.any (fun m => m.any (fun w => bits w 0 24 != 0 && bits w 48 12 == i))) ||
  (let p := dOwners (descOf im (coDw c))
   p != 0 && (let t := im.owners.getD (p - 1) ([], []); (t.1 ++ t.2).any (shOwns id)))

/-- A used collective's group lists the module. -/
def collGroupOk (im : Image) (id k : Nat) : Bool := !usesColl im id k || (membersOf im k).contains id

/-- A collective's `DEADLINE` names its entry, where the section holds one. -/
def collDeadlineOk (im : Image) (k : Nat) : Bool :=
  match entryFor im 5 k with
  | none => true
  | some i => bits (collOf im k) 40 12 == i

/-- At most 165 departures in any 50 ns. DEDUCED (log entry 30): two departures 50 ns apart lie within 50 ns. -/
def departuresOk (es : List Nat) : Bool :=
  es.all (fun e => decide ((es.filter (fun f => carOffset e ≤ carOffset f && carOffset f ≤ carOffset e + 50 * 65536)).length ≤ 165))

/-- A slot map entry names the `LAUNCH` of the collective whose tensor holds its tile. -/
def slotCaravanOk (im : Image) (w : Nat) : Bool :=
  bits w 0 24 == 0 ||
  (match im.car.entries[bits w 48 12]? with
   | none => false
   | some e => caAction e == 1 && coKind (collOf im (caOp0 e)) == 0 && coDw (collOf im (caOp0 e)) == bits w 0 24 &&
       decide (bits w 24 24 < tileCount (descOf im (bits w 0 24))))

/-- The caravan table of an image on a module passes every check. -/
def caravanOk (im : Image) (id : Nat) : Bool :=
  let es := im.car.entries
  let ks := List.range im.car.colls.length
  decide (1 ≤ es.length) && decide (es.length ≤ 4096) && decide (1000 ≤ im.car.period) &&
  es.all (fun e => decide (bits e 64 48 ≤ im.car.period) && caravanOperandOk im e) &&
  ks.all (fun k => actionOnce im 1 k && actionOnce im 5 k && collGroupOk im id k && collDeadlineOk im k) &&
  departuresOk es && im.wgbMap.all (fun m => m.all (slotCaravanOk im))

/-! Changes that wait for the next origin (R431): the period as (0, 0, `PERIOD`), an entry as (1, `INDEX`, entry), each with the step at whose
origin it takes effect. -/

def caravanOp (im : Image) (o : Nat × Nat × Nat × Nat) : Image :=
  let c := im.car
  { im with car :=
      if o.1 == 0 then { c with period := o.2.2.1 }
      else if o.2.1 < c.entries.length then { c with entries := c.entries.set o.2.1 o.2.2.1 }
      else { c with entries := c.entries ++ [o.2.2.1] } }

/-- The image as it will stand once everything accepted applies. -/
def caravanNext (s : State) (im : Image) : Image := s.changes.caravanOps.foldl caravanOp im

/-- A change in force in the step k steps after the one in progress. -/
def opDue (s : State) (k : Nat) (o : Nat × Nat × Nat × Nat) : Bool := (s.run.step + k + 2 ^ 32 - o.2.2.2) % 2 ^ 32 < 2 ^ 31

/-- The table of that step, and its origin (R314). -/
def tableAt (s : State) (im : Image) (k : Nat) : Image := (s.changes.caravanOps.filter (opDue s k)).foldl caravanOp im
def originAt (s : State) (im : Image) : Nat → Nat
  | 0 => s.run.origin
  | k + 1 => originAt s im k + (tableAt s im k).car.period * 65536

/-- Step at whose origin a change accepted now takes effect: the next origin. With no step begun it is the run's first; one three steps ahead
stands for all later ones, whose departures fail the run (R315). -/
def caravanStep (s : State) (im : Image) : Nat :=
  if !s.run.active || !s.run.begun then s.run.step
  else (s.run.step + (([1, 2].find? (fun k => decide (s.time.now < originAt s im k))).getD 3)) % 2 ^ 32

/-- A run's first origin applies what waits. -/
def applyCaravanOps (s : State) : State :=
  { s with image := s.image.map (caravanNext s), changes := { s.changes with caravanOps := [] } }

/-- The boundary into the next step applies what is in force in it; the rest waits on. -/
def applyDueOps (s : State) : State :=
  { s with image := s.image.map (fun im => tableAt s im 1),
           changes := { s.changes with caravanOps := s.changes.caravanOps.filter (fun o => !opDue s 1 o) } }

/-- Accept a change that the checks let stand. -/
def caravanChange (kind index entry : Nat) (s : State) : Answer :=
  match s.image with
  | none => ansCode s 0x0407
  | some im =>
    let o := (kind, index, entry, caravanStep s im)
    if caravanOk (caravanOp (caravanNext s im) o) (myId s.fabric) then
      ansOk { s with changes := { s.changes with caravanOps := s.changes.caravanOps ++ [o] } }
    else ansCode s 0x0105

/-- `CARAVAN_PERIOD`. -/
def caravanPeriodPart : Part := fun s _ d => caravanChange 0 0 (prm d 0 48) s

/-- `CARAVAN_SET`. -/
def caravanSetPart : Part := fun s _ d =>
  let i := prm d 0 12
  let e := prm d 64 256
  match s.image with
  | none => ansCode s 0x0407
  | some im =>
    if (caravanNext s im).car.entries.length < i then ansCode s 0x0105
    else caravanChange 1 i e s

/-! Groups and adapters (R109, R210, R429). -/

/-- `ADAPTER_SET`: the slot and its entry wait for the boundary. -/
def adapterSetPart : Part := fun s _ d =>
  let e := prm d 64 128
  if 64 < bits e 0 8 then ansCode s 0x0105
  else
  match s.image with
  | none => ansCode s 0x0407
  | some im =>
    let bad := fun (i : Nat) => bits e 0 8 != 0 && (dKind (descOf im i) != 0 || dFmt (descOf im i) != 2)
    if s.settings.grade == 3 then ansCode s 0x0301
    else if im.descs.length < bits e 32 24 || im.descs.length < bits e 64 24 then ansCode s 0x0303
    else if bad (bits e 32 24) || bad (bits e 64 24) then ansCode s 0x0105
    else ansOk { s with changes := { s.changes with adapterSets := s.changes.adapterSets ++ [d.params] } }

/-- `GROUP_SET`. -/
def groupSetPart : Part := fun s _ d =>
  match s.image with
  | none => ansCode s 0x0407
  | some im =>
    if im.groups.length ≤ prm d 0 12 then ansCode s 0x0105
    else if prm d 16 1 == 1 && prm d 32 2 == 3 then ansCode s 0x0105
    else if prm d 17 1 == 1 && !posNormal32 (prm d 64 32) then ansCode s 0x0105
    else ansOk { s with changes := { s.changes with groupSets := s.changes.groupSets ++ [d.params] } }

/-- Bits [lo + w − 1 : lo] of n replaced. -/
def putBits (n lo w v : Nat) : Nat := n - (bits n lo w <<< lo) + ((v % 2 ^ w) <<< lo)

/-- An `ADAPTER_SET` takes effect. -/
def applyAdapter (s : State) (p : Nat) : State :=
  { s with image := s.image.map (fun im => { im with adapters := im.adapters.set (bits p 0 8) (bits p 64 128) }) }

/-- A `GROUP_SET` takes effect: the fields that `SET` names; a change of `B_SMALL` starts the noise samples again. -/
def applyGroup (s : State) (p : Nat) : State :=
  match s.image with
  | none => s
  | some im =>
    let g := bits p 0 12
    let named := fun (i : Nat) => bitAt p (16 + i)
    let h1 := if named 0 then putBits im.groupHead 48 2 (bits p 32 2) else im.groupHead
    let h2 := if named 1 then putBits h1 64 32 (bits p 64 32) else h1
    let e := groupEntry im g
    let e1 := (List.range 8).foldl (fun x i => if named (2 + i) then putBits x (64 + 32 * i) 32 (bits p (96 + 32 * i) 32) else x) e
    let e2 := if named 10 then putBits e1 320 32 (bits p 352 32) else e1
    let noise := if grSmall e2 == grSmall e then s.update.noise
      else s.update.noise.map (fun n => if n.group == g then { n with samples := 0 } else n)
    { s with image := some { im with groupHead := h2, groups := im.groups.set g e2 }, update := { s.update with noise := noise } }

/-- Everything that waited for the boundary takes effect, in acceptance order. -/
def applySets (s : State) : State :=
  let s1 := s.changes.adapterSets.foldl applyAdapter s
  let s2 := s1.changes.groupSets.foldl applyGroup s1
  { s2 with changes := { s2.changes with adapterSets := [], groupSets := [] } }

def execCaravanPeriod (d : Datagram) (s : State) : Host.Outcome State Fault Refusal :=
  .next (ycp 0x0500 (.caravanPeriod d) caravanPeriodPart d s)
def execCaravanSet (d : Datagram) (s : State) : Host.Outcome State Fault Refusal := .next (ycp 0x0501 (.caravanSet d) caravanSetPart d s)
def execAdapterSet (d : Datagram) (s : State) : Host.Outcome State Fault Refusal :=
  .next (ycp 0x0406 (.adapterSet d) adapterSetPart d s)
def execGroupSet (d : Datagram) (s : State) : Host.Outcome State Fault Refusal := .next (ycp 0x0407 (.groupSet d) groupSetPart d s)

end Sys2Proof.Machine
end

