-- ==== Sys2Proof/Machine/Run.lean ====
section
/-! DEFINITION. The run: its start and end, caravan departures, the step boundary, and the end of a wait that can never end (R26, R29,
R121, R123, R195 to R197, R206, R311 to R315, R381, R426 to R429). -/

namespace Sys2Proof.Machine

/-! Start and end (R426, R427). -/

/-- Versions of a publish entry's shards on this module. -/
def shardVers (s : State) (pub : Nat) : List Nat := (s.versions.shards.filter (fun v => v.pub == pub)).map (·.cur)

/-- The expected version at the start of a run: that of the entry's shards, the lowest where they differ; as it stands where the module
keeps none. -/
def startVer (s : State) (pub : Nat) : Nat :=
  match shardVers s pub with
  | [] => expectedVer s pub
  | x :: r => r.foldl min x

/-- Tensors that take the version of a publish entry: published and received copies, and the master and states of the passes that fill it. -/
def tensorsOfPub (im : Image) (pub : Nat) : List Nat :=
  let p := puPub (pubOf im pub)
  ([p, puRecv (pubOf im pub)] ++ ((elementPasses im).filter (fun t => uPub (tOp t) == p)).flatMap (fun t => [uW (tOp t), uS0 (tOp t), uS1 (tOp t)])).filter (· != 0)

/-- The expected version of every publish entry and of its tensors, at a run's start. -/
def startVersions (im : Image) (s : State) : State :=
  (List.range im.car.pubs.length).foldl (fun t p =>
    let v := startVer s p
    { t with versions := { t.versions with
        expected := spPut 0 p v t.versions.expected
        local_ := (tensorsOfPub im p).foldl (fun m i => spPut 0 i v m) t.versions.local_
        shards := t.versions.shards.map (fun x => if x.pub == p then { x with departed := none, sent := false } else x) } }) s

/-- Weight-gradient slots and deferrals of a run that cannot be continued are discarded. -/
def discardAccum (s : State) : State :=
  { s with
    engines := s.engines.map (fun e => (e.1, { e.2 with wgb := e.2.wgb.map (fun w => (w.1, emptyWgb w.2)) }))
    reductions := { s.reductions with deferred := [] } }

/-- What belongs to one step is as at its start. -/
def freshStep (s : State) : State :=
  { s with
    run := { s.run with late := 0, replays := 0, stepCode := 0, stepWarn := false }
    update := { s.update with counted := [], g2 := none, clip := 0, repeats := [], oldFactors := [] }
    scales := { s.scales with amax := [], appended := [], events := [], tileSats := [], converted := [] }
    kv := { s.kv with pins := [], masses := [], waiting := [] }
    versions := { s.versions with ackSent := false } }

/-- Whether a run continues the one before it. -/
def runContinues (s : State) (n : Nat) : Bool := s.run.everRun && s.run.lastOk && s.run.lastN == n

/-- The state in which an accepted run waits for its first origin. -/
def beginRun (x : Session) (d : Datagram) (im : Image) (s : State) : State :=
  let n := prm d 208 8
  let go := runContinues s n
  let r := { s.run with
    active := true, sid := x.sid, handle := x.nextHandle, seed := prm d 0 64, step0 := prm d 64 32, steps := prm d 96 32, n := n,
    origin := prm d 128 64 * 65536 + prm d 192 16, step := prm d 64 32, count := if go then s.run.count + 1 else 0, begun := false,
    finishing := false, records := [], wrote := false, emptyView := false, retireAt := none }
  let s1 := startVersions im { s with run := freshRun im r }
  let s2 := freshStep (if go then s1 else discardAccum s1)
  { s2 with
    reductions := { s2.reductions with colls := [], chunks := [], departures := [], past := [], early := [] }
    mapping := { linkSent := [], links := [], recutDep := [], recutSent := [], moves := [], recutDone := [] } }

/-- `RUN`. -/
def runPart : Part := fun s x d =>
  match s.image with
  | none => ansCode s 0x0407
  | some im =>
    let n := prm d 208 8
    if s.run.active then ansCode s 0x0408
    else if n == 0 || 64 < n then ansCode s 0x0105
    else if s.boot.retired then ansCode s 0x050E
    else if s.time.state != 2 then ansCode s 0x050D
    else if prm d 128 64 * 65536 + prm d 192 16 < s.time.now + 1000000 * 65536 then ansCode s 0x0505
    else ansLong (beginRun x d im s) 0

/-- `RUN_START_TIME`: the first origin is reached, and the first step begins. Its time in `QUEUED` runs from the start time (R452). -/
def runStartSt (sid h : Nat) (s : State) : State :=
  match findOp s.sessions sid h with
  | none => s
  | some o =>
    if o.opcode != 0x0403 || o.state != 0 || !s.run.active || s.run.begun || s.run.sid != sid || s.run.handle != h || s.time.now < s.run.origin then s
    else
      let s0 := { s with sessions := modOp s.sessions sid h (fun o => { o with queuedAwake := awakeNs s - (nowNs s - s.run.origin >>> 16) }) }
      signalLinks (leaveNow (applyCaravanOps { beginOp sid h s0 with run := { s.run with begun := true, lastBegun := s.run.step } }))

/-- Expected versions and those of the module's own tensors after a reducing step (R379, R554). -/
def nextVersions (s : State) : State :=
  match s.image with
  | none => s
  | some im =>
    let up := fun (m : Sp Nat) (i : Nat) => spPut 0 i ((spGet 0 i m + 1) % 2 ^ 32) m
    { s with
      versions := { s.versions with
        expected := (List.range im.car.pubs.length).foldl up s.versions.expected
        local_ := (im.doubles ++ im.states).eraseDups.foldl up s.versions.local_ }
      reductions := { s.reductions with ring := s.reductions.ring + 1 } }

/-- `RUN_COMPLETE`: after the last boundary, the last step's departures are over, its publications have left, and every chunk that it sent
is acknowledged (log entry 31). -/
def runCompleteSt (sid h : Nat) (s : State) : State :=
  if !s.run.active || !s.run.finishing || s.run.sid != sid || s.run.handle != h || s.run.retireAt.isSome || !stepSettled s then s
  else doneRun (if reducesStep s then nextVersions s else s)

/-! Departures (R311, R314, R315). -/

/-- An entry fires in a step of a count. -/
def firesOn (s : State) (count e : Nat) : Bool :=
  let sel := (count + 1) % s.run.n == 0
  let fed := (s.image.map isFederated).getD false
  match caAction e with
  | 1 | 2 | 5 => fed || sel
  | 6 => caOp1 e != 0 && (count + 1) % caOp1 e == 0
  | 7 => fed && sel
  | _ => true

/-- The action of an entry in a step; `ns` is its departure. -/
def carAction (e step ns : Nat) (s : State) : State :=
  match caAction e with
  | 1 => launchColl (caOp0 e) step s
  | 2 => publishDeparts (caOp0 e) step s
  | 3 => recutDeparts (caOp0 e) step s
  | 4 => { s with power := { s.power with holdEnd := some (max (s.power.holdEnd.getD 0) (ns + 1000 * caOp0 e)) } }
  | 5 => deadlineColl (caOp0 e) step s
  | 6 => checkpointDeparts (caOp0 e) step s
  | 7 => federate step s
  | _ => s

/-- Steps of the run that follow the one in progress, up to two. -/
def stepsAhead (s : State) : Nat :=
  let r := s.run
  if r.finishing then 0 else if r.steps == 0 then 2 else min 2 (r.steps - 1 - (r.step + 2 ^ 32 - r.step0) % 2 ^ 32)

/-- Steps that an entry may depart for, oldest first, as number, count, origin and table: those left behind, the one in progress, and the two
that follow it. After its last boundary, the run's last step is one left behind. -/
def carSteps (s : State) (im : Image) : List (Nat × Nat × Nat × List Nat) :=
  let r := s.run
  s.reductions.past.map (fun p => (p.step, p.count, p.origin, p.entries)) ++
    (List.range (if r.finishing then 0 else stepsAhead s + 1)).map (fun k =>
      ((r.step + k) % 2 ^ 32, r.count + k, originAt s im k, (tableAt s im k).car.entries))

/-- Steps behind that have no departure due any more are forgotten. -/
def prunePast (s : State) : State :=
  let r := s.reductions
  { s with reductions := { r with past := r.past.filter (fun p =>
      !(List.range p.entries.length).all (fun k => hasDeparted s k p.step)) } }

/-- `CARAVAN_DEPARTURE` of an entry, for the oldest step in which it has still to depart: those before it in the step have departed, and its
time has come. The departure is recorded and wakes the module; its action runs at once, or at the boundary into the next step. -/
def departSt (k : Nat) (s : State) : State :=
  match s.image with
  | none => s
  | some im =>
    if !s.run.active || !s.run.begun then s
    else
      match (carSteps s im).find? (fun c => decide (k < c.2.2.2.length) && !hasDeparted s k c.1) with
      | none => s
      | some (st, count, origin, es) =>
        let e := es.getD k 0
        let d := origin + carOffset e
        let before := es.zipIdx.any (fun x => (carOffset x.1 < carOffset e || (carOffset x.1 == carOffset e && x.2 < k)) && !hasDeparted s x.2 st)
        if before || s.time.now < d then s
        else
          let w := wakeUp (some 4) s
          let s1 := prunePast { w with reductions := { w.reductions with departures := w.reductions.departures ++ [(k, st, d >>> 16)] } }
          if !firesOn s count e then s1
          else if st == (s.run.step + 1) % 2 ^ 32 then { s1 with reductions := { s1.reductions with early := s1.reductions.early ++ [k] } }
          else if st == (s.run.step + 2) % 2 ^ 32 then failRun 0x0504 s1
          else carAction e st (d >>> 16) s1

/-! The KV part of a boundary (R195 to R197). -/

/-- One score update; a page whose count is 0 takes none. -/
def scorePage (u : Nat × Nat × Nat × Nat) (s : State) : State :=
  match poolOf s u.2.1 with
  | none => s
  | some p =>
    let x := pageOf p u.2.2.1
    let b := pShift p.record
    if x.ref == 0 then s
    else setPool u.2.1 (setPage u.2.2.1 { x with score := x.score - (x.score >>> b) + (u.2.2.2 >>> b) } p) s

/-- Score updates in ascending thread. -/
def scoreUpdates (s : State) : State :=
  let m : Sp (List (Nat × Nat × Nat × Nat)) := s.kv.masses.foldl (fun m u => spSet u.1 (spGet [] u.1 m ++ [u]) m) []
  (m.flatMap (·.2)).foldl (fun t u => scorePage u t) s

/-- The page to evict among a stream's resident ones, as logical page and page: the lowest score, then the lowest logical number. -/
def victimOf (p : Pool) (res : List (Nat × Nat)) (sink recent : Nat) : Option (Nat × Nat) :=
  ((res.take (res.length - recent)).filter (fun x => sink ≤ x.1)).foldl (fun b x => match b with
    | none => some x
    | some y => if (pageOf p x.2).score < (pageOf p y.2).score then some x else b) none

/-- Evictions of one stream: the leaves with holes, and the pages dropped. -/
def evictStream (p : Pool) (q : KvSeq) (stream : Nat) : Nat → List (List Nat) → List Nat → List (List Nat) × List Nat
  | 0, ls, ds => (ls, ds)
  | n + 1, ls, ds =>
    let res := (ls.zipIdx.map (fun l => (l.2, leafEntry stream l.1))).filter (fun x => x.2 < unflushed)
    if res.length ≤ q.budget then (ls, ds)
    else
      match victimOf p res q.sink q.recent with
      | none => (ls, ds)
      | some x => evictStream p q stream n (ls.set x.1 ((ls.getD x.1 []).set stream hole)) (ds ++ [x.2])

/-- Evictions of a sequence, published as one generation. -/
def evictSeq (id : Nat) (s : State) : State :=
  match seqOf s id with
  | none => s
  | some q =>
    match poolOf s q.pool with
    | none => s
    | some p =>
      if q.budget == 0 then s
      else
        let r := (List.range (pStreams p.record)).foldl (fun (a : List (List Nat) × List Nat) st => evictStream p q st a.1.length a.1 a.2) (q.leaves, [])
        if r.2.isEmpty then s
        else
          match publishSeq id r.1 r.2 s with
          | none => failRun 0x0602 s
          | some t => t

/-- Scores, evictions and deferred frees, in that order. -/
def kvBoundary (s : State) : State :=
  let s1 := scoreUpdates s
  syncTables s (settleFrees ((s1.kv.seqs.map (·.1)).foldl (fun t id => evictSeq id t) s1))

/-! The boundary (R121). -/

/-- The boundary of the step in progress: every queue has retired its `STEP_END` entry and nothing is in flight; with no queue at all, the next
origin has come. A module that retires settles its step first. -/
def boundaryDue (s : State) : Bool :=
  match s.image with
  | none => false
  | some im =>
    runGoes s && s.run.inflight.isEmpty && s.kv.waiting.isEmpty &&
    (if im.queues.isEmpty then decide (s.run.origin + im.car.period * 65536 ≤ s.time.now)
     else (im.queues.zip s.run.queues).all (fun q => q.1.entries.isEmpty || q.2.retired)) &&
    (retireOp s == none || stepSettled s)

/-- Slots whose period ends short of `ADDS`, as engine, slot, `DONE` and `ADDS` (R206). -/
def shortSlots (s : State) (im : Image) : List (Nat × Nat × Nat × Nat) :=
  if !reducesStep s then []
  else s.engines.flatMap (fun e => (e.2.wgb.filter (fun w => w.2.st == 1 && w.2.done < wmAdds (mapEntryOf im e.1 w.1))).map (fun w =>
    (e.1, w.1, w.2.done, wmAdds (mapEntryOf im e.1 w.1))))

/-- A period that ends short fails the command, and its slots are empty again. -/
def failShort (l : List (Nat × Nat × Nat × Nat)) (s : State) : State :=
  l.foldl (fun t x => wgbBreach 0xFFFFFFFF x.1 x.2.1 x.2.2.1 x.2.2.2 (modSlot x.1 x.2.1 emptyWgb t)) s

/-- Memory sources whose counters have reached their values, as collective and leaf. -/
def readySources (s : State) (e : Env) : List (Nat × Nat) :=
  ((List.range e.im.car.colls.length).filter (fun k => coKind (collOf e.im k) == 1)).flatMap (fun k =>
    ((sourceList e k).zipIdx.filter (fun x => waitMet s x.1.2.1 x.1.2.2)).map (fun x => (k, x.2)))

/-- The step's sources stay ready for its chunks, and the step joins those left behind. -/
def leaveStep (e : Env) (s : State) : State :=
  let ready := readySources s e
  let r := s.reductions
  let keep := fun (c : ChunkRt) =>
    if c.step == s.run.step && c.launched && !c.done then
      { c with leaves := c.leaves ++ ((ready.filter (·.1 == c.coll)).map (·.2)).filter (fun l => !c.leaves.contains l) }
    else c
  let past := r.past ++ [{ step := s.run.step, count := s.run.count, origin := s.run.origin, entries := e.im.car.entries, ready := ready }]
  let near := fun (d : Nat × Nat × Nat) => past.any (fun p => p.step == d.2.1) || (d.2.1 + 2 ^ 32 - s.run.step) % 2 ^ 32 < 4
  prunePast { s with reductions := { r with chunks := r.chunks.map keep, past := past, departures := r.departures.filter near } }

/-- Streams and moves of steps that are over go. -/
def pruneMapping (s : State) : State :=
  let m := s.mapping
  let ahead := fun (st : Nat) => (st + 2 ^ 32 - s.run.step) % 2 ^ 32 < 2 ^ 31
  let open_ := fun (l : Nat × Nat) => !m.recutDone.contains l
  { s with mapping := {
      linkSent := m.linkSent.filter (fun l => ahead l.2)
      links := m.links.filter (fun x => ahead x.step)
      recutDep := m.recutDep.filter open_
      recutSent := m.recutSent.filter open_
      moves := m.moves.filter (fun x => ahead x.step || m.recutDep.any (fun l => open_ l && l.2 == x.step))
      recutDone := [] } }

/-- Actions of departures that came before their step, in their order. -/
def earlyActions (s : State) : State :=
  match s.image with
  | none => s
  | some im =>
    let at_ := fun (k : Nat) => (((s.reductions.departures.find? (fun d => d.1 == k && d.2.1 == s.run.step))).map (·.2.2)).getD 0
    s.reductions.early.foldl (fun t k => carAction (im.car.entries.getD k 0) t.run.step (at_ k) t) { s with reductions := { s.reductions with early := [] } }

/-- The step's record, and its place in the command's progress. -/
def recordStep (s : State) : State :=
  { s with
    run := { s.run with records := keepLast 65536 (s.run.records ++ [stepRecord s s.run.stepCode s.run.stepWarn true]) }
    sessions := modOp s.sessions s.run.sid s.run.handle (fun o => { setProgress (o.progress + 1) o with part := true }) }

/-- The step just recorded was the run's last. -/
def wasLast (s : State) : Bool := s.run.steps != 0 && (s.run.step + 1 + 2 ^ 32 - s.run.step0) % 2 ^ 32 == s.run.steps % 2 ^ 32

/-- The next step begins: its number, count and origin, its versions, and everything that starts afresh. -/
def nextStep (e : Env) (s : State) : State :=
  let s1 := leaveStep e s
  let s2 := if reducesStep s then nextVersions s1 else s1
  let r := { s2.run with step := (s2.run.step + 1) % 2 ^ 32, lastBegun := (s2.run.step + 1) % 2 ^ 32, count := s2.run.count + 1, origin := s2.run.origin + e.im.car.period * 65536 }
  let s3 := { applyDueOps s2 with run := freshRun e.im r }
  earlyActions (leaveNow (signalLinks (pruneMapping (applySets (freshStep s3)))))

/-- The boundary that no further step follows: counters and queues start afresh all the same (R121), and the step's departures, sources and
chunks go on as those of a step left behind. -/
def lastStep (e : Env) (s : State) : State :=
  let s1 := leaveStep e s
  applySets { s1 with run := freshRun e.im { s1.run with finishing := true } }

/-- `STEP_BOUNDARY`. -/
def boundarySt (s : State) : State :=
  match envOf s with
  | none => s
  | some e =>
    if !boundaryDue s then s
    else if !(shortSlots s e.im).isEmpty then failShort (shortSlots s e.im) s
    else
      let s1 := kvBoundary s
      if !s1.run.active then s1
      else
        let s2 := sendBwdAck s1
        if !s2.run.active then s2
        else
          let s3 := recordStep (if reducesStep s2 && !hasRecordColl e.im then exchangeLocal s2 else s2)
          if !s3.run.active then s3
          else if retiresNow s3 then retireNotice (applySets { s3 with run := freshRun e.im s3.run })
          else if wasLast s3 then lastStep e (retireUnsent s3)
          else nextStep e (retireUnsent s3)

/-! A wait that can never end (R123). -/

/-- A reception that the step in progress still expects. -/
def receptionDue (s : State) (e : Env) : Bool :=
  let st := s.run.step
  e.im.links.zipIdx.any (fun l => liRecv l.1 && !streamWhole s.mapping.links l.2 st) ||
  s.mapping.recutDep.any (fun l => !s.mapping.recutDone.contains l) ||
  s.reductions.chunks.any (fun c => c.launched && (!c.acked || ((c.own0 == e.id || c.own1 == e.id) && !c.landed))) ||
  s.versions.shards.any (fun v => match (pubShards e v.pub)[v.shard]? with
    | none => false
    | some sh => shOwns e.id sh && (readersOf e.im v.pub).any (fun m => m != e.id && !(goneModules s).contains m && spGet 0 m s.versions.acks < st + 1))

/-- The unmet counter of an entry. -/
def unmetCtr (s : State) (ent : Nat) : Nat := if waitMet s (tWait ent) (tWaitVal ent) then tWait2 ent else tWait ent

/-- Queues that have not retired, with their next entry. -/
def openQueues (s : State) (im : Image) : List (Queue × Option Nat) :=
  ((im.queues.zip s.run.queues).filter (fun q => !q.2.retired)).map (fun q => (q.1, (queueHead q.1 q.2).map (·.2)))

/-- `DEADLOCK_DETECTED`: every queue waits on a counter, nothing executes, and nothing that the step expects is outstanding. -/
def deadlockSt (s : State) : State :=
  match envOf s with
  | none => s
  | some e =>
    let qs := openQueues s e.im
    let waits := qs.all (fun q => match q.2 with
      | none => false
      | some ent => !waitsMet s q.1.kind ent)
    let departed := s.reductions.past.isEmpty && (List.range e.im.car.entries.length).all (fun k => hasDeparted s k s.run.step)
    if !runGoes s || qs.isEmpty || !waits || !s.run.inflight.isEmpty || !departed || receptionDue s e then s
    else
      failRun 0x0403 (qs.foldl (fun t q => match q.2 with
        | none => t
        | some ent => addThreadFault q.1.kind q.1.unit (tThread ent) 0x0403 1 (unmetCtr s ent) 0 t) s)

def execRun (d : Datagram) (s : State) : Host.Outcome State Fault Refusal := .next (ycp 0x0403 (.run d) runPart d s)
def execRunStartTime (sid handle : Nat) (s : State) : Host.Outcome State Fault Refusal := .next (runStartSt sid handle s)
def execRunComplete (sid handle : Nat) (s : State) : Host.Outcome State Fault Refusal := .next (runCompleteSt sid handle s)
def execCaravanDeparture (entry : Nat) (s : State) : Host.Outcome State Fault Refusal := .next (departSt entry s)
def execStepBoundary (s : State) : Host.Outcome State Fault Refusal := .next (boundarySt s)
def execDeadlockDetected (s : State) : Host.Outcome State Fault Refusal := .next (deadlockSt s)

/-! Reading the state of a run (Tables 16.7, 16.12, 16.16). -/

/-- `IMAGE_STATE`. -/
def imageStatePart : Part := fun s _ _ =>
  ansBody s (pack [(0, 1, b2n s.image.isSome), (1, 1, b2n s.run.active), (64, 64, (s.image.map (·.tag)).getD 0), (128, 32, s.run.lastBegun),
    (160, 32, s.run.count)]) 24

/-- Header of the norm table (R223). -/
def normHeader (u : UpdateState) : Nat :=
  pack [(0, 16, 1), (16, 16, 32 + 32 * (u.norms.length + u.noise.length)), (32, 32, u.normStep), (64, 32, u.gGlobal), (96, 32, u.clipC),
    (128, 32, u.clips), (160, 32, u.redone), (192, 1, b2n u.valid)]

/-- A norm entry (Table 8.14). -/
def normBytes (n : NormEntry) : List Byte :=
  leBytes 32 (pack [(0, 12, n.group), (16, 1, b2n n.wValid), (17, 1, b2n n.gValid), (18, 1, b2n n.uValid), (19, 1, b2n n.rValid), (32, 32, n.step),
    (64, 32, n.wNorm), (96, 32, n.gNorm), (128, 32, n.uNorm), (160, 32, n.ratio)])

/-- A noise entry (Table 8.15). -/
def noiseBytes (n : NoiseEntry) : List Byte :=
  leBytes 32 (pack [(0, 12, n.group), (16, 8, n.samples), (24, 1, b2n (decide (8 ≤ n.samples))), (32, 32, n.step), (64, 32, n.g2), (96, 32, n.tr),
    (128, 32, n.bNoise), (160, 32, n.rawG2), (192, 32, n.rawTr)])

/-- `NORM_READ`. -/
def normReadPart : Part := fun s _ d =>
  let u := s.update
  if prm d 0 1 == 1 && !hasCap s 2 then ansCode s 0x0301
  else
  let l := if prm d 0 1 == 1 then u.noise.map noiseBytes else u.norms.map normBytes
  ansBytes s (leBytes 32 (normHeader u) ++ ((l.drop (prm d 32 16)).take 40).flatten)

/-- Version state of a shard (Table 14.7). -/
def verBytes (v : ShardVer) : List Byte := leBytes 16 (pack [(0, 32, v.cur), (32, 32, v.pubStep), (64, 32, v.half0), (96, 32, v.half1)])

/-- States from an index on, if the count is in range and all of them exist. -/
def someStates (s : State) (count limit total first : Nat) (f : Nat → List Byte) : Answer :=
  if limit < count || total < first + count then ansCode s 0x0105
  else ansBytes s ((List.range count).flatMap (fun i => f (first + i)))

/-- `DIAG_READ`. -/
def diagReadPart : Part := fun s _ d =>
  let a := prm d 32 32
  let b := prm d 64 32
  let n := prm d 96 16
  match prm d 0 8 with
  | 1 =>
    if 32 ≤ a then ansCode s 0x0105
    else someStates s n 160 614 b (fun i => match slotOf s a i with
      | none => leBytes 8 0
      | some w => leBytes 8 (pack [(0, 3, w.st), (8, 32, w.done)]))
  | 2 =>
    let total := ((s.image.map (·.ledger.length)).getD 0)
    someStates s n 160 total a (fun i => let x := ledgerAt s i
      leBytes 8 (pack [(0, 3, x.1), (32, 32, x.2)]))
  | 3 =>
    match envOf s with
    | none => ansCode s 0x0407
    | some e =>
      if e.im.car.pubs.length ≤ a then ansCode s 0x0105
      else someStates s n 80 (pubShards e a).length b (fun i => match findVer s a i with
        | none => verBytes (newVer a i)
        | some v => verBytes v)
  | 4 => someStates s n 320 65535 a (fun i => leBytes 4 (ctrAt s i))
  | 5 =>
    if [0, 32, 16, 256, 8, 4, 2, 2].getD a 0 ≤ b then ansCode s 0x0105
    else if a == 6 && !hasCap s 5 then ansCode s 0x0301
    else someStates s n 1 1 0 (fun _ => match queueOf s a b with
      | none => leBytes 8 0
      | some (_, q, p) => leBytes 8 (pack [(0, 32, ((queueHead q p).map (·.1)).getD p.next), (32, 1, b2n (headWaits s a b))]))
  | _ => ansCode s 0x0105

/-- A tensor whose format has a tensor scale, or the code of its refusal. -/
def scaledDesc (s : State) (i : Nat) : Except Nat (Image × Nat) :=
  match s.image with
  | none => .error 0x0407
  | some im =>
    let d := descOf im i
    if i == 0 || im.descs.length < i then .error 0x0303
    else if dKind d != 0 || !fmtScaled (dFmt d) then .error 0x0105
    else .ok (im, d)

/-- `SCALE_HIST_READ`. With no run, `SCALE` reads as the T that the next conversion takes, so that a job resumed with its records converts as the
uninterrupted one would (R77; DEDUCED, log entry 98). -/
def scaleHistReadPart : Part := fun s _ d =>
  match scaledDesc s (prm d 0 24) with
  | .error c => ansCode s c
  | .ok (im, x) =>
    match vaRead s.memory im.regions 0 (dAux x) 80 with
    | .error c => ansFault s c (dAux x) 80
    | .ok l => ansBytes s (match s.run.active, spGet? (pairKey im (prm d 0 24)) s.scales.nextScale with
      | false, some t => l.take 12 ++ leBytes 4 t ++ l.drop 16
      | _, _ => l)

/-- The rules of a history record that a host writes (Table 3.3, R50, R66). -/
def histOk (r : Nat) : Bool :=
  decide (bits r 64 8 ≤ 16) && decide (bits r 80 8 ≤ bits r 64 8) && decide (bits r 72 8 < 16) && posNormal32 (bits r 96 32)

/-- A history record enters its place, the fields that the module fixes as it fixes them. -/
def putHist (im : Image) (d r : Nat) (m : Memory) : Memory :=
  vaPut m im.regions (dAux d) (leBytes 8 (pack [(0, 16, 1), (16, 16, 80), (32, 32, dTid d)]) ++ (leBytes 80 r).drop 8)

/-- `SCALE_HIST_WRITE`. -/
def scaleHistWritePart : Part := fun s _ d =>
  let i := prm d 0 24
  let r := prm d 64 640
  if 1 < bits r 0 16 then ansCode s 0x0104
  else if !histOk r then ansCode s 0x0105
  else if s.run.active then ansCode s 0x0408
  else
    match scaledDesc s i with
    | .error c => ansCode s c
    | .ok (im, x) =>
      let k := pairKey im i
      ansOk (syncScale i { s with
        memory := putHist im x r s.memory
        scales := { s.scales with nextScale := spDel k s.scales.nextScale,
                                  exchanged := if bits r 80 8 == 0 then s.scales.exchanged.filter (· != k) else s.scales.exchanged } })

def execScaleHistRead (d : Datagram) (s : State) : Host.Outcome State Fault Refusal :=
  .next (ycp 0x0404 (.scaleHistRead d) scaleHistReadPart d s)
def execScaleHistWrite (d : Datagram) (s : State) : Host.Outcome State Fault Refusal :=
  .next (ycp 0x0405 (.scaleHistWrite d) scaleHistWritePart d s)
def execImageState (d : Datagram) (s : State) : Host.Outcome State Fault Refusal := .next (ycp 0x0402 (.imageState d) imageStatePart d s)
def execNormRead (d : Datagram) (s : State) : Host.Outcome State Fault Refusal := .next (ycp 0x0701 (.normRead d) normReadPart d s)
def execDiagRead (d : Datagram) (s : State) : Host.Outcome State Fault Refusal := .next (ycp 0x0903 (.diagRead d) diagReadPart d s)

end Sys2Proof.Machine
end

