-- ==== Sys2Proof/Machine/Image.lean ====
section
/-! DEFINITION. The bytes of a step image: its header, directory and sections, and what they hold once decoded (R24, R424,
R116 to R118, R124, R202, R210, R211, R227, R239, R244, R267, R310, R312, R338, R342, R343, R366, R370, R377). -/

namespace Sys2Proof.Machine

/-- The number in w bytes at an offset. -/
def numAt (b : List Byte) (off w : Nat) : Nat := ofLe ((b.drop off).take w)

/-- n numbers of w bytes each, from an offset. -/
def cutAt (b : List Byte) (off w n : Nat) : List Nat := cutNats w n (b.drop off)

/-! Header and directory (R424, Table 16.5). -/

def imHead (b : List Byte) : Nat := numAt b 0 64
def imEntries (b : List Byte) : List Nat := cutAt b 64 16 (bits (imHead b) 32 8)
def dirType (x : Nat) : Nat := bits x 0 8
def dirOff (x : Nat) : Nat := bits x 16 48
def dirLen (x : Nat) : Nat := bits x 64 48

/-- The CRC of the image with its `CRC` field zero matches that field. -/
def imCrcOk (b : List Byte) : Bool := crc32c (b.take 16 ++ List.replicate 4 0 ++ b.drop 20) == bits (imHead b) 128 32

/-- Two directory entries whose sections share no byte. -/
def apart (x y : Nat) : Bool := decide (dirOff x + dirLen x ≤ dirOff y) || decide (dirOff y + dirLen y ≤ dirOff x)

/-- Every pair of a list stands in a relation. -/
def allPairs {α : Type} (p : α → α → Bool) : List α → Bool
  | [] => true
  | x :: r => r.all (p x) && allPairs p r

/-- The header and directory keep the rules of R424. -/
def directoryOk (b : List Byte) : Bool :=
  let h := imHead b
  let es := imEntries b
  decide (64 ≤ b.length) && decide (6 ≤ bits h 32 8) && decide (bits h 32 8 ≤ 9) && bits h 64 48 == b.length &&
  decide (64 + 16 * bits h 32 8 ≤ b.length) &&
  es.all (fun x => decide (1 ≤ dirType x) && decide (dirType x ≤ 9) && dirOff x % 64 == 0 && decide (64 + 16 * es.length ≤ dirOff x) &&
    decide (dirOff x + dirLen x ≤ b.length)) &&
  [1, 2, 3, 4, 5, 6].all (fun t => es.any (fun x => dirType x == t)) &&
  allPairs (fun x y => dirType x != dirType y && apart x y) es &&
  decide ((es.map dirLen).foldl (· + ·) 0 ≤ 2 ^ 30) && imCrcOk b

/-- The section of a type, none where the image has none. -/
def sectionOf (b : List Byte) (t : Nat) : Option (List Byte) :=
  ((imEntries b).find? (fun x => dirType x == t)).map (fun x => (b.drop (dirOff x)).take (dirLen x))

def secOr (b : List Byte) (t : Nat) : List Byte := (sectionOf b t).getD []

/-! Queues (R118, Table 5.3). The entry array holds the entries that the directory counts; the chain records follow it. -/

def qdCount (s : List Byte) : Nat := bits (numAt s 0 16) 32 16
def qdEntries (s : List Byte) : List Nat := cutAt s 16 16 (qdCount s)
def qeKind (x : Nat) : Nat := bits x 0 8
def qeUnit (x : Nat) : Nat := bits x 16 16
def qeCount (x : Nat) : Nat := bits x 32 16
def qeFirst (x : Nat) : Nat := bits x 64 32
def qArray (s : List Byte) : Nat := 16 + 16 * qdCount s
def qTotal (s : List Byte) : Nat := ((qdEntries s).map qeCount).foldl (· + ·) 0

def readQueue (s : List Byte) (x : Nat) : Queue :=
  { kind := qeKind x, unit := qeUnit x, entries := cutAt s (qArray s + 64 * qeFirst x) 64 (qeCount x) }

/-! Descriptors, owner tables and mapping (R227, R244, R366). The owner-table directory follows the descriptors. -/

def deCount (s : List Byte) : Nat := bits (numAt s 0 32) 32 20
def owDir (s : List Byte) : Nat := 32 + 128 * deCount s
def owPairs (s : List Byte) : Nat := bits (numAt s (owDir s) 16) 32 16
def owEntries (s : List Byte) : List Nat := cutAt s (owDir s + 16) 16 (owPairs s)
/-- Offsets of the tables of the pairs, A then B of each. -/
def owOffsets (s : List Byte) : List Nat := (owEntries s).flatMap (fun x => [bits x 0 32, bits x 32 32])
def owShards (s : List Byte) (off : Nat) : Nat := bits (numAt s off 16) 32 24
def owTable (s : List Byte) (off : Nat) : List Nat := cutAt s (off + 16) 16 (owShards s off)
/-- The mapping section: the first 64-byte boundary after the last owner table. -/
def mapOff (s : List Byte) : Nat :=
  let ends := (owOffsets s).map (fun o => o + 16 + 16 * owShards s o)
  64 * ceilDiv (ends.foldl max (owDir s + 16 + 16 * owPairs s)) 64

def mpHead (s : List Byte) : Nat := numAt s (mapOff s) 64
def mpLinks (h : Nat) : Nat := bits h 32 16
def mpRecuts (h : Nat) : Nat := bits h 48 16
def mpLinkOff (h : Nat) : Nat := bits h 64 32
def mpRecutOff (h : Nat) : Nat := bits h 96 32
def mpExpertOff (h : Nat) : Nat := bits h 128 32
def mpReaderOff (h : Nat) : Nat := bits h 160 32
def rcTensors (h : Nat) : Nat := bits h 48 16
def rcMoves (h : Nat) : Nat := bits h 64 32
/-- Offsets of the re-cut lists from the head. -/
def mpRecutList (s : List Byte) : List Nat := cutAt s (mapOff s + mpRecutOff (mpHead s)) 4 (mpRecuts (mpHead s))
def readRecut (s : List Byte) (off : Nat) : Recut :=
  let a := mapOff s + off
  let h := numAt s a 32
  { head := h, tensors := cutAt s (a + 32) 16 (rcTensors h), moves := cutAt s (a + 32 + 16 * rcTensors h) 16 (rcMoves h) }
def mpExperts (s : List Byte) : Nat :=
  if mpExpertOff (mpHead s) == 0 then 0 else bits (numAt s (mapOff s + mpExpertOff (mpHead s)) 16) 32 16

/-! Caravans (R310 to R312, R338, R342, R343). -/

def csHead (s : List Byte) : Nat := numAt s 0 64
def csColl (s : List Byte) : Nat := bits (csHead s) 128 32
def csGrp (s : List Byte) : Nat := bits (csHead s) 160 32
def csPub (s : List Byte) : Nat := bits (csHead s) 192 32
def csCkpt (s : List Byte) : Nat := bits (csHead s) 224 32
def csFed (s : List Byte) : Nat := bits (csHead s) 256 32
/-- `COUNT` of a subtable's head. -/
def subCount (s : List Byte) (off : Nat) : Nat := bits (numAt s off 16) 32 16

/-- Bytes of a group record of n members. -/
def groupBytes (n : Nat) : Nat := 8 + 8 * ceilDiv n 4

/-- Offsets of n group records, the first at an offset. -/
def groupOffs (s : List Byte) : Nat → Nat → List Nat
  | 0, _ => []
  | n + 1, a => a :: groupOffs s n (a + groupBytes (bits (numAt s a 8) 0 17))

def readGroup (s : List Byte) (a : Nat) : List Nat := cutAt s (a + 8) 2 (bits (numAt s a 8) 0 17)

/-- Where the checkpoint lists end: the next subtable, or the section's end. -/
def ckptEnd (s : List Byte) : Nat :=
  (([csColl s, csGrp s, csPub s, csFed s].filter (csCkpt s < ·)).foldl min s.length)

/-- Offsets of the checkpoint lists, one after another up to an end or to a head without a version. DESIGN CHOICE (log entry 32). -/
def ckptOffs (s : List Byte) (fin : Nat) : Nat → Nat → List Nat
  | 0, _ => []
  | n + 1, a =>
    if fin < a + 16 || bits (numAt s a 16) 0 16 == 0 then []
    else a :: ckptOffs s fin n (a + 16 + 8 * subCount s a)

def ckptList (s : List Byte) : List Nat := if csCkpt s == 0 then [] else ckptOffs s (ckptEnd s) s.length (csCkpt s)

def fedHeadOf (s : List Byte) : Nat := if csFed s == 0 then 0 else numAt s (csFed s) 32

def readCaravans (s : List Byte) : CaravanSec :=
  { period := bits (csHead s) 64 48
    entries := cutAt s 64 32 (bits (csHead s) 32 13)
    colls := cutAt s (csColl s + 16) 64 (subCount s (csColl s))
    groups := (groupOffs s (subCount s (csGrp s)) (csGrp s + 16)).map (readGroup s)
    pubs := cutAt s (csPub s + 16) 16 (subCount s (csPub s))
    ckpts := (ckptList s).map (fun a => cutAt s (a + 16) 8 (subCount s a))
    fedHead := fedHeadOf s
    fedRanges := cutAt s (csFed s + 32) 96 (bits (fedHeadOf s) 48 16) }

/-! Update recipes, functions, ledger, adapters and scales (R202, R210, R211, R132, R267, R109, Table 16.6). -/

def upHead (s : List Byte) : Nat := numAt s 0 16
def upGroups (s : List Byte) : Nat := bits (upHead s) 32 32
def upMap (s : List Byte) : Nat := bits (upHead s) 64 32
def upEngines (s : List Byte) : Nat := bits (numAt s (upMap s) 16) 32 8
/-- Slots and offsets of a table of 64 four-byte offsets after a 16-byte head; 0 is an empty slot. -/
def slotOffs (s : List Byte) : List (Nat × Nat) := ((cutAt s 16 4 64).zipIdx.map (fun x => (x.2, x.1))).filter (·.2 != 0)
def recipeBytes (s : List Byte) (off : Nat) : Nat := 16 + 8 * bits (numAt s off 16) 32 6
def funcBytes (s : List Byte) (off : Nat) : Nat := 32 + 16 * bits (numAt s off 32) 48 16

/-- A slot of the adapter table that nothing has filled (Table 4.8). -/
def emptyAdapter : Nat := 0x3F800000 <<< 96

/-- Entries of the scale initialisation section: as many as its length holds. DESIGN CHOICE (log entry 32). -/
def readScales (s : List Byte) : List (Nat × List Byte) :=
  (List.range (s.length / 84)).map (fun i => (numAt s (84 * i) 4, (s.drop (84 * i + 4)).take 80))

/-- Operation words of a class, with the kind and index of their unit. -/
def opwords (im : Image) (cls : Nat) : List (Nat × Nat) :=
  im.queues.flatMap (fun q => (q.entries.filter (fun t => tClass t == cls)).map (fun t => (q.unit, t)))

/-- Tensors double-buffered by version, and those that clip mode 2 adds (R554). -/
def withDoubles (im : Image) : Image :=
  let us := (opwords im 0x40).map (fun t => tOp t.2)
  { im with
    doubles := (us.flatMap (fun o => [uW o, uPub o]) ++ im.car.pubs.map puRecv ++ (im.car.colls.filter coQ16).map coAexp).eraseDups.filter (· != 0)
    states := (us.flatMap (fun o => [uS0 o, uS1 o])).eraseDups.filter (· != 0) }

/-- The image that a byte sequence holds. -/
def readImage (b : List Byte) : Image :=
  let s1 := secOr b 1
  let s2 := secOr b 2
  let s3 := secOr b 3
  let s4 := secOr b 4
  let s5 := secOr b 5
  let s6 := secOr b 6
  let s7 := secOr b 7
  withDoubles
    { tag := bits (imHead b) 192 64
      hash := shaNat b
      regions := cutAt s1 32 32 (bits (numAt s1 0 32) 32 16)
      queues := (qdEntries s2).map (readQueue s2)
      chainArea := s2.drop (qArray s2 + 64 * qTotal s2)
      descs := cutAt s3 32 128 (deCount s3)
      owners := (owEntries s3).map (fun x => (owTable s3 (bits x 0 32), owTable s3 (bits x 32 32)))
      mapHead := mpHead s3
      links := cutAt s3 (mapOff s3 + mpLinkOff (mpHead s3)) 32 (mpLinks (mpHead s3))
      recuts := (mpRecutList s3).map (readRecut s3)
      experts := cutAt s3 (mapOff s3 + mpExpertOff (mpHead s3) + 16) 16 (mpExperts s3)
      readers := cutAt s3 (mapOff s3 + mpReaderOff (mpHead s3)) 2 (subCount s4 (csPub s4))
      car := readCaravans s4
      recipes := (slotOffs s5).map (fun x => (x.1, (s5.drop x.2).take (recipeBytes s5 x.2)))
      groupHead := numAt s5 (upGroups s5) 32
      groups := cutAt s5 (upGroups s5 + 32) 64 (bits (numAt s5 (upGroups s5) 32) 32 16)
      wgbMap := (List.range (upEngines s5)).map (fun m => cutAt s5 (upMap s5 + 16 + 9824 * m) 16 614)
      funcs := (slotOffs s6).map (fun x => (x.1, (s6.drop x.2).take (funcBytes s6 x.2)))
      ledger := cutAt s7 32 32 (bits (numAt s7 0 32) 32 24)
      adapters := match sectionOf b 8 with
        | some s8 => cutAt s8 16 16 256
        | none => List.replicate 256 emptyAdapter
      scaleInit := readScales (secOr b 9)
      doubles := []
      states := [] }

/-! Structures of an image: every table lies in its section, and every version is one the module knows (R14, R15). -/

/-- Ends of the tables of a section, which may not pass the section's own end. -/
def tableEnds (b : List Byte) : List (Nat × Nat) :=
  let s1 := secOr b 1
  let s2 := secOr b 2
  let s3 := secOr b 3
  let s4 := secOr b 4
  let s5 := secOr b 5
  let s6 := secOr b 6
  let s7 := secOr b 7
  let h := mpHead s3
  let m := mapOff s3
  let one := fun (s : List Byte) (l : List Nat) => l.map (fun x => (x, s.length))
  one s1 [32, 32 + 32 * bits (numAt s1 0 32) 32 16] ++
  one s2 [16, qArray s2 + 64 * qTotal s2] ++
  one s3 ([32, owDir s3 + 16 + 16 * owPairs s3, m + 64, m + mpLinkOff h + 32 * mpLinks h, m + mpRecutOff h + 4 * mpRecuts h,
    m + mpReaderOff h + 2 * subCount s4 (csPub s4)] ++
    (owOffsets s3).map (fun o => o + 16 + 16 * owShards s3 o) ++
    (mpRecutList s3).map (fun o => let r := numAt s3 (m + o) 32
                                   m + o + 32 + 16 * (rcTensors r + rcMoves r)) ++
    (if mpExpertOff h == 0 then [] else [m + mpExpertOff h + 16 + 16 * mpExperts s3])) ++
  one s4 ([64 + 32 * bits (csHead s4) 32 13, csColl s4 + 16 + 64 * subCount s4 (csColl s4), csPub s4 + 16 + 16 * subCount s4 (csPub s4),
    csGrp s4 + 16] ++
    (groupOffs s4 (subCount s4 (csGrp s4)) (csGrp s4 + 16)).map (fun a => a + groupBytes (bits (numAt s4 a 8) 0 17)) ++
    (ckptList s4).map (fun a => a + 16 + 8 * subCount s4 a) ++
    (if csFed s4 == 0 then [] else [csFed s4 + 32 + 96 * bits (fedHeadOf s4) 48 16])) ++
  one s5 ([272, upGroups s5 + 32 + 64 * bits (numAt s5 (upGroups s5) 32) 32 16, upMap s5 + 16 + 9824 * upEngines s5] ++
    (slotOffs s5).map (fun x => x.2 + recipeBytes s5 x.2)) ++
  one s6 (272 :: (slotOffs s6).map (fun x => x.2 + funcBytes s6 x.2)) ++
  (match sectionOf b 7 with
   | none => []
   | some _ => one s7 [32, 32 + 32 * bits (numAt s7 0 32) 32 24]) ++
  (match sectionOf b 8 with
   | none => []
   | some s8 => one s8 [4112])

def tablesFit (b : List Byte) : Bool := (tableEnds b).all (fun x => decide (x.1 ≤ x.2))

/-- First words of the structures that carry a version. -/
def versionWords (b : List Byte) (im : Image) : List Nat :=
  let s1 := secOr b 1
  let s2 := secOr b 2
  let s3 := secOr b 3
  let s4 := secOr b 4
  let s5 := secOr b 5
  let s6 := secOr b 6
  let h := mpHead s3
  let m := mapOff s3
  [numAt s1 0 4, numAt s2 0 4, numAt s3 0 4, numAt s3 (owDir s3) 4, h, numAt s4 0 4, numAt s4 (csColl s4) 4, numAt s4 (csGrp s4) 4,
    numAt s4 (csPub s4) 4, numAt s5 0 4, numAt s5 (upGroups s5) 4, numAt s5 (upMap s5) 4, numAt s6 0 4] ++
  (owOffsets s3).map (fun o => numAt s3 o 4) ++ (mpRecutList s3).map (fun o => numAt s3 (m + o) 4) ++
  (if mpExpertOff h == 0 then [] else [numAt s3 (m + mpExpertOff h) 4]) ++
  (ckptList s4).map (fun a => numAt s4 a 4) ++ (if csFed s4 == 0 then [] else [numAt s4 (csFed s4) 4]) ++
  (slotOffs s5).map (fun x => numAt s5 x.2 4) ++ (slotOffs s6).map (fun x => numAt s6 x.2 4) ++
  ((sectionOf b 7).map (fun s => [numAt s 0 4])).getD [] ++ ((sectionOf b 8).map (fun s => [numAt s 0 4])).getD [] ++
  im.descs ++ ((im.descs.filter (fun d => dKind d != 0)).map dRecord) ++ im.car.colls ++
  (im.queues.flatMap (·.entries)) ++
  ((opwords im 0x10).map (fun t => chainHdr im (vRec (tOp t.2))))

/-- The code of the versions: 0x0104 above 1, 0x0105 below it. -/
def versionCode (l : List Nat) : Nat :=
  if l.any (fun w => decide (1 < bits w 0 16)) then 0x0104 else if l.any (fun w => bits w 0 16 == 0) then 0x0105 else 0

end Sys2Proof.Machine
end

