-- ==== Sys2Proof/Machine/Check.lean ====
section
/-! DEFINITION. The checks that a step image must pass at load, rule by rule; each answers 0 or the code of the refusal. Where
several rules are broken, the model answers the first code in its own order (log entry 33). -/

namespace Sys2Proof.Machine

/-- The code where a rule is broken. -/
def need (ok : Bool) (code : Nat) : Nat := if ok then 0 else code

/-- First code of a list of rules. -/
def firstBad {α : Type} (f : α → Nat) : List α → Nat
  | [] => 0
  | x :: r => if f x != 0 then f x else firstBad f r

/-- Fields [lo, lo + w) of two words agree, for each field given. -/
def agreeOn (a b : Nat) (fs : List (Nat × Nat)) : Bool := fs.all (fun f => bits a f.1 f.2 == bits b f.1 f.2)

/-- Fields of a descriptor but `BASE` and `AUX_BASE` (Table 9.1). -/
def descFields : List (Nat × Nat) := [(0, 128), (176, 80), (320, 704)]

/-! Regions (R239, R250, R261, R483). -/

def regionOk (r : Nat) : Bool :=
  rgBase r % 65536 == 0 && rgPbase r % 65536 == 0 && rgLen r != 0 && decide (rgTier r ≤ 3) &&
  decide (rgPbase r + rgLen r ≤ tierSize (rgTier r)) &&
  (rgTier r != 3 || (rgPbase r == 0 && decide (rgLen r ≤ 0x40000) && rgRights r == 3))

def regionsApart (a b : Nat) : Bool := decide (rgBase a + rgLen a ≤ rgBase b) || decide (rgBase b + rgLen b ≤ rgBase a)

/-- Fields that a region of the scratchpad or of HBM lies in. -/
def regionFields (r : Nat) : List Nat :=
  let w := if rgTier r == 0 then 0x10000000 else 0x6000000000
  (List.range 8).filter (fun f => decide (f * w < rgPbase r + rgLen r) && decide (rgPbase r < (f + 1) * w))

/-- A region names a logical part with nothing in its place: a bank of its fields, or one of their stacks. -/
def regionLost (s : State) (r : Nat) : Bool :=
  (rgTier r == 0 && (regionFields r).any (fun f => (List.range 64).any (fun b => unservedPart s 8 (64 * f + b)))) ||
  (rgTier r == 1 && (regionFields r).any (fun f => (List.range 4).any (fun k => unservedPart s 9 (4 * f + k))))

def regionsCode (s : State) (im : Image) : Nat :=
  let rs := im.regions
  let half := fun (r : Nat) => rgTier r == 2 && (ddrDown s.memory (rgPbase r) || ddrDown s.memory (rgPbase r + rgLen r - 1))
  firstCode [need (decide (1 ≤ rs.length) && decide (rs.length ≤ 4096) && rs.all regionOk && allPairs regionsApart rs) 0x0105,
    need (hasCap s 0 || !rs.any (fun r => rgTier r == 2)) 0x0301,
    need (!rs.any half) 0x0306,
    need (!rs.any (regionLost s)) 0x0904]

/-! Owner tables (R244). -/

/-- Shards follow one another from a tile. -/
def shardsFrom : Nat → List Nat → Option Nat
  | t, [] => some t
  | t, sh :: r => if shFirst sh == t && shTiles sh != 0 then shardsFrom (t + shTiles sh) r else none

def coversTiles (shs : List Nat) (n : Nat) : Bool := shardsFrom 0 shs == some n

def ownersCode (s : State) (im : Image) : Nat :=
  let ts := im.owners.flatMap (fun p => [p.1, p.2])
  firstCode [need (ts.all (fun t => (shardsFrom 0 t).isSome)) 0x0105,
    need (im.descs.all (fun d => dKind d != 0 || dOwners d == 0 ||
      (decide (dOwners d ≤ im.owners.length) && (let p := im.owners.getD (dOwners d - 1) ([], [])
        coversTiles p.1 (tileCount d) && coversTiles p.2 (tileCount d))))) 0x0105,
    need (hasCap s 6 || ts.all (fun t => t.all (fun sh => shOwner1 sh == 0xFFFF))) 0x0301]

/-! Descriptors (R31, R50, R63, R199, R227 to R232, R237, R242, R245, R146 to R154). -/

/-- An index names a plain tensor. -/
def plainIdx (im : Image) (i : Nat) : Bool := i != 0 && decide (i ≤ im.descs.length) && dKind (descOf im i) == 0

/-- An index is 0 or names an entry. -/
def idxOk (im : Image) (i : Nat) : Bool := decide (i ≤ im.descs.length)

/-- Formats that a tensor in memory may have (R30, R31, R48, R58). -/
def storedFmt (f : Nat) : Bool := fmtAssigned f && f != 0x0E && f != 0x20

def permOk (d : Nat) : Bool :=
  let n := dRank d
  (List.range 6).all (fun j => if j < n then decide (dPerm d j < n) else dPerm d j == 0) &&
  (List.range n).all (fun a => (List.range n).any (fun j => dPerm d j == a))

def scaleOk (d : Nat) : Bool :=
  dMode d != 3 && (if fmtScaled (dFmt d) then normalT (dScale d) else dMode d == 2 && dScale d == 0x3F800000 && dAux d == 0)

def layoutOk (d : Nat) : Bool :=
  if dLayout d == 1 then decide (2 ≤ dRank d) && dPitch d == 0
  else dLayout d == 0 && dPitch d % 64 == 0 && (dPitch d == 0 || decide (units0 d * unitSize d ≤ dPitch d))

/-- The other half of a dual-blocked pair (R237). -/
def dualOk (im : Image) (i d : Nat) : Bool :=
  let j := dDual d
  let o := descOf im j
  j == 0 || (plainIdx im j && dDual o == i && dBlockAxis o != dBlockAxis d &&
    agreeOn d o [(0, 60), (63, 65), (176, 40), (240, 80), (338, 686)])

def plainOk (im : Image) (i d : Nat) : Bool :=
  decide (dClass d ≤ 7) && storedFmt (dFmt d) && (dClass d != 7 || dFmt d == 6 || dFmt d == 13) && scaleOk d &&
  decide (1 ≤ dRank d) && decide (dRank d ≤ 6) &&
  (List.range 6).all (fun a => if a < dRank d then dDim d a != 0 else dDim d a == 0) &&
  decide (elemCount d ≤ 2 ^ 48) && permOk d && layoutOk d &&
  (if fmtBlock (dFmt d) then decide (dBlockAxis d < dRank d) && dBlockAxis d == dPerm d 0 else dBlockAxis d == 0) &&
  dBase d % 256 == 0 && dRecord d == 0 && (dOwners d == 0 || dLayout d == 1) &&
  (if dClass d == 1 then plainIdx im (dPartner d) && dFmt (descOf im (dPartner d)) == dFmt d else dPartner d == 0) && dualOk im i d

def gatherOk (im : Image) (d : Nat) : Bool :=
  let g := dRecord d
  plainIdx im (gSrc g) && gList g % 8 == 0 && gRows g != 0 && gCols g != 0

/-- Stride equal to taps and dilation 1 on every axis, and at most 64 channels (Table 6.3). -/
def regroups (w : Nat) : Bool :=
  bits w 40 3 == bits w 52 4 && bits w 44 4 == bits w 56 4 && bits w 48 4 == bits w 60 4 &&
  bits w 64 3 == 0 && bits w 68 4 == 0 && bits w 72 4 == 0 && decide (wCCnt w ≤ 64)

/-- Bytes of an element times 64. -/
def bytes64 (fmt : Nat) : Nat := if fmtBlock fmt then blockBytes fmt else 64 * fmtBytes fmt

/-- Every reserved bit of a window record is zero (Table 6.2). -/
def windowReserved (w : Nat) : Bool :=
  [(34, 6), (43, 1), (67, 1), (76, 4), (86, 2), (94, 2), (184, 72)].all (fun f => bits w f.1 f.2 == 0)

/-- A window view keeps the rules of its record and mode (R146, R147, R152 to R154). -/
def windowOk (im : Image) (d : Nat) : Bool :=
  let w := dRecord d
  let i := bits w 160 24
  let src := descOf im i
  let f := dFmt src
  bits w 16 16 == 32 && windowReserved w && plainIdx im i && dRank src == 5 && decide (wKt w ≤ 7) && wCCnt w != 0 && decide (wCOff w + wCCnt w ≤ dDim src 4) &&
  (match wMode w with
   | 0 => !fmtBlock f || (dBlockAxis src == 4 && wCOff w % 64 == 0 && wCCnt w % 64 == 0)
   | 1 => [2, 3, 4, 5].contains f
   | 2 => regroups w && (!fmtBlock f || (dBlockAxis src == 4 && wCOff w % 64 == 0 && wCCnt w % 64 == 0))
   | _ => regroups w && bits w 80 6 == 0 && bits w 88 6 == 0 && bits w 96 32 == 0 && [1, 2, 3].contains f) &&
  (wMode w == 3 || decide (wKt w * wKh w * dDim src 3 * min 64 (wCCnt w) * bytes64 f ≤ 1048576 * 64))

/-- Nothing from `CLASS` to `DIM[5]` in a view (R229). -/
def viewClear (d : Nat) : Bool := bits d 36 540 == 0

def descOk (im : Image) (i d : Nat) : Bool :=
  match dKind d with
  | 0 => plainOk im i d
  | 1 => viewClear d && windowOk im d
  | 2 => viewClear d && gatherOk im d
  | _ => false

def descsCode (im : Image) : Nat :=
  need (decide (1 ≤ im.descs.length) && im.descs.zipIdx.all (fun x => descOk im (x.2 + 1) x.1)) 0x0105

/-! Queues (R117, R118, R483). -/

/-- Units of a kind. -/
def unitsOfKind (k : Nat) : Nat := [0, 32, 16, 256, 8, 4, 2, 2].getD k 0

/-- Unit kinds of a class (Table 5.2). -/
def classKinds (c : Nat) : List Nat :=
  match c with
  | 0x01 => [1]
  | 0x10 => [2]
  | 0x20 => [3]
  | 0x30 => [4]
  | 0x40 => [5]
  | 0x50 => [6]
  | 0x60 => [7]
  | 0x70 => [1, 2]
  | _ => []

/-- A list without repeats. -/
def noRepeats (l : List Nat) : Bool := decide (l.eraseDups.length = l.length)

def queueOk (total x : Nat) (q : Queue) : Bool :=
  decide (q.unit < unitsOfKind q.kind) && decide (1 ≤ qeCount x) && decide (qeCount x ≤ 32768) && decide (qeFirst x + qeCount x ≤ total) &&
  (match q.entries.getLast? with
   | none => false
   | some t => tStepEnd t) &&
  q.entries.all (fun t => (classKinds (tClass t)).contains q.kind)

def queuesCode (s : State) (s2 : List Byte) (im : Image) : Nat :=
  let total := qTotal s2
  let ths := im.queues.flatMap (fun q => q.entries.map tThread)
  firstCode [need (decide (total ≤ 4194304) && noRepeats (im.queues.map (fun q => 65536 * q.kind + q.unit)) &&
      ((qdEntries s2).zip im.queues).all (fun x => queueOk total x.1 x.2) && ths.all (fun t => decide (t ≤ 4194303)) && noRepeats ths) 0x0105,
    need (hasCap s 5 || !im.queues.any (fun q => q.kind == 6)) 0x0301,
    need (!im.queues.any (fun q => unservedPart s q.kind q.unit)) 0x0904]

/-! Matrix words (R31, R87 to R94, R101, R147, R149, R202). -/

/-- Operand pairs of Table 4.5. -/
def pairOk (op a b : Nat) : Bool :=
  let fp8 := fun (f : Nat) => f == 4 || f == 5
  let s4 := fun (f : Nat) => f == 8 || f == 9
  if op == 4 then a == 1 && b == 1
  else (fp8 a && fp8 b) || (a == 2 && b == 2) || (a == 3 && b == 3) || (a == 6 && b == 6) || (s4 a && s4 b) || (a == 10 && b == 10) ||
    (a == 10 && s4 b) || (s4 a && b == 10)

/-- Axis along which the blocks of an operand run: true for its columns. A window view's blocks run along K. -/
def blocksOnCols (e : Env) (i : Nat) : Bool :=
  let b := baseDesc e i
  isWindow e i || dBlockAxis b + 1 == dRank b

/-- A Slauc operand has its block axis along K (R92). `kCols`: K is the axis of the operand's columns. -/
def blockOk (e : Env) (i : Nat) (kCols : Bool) : Bool :=
  let b := baseDesc e i
  !fmtBlock (dFmt b) || (if kCols then blocksOnCols e i else !isWindow e i && dBlockAxis b + 2 == dRank b)

/-- R92 for each array that runs: array 0's operands, and array 1's X and dY, whose K is the rows of both. -/
def slaucOk (e : Env) (o : Nat) : Bool :=
  (mTiles o == [] || (blockOk e (mA o) (!mTransA o) && blockOk e (mB o) (mTransB o))) &&
  (!twinRuns o || (blockOk e (mAux o) false && blockOk e (blockedAlong e (mA o) (mTransA o)) (mTransA o)))

/-- The pass is whole (R94). -/
def wholePass (e : Env) (o : Nat) : Bool :=
  let n := ceilDiv (passK e o) 64
  mK0 o == 16 * mPass o && decide (mK0 o + mChunks o ≤ n) && (mChunks o == 16 || mK0 o + mChunks o == n)

/-- Window views are named only where Table 6.3 lets them be. -/
def windowPlaces (e : Env) (o : Nat) : Bool :=
  let mode := fun (i : Nat) => wMode (winOf e i)
  let w := isWindow e
  !w (mB o) &&
  (!w (mA o) || (mOp o == 3 && mode (mA o) != 3) || (mOp o == 2 && mode (mA o) == 2)) &&
  (!w (mOut o) || ((mOp o == 1 || mOp o == 3) && mode (mOut o) == 3)) &&
  (!w (mAux o) || (mOp o == 2 && mode (mAux o) != 3))

/-- Format of a tensor, or of the one behind a view. -/
def fmtOf (e : Env) (i : Nat) : Nat := dFmt (baseDesc e i)

/-- M extent of an operand A, as it is read. -/
def rowsOfA (e : Env) (o : Nat) : Nat :=
  if isWindow e (mA o) then wRows e.im (winOf e (mA o))
  else if mTransA o then matCols (descOf e.im (mA o)) else matRows (descOf e.im (mA o))

/-- N extent of an operand B, as it is read. -/
def colsOfB (e : Env) (o : Nat) : Nat := if mTransB o then matRows (descOf e.im (mB o)) else matCols (descOf e.im (mB o))

/-- The positions of a window operand are the rows of the output (R149); a depthwise pass has operands of one format (R153); a
channel-to-space store takes its M from the coarse positions and its N from the factors and `C_CNT` (R168). -/
def windowPass (e : Env) (o : Nat) : Bool :=
  let wa := winOf e (mA o)
  let wo := winOf e (mOut o)
  (!isWindow e (mA o) || wMode wa != 1 || fmtOf e (mB o) == fmtOf e (mA o)) &&
  (!isDepthTwin e o || (fmtOf e (mA o) == fmtOf e (mAux o) && fmtOf e (mB o) == fmtOf e (mAux o))) &&
  (!isWindow e (mA o) || wEmpty e.im wa || mOut o == 0 || isFold e o || isWindow e (mOut o) ||
    wRows e.im wa == matRows (descOf e.im (mOut o))) &&
  (!isWindow e (mOut o) || ((isWindow e (mA o) && wEmpty e.im wa) || rowsOfA e o == viewRows e.im wo) && colsOfB e o == wTaps wo * wCCnt wo)

/-- `FMT_A`, `FMT_B` and, where a last pass stores through the converter, `FMT_OUT` are the formats of the tensors named (R88, R90, log
entry 95). -/
def wordFormats (e : Env) (o : Nat) : Bool :=
  mFmtA o == fmtOf e (mA o) && mFmtB o == fmtOf e (mB o) &&
  (!mLast o || mOut o == 0 || isFold e o || mFmtOut o == fmtOf e (outDesc e o)) &&
  (!twinRuns o || pairOk 1 (fmtOf e (mAux o)) (fmtOf e (mA o)))

/-- The partial-sum tensor lies in the scratchpad. -/
def partOk (e : Env) (o : Nat) : Bool :=
  (mFirst o && mLast o) || (plainIdx e.im (mPart o) && (piecesOf e (spansOf e (mPart o))).all (fun p => p.1 == 0))

/-- The slots of a twin pass are in the engine's map. -/
def twinSlots (im : Image) (me o : Nat) : Bool :=
  !twinRuns o || (List.range (mChunks o)).all (fun j => wmDesc (mapEntryOf im me (mSlot o + j)) != 0)

def mmOk (e : Env) (me o : Nat) : Bool :=
  let im := e.im
  let int8 := fun (i : Nat) => let b := baseDesc e i
    dFmt b != 6 || dMode b == 1 || dMode b == 2
  [1, 2, 3, 4].contains (mOp o) && [mA o, mB o, mOut o, mAux o].all (idxOk im) && mA o != 0 && mB o != 0 &&
  pairOk (mOp o) (mFmtA o) (mFmtB o) && wordFormats e o && storedFmt (mFmtOut o) && mFmtOut o != 13 &&
  windowPlaces e o && slaucOk e o && wholePass e o && partOk e o &&
  (mOp o != 2 || (decide (mSlot o + (mChunks o - 1) ≤ 613) && mAux o != 0)) && twinSlots im me o &&
  (!mAdapt o || mOp o == 1) && (mOp o == 2 || mAdapt o || mAux o == 0) &&
  int8 (mA o) && int8 (mB o) && (mOp o != 2 || int8 (mAux o)) && windowPass e o

def mmCode (s : State) (e : Env) (t : Nat × Nat) : Nat :=
  firstCode [need (mmOk e t.1 (tOp t.2)) 0x0105, need (hasCap s 3 || !mAdapt (tOp t.2)) 0x0301]

/-! Vector words and chain records (R125, R130, R131). -/

/-- Sources that a stage opcode takes. -/
def stageArity (sop : Nat) : Nat :=
  if [0x04, 0x0B].contains sop then 3 else if [0x07, 0x08, 0x09, 0x0C].contains sop then 1 else 2

def stageSrcOk (o j code : Nat) : Bool :=
  if code < 3 then vIn o code != 0
  else if 4 ≤ code && code ≤ 11 then decide (code - 4 < j)
  else 12 ≤ code && code ≤ 14

/-- A stage keeps R125; `COND` 6 and 7, which Table 5.6 gives no meaning, are refused (DESIGN CHOICE, log entry 96). -/
def stageOk (im : Image) (o j st : Nat) : Bool :=
  let sop := bits st 0 8
  decide (1 ≤ sop) && decide (sop ≤ 0x0D) && (List.range (stageArity sop)).all (fun k => stageSrcOk o j (bits st (8 + 4 * k) 4)) &&
  (sop != 0x0A || decide (bits st 20 3 ≤ 5)) && ((sop != 0x0C && sop != 0x0D) || (funcSlot im (bits st 24 6)).isSome)

def chainOk (im : Image) (o : Nat) : Bool :=
  let h := chainHdr im (vRec o)
  let n := bits h 32 4
  let fits := fun (i : Nat) => i == 0 || (plainOrGather im i && decide (vStart o + vLength o ≤ elemCount (descOf im i)))
  bits o 0 8 == 0x10 && [vIn o 0, vIn o 1, vIn o 2, vOut o, vRed o].all (idxOk im) &&
  decide (1 ≤ n) && decide (n ≤ 8) && decide (bits h 36 3 < n) && decide (vRec o + 8 + 8 * n ≤ im.chainArea.length) &&
  (chainStages im (vRec o)).zipIdx.all (fun x => stageOk im o x.2 x.1) &&
  decide (vRedOp o ≤ 5) && redOk im o &&
  vLength o != 0 && vSeg o != 0 && vLength o % vSeg o == 0 && [vIn o 0, vIn o 1, vIn o 2, vOut o].all fits
where
  /-- The reduction's tensor has the format of Table 5.8 and an element for each segment (R131). -/
  redOk (im : Image) (o : Nat) : Bool :=
    let d := descOf im (vRed o)
    let f := if dKind d == 2 then dFmt (descOf im (gSrc (dRecord d))) else dFmt d
    vRedOp o == 0 || (plainOrGather im (vRed o) && f == (if vRedOp o == 5 then 13 else 12) && decide (vLength o ≤ elemCount d * vSeg o))
  /-- Not a window view (R147). -/
  plainOrGather (im : Image) (i : Nat) : Bool := i != 0 && dKind (descOf im i) != 1

/-! Attention, update, stem and transfer words (R147, R163, R172, R200, R209, R211, R215, R265). -/

/-- Not a window view. -/
def noWindow (im : Image) (i : Nat) : Bool := idxOk im i && dKind (descOf im i) != 1

def attOk (im : Image) (o : Nat) : Bool :=
  let op := bits o 0 8
  [0x30, 0x31, 0x32, 0x33].contains op && aMeA o != aMeB o && (aMask o != 2 || aFrame o != 0) && (aMask o != 3 || aWin o != 0) &&
  (!aTree o || op == 0x30 || op == 0x32) && (!aScore o || op == 0x30) && [aBatch o, aQ o, aOut o, aAux o].all (noWindow im) &&
  (if op == 0x30 then aScore o || aAux o == 0 else op == 0x31 || (aQ o == 0 && aOut o == 0)) &&
  (aQ o == 0 || noWindow im (aQ o + 1))

def attCode (s : State) (im : Image) (o : Nat) : Nat :=
  firstCode [need (attOk im o) 0x0105, need (hasCap s 4 || (bits o 0 8 != 0x33 && !aTree o)) 0x0301]

def stemOk (im : Image) (o : Nat) : Bool :=
  let d := dDim (descOf im (sE o)) 1
  [0x50, 0x51].contains (bits o 0 8) && decide (sPix o ≤ 5) && [sE o, sY o, sBias o, sNorm o].all (noWindow im) &&
  sPt o != 0 && sPh o != 0 && sPw o != 0 && decide (sPt o ≤ 4) && decide (sPh o ≤ 32) && decide (sPw o ≤ 32) &&
  sFw o % sPw o == 0 && sFh o % sPh o == 0 && sFrames o % sPt o == 0 &&
  (!isYuv o || (sPh o % 2 == 0 && sPw o % 2 == 0 && sCh o == 3)) && decide (sK o ≤ 16384) &&
  d % 64 == 0 && decide (64 ≤ d) && decide (d ≤ 8192)

def updOk (im : Image) (o : Nat) : Bool :=
  [0x40, 0x41].contains (uOp o) && [uGrad o, uW o, uS0 o, uS1 o, uPub o, uRc o].all (noWindow im) &&
  decide (uGroup o < im.groups.length) && uRecipe o == bits (groupEntry im (uGroup o)) 0 8 &&
  uLength o != 0 && decide (uStart o + uLength o ≤ elemCount (descOf im (uW o)))

/-- Whole on one owner or one pair of twins. -/
def heldWhole (im : Image) (d : Nat) : Bool :=
  dOwners d == 0 || (let p := im.owners.getD (dOwners d - 1) ([], [])
    p.1.length == 1 && p.2.length == 1)

/-- A factored group: its tensor has two axes and is held whole, and one factor pass runs. -/
def factoredOk (im : Image) (us : List Nat) (o : Nat) : Bool :=
  !recipeFactored im (uRecipe o) ||
  ((dDims (descOf im (uW o))).length == 2 && heldWhole im (descOf im (uW o)) &&
   (us.filter (fun v => uOp v == 0x41 && uGroup v == uGroup o)).length == 1)

/-- Weight-gradient tensors behind a gradient operand: those of the collectives that land in it, else the tensor itself. -/
def gradTensors (im : Image) (g : Nat) : List Nat :=
  match ((im.car.colls.filter (fun c => coKind c != 2 && coLand c == g)).map coDw).eraseDups with
  | [] => [g]
  | l => l

/-- Two entries do not update one element, and a group has one weight-gradient tensor (R200). -/
def updPair (im : Image) (a b : Nat) : Bool :=
  (uOp a != 0x40 || uOp b != 0x40 || uW a != uW b || decide (uStart a + uLength a ≤ uStart b) || decide (uStart b + uLength b ≤ uStart a)) &&
  (uGroup a != uGroup b || gradTensors im (uGrad a) == gradTensors im (uGrad b))

def updsCode (im : Image) : Nat :=
  let us := (opwords im 0x40).map (fun t => tOp t.2)
  need (us.all (updOk im) && us.all (factoredOk im us) && us.all (fun o => (gradTensors im (uGrad o)).length == 1) &&
    allPairs (updPair im) us) 0x0105

def recipeOk (x : Nat × List Byte) : Bool :=
  let h := ofLe (x.2.take 16)
  let ops := (List.range (bits h 32 6)).map (fun i => ofLe ((x.2.drop (16 + 8 * i)).take 8))
  decide (8 ≤ x.1) && decide (1 ≤ ops.length) && decide (ops.length ≤ 32) && decide (bits h 40 2 ≤ 2) &&
  ops.all (fun u => decide (1 ≤ bits u 0 6) && decide (bits u 0 6 ≤ 0x0D) && bits u 8 4 != 0 && bits u 12 4 == 0 &&
    bits u 16 5 != 31 && bits u 21 5 != 31 && bits u 26 5 != 31)

/-- The group table, recipes and slot map (R202, R210, R211, R230). -/
def recipesCode (s : State) (im : Image) : Nat :=
  let fmt := fun (f : Nat) => f == 1 || f == 2
  let mapOk := fun (m : List Nat) =>
    let us := m.filter (fun w => wmDesc w != 0)
    us.all (fun w => plainIdx im (wmDesc w) && dClass (descOf im (wmDesc w)) == 3 && wmAdds w != 0) &&
    noRepeats (us.map (fun w => bits w 0 48))
  firstCode [need (im.recipes.all recipeOk && decide (1 ≤ im.groups.length) && decide (im.groups.length ≤ 4096) && clipMode im != 3 &&
      posNormal32 (maxNorm im) && im.groups.all (fun g => decide (bits g 0 8 ≤ 63) && fmt (bits g 8 8) && fmt (bits g 16 8)) &&
      decide (im.wgbMap.length ≤ 32) && im.wgbMap.all mapOk) 0x0105,
    need (hasCap s 2 || !bitAt im.groupHead 50) 0x0301]

/-- Function tables stand in slots 16 to 63 (R132). -/
def funcsCode (im : Image) : Nat :=
  need (im.funcs.all (fun f => decide (16 ≤ f.1) && funcHdrOk (funcHdrOf f.2) && decide ((funcHdrOf f.2).tailLo ≤ 1) &&
    decide ((funcHdrOf f.2).tailHi ≤ 1))) 0x0105

def xferCode (e : Env) (o : Nat) : Nat :=
  let im := e.im
  let car := need (if xCarEn o then decide (xCar o < im.car.entries.length) else xCar o == 0) 0x0105
  match xOp o with
  | 0x60 => firstCode [car, need (bits o 128 15 == 0 && xSpill o == 0 && [xSrc o, xDst o, xStage o].all (idxOk im) &&
        decide (xLedger o ≤ im.ledger.length)) 0x0105,
      copyCode e (xSrc o) (xDst o) (xStage o)]
  | 0x63 => firstCode [car, need (xSrc o == 0 && xStage o == 0 && bits o 128 15 == 0 && xSpill o == 0 && xLedger o == 0 && copyable e (xDst o)) 0x0105]
  | 0x61 | 0x62 => firstCode [car, need (xSrc o == 0 && xDst o == 0 && xLedger o == 0 && xStage o == 0 && decide (xSlot o ≤ 613) && xSpill o % 256 == 0) 0x0105]
  | _ => 0x0105

def wordsCode (s : State) (e : Env) : Nat :=
  let im := e.im
  let each := fun (cls : Nat) (f : Nat → Nat) => firstBad (fun (t : Nat × Nat) => f (tOp t.2)) (opwords im cls)
  firstCode [firstBad (mmCode s e) (opwords im 0x01), each 0x10 (fun o => need (chainOk im o) 0x0105), each 0x30 (attCode s im),
    updsCode im, each 0x50 (fun o => need (stemOk im o) 0x0105), each 0x60 (xferCode e)]

/-! The ledger (R268). -/

def threadEntry (im : Image) (t : Nat) : Option Nat := im.queues.findSome? (fun q => q.entries.find? (fun x => tThread x == t))

/-- A thread is a copy between two tensors that carries a ledger index. -/
def copiesFor (im : Image) (t src dst l : Nat) : Bool :=
  match threadEntry im t with
  | none => false
  | some x => tClass x == 0x60 && xOp (tOp x) == 0x60 && xSrc (tOp x) == src && xDst (tOp x) == dst && xLedger (tOp x) == l

def signalsReady (im : Image) (l : Nat) : Bool :=
  match threadEntry im (lgBack l) with
  | none => false
  | some x => tSig x == bits l 128 16

def ledgerOk (e : Env) (i l : Nat) : Bool :=
  let im := e.im
  let a := descOf im (lgAct l)
  let home := bits l 32 24
  let h := descOf im home
  plainIdx im (lgAct l) && (im.ledger.filter (fun x => lgAct x == lgAct l)).length == 1 &&
  (match lgDisp l with
   | 0 => home == 0 && lgOff l == 0 && lgBack l == 0 && lgRcFirst l == 0 && lgRcCount l == 0
   | 3 => home == 0 && lgOff l == 0 && lgRcCount l != 0 && decide (lgRcFirst l ≤ lgBack l) && decide (lgBack l < lgRcFirst l + lgRcCount l) &&
       (let ths := im.queues.flatMap (fun q => q.entries.map tThread)
        decide ((ths.filter (fun t => lgRcFirst l ≤ t && t < lgRcFirst l + lgRcCount l)).length = lgRcCount l)) && signalsReady im l
   | p => plainIdx im home && dDims h == dDims a && dFmt h == dFmt a && dTid h == dTid a &&
       (piecesOf e (spansOf e home)).all (fun x => x.1 == p) && copiesFor im (lgOff l) (lgAct l) home (i + 1) &&
       copiesFor im (lgBack l) home (lgAct l) (i + 1) && lgRcFirst l == 0 && lgRcCount l == 0 && signalsReady im l)

/-- The ledger plan: the header of its section and every entry (R267, R268). -/
def ledgerCode (s : State) (b : List Byte) (e : Env) : Nat :=
  firstCode [need (((sectionOf b 7).map (fun l => bits (numAt l 0 4) 16 16 == 32)).getD true) 0x0105,
    need (e.im.ledger.zipIdx.all (fun x => ledgerOk e x.2 x.1)) 0x0105,
    need (decide (e.im.ledger.length ≤ 1048575)) 0x0105, need (hasCap s 0 || !e.im.ledger.any (fun l => lgDisp l == 2)) 0x0301]

/-! Caravans (R313, R324, R338, R342). -/

def collDescs (c : Nat) : List Nat := [coDw c, coLand c, coAexp c, coHist c, coDefer c, coLrec c, coSrc c]

def caravansCode (s : State) (im : Image) : Nat :=
  let c := im.car
  let collOk := fun (k : Nat) =>
    decide (coKind k ≤ 2) && decide (bits k 36 2 ≤ 1) && decide (coGroup k < c.groups.length) && (collDescs k).all (noWindow im) &&
    (!coQ16 k || decide ((groupOf im (coGroup k)).length ≤ 4096))
  let pubOk := fun (p : Nat) =>
    puPub p != 0 && puRecv p != 0 && noWindow im (puPub p) && noWindow im (puRecv p) && (puColl p == 0xFFF || decide (puColl p < c.colls.length)) &&
    (dOwners (descOf im (puPub p)) != 0 || puRecv p == puPub p)
  let pair := fun (p : Nat) =>
    plainIdx im (bits p 0 24) && plainIdx im (bits p 24 24) &&
    agreeOn (descOf im (bits p 0 24)) (descOf im (bits p 24 24)) [(0, 128), (192, 64), (320, 704)]
  let range := fun (r : Nat) => plainIdx im (frW r) && plainIdx im (frAnchor r)
  firstCode [need (c.colls.all collOk && c.pubs.all pubOk && c.ckpts.all (·.all pair) && c.fedRanges.all range &&
      c.groups.all (fun g => decide (1 ≤ g.length) && decide (g.length ≤ 65536)) && caravanOk im (myId s.fabric)) 0x0105,
    need (s.settings.grade == 1 || c.groups.all (fun g => decide (g.length ≤ 4096))) 0x0301]

/-! The mapping section (R366 to R371, R377). -/

def linkOk (im : Image) (l : Nat) : Bool :=
  let a := descOf im (liLocal l)
  if liRecv l then
    plainIdx im (liLocal l) && plainIdx im (liOdd l) && agreeOn a (descOf im (liOdd l)) descFields && (!fmtScaled (dFmt a) || dMode a == 2)
  else plainIdx im (liLocal l) && idxOk im (liDescPeer l)

/-- Tables before and after a re-cut of a list. -/
def recutTables (im : Image) (r : Recut) (t : Nat) : List Nat × List Nat :=
  let p := im.owners.getD (rtPair t - 1) ([], [])
  if rcPhase r.head == 0 then p else (p.2, p.1)

/-- The staging areas of a list, as ranges of virtual addresses. -/
def stagingSpans (im : Image) (id : Nat) (r : Recut) : List (Nat × Nat) :=
  let tiles := ((incoming im id r).map (fun m => mvTiles m.1)).foldl (· + ·) 0
  let n := incomingBytes im id r + 256 * ceilDiv tiles 256
  if n == 0 then [] else [(rcStage r.head 0, n), (rcStage r.head 1, n)]

/-- The moves to this module name exactly the tiles that it gains, each once; the moves from it name tiles that it holds. -/
def movesOk (im : Image) (id : Nat) (r : Recut) (k t : Nat) : Bool :=
  let (old, new) := recutTables im r t
  let holds := fun (shs : List Nat) (x : Nat) => id != 0xFFFF && (tileOwners shs x).contains id
  let n := tileCount (descOf im (rtNew t))
  let gained := (List.range n).filter (fun x => holds new x && !holds old x)
  let ins := (r.moves.filter (fun m => mvTensor m == k && mvTo m == id)).flatMap mvRange
  let outs := (r.moves.filter (fun m => mvTensor m == k && mvFrom m == id)).flatMap mvRange
  noRepeats ins && ins.length == gained.length && gained.all ins.contains && outs.all (holds old)

def recutTensorOk (e : Env) (r : Recut) (k t : Nat) : Bool :=
  let im := e.im
  let (a, b) := rtDescs im t
  let stage := piecesOf e (stagingSpans im e.id r)
  let pa := piecesOf e (spansOf e (rtOld t))
  let pb := piecesOf e (spansOf e (rtNew t))
  plainIdx im (rtOld t) && plainIdx im (rtNew t) && dOwners a == rtPair t && dOwners b == rtPair t && rtPair t != 0 &&
  agreeOn a b descFields && (!fmtScaled (dFmt a) || dMode a == 2) && movesOk im e.id r k t &&
  !overlap pa pb && !overlap pa stage && !overlap pb stage

/-- Departures of a launch or publication within 200 ns of the list's own (R371). -/
def recutAlone (im : Image) (i : Nat) (r : Recut) : Bool :=
  let pairs := r.tensors.map rtPair
  let near := fun (a b : Nat) => decide (carOffset a ≤ carOffset b + 200 * 65536) && decide (carOffset b ≤ carOffset a + 200 * 65536)
  let names := fun (x : Nat) =>
    (caAction x == 1 && pairs.contains (dOwners (descOf im (coDw (collOf im (caOp0 x)))))) ||
    (caAction x == 2 && pairs.contains (dOwners (descOf im (puPub (pubOf im (caOp0 x))))))
  im.car.entries.all (fun x => caAction x != 3 || caOp0 x != i || !im.car.entries.any (fun y => names y && near x y))

def recutOk (e : Env) (i : Nat) (r : Recut) : Bool :=
  decide (1 ≤ r.tensors.length) && decide (r.tensors.length ≤ 4096) && decide (rcMoves r.head ≤ 8388608) &&
  r.moves.all (fun m => decide (mvTensor m < r.tensors.length) && mvTiles m != 0) && r.tensors.zipIdx.all (fun t => recutTensorOk e r t.2 t.1) &&
  rcStage r.head 0 % 256 == 0 && rcStage r.head 1 % 256 == 0 && recutAlone e.im i r

/-- No two lists of one phase name one pair. -/
def recutsApart (a b : Recut) : Bool := rcPhase a.head != rcPhase b.head || !(a.tensors.map rtPair).any (b.tensors.map rtPair).contains

def expertOk (im : Image) (id x : Nat) : Bool :=
  let d := bits x 48 24
  bits x 0 16 != id || (plainIdx im d && matRows (descOf im d) == bits x 16 32 && im.links.any (fun l => liRecv l && liLocal l == d))

def mappingCode (e : Env) : Nat :=
  let im := e.im
  let rights := fun (r : Recut) => spansCode e 3 (stagingSpans im e.id r)
  firstCode [need (im.links.all (linkOk im) && im.recuts.zipIdx.all (fun r => recutOk e r.2 r.1) && allPairs recutsApart im.recuts &&
      im.experts.all (expertOk im e.id) && (mpExpertOff im.mapHead == 0 || (decide (1 ≤ im.experts.length) && decide (im.experts.length ≤ 4096))) &&
      im.readers.all (fun g => decide (g < im.car.groups.length))) 0x0105,
    firstBad rights im.recuts]

/-! Adapters and scales (R109, Table 16.6). -/

def adaptersCode (s : State) (b : List Byte) (im : Image) : Nat :=
  let bf := fun (i : Nat) => plainIdx im i && dFmt (descOf im i) == 2
  firstCode [need (hasCap s 3 || (sectionOf b 8).isNone) 0x0301,
    need (im.adapters.all (fun v => decide (avRank v ≤ 64) && idxOk im (avA v) && idxOk im (avB v) && (avRank v == 0 || (bf (avA v) && bf (avB v))))) 0x0105]

/-- The scale records of an image, checked as `SCALE_HIST_WRITE` checks them: version, reserved bits, rules (Table 16.6, R12, R13, R15). -/
def scalesCode (im : Image) : Nat :=
  firstCode [need (im.scaleInit.all (fun x => decide (bits (ofLe x.2) 0 16 ≤ 1))) 0x0104,
    need (im.scaleInit.all (fun x => bits (ofLe x.2) 88 8 == 0)) 0x0103,
    need (im.scaleInit.all (fun x => plainIdx im x.1 && fmtScaled (dFmt (descOf im x.1)) && histOk (ofLe x.2))) 0x0105]

/-! Coverage and rights (R240). -/

/-- What an operation word does to the tensors that it names: 1 reads, 2 writes, 3 both. -/
def wordUses (cls o : Nat) : List (Nat × Nat) :=
  match cls with
  | 0x01 =>
    let w := if mOut o == 0 || mAmaxOnly o || !mLast o then [] else [(mOut o, if mOp o == 2 then 3 else 2)]
    [(mA o, 1), (mB o, 1), (mAux o, 1)] ++ w ++ (if mFirst o && mLast o then [] else [(mPart o, (if mFirst o then 0 else 1) + (if mLast o then 0 else 2))])
  | 0x10 => [(vIn o 0, 1), (vIn o 1, 1), (vIn o 2, 1), (vOut o, 2), (if vRedOp o == 0 then 0 else vRed o, 2)]
  | 0x30 =>
    let op := bits o 0 8
    let q := aQ o
    (aBatch o, 1) ::
      (if op == 0x30 then [(q, 1), (if q == 0 then 0 else q + 1, 2), (aOut o, 2), (aAux o, 2)]
       else if op == 0x31 then [(q, 1), (if q == 0 then 0 else q + 1, 1), (aOut o, 2), (aAux o, 1)] else [(aAux o, 1)])
  | 0x40 =>
    if uOp o == 0x41 then [(uGrad o, 1), (uRc o, 3)]
    else [(uGrad o, 1), (uW o, 3), (uS0 o, 3), (uS1 o, 3), (uPub o, 2), (uRc o, 1)]
  | 0x50 =>
    if bits o 0 8 == 0x50 then [(sE o, 1), (sY o, 2), (sBias o, 1), (sNorm o, 1)] else [(sE o, 3), (sY o, 1), (sBias o, 3), (sNorm o, 1)]
  | 0x60 => if xOp o == 0x63 then [(xDst o, 2)] else []
  | _ => []

/-- What the records and tables of an image do to the tensors that they name. -/
def tableUses (im : Image) : List (Nat × Nat) :=
  let c := im.car
  c.colls.flatMap (fun k => [(coLand k, 3), (coAexp k, 3), (coHist k, 3), (coDefer k, 3), (coLrec k, 3), (coSrc k, 1)]) ++
  c.pubs.flatMap (fun p => [(puPub p, 1), (puRecv p, 2)]) ++ c.ckpts.flatMap (·.flatMap (fun p => [(bits p 0 24, 1), (bits p 24 24, 2)])) ++
  c.fedRanges.flatMap (fun r => [(frW r, 3), (frAnchor r, 3)]) ++
  im.links.flatMap (fun l => if liRecv l then [(liLocal l, 2), (liOdd l, 2)] else [(liLocal l, 1)]) ++
  im.recuts.flatMap (fun r => r.tensors.flatMap (fun t => [(rtOld t, 1), (rtNew t, 2)])) ++
  (im.adapters.filter (fun v => avRank v != 0)).flatMap (fun v => [(avA v, 1), (avB v, 1)])

/-- Address ranges that words name without a descriptor: a core thread's first instruction, frames, and spill areas. -/
def wordSpans (cls o : Nat) : List (Nat × Nat × Nat) :=
  if cls == 0x20 then [(4, bits o 0 64, 1)]
  else if cls == 0x50 then [(1, sBase o, sFrames o * sFrameBytes o)]
  else if cls == 0x60 && xOp o == 0x61 then [(2, xSpill o, 20736)]
  else if cls == 0x60 && xOp o == 0x62 then [(1, xSpill o, 20736)]
  else []

/-- The `AUX_BASE` space of a descriptor (R234). -/
def auxSpan (d : Nat) : List (Nat × Nat) := if dKind d == 0 && fmtScaled (dFmt d) then [(dAux d, 80 + tileCount d)] else []

/-- Every address that the image fixes is covered, whether or not a word names it. -/
def coverCode (e : Env) : Nat :=
  firstBad (fun (i : Nat) =>
    let d := descOf e.im i
    firstCode [spansCode e 0 (spansOf e i), spansCode e 3 (auxSpan d),
      if dKind d == 2 then spansCode e 0 [(gList (dRecord d), 8 * (gRows (dRecord d) * gCols (dRecord d)))] else 0])
    ((List.range e.im.descs.length).map (· + 1))

def rightsCode (e : Env) : Nat :=
  let uses := e.im.queues.flatMap (fun q => q.entries.flatMap (fun t => wordUses (tClass t) (tOp t))) ++ tableUses e.im
  let spans := e.im.queues.flatMap (fun q => q.entries.flatMap (fun t => wordSpans (tClass t) (tOp t)))
  firstCode [firstBad (fun (u : Nat × Nat) => if u.1 == 0 then 0 else useCode e u.1 u.2) uses,
    firstBad (fun (x : Nat × Nat × Nat) => spansCode e x.1 [x.2]) spans]

/-! The whole check. -/

/-- The image's own checks on the module as it stands, its bytes having been read: 0 where it may become resident. -/
def imageCode (s : State) (b : List Byte) : Nat :=
  if decide (64 ≤ b.length) && decide (1 < bits (imHead b) 0 16) then 0x0104
  else if bits (imHead b) 0 16 == 0 || !directoryOk b || !tablesFit b then 0x0105
  else
    let im := readImage b
    let e : Env := { mem := s.memory, im := im, ver := { shards := [], expected := [], local_ := [], cur := [], acks := [], ackSent := false },
                     id := myId s.fabric, seed := 0, step := 0 }
    firstCode [versionCode (versionWords b im), regionsCode s im, descsCode im, ownersCode s im, queuesCode s (secOr b 2) im,
      recipesCode s im, funcsCode im, adaptersCode s b im, scalesCode im, caravansCode s im, wordsCode s e, ledgerCode s b e, coverCode e,
      mappingCode e, rightsCode e]

end Sys2Proof.Machine
end

