-- ==== Sys2Proof/Machine/Load.lean ====
section
/-! DEFINITION. Loading and unloading a step image (R2, R421, R424, R425, R433, R443, R529). -/

namespace Sys2Proof.Machine

/-- A window key of another session overlaps a range of HBM (R421). -/
def windowOver (s : State) (sid a n : Nat) : Bool :=
  s.sessions.live.any (fun x => x.sid != sid && x.keys.any (fun k => k.kind == 1 && decide (k.addr < a + n) && decide (a < k.addr + k.length)))

/-- `IMAGE_LOAD`. -/
def imageLoadPart : Part := fun s x d =>
  let a := prm d 0 48
  let n := prm d 64 48
  if s.image.isSome then ansCode s 0x0302
  else if a % 256 != 0 || tierSize 1 < a + n || windowOver s x.sid a n then ansCode s 0x0105
  else ansLong s (engineState s)

/-- A tensor's `AUX_BASE` space as load writes it: a cleared history record with the descriptor's T, and offsets of zero (R62, R66, R234). -/
def freshAux (rs : List Nat) (m : Memory) (d : Nat) : Memory :=
  if dKind d != 0 || !fmtScaled (dFmt d) then m
  else vaPut m rs (dAux d) (leBytes 80 (pack [(0, 16, 1), (16, 16, 80), (32, 32, dTid d), (96, 32, dScale d)]) ++ List.replicate (tileCount d) 0)

/-- Memory at the completion point: every `AUX_BASE` space, then the scale initialisation section. -/
def loadMemory (im : Image) (m : Memory) : Memory :=
  im.scaleInit.foldl (fun m x => putHist im (descOf im x.1) (ofLe x.2) m) (im.descs.foldl (freshAux im.regions) m)

/-- A slot that the map uses, as `EMPTY`. -/
def freshSlot : WgbSlot := { st := 0, done := 0, vals := [], acked := [], ssq := 0, late := false, addedBy := [] }

def freshEngine (map : List Nat) : MatrixEngine :=
  { MatrixEngine.idle with wgb := (map.zipIdx.filter (fun w => wmDesc w.1 != 0)).map (fun w => (w.2, freshSlot)) }

/-- Version states of every shard that the publish table names, at version 0 (R379, R380). -/
def freshVersions (im : Image) : Versions :=
  let shards := fun (p : Nat) =>
    let t := im.owners.getD (dOwners (descOf im (puPub (pubOf im p))) - 1) ([], [])
    if dOwners (descOf im (puPub (pubOf im p))) == 0 then [newVer p 0] else (List.range (max t.1.length t.2.length)).map (newVer p)
  { shards := (List.range im.car.pubs.length).flatMap shards, expected := [], local_ := [], cur := [], acks := [], ackSent := false }

def freshNorm (g : Nat) : NormEntry :=
  { group := g, wValid := false, gValid := false, uValid := false, rValid := false, step := 0, wNorm := 0, gNorm := 0, uNorm := 0, ratio := 0 }

def freshNoise (g : Nat) : NoiseEntry := { group := g, samples := 0, step := 0, g2 := 0, tr := 0, bNoise := 0, rawG2 := 0, rawTr := 0 }

/-- Counts at `T_INIT`, and an entry that is not yet valid for every group that asks for one (R213, R223, R226). -/
def freshUpdate (im : Image) (u : UpdateState) : UpdateState :=
  let gs := im.groups.zipIdx
  { u with
    counts := im.groups.map grInit
    counted := []
    g2 := none
    clip := 0
    repeats := []
    oldFactors := []
    valid := false
    norms := (gs.filter (fun g => grNorms g.1)).map (fun g => freshNorm g.2)
    noise := if bitAt im.groupHead 50 then (gs.filter (fun g => grNoise g.1)).map (fun g => freshNoise g.2) else []
    pubNorms := [] }

/-- The image becomes resident as one act (R425), and no peer is treated as absent any more (R529). -/
def install (im : Image) (s : State) : State :=
  { s with
    image := some im
    memory := loadMemory im s.memory
    run := freshRun im { RunState.reset with sid := s.run.sid, handle := s.run.handle, records := s.run.records }
    scales := { s.scales with amax := [], events := [], appended := [], nextScale := [], tileSats := [], converted := [], exchanged := [] }
    engines := im.wgbMap.zipIdx.map (fun m => (m.2, freshEngine m.1))
    reductions := Reductions.reset
    update := freshUpdate im s.update
    versions := freshVersions im
    changes := { groupSets := [], adapterSets := [], caravanOps := [] }
    mapping := { linkSent := [], links := [], recutDep := [], recutSent := [], moves := [], recutDone := [] }
    ckpt := { s.ckpt with active := none, waiting := [] }
    federation := { s.federation with xchg := 0, slices := [] }
    fabric := { s.fabric with peerRoutes := [] } }

/-- `IMAGE_LOAD_COMPLETE`: the image is read and checked; it becomes resident, or nothing of it does. -/
def imageLoadDone (sid h : Nat) (s : State) : State :=
  match engineOp s sid h 0x0400 with
  | none => s
  | some (o, s0) =>
    let a := bits o.params 0 48
    let n := bits o.params 64 48
    engineNext
      (if s0.image.isSome then finishOp sid h 5 0x0302 s0
       else
         match badIn s0.memory 1 a n with
         | some k => finishOp sid h 5 0x0601 (addMemError 1 k 0xFFFFFFFF s0)
         | none =>
           let b := memRead s0.memory.hbm a n
           let c := imageCode s0 b
           if c != 0 then finishOp sid h 5 c s0
           else
             let s1 := (readImage b).scaleInit.foldl (fun t x => syncScale x.1 t) (install (readImage b) s0)
             let s2 := { s1 with sessions := dropWindowKeys s1.sessions }
             finishOp sid h 4 0 (opProgress sid h (ceilDiv n 1048576) s2))

/-- `IMAGE_UNLOAD`: pools and sequences go, and the keys of its regions with it (R433). -/
def imageUnloadPart : Part := fun s _ _ =>
  if s.run.active then ansCode s 0x0408
  else if s.image.isNone then ansCode s 0x0001
  else
    let drop := fun (x : Session) => { x with keys := x.keys.filter (fun k => k.kind != 0) }
    ansOk { s with
      image := none
      engines := []
      kv := { s.kv with pools := [], seqs := [], pins := [], masses := [], waiting := [] }
      changes := { groupSets := [], adapterSets := [], caravanOps := [] }
      sessions := { s.sessions with live := s.sessions.live.map drop } }

def execImageLoad (d : Datagram) (s : State) : Host.Outcome State Fault Refusal := .next (ycp 0x0400 (.imageLoad d) imageLoadPart d s)
def execImageLoadComplete (sid handle : Nat) (s : State) : Host.Outcome State Fault Refusal := .next (imageLoadDone sid handle s)
def execImageUnload (d : Datagram) (s : State) : Host.Outcome State Fault Refusal :=
  .next (ycp 0x0401 (.imageUnload d) imageUnloadPart d s)

end Sys2Proof.Machine
end

