-- ==== Sys2Proof/Machine/Boot.lean ====
section
/-! DEFINITION. Start-up, resets, insertion and removal, input power and critical temperature (chapters 21 and 22). -/

namespace Sys2Proof.Machine

/-- The module with everything cleared that a cold reset clears (R519, Table 21.3); `stage` is where it stands. The contents of
memory are undefined after it: nothing is listed (log entry 1). -/
def coldClear (stage : Nat) (s : State) : State :=
  let z := State.reset
  let force := s.fabric.force
  { z with
    settings := s.settings
    firmware := s.firmware
    security := { s.security with staged := none, windowEnd := none }
    audit := s.audit
    faultLog := s.faultLog
    mirage := { s.mirage with writing := false, staged := [] }
    repair := { z.repair with haboob := s.repair.haboob, pending := s.repair.pending, unsub := s.repair.unsub, calib := s.repair.calib }
    federation := { z.federation with addrs := s.federation.addrs, key := s.federation.key }
    fabric := { z.fabric with force := force, present := s.fabric.present }
    power := { z.power with tolMin := s.power.tolMin, tolMax := s.power.tolMax, dwellMin := s.power.dwellMin, capW := s.power.capW,
                            compat := s.power.compat, phasesLost := s.power.phasesLost }
    boot := { s.boot with stage := stage, converters := stage != 0 && !s.boot.critical, retired := false, memTest := false }
    out := s.out
    pending := s.pending
    free := s.free }

/-- Input power that lets the module start (Table 22.3). -/
def powerIsGood (s : State) : Bool := s.boot.present && 44000 ≤ s.boot.inputMv && s.boot.inputMv ≤ 56000

/-! Stages of Table 21.1. -/

def bankAt (f : Firmware) (b : Nat) : FwBank := if b == 0 then f.bankA else f.bankB
def setBank (f : Firmware) (b : Nat) (x : FwBank) : Firmware := if b == 0 then { f with bankA := x } else { f with bankB := x }

/-- Stage 3 takes a bank whose image verifies, is not below the floor, and did not fail to start the last time (R521). -/
def bankGood (b : BootInputs) (f : Firmware) (i : Nat) : Bool :=
  let x := bankAt f i
  x.valid && b.bankOk.getD i false && f.floor ≤ x.version && !x.failedBoot

/-- The bank that stage 3 starts, and whether that is a fallback. -/
def pickBank (b : BootInputs) (f : Firmware) : Option (Nat × Bool) :=
  if bankGood b f f.next then some (f.next, false)
  else if bankGood b f (1 - f.next) then some (1 - f.next, true)
  else none

/-- The module stops at stage 2 or 3: it sends nothing, and the log records the condition (R523). -/
def stopBoot (s : State) : State := addOpenEvent 0 0 0 0xFFFF { s with boot := { s.boot with stage := 9 } }

/-- Stage 4 (R476, R479): the valid stored map with the highest generation; a copy is valid when its signature verifies and R478 holds.
With none, quick BIST builds one at generation 1, in which the parts that pass are placed in logical order. A map rebuilt or fallen back
is entered as event 13. What has nothing in its place is found anew. -/
def chooseMap (b : BootInputs) (s0 : State) : State :=
  let s := { s0 with repair := { s0.repair with pending := [], unsub := [] } }
  let m := s.mirage
  let cs := (m.stored.zipIdx).filterMap (fun c => c.1.map (fun x => (x, b.mapOk.getD c.2 false && mapServes x.entries)))
  let best := fun (l : List MapCopy) => l.foldl (fun (a : Option MapCopy) c => match a with
    | none => some c
    | some x => if x.gen < c.gen then some c else some x) none
  match best ((cs.filter (·.2)).map (·.1)) with
  | some c =>
    let s1 := { s with mirage := { m with gen := c.gen, lastFault := c.lastFault, entries := c.entries, dirty := c.subStop != m.subStop, written := none } }
    if cs.any (fun x => !x.2) then addEvent 13 c.gen 8 s1 else s1
  | none =>
    let bad := b.bistFails.filterMap (fun i => allParts[i]?)
    let e := builtMap bad
    addEvent 13 1 8 { s with
      mirage := { m with gen := 1, lastFault := s.faultLog.next, entries := e, dirty := true, written := none, stored := [none, none] }
      repair := { s.repair with unsub := builtGaps bad e } }

/-- DDR5 channels that fail their training take their die's half of the tier out of service (R261). -/
def failChannels : List Nat → State → State
  | [], s => s
  | c :: r, s => failChannels r (channelOut c s)

/-- Stage 6: every port in use is trained (R275). -/
def trainPorts : List (Nat × Training) → State → State
  | [], s => s
  | (n, t) :: r, s => trainPorts r (trainPort n t s)

def dueForTraining (s : State) : State :=
  (portsInUse s.fabric).foldl (fun t n => onPort n (fun p => { p with up := false, training := true }) t) s

/-- Stage 7 (R522): a grandmaster is `LOCKED`; a module with a parent may lock, its time stepped to its parent's, which no rule
gives: a free value (log entry 8). -/
def lockTime (b : BootInputs) (s : State) : State :=
  if timeRole s.fabric == 1 then becomeMaster s
  else if (timePorts s.fabric 1 ++ timePorts s.fabric 2).isEmpty || !b.locked then s
  else
    let n := takeFree (setTimeState 1 s)
    setTimeState 2 { n.2 with time := { n.2.time with now := Config.free n.1 % 2 ^ 80, stepped := true } }

/-- Certificates of a trust payload, those that a rule of R506 fails left out. -/
def trustCerts (l : List (List Byte)) : List Cert :=
  l.filterMap (fun der => (Config.x509 der).map (fun c =>
    { fp := shaNat der, role := c.1, key := c.2.1, notBefore := c.2.2.1, notAfter := c.2.2.2, revoked := false }))

/-- SHA-256 over the fingerprints of an area, for the audit entry of its change (log entry 23). -/
def areaTag (l : List Cert) : Nat := shaNat (l.flatMap (fun c => leBytes 32 c.fp))

/-- The first boot of an image that reaches command-ready replaces the trust area, and raises the floor and the trusted date (R508, R514). -/
def firstBoot (i : Nat) (s : State) : State :=
  let x := bankAt s.firmware i
  let s1 := { s with
    firmware := { s.firmware with floor := max s.firmware.floor x.floorSet }
    security := { s.security with trustedDate := max s.security.trustedDate x.buildDate } }
  if !x.hasTrust then s1
  else
    let new := trustCerts x.trust
    auditModule 8 (areaTag new) (auditModule 8 (areaTag s.security.trust)
      { s1 with firmware := setBank s1.firmware i { x with hasTrust := false }, security := { s1.security with
          trust := new
          trustedDate := new.foldl (fun a c => max a c.notBefore) s1.security.trustedDate } })

/-- Stages 4 to 8, with the bank that has started; what failed to start the time before no longer counts. Firmware that does not reach
command-ready waits for the watchdog. -/
def bootOn (b : BootInputs) (i : Nat) (fallback : Bool) (s : State) : State :=
  let ok := fun (x : FwBank) => { x with failedBoot := false }
  let f := { s.firmware with active := i, next := i, bankA := ok s.firmware.bankA, bankB := ok s.firmware.bankB }
  let s1 := { s with firmware := f, boot := { s.boot with stage := 4 } }
  let s2 := if fallback then auditModule 8 (bankAt f i).hash (addEvent 13 s.mirage.gen 8 s1) else s1
  if !b.bankReady.getD i false then s2
  else
    let s3 := failChannels b.ddrFails (failTests b.bistFails (chooseMap b s2))
    let s4 := lockTime b (trainPorts b.training (dueForTraining s3))
    let s5 := if fallback then s4 else firstBoot i s4
    auditModule 8 (bankAt f i).hash { s5 with
      power := { s5.power with idleSince := nowNs s5 }
      boot := { s5.boot with stage := 8 } }

/-- Stages 1 to 3, then the rest (R520 to R523). -/
def bootUp (b : BootInputs) (s : State) : State :=
  let s1 := coldClear 1 s
  if b.idModulus != s1.settings.idN then stopBoot s1
  else
    match pickBank b s1.firmware with
    | none => stopBoot s1
    | some (i, fb) => bootOn b i fb s1

def powerGoodSt (b : BootInputs) (s : State) : State :=
  if s.boot.stage == 0 && powerIsGood s && !s.boot.critical then bootUp b s else s

/-- The watchdog of R521: the image has not reached command-ready in 45 s, which the next boot remembers; a cold reset follows. -/
def watchdogSt (s : State) : State :=
  if s.boot.stage == 0 || 8 ≤ s.boot.stage then s
  else
    let i := s.firmware.active
    coldClear 0 { s with firmware := setBank s.firmware i { bankAt s.firmware i with failedBoot := true } }

/-! Resets (R524, R525, Table 21.3). -/

/-- Every live sequence's cisterns, as a new sequence has them. -/
def clearCisterns : List (Nat × KvSeq) → State → State
  | [], s => s
  | (id, q) :: r, s =>
    clearCisterns r (match poolOf s q.pool with
      | none => s
      | some p => emptyCisterns p.record id s)

/-- Operations still in progress are stopped (R527). -/
def stopOps : List Op → State → State
  | [], s => s
  | o :: r, s => stopOps r (finishOp o.sid o.handle 6 0 s)

/-- Every session ends, with no reply, and every operation stops; the audit log holds both (R516, Table 20.5, Table 21.3). -/
def endClients (s : State) : State :=
  let s1 := endSessions (s.sessions.live.map (·.sid)) s
  stopOps s1.sessions.ops s1

/-- What a cold reset of a module under power ends: a service window too (R512). A module that loses its power writes nothing: DESIGN CHOICE
(log entry 101). -/
def endAll (s : State) : State := endClients (if s.security.windowEnd.isSome then auditModule 7 (nowNs s) s else s)

/-- What a warm reset clears: sessions and their operations, the run, and what stands as at image load. Absent peers stay absent (R529), and
the reducing steps since load count on. -/
def warmClear (s : State) : State :=
  let s1 := endClients s
  let s2 := if s1.run.active then endRun false s1 else s1
  let im := s2.image
  let r := s2.reductions
  clearCisterns s2.kv.seqs { s2 with
    sessions := { s2.sessions with prov := [], ops := [] }
    host := { s2.host with ports := s2.host.ports.map (fun p => { p with up := true, paused := [], held := [] }), qps := [] }
    run := match im with
      | none => s2.run
      | some i => freshRun i s2.run
    engines := match im with
      | none => []
      | some i => i.wgbMap.zipIdx.map (fun m => (m.2, freshEngine m.1))
    reductions := { Reductions.reset with lost := r.lost, retired := r.retired, leaving := r.leaving, ring := r.ring, deferred := r.deferred }
    fabric := { s2.fabric with
      inbox := []
      installing := none
      staged := FabTables.none
      ports := s2.fabric.ports.map (fun p => { p with queue := [], again := [], replay := [] }) }
    kv := { s2.kv with pins := [], waiting := [] }
    mirage := { s2.mirage with writing := false, staged := [] }
    power := { s2.power with ps := 0, holdEnd := none, idleSince := nowNs s2 } }

/-- A warm reset: logic BIST, retraining from stored equalisation, and relock by frequency (Table 21.6). -/
def warmReset (b : BootInputs) (s : State) : State :=
  let s1 := failTests b.bistFails (warmClear s)
  let s2 := trainPorts b.training (dueForTraining s1)
  let s3 := if s2.time.state == 2 && !s2.time.master then setTimeState 3 { s2 with time := { s2.time with good := 0 } } else s2
  let s4 := if s3.time.state == 3 && b.locked then setTimeState 2 s3 else s3
  auditModule 8 (bankAt s4.firmware s4.firmware.active).hash s4

def rstRise (lowNs : Nat) (b : BootInputs) (s : State) : State :=
  if !s.boot.present || s.boot.inputMv < 42000 then s
  else if lowNs < 1000000 then
    if s.boot.stage == 0 || s.boot.critical then s else { s with scales := { s.scales with shortResets := tick64 s.scales.shortResets } }
  else if lowNs < 1000000000 then (if ready s then warmReset b s else s)
  else bootUp b (endAll { s with boot := { s.boot with critical := false } })

def execPowerGood (b : BootInputs) (s : State) : Host.Outcome State Fault Refusal := .next (powerGoodSt b s)
def execBootWatchdog (s : State) : Host.Outcome State Fault Refusal := .next (watchdogSt s)
def execRstNRise (lowNs : Nat) (b : BootInputs) (s : State) : Host.Outcome State Fault Refusal := .next (rstRise lowNs b s)

/-! Insertion, removal and input power (R528, R533, Table 22.3). -/

def mateSt (inputMv : Nat) (s : State) : State :=
  if s.boot.present then s else { s with boot := { s.boot with present := true, inputMv := inputMv } }

/-- Input power is gone: everything that a cold reset clears is cleared, and the module is off. -/
def powerOff (inputMv : Nat) (s : State) : State :=
  coldClear 0 { s with boot := { s.boot with inputMv := inputMv, critical := false } }

def breakSt (s : State) : State :=
  if !s.boot.present then s else powerOff 0 { s with boot := { s.boot with present := false } }

def undervoltSt (inputMv : Nat) (s : State) : State := if 42000 ≤ inputMv then s else powerOff inputMv s

def overvoltSt (inputMv : Nat) (s : State) : State := if inputMv ≤ 56000 then s else powerOff inputMv s

/-- More than 96 A for 10 µs: a fault log entry, the converters stop, a cold reset. -/
def tripSt (inputMa : Nat) (s : State) : State :=
  if inputMa ≤ 96000 || s.boot.stage == 0 then s else powerOff s.boot.inputMv (endAll (addOpenEvent 0 0 0 0xFFFF s))

/-- A critical temperature: a fault log entry; the converters stop until a cold reset by `RST_N` or by input power (R543). -/
def criticalSt (kind index tempC : Nat) (s : State) : State :=
  if s.boot.stage == 0 || tempC < criticalTemp kind then s
  else
    let s1 := endAll (addOpenEvent (if kind == 1 then 9 else 0) 0 (if kind == 1 then index else 0) 0xFFFF s)
    coldClear 9 { s1 with boot := { s1.boot with critical := true } }

def execPresentMate (inputMv : Nat) (s : State) : Host.Outcome State Fault Refusal := .next (mateSt inputMv s)
def execPresentBreak (s : State) : Host.Outcome State Fault Refusal := .next (breakSt s)
def execUndervoltage (inputMv : Nat) (s : State) : Host.Outcome State Fault Refusal := .next (undervoltSt inputMv s)
def execOvervoltage (inputMv : Nat) (s : State) : Host.Outcome State Fault Refusal := .next (overvoltSt inputMv s)
def execOvercurrentTrip (inputMa : Nat) (s : State) : Host.Outcome State Fault Refusal := .next (tripSt inputMa s)
def execThermalCritical (kind index tempC : Nat) (s : State) : Host.Outcome State Fault Refusal := .next (criticalSt kind index tempC s)

/-! The status indicator (R545). -/

/-- What the front indicator shows; the first state of Table 22.7 that holds. -/
def indicator (s : State) : Indication :=
  if s.boot.stage == 9 || s.boot.critical then .amber
  else if s.repair.haboob && s.boot.inputMv != 0 then .amberBlink
  else if s.boot.retired then .blue
  else if s.boot.stage == 8 then .green
  else if powerIsGood s then .greenBlink
  else .off

end Sys2Proof.Machine
end

