-- ==== Sys2Proof/Machine/Dispatch.lean ====
section
/-! DEFINITION. One arm per command: a direct call of its meaning, or a refusal by name. -/

namespace Sys2Proof.Machine

def exec (i : Instr) (s : State) : Host.Outcome State Fault Refusal :=
  match i with
  | .sessionHello d => Sys2Proof.Machine.execSessionHello d s
  | .sessionOpen d => Sys2Proof.Machine.execSessionOpen d s
  | .sessionClose d => Sys2Proof.Machine.execSessionClose d s
  | .sessionPing d => Sys2Proof.Machine.execSessionPing d s
  | .opStatus d => Sys2Proof.Machine.execOpStatus d s
  | .opPartial d => Sys2Proof.Machine.execOpPartial d s
  | .opAbort d => Sys2Proof.Machine.execOpAbort d s
  | .abortTakesEffect sid handle => Sys2Proof.Machine.execAbortTakesEffect sid handle s
  | .capRead d => Sys2Proof.Machine.execCapRead d s
  | .identRead d => Sys2Proof.Machine.execIdentRead d s
  | .attest d => Sys2Proof.Machine.execAttest d s
  | .cfgHostPort d => Sys2Proof.Machine.execCfgHostPort d s
  | .cfgYcp d => Sys2Proof.Machine.execCfgYcp d s
  | .cfgGrade d => Sys2Proof.Machine.execCfgGrade d s
  | .cfgRead d => Sys2Proof.Machine.execCfgRead d s
  | .qpCreate d => Sys2Proof.Machine.execQpCreate d s
  | .qpDestroy d => Sys2Proof.Machine.execQpDestroy d s
  | .memRegister d => Sys2Proof.Machine.execMemRegister d s
  | .memHostKey d => Sys2Proof.Machine.execMemHostKey d s
  | .memDeregister d => Sys2Proof.Machine.execMemDeregister d s
  | .tensorImport d => Sys2Proof.Machine.execTensorImport d s
  | .tensorImportComplete sid handle => Sys2Proof.Machine.execTensorImportComplete sid handle s
  | .tensorExport d => Sys2Proof.Machine.execTensorExport d s
  | .tensorExportComplete sid handle => Sys2Proof.Machine.execTensorExportComplete sid handle s
  | .memCopy d => Sys2Proof.Machine.execMemCopy d s
  | .memCopyComplete sid handle => Sys2Proof.Machine.execMemCopyComplete sid handle s
  | .imageLoad d => Sys2Proof.Machine.execImageLoad d s
  | .imageLoadComplete sid handle => Sys2Proof.Machine.execImageLoadComplete sid handle s
  | .imageUnload d => Sys2Proof.Machine.execImageUnload d s
  | .imageState d => Sys2Proof.Machine.execImageState d s
  | .run d => Sys2Proof.Machine.execRun d s
  | .runStartTime sid handle => Sys2Proof.Machine.execRunStartTime sid handle s
  | .runComplete sid handle => Sys2Proof.Machine.execRunComplete sid handle s
  | .scaleHistRead d => Sys2Proof.Machine.execScaleHistRead d s
  | .scaleHistWrite d => Sys2Proof.Machine.execScaleHistWrite d s
  | .adapterSet d => Sys2Proof.Machine.execAdapterSet d s
  | .groupSet d => Sys2Proof.Machine.execGroupSet d s
  | .caravanPeriod d => Sys2Proof.Machine.execCaravanPeriod d s
  | .caravanSet d => Sys2Proof.Machine.execCaravanSet d s
  | .topoWrite d => Sys2Proof.Machine.execTopoWrite d s
  | .routeWrite d => Sys2Proof.Machine.execRouteWrite d s
  | .mcastWrite d => Sys2Proof.Machine.execMcastWrite d s
  | .fabricCommit d => Sys2Proof.Machine.execFabricCommit d s
  | .fabricRead d => Sys2Proof.Machine.execFabricRead d s
  | .timeSet d => Sys2Proof.Machine.execTimeSet d s
  | .cmpInstall d => Sys2Proof.Machine.execCmpInstall d s
  | .cmpInstallComplete sid handle => Sys2Proof.Machine.execCmpInstallComplete sid handle s
  | .fedMapSet d => Sys2Proof.Machine.execFedMapSet d s
  | .fedKeySet d => Sys2Proof.Machine.execFedKeySet d s
  | .moduleRetire d => Sys2Proof.Machine.execModuleRetire d s
  | .retireDeadlineExpiry sid handle => Sys2Proof.Machine.execRetireDeadlineExpiry sid handle s
  | .kvPoolCreate d => Sys2Proof.Machine.execKvPoolCreate d s
  | .kvPoolDestroy d => Sys2Proof.Machine.execKvPoolDestroy d s
  | .kvSeqCreate d => Sys2Proof.Machine.execKvSeqCreate d s
  | .kvFork d => Sys2Proof.Machine.execKvFork d s
  | .kvPageWrite d => Sys2Proof.Machine.execKvPageWrite d s
  | .kvTruncate d => Sys2Proof.Machine.execKvTruncate d s
  | .kvSeqRetire d => Sys2Proof.Machine.execKvSeqRetire d s
  | .kvSeqSet d => Sys2Proof.Machine.execKvSeqSet d s
  | .kvTableRead d => Sys2Proof.Machine.execKvTableRead d s
  | .kvPageRead d => Sys2Proof.Machine.execKvPageRead d s
  | .telemRead d => Sys2Proof.Machine.execTelemRead d s
  | .normRead d => Sys2Proof.Machine.execNormRead d s
  | .faultRead d => Sys2Proof.Machine.execFaultRead d s
  | .accountRead d => Sys2Proof.Machine.execAccountRead d s
  | .pwrTolSet d => Sys2Proof.Machine.execPwrTolSet d s
  | .pwrBoundsSet d => Sys2Proof.Machine.execPwrBoundsSet d s
  | .pwrCapSet d => Sys2Proof.Machine.execPwrCapSet d s
  | .pwrModeSet d avsOnBoard => Sys2Proof.Machine.execPwrModeSet d avsOnBoard s
  | .pwrRead d => Sys2Proof.Machine.execPwrRead d s
  | .mirageRead d => Sys2Proof.Machine.execMirageRead d s
  | .mirageWrite d => Sys2Proof.Machine.execMirageWrite d s
  | .mirageWriteComplete sid handle => Sys2Proof.Machine.execMirageWriteComplete sid handle s
  | .bistRun d => Sys2Proof.Machine.execBistRun d s
  | .bistComplete sid handle fails => Sys2Proof.Machine.execBistComplete sid handle fails s
  | .diagRead d => Sys2Proof.Machine.execDiagRead d s
  | .serviceWindow d => Sys2Proof.Machine.execServiceWindow d s
  | .serviceWindowEnd => Sys2Proof.Machine.execServiceWindowEnd s
  | .haboobClear d => Sys2Proof.Machine.execHaboobClear d s
  | .calibrate d => Sys2Proof.Machine.execCalibrate d s
  | .calibrateComplete sid handle ok results => Sys2Proof.Machine.execCalibrateComplete sid handle ok results s
  | .certEnroll d => Sys2Proof.Machine.execCertEnroll d s
  | .certPartTimeout => Sys2Proof.Machine.execCertPartTimeout s
  | .certRevoke d => Sys2Proof.Machine.execCertRevoke d s
  | .certList d => Sys2Proof.Machine.execCertList d s
  | .auditRead d => Sys2Proof.Machine.execAuditRead d s
  | .auditHead d => Sys2Proof.Machine.execAuditHead d s
  | .fwInstall d => Sys2Proof.Machine.execFwInstall d s
  | .fwInstallComplete sid handle => Sys2Proof.Machine.execFwInstallComplete sid handle s
  | .fwActivate d => Sys2Proof.Machine.execFwActivate d s
  | .fwRead d => Sys2Proof.Machine.execFwRead d s
  | .mfgTest d => Sys2Proof.Machine.execMfgTest d s
  | .sessionIdleExpiry sid => Sys2Proof.Machine.execSessionIdleExpiry sid s
  | .provisionalSessionExpiry sid => Sys2Proof.Machine.execProvisionalSessionExpiry sid s
  | .preemptionHold sid handle kind unit => Sys2Proof.Machine.execPreemptionHold sid handle kind unit s
  | .preemptionRelease sid handle kind unit => Sys2Proof.Machine.execPreemptionRelease sid handle kind unit s
  | .mm me => Sys2Proof.Machine.execMm me s
  | .mmTwin me => Sys2Proof.Machine.execMmTwin me s
  | .mmWin me => Sys2Proof.Machine.execMmWin me s
  | .mmSplit me => Sys2Proof.Machine.execMmSplit me s
  | .drain me => Sys2Proof.Machine.execDrain me s
  | .chain ve => Sys2Proof.Machine.execChain ve s
  | .core gc => Sys2Proof.Machine.execCore gc s
  | .ttFence gc ht => Sys2Proof.Machine.execTtFence gc ht s
  | .ctrWait gc ht rs1 rs2 => Sys2Proof.Machine.execCtrWait gc ht rs1 rs2 s
  | .ctrWaitEnd gc ht => Sys2Proof.Machine.execCtrWaitEnd gc ht s
  | .carWait gc ht rs1 rd => Sys2Proof.Machine.execCarWait gc ht rs1 rd s
  | .carWaitEnd gc ht => Sys2Proof.Machine.execCarWaitEnd gc ht s
  | .descXlt gc ht rs1 rs2 rd => Sys2Proof.Machine.execDescXlt gc ht rs1 rs2 rd s
  | .amoaddW gc ht rs1 rs2 rd => Sys2Proof.Machine.execAmoaddW gc ht rs1 rs2 rd s
  | .ecall gc ht => Sys2Proof.Machine.execEcall gc ht s
  | .lend kind unit => Sys2Proof.Machine.execLend kind unit s
  | .attFwd as => Sys2Proof.Machine.execAttFwd as s
  | .attBwd as => Sys2Proof.Machine.execAttBwd as s
  | .attAppend as => Sys2Proof.Machine.execAttAppend as s
  | .attCommit as => Sys2Proof.Machine.execAttCommit as s
  | .flush seq stream => Sys2Proof.Machine.execFlush seq stream s
  | .elementPass uu => Sys2Proof.Machine.execElementPass uu s
  | .factorPass uu => Sys2Proof.Machine.execFactorPass uu s
  | .repeatedElementPasses uu => Sys2Proof.Machine.execRepeatedElementPasses uu s
  | .stemEmbed st => Sys2Proof.Machine.execStemEmbed st s
  | .stemWeightGradient st => Sys2Proof.Machine.execStemWeightGradient st s
  | .copy xe => Sys2Proof.Machine.execCopy xe s
  | .spill xe => Sys2Proof.Machine.execSpill xe s
  | .fill xe => Sys2Proof.Machine.execFill xe s
  | .zero xe => Sys2Proof.Machine.execZero xe s
  | .tileThreadCommit thread => Sys2Proof.Machine.execTileThreadCommit thread s
  | .deadlockDetected => Sys2Proof.Machine.execDeadlockDetected s
  | .stepBoundary => Sys2Proof.Machine.execStepBoundary s
  | .caravanDeparture entry => Sys2Proof.Machine.execCaravanDeparture entry s
  | .wakeHoldExpiry => Sys2Proof.Machine.execWakeHoldExpiry s
  | .wgbDrain me slot => Sys2Proof.Machine.execWgbDrain me slot s
  | .stragglerLeaf coll chunk leaf => Sys2Proof.Machine.execStragglerLeaf coll chunk leaf s
  | .modulePartial coll chunk => Sys2Proof.Machine.execModulePartial coll chunk s
  | .graceSubstitution coll chunk => Sys2Proof.Machine.execGraceSubstitution coll chunk s
  | .reduceFrame f => Sys2Proof.Machine.execReduceFrame f s
  | .replayReq f => Sys2Proof.Machine.execReplayReq f s
  | .deliver f => Sys2Proof.Machine.execDeliver f s
  | .chunkAck f => Sys2Proof.Machine.execChunkAck f s
  | .recordItemsSend coll => Sys2Proof.Machine.execRecordItemsSend coll s
  | .normRec f => Sys2Proof.Machine.execNormRec f s
  | .shardPublication pub shard => Sys2Proof.Machine.execShardPublication pub shard s
  | .publish f => Sys2Proof.Machine.execPublish f s
  | .bwdAckSend => Sys2Proof.Machine.execBwdAckSend s
  | .bwdAck f => Sys2Proof.Machine.execBwdAck f s
  | .checkpointCopy pair => Sys2Proof.Machine.execCheckpointCopy pair s
  | .stageLinkSend link => Sys2Proof.Machine.execStageLinkSend link s
  | .stageLinkFrame f => Sys2Proof.Machine.execStageLinkFrame f s
  | .recutMovesSend list => Sys2Proof.Machine.execRecutMovesSend list s
  | .recutMoveFrame f => Sys2Proof.Machine.execRecutMoveFrame f s
  | .recutStageCopy list => Sys2Proof.Machine.execRecutStageCopy list s
  | .federationDeltaSend range slice => Sys2Proof.Machine.execFederationDeltaSend range slice s
  | .delta port g => Sys2Proof.Machine.execDelta port g s
  | .federationCombine range slice => Sys2Proof.Machine.execFederationCombine range slice s
  | .result port g => Sys2Proof.Machine.execResult port g s
  | .federationResultTimeout range slice => Sys2Proof.Machine.execFederationResultTimeout range slice s
  | .federationResendTimer range slice => Sys2Proof.Machine.execFederationResendTimer range slice s
  | .ack port g => Sys2Proof.Machine.execAck port g s
  | .frameForward port f => Sys2Proof.Machine.execFrameForward port f s
  | .link port f => Sys2Proof.Machine.execLink port f s
  | .retryRequest port f => Sys2Proof.Machine.execRetryRequest port f s
  | .replayTimeout port => Sys2Proof.Machine.execReplayTimeout port s
  | .lackReportTimer port => Sys2Proof.Machine.execLackReportTimer port s
  | .creditReturnTimer port => Sys2Proof.Machine.execCreditReturnTimer port s
  | .linkTraining port t => Sys2Proof.Machine.execLinkTraining port t s
  | .trainingRetryTimer port => Sys2Proof.Machine.execTrainingRetryTimer port s
  | .laneFailure port lane => Sys2Proof.Machine.execLaneFailure port lane s
  | .laneSubstitution port f => Sys2Proof.Machine.execLaneSubstitution port f s
  | .slotReport port f => Sys2Proof.Machine.execSlotReport port f s
  | .slotReportTimer port => Sys2Proof.Machine.execSlotReportTimer port s
  | .release port f => Sys2Proof.Machine.execRelease port f s
  | .releaseTimer port => Sys2Proof.Machine.execReleaseTimer port s
  | .width port f => Sys2Proof.Machine.execWidth port f s
  | .widthAnswerTimeout port => Sys2Proof.Machine.execWidthAnswerTimeout port s
  | .quiet port f => Sys2Proof.Machine.execQuiet port f s
  | .wakeBurst port => Sys2Proof.Machine.execWakeBurst port s
  | .ptpMessage port m => Sys2Proof.Machine.execPtpMessage port m s
  | .syncTimeout port => Sys2Proof.Machine.execSyncTimeout port s
  | .rdmaWrite port r => Sys2Proof.Machine.execRdmaWrite port r s
  | .rdmaRead port r => Sys2Proof.Machine.execRdmaRead port r s
  | .roceAckTimeout qpn => Sys2Proof.Machine.execRoceAckTimeout qpn s
  | .cnp qpn => Sys2Proof.Machine.execCnp qpn s
  | .rateIncreaseTimer qpn => Sys2Proof.Machine.execRateIncreaseTimer qpn s
  | .arpRequest port ip senderIp senderMac => Sys2Proof.Machine.execArpRequest port ip senderIp senderMac s
  | .neighbourSolicitation port ip senderIp senderMac => Sys2Proof.Machine.execNeighbourSolicitation port ip senderIp senderMac s
  | .echoRequest port srcIp dstIp ident seqNo data => Sys2Proof.Machine.execEchoRequest port srcIp dstIp ident seqNo data s
  | .dwellExpiry => Sys2Proof.Machine.execDwellExpiry s
  | .wakeEvent source => Sys2Proof.Machine.execWakeEvent source s
  | .caravanWakeLead => Sys2Proof.Machine.execCaravanWakeLead s
  | .powerCapEval r => Sys2Proof.Machine.execPowerCapEval r s
  | .voltageSettled die milliV => Sys2Proof.Machine.execVoltageSettled die milliV s
  | .avsTimeout die => Sys2Proof.Machine.execAvsTimeout die s
  | .thermalWarning kind index tempC => Sys2Proof.Machine.execThermalWarning kind index tempC s
  | .thermalRelease => Sys2Proof.Machine.execThermalRelease s
  | .thermalCritical kind index tempC => Sys2Proof.Machine.execThermalCritical kind index tempC s
  | .unitFaultDetected kind scope phys => Sys2Proof.Machine.execUnitFaultDetected kind scope phys s
  | .noProgressTimeout kind scope phys => Sys2Proof.Machine.execNoProgressTimeout kind scope phys s
  | .wgbCopyComplete me => Sys2Proof.Machine.execWgbCopyComplete me s
  | .bankFailure field bank => Sys2Proof.Machine.execBankFailure field bank s
  | .bankRebuildComplete field bank => Sys2Proof.Machine.execBankRebuildComplete field bank s
  | .pseudoChannelFailure stack pc => Sys2Proof.Machine.execPseudoChannelFailure stack pc s
  | .pseudoChannelRebuildDone stack pc => Sys2Proof.Machine.execPseudoChannelRebuildDone stack pc s
  | .stackMigrationStart stack => Sys2Proof.Machine.execStackMigrationStart stack s
  | .stackMigrationComplete stack => Sys2Proof.Machine.execStackMigrationComplete stack s
  | .stackLoss stack => Sys2Proof.Machine.execStackLoss stack s
  | .regulatorPhaseFault rail phase => Sys2Proof.Machine.execRegulatorPhaseFault rail phase s
  | .ddr5ChannelFailure channel => Sys2Proof.Machine.execDdr5ChannelFailure channel s
  | .peerLossDeclared peer => Sys2Proof.Machine.execPeerLossDeclared peer s
  | .loss f => Sys2Proof.Machine.execLoss f s
  | .retire f => Sys2Proof.Machine.execRetire f s
  | .retireAck f => Sys2Proof.Machine.execRetireAck f s
  | .mirageMapFlashWrite => Sys2Proof.Machine.execMirageMapFlashWrite s
  | .scrub tier addr r => Sys2Proof.Machine.execScrub tier addr r s
  | .spareBist fails => Sys2Proof.Machine.execSpareBist fails s
  | .fullMemoryTest fails => Sys2Proof.Machine.execFullMemoryTest fails s
  | .powerGood b => Sys2Proof.Machine.execPowerGood b s
  | .bootWatchdog => Sys2Proof.Machine.execBootWatchdog s
  | .rstNRise lowNs b => Sys2Proof.Machine.execRstNRise lowNs b s
  | .presentMate inputMv => Sys2Proof.Machine.execPresentMate inputMv s
  | .presentBreak => Sys2Proof.Machine.execPresentBreak s
  | .undervoltage inputMv => Sys2Proof.Machine.execUndervoltage inputMv s
  | .overcurrentTrip inputMa => Sys2Proof.Machine.execOvercurrentTrip inputMa s
  | .ycpDatagramRefused r => Sys2Proof.Machine.execYcpDatagramRefused r s
  | .otherHostPortFrame port => Sys2Proof.Machine.execOtherHostPortFrame port s
  | .roceAcknowledge qpn psn syndrome => Sys2Proof.Machine.execRoceAcknowledge qpn psn syndrome s
  | .pfcPause port priority quanta => Sys2Proof.Machine.execPfcPause port priority quanta s
  | .hostPortFailure port => Sys2Proof.Machine.execHostPortFailure port s
  | .overvoltage inputMv => Sys2Proof.Machine.execOvervoltage inputMv s
  | .reducedCap inputMv inputMa => Sys2Proof.Machine.execReducedCap inputMv inputMa s
  | .mfgTestComplete sid handle => Sys2Proof.Machine.execMfgTestComplete sid handle s
  | .checkpointComplete => Sys2Proof.Machine.execCheckpointComplete s
  | .avsRetry die => Sys2Proof.Machine.execAvsRetry die s
  | .pmbAlert die status => Sys2Proof.Machine.execPmbAlert die status s

end Sys2Proof.Machine
end

