-- ==== Sys2Proof/Machine/Step.lean ====
section
/-! DEFINITION. One step: the command at the front of the queue, or what the module does on an empty queue. -/

namespace Sys2Proof.Machine

/-- Take the front command and run its meaning with the queue's rest. On an empty queue a fenced command that may now start is
carried out; when there is none the module idles. -/
def step (s : State) : Host.Outcome State Fault Refusal :=
  match s.pending with
  | c :: rest => exec c { s with pending := rest }
  | [] =>
    match nextFenced s with
    | some (c, s1) => exec c s1
    | none => .next (idle s)

/-- The command that a table word spells put in front; none is spelt, so the state is unchanged. -/
def State.withFetchWord (s : State) (nbits w : Nat) : State := putFront (decodeTableWord nbits w) s

end Sys2Proof.Machine
end

