-- ==== Sys2Proof/Safety.lean ====
section
/-! DEFINITION. What counts as a safe state, and the words in which the statements speak of an accepted command: the conditions
of acceptance (R396 to R400), the state in which a command's own part runs, and the state it leaves. -/

namespace Sys2Proof.Safety

open Sys2Proof.Machine

/-! Memory. -/

/-- The three tiers hold their cells in canonical form: addresses strictly rising, no cell holding 0. -/
def memoryWf (m : Memory) : Bool := memWf m.spad && memWf m.hbm && memWf m.ddr

/-- Memory of the state is canonical. -/
def MemInv (s : State) : Prop := memoryWf s.memory = true

/-- Reading one byte of a tier. -/
def byteAt (s : State) (tier a : Nat) : Byte := memGet (tierMem s.memory tier) a

/-! Settings (R4, R420, Table 16.6). -/

/-- The presented grade is a grade not above the manufactured one, and the idle time lies in its bounds. -/
def SettingsInv (s : State) : Prop :=
  gradeOk s.settings.mfgGrade s.settings.grade = true ∧ 10 ≤ s.settings.idleS ∧ s.settings.idleS ≤ 86400

/-- The audit log: its entries in force number at most 524,288, are numbered without a gap up to `next`, and the chain value is
that of the last entry. -/
def AuditInv (s : State) : Prop :=
  s.audit.entries ≠ [] ∧ s.audit.entries.length ≤ s.audit.next ∧ s.audit.entries.length ≤ 524288 ∧
  s.audit.entries.getLast?.map (fun e => e / 2 ^ 576) = some s.audit.chain

/-! A command in a session. -/

/-- The session's idle time starts again. -/
def authState (x : Session) (s : State) : State :=
  { s with sessions := modSession s.sessions x.sid (fun y => { y with lastAuth := nowNs s }) }

/-- The session after acceptance. -/
def acceptedSession (opc : Nat) (x : Session) (d : Datagram) : Session := acceptSeq x d.seq opc d.hostTag

/-- The state after acceptance. -/
def acceptedState (opc : Nat) (x : Session) (d : Datagram) (s : State) : State :=
  { authState x s with sessions := modSession (authState x s).sessions x.sid (fun y => acceptSeq y d.seq opc d.hostTag) }

/-- The state in which an accepted command's own part runs: the module awake (R463). -/
def runState (opc : Nat) (x : Session) (d : Datagram) (s : State) : State := wakeUp (some 1) (acceptedState opc x d s)

/-- The conditions under which a command datagram is accepted and carried out at once (R396 to R400, R516). -/
structure Accepted (opc : Nat) (s : State) (x : Session) (d : Datagram) : Prop where
  ready : ready s = true
  live : findSession s.sessions d.sid = some x
  plain : s.sessions.resuming = false
  tag : d.tag = cmdTag x.kHm d opc
  major : d.major = x.major
  minor : d.minor = x.minor
  ip : d.srcIp = x.ip
  udp : d.srcUdp = x.udp
  fresh : seqClass x d.seq = 1
  form : formCheck x d opc = 0
  slot : x.slots < 64
  now : mustWait (acceptedSession opc x d) d.seq d.fence = false
  audit : s.audit.writable = true

/-- An accepted command whose operands meet `P` completes with the answer that `ans` gives: the state is `conclude`'s of that
answer, which appends the audit entry, opens the operation of a long command, records the reply and sends it with its tag. -/
def Completes (opc : Nat) (c : Datagram → Instr) (P : State → Session → Datagram → Prop)
    (ans : State → Session → Datagram → Answer) : Prop :=
  ∀ (s : State) (x : Session) (d : Datagram), Accepted opc s x d → P (authState x s) x d →
    P (runState opc x d s) (acceptedSession opc x d) d →
    exec (c d) s = .next (conclude (acceptedSession opc x d) d opc
      (ans (runState opc x d s) (acceptedSession opc x d) d) (runState opc x d s))

/-! A truncation of a KV sequence (R192). -/

/-- The leaves that a truncation leaves, `cut` being the streams that it shortens and `lp` the logical page of its position. -/
def truncated (q : KvSeq) (cut : List Nat) (lp : Nat) : List (List Nat) :=
  ((q.leaves.take lp ++ ((q.leaves.drop lp).map (cutLeaf cut))).reverse.dropWhile (fun l => l.all (· == unflushed))).reverse

/-- The pages that a truncation drops. -/
def truncatedDrops (q : KvSeq) (cut : List Nat) (lp : Nat) : List Nat :=
  (q.leaves.drop lp).flatMap (fun l => (cut.map (fun st => leafEntry st l)).filter (· < unflushed))

/-! Matrix passes (R91 to R96, R150). -/

/-- A pass of opcode `k` on an engine whose live set is free. A pass over an empty view issues and is over at once (R150). With its wait
terms met and its operands readable, any other issues, the output's pending scale is taken with `LAST` where it is converted, and the
engine holds the tiles of the product in its live sets, U of the adapted tiles in the lane's buffers and the lines read in its front
end. -/
def PassStarts (c : Nat → Instr) (k : Nat) : Prop :=
  ∀ (s : State) (me qi i ent : Nat) (e : Env),
    headOfClass s 1 me 0x01 (fun x => [k].contains x) = some (qi, i, ent) → envOf s = some e → (meOf s me).live = none →
    (emptyView e (tOp ent) = true → exec (c me) s = .next (emptyPass (tThread ent) (issue 1 me qi i ent s))) ∧
    (emptyView e (tOp ent) = false → mGate s e (tOp ent) = 0 →
      let s1 := (if mLast (tOp ent) && !isFold e (tOp ent) then takeScales [outDesc e (tOp ent)] else id) (issue 1 me qi i ent s)
      let e1 := envAfter e s1
      let us := uBufs e1 (tOp ent)
      ∀ (m w : List (List Nat)) (n n2 : List Nat), mainTiles e1 us ent = .ok (m, n) → twinTiles e1 ent = .ok (w, n2) →
        exec (c me) s = .next (setMe me
          { meOf s me with
            live := some { thread := tThread ent, entry := ent, set0 := m.headD [],
                           set1 := if mOp (tOp ent) = 2 then w else m.drop 1, sat := n ++ n2 }
            ubufs := if us = [] then (meOf s me).ubufs else (us ++ (meOf s me).ubufs).take 2
            front := frontAfter e1 (tOp ent) (meOf s me).front }
          (countFormat (passFormatErrors e1 (tOp ent)) s1)))

end Sys2Proof.Safety
end

