-- ==== Sys2Proof/Certificates/Slice0/Obligations.lean ====
section
/-! DEFINITION. The statements for the provers. -/

open Sys2Proof Sys2Proof.Machine Sys2Proof.Safety

/-! The queue of commands. -/

/-- A step takes the command at the front of the queue and runs it on the state with the queue's rest; with nothing queued and no
fenced command that may start, the module idles (log entry 4: the model's own choice). -/
def Obligations.StepRunsFrontCommand : Prop :=
  (∀ (c : Instr) (rest : List Instr) (s : State), s.pending = c :: rest → step s = exec c { s with pending := rest }) ∧
  (∀ s : State, s.pending = [] → nextFenced s = none → step s = .next (idle s))

/-! Commands in a session. -/

/-- `SESSION_PING`, `SESSION_CLOSE`, `OP_STATUS`, `OP_PARTIAL` and `OP_ABORT`. -/
def Obligations.SessionCommandsComplete : Prop :=
  Completes 0x0004 .sessionPing (fun _ _ _ => True) (fun s _ _ => ansOk s) ∧
  Completes 0x0003 .sessionClose (fun _ _ _ => True) (fun s x _ => { ansOk s with ends := [x.sid] }) ∧
  (∀ o : Op, Completes 0x0010 .opStatus (fun s x d => findOp s.sessions x.sid (prm d 0 32) = some o)
    (fun s x d =>
      let freed := modSession (modOp s.sessions x.sid (prm d 0 32) (fun p => { p with slotHeld := false })) x.sid
        (fun y => { y with slots := y.slots - 1 })
      { ansBody (if opFinal o.state && o.slotHeld then { s with sessions := freed } else s) (statusWord o) 8 with
        handle := prm d 0 32 })) ∧
  (∀ (o : Op) (k : RKey), Completes 0x0011 .opPartial
    (fun s x d => findOp s.sessions x.sid (prm d 0 32) = some o ∧ o.part = true ∧
      hostKeyFor x (prm d 64 32) (prm d 96 64) (prm d 160 64) = some k)
    (fun s _ d =>
      let data := ((keepLast 65536 s.run.records).flatMap recordBytes).take (prm d 160 64)
      ansBody (rdmaSend k.qpn k.key (prm d 96 64) data s)
        (pack [(0, 64, data.length), (64, 32, min 0xFFFFFFFF (o.progress + (if o.state == 5 then 1 else 0)))]) 12)) ∧
  (∀ o : Op, Completes 0x0012 .opAbort
    (fun s x d => findOp s.sessions x.sid (prm d 0 32) = some o ∧ opFinal o.state = false)
    (fun s _ _ => { ansOk s with aborts := [(o.sid, o.handle)] }))

/-- `CAP_READ`, `IDENT_READ`, `ATTEST` and the configuration commands. -/
def Obligations.IdentityAndConfigurationComplete : Prop :=
  Completes 0x0100 .capRead (fun _ _ _ => True) (fun s _ _ => ansBody s (capBody s) 64) ∧
  Completes 0x0101 .identRead (fun _ _ _ => True) (fun s _ _ =>
    ansBody s (pack [(0, 128, s.settings.serial), (128, 48, s.settings.macH0), (176, 48, s.settings.macH1),
      (224, 48, s.settings.macM0), (288, 32, s.settings.idE), (320, 3072, s.settings.idN)]) 432) ∧
  Completes 0x0102 .attest (fun _ _ _ => True) (fun s _ d =>
    ansBody s (attestReport s (prm d 0 256) +
      ((Config.pssSign s.settings.idN (leBytes 256 (attestReport s (prm d 0 256))) % 2 ^ 3072) <<< 2048)) 640) ∧
  Completes 0x0200 .cfgHostPort
    (fun _ _ d => prm d 0 2 < 3 ∧ (prm d 0 2 = 2 → prm d 4 1 = 0) ∧ prm d 8 8 ≤ 128 ∧ prm d 32 8 ≤ 32 ∧
      prm d 64 32 >>> 28 ≠ 0xE ∧ prm d 128 128 >>> 120 ≠ 0xFF)
    (fun s _ d => { ansOk { s with settings := { s.settings with hostPorts := s.settings.hostPorts.set (prm d 0 2) d.params } } with
      ends := lostSessions s (prm d 0 2) (portCfg s (prm d 0 2)) d.params }) ∧
  Completes 0x0201 .cfgYcp (fun _ _ d => 10 ≤ prm d 32 32 ∧ prm d 32 32 ≤ 86400)
    (fun s _ d =>
      if prm d 0 16 = 0 ∨ prm d 0 16 = s.settings.ycpUdp then
        ansOk { s with settings := { s.settings with idleS := prm d 32 32 } }
      else { ansOk { s with settings := { s.settings with ycpUdp := prm d 0 16, idleS := prm d 32 32 } } with
        ends := s.sessions.live.map (·.sid) }) ∧
  Completes 0x0202 .cfgGrade
    (fun s _ d => s.run.active = false ∧ gradeOk s.settings.mfgGrade (prm d 0 8) = true ∧ s.image = none)
    (fun s _ d => ansOk (presentPorts { s with settings := { s.settings with grade := prm d 0 8 } })) ∧
  Completes 0x0203 .cfgRead (fun _ _ d => prm d 0 2 < 3)
    (fun s _ d => ansBody s (pack [(0, 256, portCfg s (prm d 0 2)), (256, 16, s.settings.ycpUdp), (288, 32, s.settings.idleS),
      (320, 8, s.settings.grade)]) 72)

/-- `QP_CREATE` and `QP_DESTROY`. The numbers that `QP_CREATE` answers are the module's choice: free values (log entry 3). -/
def Obligations.QueuePairsComplete : Prop :=
  Completes 0x0300 .qpCreate
    (fun s x d => prm d 2 2 < 3 ∧ 8 ≤ prm d 8 5 ∧ prm d 8 5 ≤ 20 ∧ s.host.qps.length < 64 ∧
      (s.host.qps.filter (fun q => q.sid == x.sid)).length < 4)
    (fun s x d =>
      let qpn := freshFrom (1 + Config.firstId 1 s.free % (2 ^ 24 - 128)) (s.host.qps.map (·.qpn))
      let psn := Config.firstId 2 s.free % 2 ^ 24
      ansBody { s with
        host := { s.host with qps := s.host.qps ++ [
          { qpn := qpn, sid := x.sid, port := prm d 0 1, pmtu := prm d 2 2, timeout := prm d 8 5, retry := prm d 16 3,
            peerQpn := prm d 32 24, peerGid := prm d 128 128, peerMac := prm d 256 48, sendPsn := psn, recvPsn := prm d 64 24,
            retries := 0, inFlight := [], rate := 800000, lastCnp := 0, failed := false }] }
        free := s.free + 1 } (pack [(0, 24, qpn), (32, 24, psn)]) 8) ∧
  (∀ q : Qp, Completes 0x0301 .qpDestroy
    (fun s x d => findQp s.host (prm d 0 24) = some q ∧ q.sid = x.sid)
    (fun s _ _ => ansOk { s with host := { s.host with qps := s.host.qps.filter (fun p => p.qpn != q.qpn) } }))

/-- Memory keys: a window key with no image resident, a region key over a region with the `HOST` right, a host key, and the
removal of a key (R421). The number of a key that the module issues is a free value (log entry 3). -/
def Obligations.MemoryKeysComplete : Prop :=
  Completes 0x0302 .memRegister
    (fun s x d => prm d 0 1 = 1 ∧ s.image = none ∧ prm d 1 1 = 0 ∧ prm d 64 48 + prm d 128 48 ≤ 0x30000000000 ∧ x.keys.length < 256)
    (fun s x d =>
      let key := freshFrom (1 + Config.firstId 3 s.free % (2 ^ 32 - 8192)) (usedKeys s.sessions)
      ansBody { s with
        sessions := modSession s.sessions x.sid (fun y => { y with keys := y.keys ++ [
          { key := key, kind := 1, r := false, w := prm d 2 1 == 1, addr := prm d 64 48, length := prm d 128 48, qpn := 0,
            valid := true }] })
        free := s.free + 1 } key 8) ∧
  (∀ g : Nat, Completes 0x0302 .memRegister
    (fun s x d => prm d 0 1 = 0 ∧ x.role ≠ 2 ∧ regionOver (regionsOf s) (prm d 64 48) (prm d 128 48) = some g ∧
      rgRights g &&& 8 ≠ 0 ∧ x.keys.length < 256)
    (fun s x d =>
      let key := freshFrom (1 + Config.firstId 3 s.free % (2 ^ 32 - 8192)) (usedKeys s.sessions)
      ansBody { s with
        sessions := modSession s.sessions x.sid (fun y => { y with keys := y.keys ++ [
          { key := key, kind := 0, r := prm d 1 1 == 1, w := prm d 2 1 == 1, addr := prm d 64 48, length := prm d 128 48, qpn := 0,
            valid := true }] })
        free := s.free + 1 } key 8)) ∧
  (∀ q : Qp, Completes 0x0303 .memHostKey
    (fun s x d => findQp s.host (prm d 32 24) = some q ∧ q.sid = x.sid ∧ x.keys.length < 256)
    (fun s x d => ansOk { s with sessions := modSession s.sessions x.sid (fun y => { y with keys := y.keys ++ [
      { key := prm d 0 32, kind := 2, r := false, w := true, addr := prm d 64 64, length := prm d 128 64, qpn := q.qpn,
        valid := true }] }) })) ∧
  (∀ k : RKey, Completes 0x0304 .memDeregister
    (fun _ x d => x.keys.find? (fun j => j.key == prm d 0 32 && (j.kind == 2) == (prm d 32 1 == 1)) = some k)
    (fun s x _ => ansOk { s with sessions := modSession s.sessions x.sid (fun y => { y with keys := y.keys.erase k }) }))

/-- Certificates and the audit log. A certificate's fields are what the certificate says (`Config.x509`: log entry 3): one of role 1 is
enrolled, any other is answered 0x0A01. -/
def Obligations.CertificateAndAuditCommandsComplete : Prop :=
  Completes 0x0A00 .certEnroll
    (fun _ _ d => 0 < prm d 16 16 ∧ prm d 16 16 ≤ 1344 ∧ prm d 0 1 = 0 ∧ prm d 1 1 = 0)
    (fun s x d => ansOk { s with security := { s.security with
      staged := some { sid := x.sid, time := nowNs s, data := (leBytes 1344 (prm d 64 10752)).take (prm d 16 16) } } }) ∧
  Completes 0x0A00 .certEnroll
    (fun s _ d =>
      let der := (leBytes 1344 (prm d 64 10752)).take (prm d 16 16)
      0 < prm d 16 16 ∧ prm d 16 16 ≤ 1344 ∧ prm d 0 1 = 0 ∧ prm d 1 1 = 1 ∧
      findCert s (shaNat der) = none ∧ s.security.enrol.length < 64)
    (fun s _ d =>
      let der := (leBytes 1344 (prm d 64 10752)).take (prm d 16 16)
      match Config.x509 der with
      | some (1, key, nb, na) =>
        { ansBody { s with security := { s.security with
            staged := none
            enrol := s.security.enrol ++ [{ fp := shaNat der, role := 1, key := key, notBefore := nb, notAfter := na, revoked := false }]
            trustedDate := max s.security.trustedDate nb } } (shaNat der) 32 with
          events := [(6, shaNat (leBytes d.plen d.params))] }
      | _ => ansCode { s with security := { s.security with staged := none } } 0x0A01) ∧
  Completes 0x0A01 .certRevoke
    (fun s x d => x.fp ≠ prm d 0 256 ∧ s.security.enrol.any (fun c => c.fp == prm d 0 256) = true)
    (fun s _ d =>
      { ansOk { s with security := { s.security with
          enrol := s.security.enrol.map (fun c => if c.fp == prm d 0 256 then { c with revoked := true } else c) } } with
        ends := (s.sessions.live.filter (fun y => y.fp == prm d 0 256)).map (·.sid)
        events := [(6, shaNat (leBytes d.plen d.params))] }) ∧
  Completes 0x0A02 .certList (fun _ _ _ => True)
    (fun s _ d => ansBytes s (leBytes 2 (s.security.trust ++ s.security.enrol).length ++
      (((s.security.trust ++ s.security.enrol).drop (prm d 0 16)).take 32).flatMap (certEntry s))) ∧
  Completes 0x0A03 .auditRead (fun s _ d => prm d 0 64 < s.audit.next)
    (fun s _ d =>
      let first := s.audit.next - s.audit.entries.length
      let start := max (prm d 0 64) first
      let es := (s.audit.entries.drop (start - first)).take 10
      ansBytes s (leBytes 8 (start + es.length) ++ es.flatMap (leBytes 128))) ∧
  Completes 0x0A04 .auditHead (fun _ _ _ => True)
    (fun s _ _ => ansBody s (pack [(0, 64, s.audit.next - 1), (64, 256, s.audit.chain)]) 40)

/-- The fault log, accounting and telemetry commands. -/
def Obligations.ReadCommandsComplete : Prop :=
  Completes 0x0702 .faultRead (fun _ _ _ => True)
    (fun s _ d =>
      let es := takeWhole 1280 (s.faultLog.entries.filter (fun e => decide (prm d 0 32 ≤ e.seq)))
      ansBytes s (leBytes 4 (match es.getLast? with | some e => e.seq + 1 | none => prm d 0 32) ++ es.flatMap faultBytes)) ∧
  Completes 0x0703 .accountRead
    (fun s x d =>
      let sid := if prm d 0 32 == 0 then x.sid else prm d 0 32
      (x.role = 1 → sid = x.sid) ∧
      ((s.sessions.live.map (·.acct) ++ s.sessions.ended.reverse).find? (fun b => b.sid == sid)).isSome = true)
    (fun s x d =>
      match (s.sessions.live.map (·.acct) ++ s.sessions.ended.reverse).find?
          (fun b => b.sid == if prm d 0 32 == 0 then x.sid else prm d 0 32) with
      | some a => ansBody s (acctBody a) 64
      | none => ansOk s) ∧
  Completes 0x0700 .telemRead
    (fun s _ d => ∃ l, telemFields s (prm d 0 8) (prm d 32 32) = .ok l)
    (fun s _ d => match telemFields s (prm d 0 8) (prm d 32 32) with
      | .ok l => ansBytes s (telemBlock (prm d 32 32) l)
      | .error _ => ansOk s)

/-- Firmware, manufacturing test and the service window. An image that checks is written to the inactive bank; whether its signature
verifies is the part's own (log entry 3), and one that does not check is answered with its code. -/
def Obligations.FirmwareAndServiceCommandsComplete : Prop :=
  Completes 0x0B00 .fwInstall
    (fun s _ d => s.image = none ∧ (match fwParse s (prm d 0 48) (prm d 64 48) with
      | .ok _ => True
      | .error c => isRefusal c = false))
    (fun s _ d => match fwParse s (prm d 0 48) (prm d 64 48) with
      | .ok _ => ansLong { s with firmware :=
          if s.firmware.active = 0 then { s.firmware with bankB := { s.firmware.bankB with valid := false, writing := true } }
          else { s.firmware with bankA := { s.firmware.bankA with valid := false, writing := true } } } 2
      | .error c => ansCode s c) ∧
  Completes 0x0B01 .fwActivate
    (fun s _ d =>
      let b := if prm d 0 1 = 0 then s.firmware.bankA else s.firmware.bankB
      b.valid = true ∧ b.writing = false)
    (fun s _ d => ansOk { s with firmware := { s.firmware with next := prm d 0 1 } }) ∧
  Completes 0x0B02 .fwRead (fun _ _ _ => True)
    (fun s _ _ => ansBody s (pack [(0, 1, s.firmware.active), (1, 1, s.firmware.next), (64, 32, s.firmware.bankA.version),
      (96, 32, s.firmware.bankB.version), (128, 32, s.firmware.floor)]) 32) ∧
  Completes 0x8000 .mfgTest (fun s _ _ => windowOpen s = true ∧ s.image = none) (fun s _ _ => ansLong s 2) ∧
  Completes 0x0904 .serviceWindow (fun _ _ d => 1 ≤ prm d 0 16 ∧ prm d 0 16 ≤ 1440)
    (fun s _ d =>
      let e := nowNs s + prm d 0 16 * 60000000000
      { ansOk { s with security := { s.security with windowEnd := some e } } with events := [(7, e)] })

/-- The fabric's tables: a write reaches the staged copy alone; a commit puts the staged tables that it names in force (R430). -/
def Obligations.FabricTableCommandsComplete : Prop :=
  Completes 0x0502 .topoWrite
    (fun s _ d =>
      let h := prm d 0 512
      let ps := (List.range 32).map (fun i => prm d (512 + 128 * i) 128)
      bits h 0 16 = 1 ∧ topoBad h ps = false ∧ topoAbsent s.settings.grade h ps = false)
    (fun s _ d => ansOk { s with fabric := { s.fabric with staged := { s.fabric.staged with
      topo := some (prm d 0 512, (List.range 32).map (fun i => prm d (512 + 128 * i) 128)) } } }) ∧
  Completes 0x0503 .routeWrite
    (fun _ _ d => 1 ≤ prm d 16 16 ∧ prm d 16 16 ≤ 256 ∧ prm d 0 16 + prm d 16 16 ≤ 65536)
    (fun s _ d => ansOk { s with fabric := { s.fabric with staged := { s.fabric.staged with
      routes := ((List.range (prm d 16 16)).map (fun i => prm d (32 + 32 * i) 32)).zipIdx.foldl
        (fun m p => spSet (prm d 0 16 + p.2) p.1 m)
        (if s.fabric.staged.routed then s.fabric.staged.routes else s.fabric.force.routes)
      routed := true } } }) ∧
  Completes 0x0504 .mcastWrite
    (fun _ _ d => 1 ≤ prm d 16 16 ∧ prm d 16 16 ≤ 128 ∧ prm d 0 16 + prm d 16 16 ≤ 65536)
    (fun s _ d => ansOk { s with fabric := { s.fabric with staged := { s.fabric.staged with
      mcast := ((List.range (prm d 16 16)).map (fun i => prm d (64 + 64 * i) 64)).zipIdx.foldl
        (fun m p => spSet (prm d 0 16 + p.2) p.1 m) s.fabric.staged.mcast } } }) ∧
  Completes 0x0505 .fabricCommit
    (fun s _ d => s.run.active = false ∧ prm d 0 1 = 0 ∧ prm d 1 1 = 0 ∧ prm d 2 1 = 1 ∧
      (s.fabric.force.topo = none ∨ s.fabric.force.routed = false))
    (fun s _ _ => ansOk { s with fabric := { s.fabric with
      force := { s.fabric.force with mcast := s.fabric.staged.mcast.foldl (fun m p => spPut 0 p.1 p.2 m) s.fabric.force.mcast }
      staged := { s.fabric.staged with mcast := [] } } }) ∧
  Completes 0x0506 .fabricRead (fun _ _ d => prm d 0 2 < 3)
    (fun s _ d => ansBody s (fabricBody s.fabric (prm d 0 2) (prm d 2 1 == 1) (prm d 16 16)) 1032)

/-- The start of fabric time, compression generations, and the federation's addresses and key. Whether a key decrypts is the part's own
(log entry 3). -/
def Obligations.DomainCommandsComplete : Prop :=
  Completes 0x0507 .timeSet (fun s _ _ => s.run.active = false ∧ s.time.master = false)
    (fun s _ d => ansOk { s with time := { s.time with start := some (prm d 0 64 * 65536 + prm d 64 16) } }) ∧
  (∀ h set : List Byte, Completes 0x0508 .cmpInstall
    (fun s _ d => vaRead s.memory (regionsOf s) 1 (prm d 0 48) 64 = .ok h ∧
      vaRead s.memory (regionsOf s) 1 (prm d 0 48) (128 + 128 * setField h 48 5) = .ok set ∧
      genSetReserved set = true ∧ setField set 0 16 = 1 ∧ genSetOk s.fabric.newest set = true ∧ genPred s.fabric s.fabric.newest = none)
    (fun s x _ =>
      let f1 := { s.fabric with
        tables := spSet (genSucc s.fabric.newest) set s.fabric.tables
        newest := genSucc s.fabric.newest
        installing := some (x.sid, x.nextHandle, genSucc s.fabric.newest) }
      let r := loadPorts (genSucc s.fabric.newest) (portsInUse f1) f1
      ansLong { s with fabric := r.1, out := s.out ++ r.2 } 2)) ∧
  Completes 0x0509 .fedMapSet
    (fun _ _ d =>
      let ip := ofBe (leBytes 16 (prm d 128 128))
      ip ≠ 0 ∧ ip >>> 120 ≠ 0xFF ∧ isMapped4 ip = false)
    (fun s _ d => ansOk { s with federation := { s.federation with
      addrs := s.federation.addrs.filter (fun a => !(a.1 == prm d 0 4 && a.2.1 == prm d 16 16)) ++
        [(prm d 0 4, prm d 16 16, if prm d 32 16 = 0 then 43601 else prm d 32 16, ofBe (leBytes 16 (prm d 128 128)))] } }) ∧
  (∀ (s : State) (x : Session) (d : Datagram), Accepted 0x050A s x d → exec (.fedKeySet d) s =
    .next (match (Config.oaep s.settings.idN (prm d 0 3072)).filter (fun k => k.length == 32) with
      | some k => conclude (acceptedSession 0x050A x d) d 0x050A
          (ansOk { runState 0x050A x d s with federation := { s.federation with key := ofLe k } }) (runState 0x050A x d s)
      | none => refuse x d 0x050A 0x0105 (authState x s)))

/-- KV pools and sequences: creation, settings, reads and retirement. -/
def Obligations.KvPoolAndSequenceCommandsComplete : Prop :=
  (∀ im : Image, Completes 0x0600 .kvPoolCreate
    (fun s _ d =>
      let r := prm d 64 512
      s.image = some im ∧ bits r 0 16 ≤ 1 ∧ poolOf s (prm d 0 4) = none ∧ poolFieldsOk r = true ∧
      pGrad r ≤ im.descs.length ∧ poolGradOk im r = true ∧ rangeCode s (pPageBase r) (pPages r * pageSize r) = 0 ∧
      rangeCode s (pCisBase r) (cisSize r) = 0 ∧ rangeCode s (pTableBase r) (256 * pTableUnits r) = 0)
    (tabled (fun s _ d => ansOk (setPool (prm d 0 4) { record := prm d 64 512, pages := [], units := 0, deferred := [] } s)))) ∧
  (∀ p : Pool, Completes 0x0601 .kvPoolDestroy
    (fun s _ d => s.image ≠ none ∧ poolOf s (prm d 0 4) = some p ∧ s.kv.seqs.any (fun q => q.2.pool == prm d 0 4) = false)
    (fun s _ d => ansOk { s with kv := { s.kv with pools := spDel (prm d 0 4) s.kv.pools } })) ∧
  (∀ (p : Pool) (us : List Nat), Completes 0x0602 .kvSeqCreate
    (fun s _ d => s.image ≠ none ∧ poolOf (settleFrees s) (prm d 16 4) = some p ∧ prm d 20 1 = 0 ∧ s.kv.seqs.length < 4096 ∧
      seqOf s (prm d 0 12) = none ∧ (prm d 32 16 = 0 ∨ prm d 48 8 + prm d 56 8 ≤ prm d 32 16) ∧
      cisRange s p.record (prm d 0 12) = 0 ∧ dirUnits 0 ≤ unitsFree p ∧
      placeTables (settleFrees s) (prm d 16 4) p [dirUnits 0] = some us)
    (tabled (fun s _ d =>
      let q : KvSeq := { pool := prm d 16 4, gen := 0, hostTag := prm d 64 32, budget := prm d 32 16, sink := prm d 48 8,
                         recent := prm d 56 8, dir := unitAddr p.record (us.headD 0), leaves := [], leafAt := [] }
      let s1 := setSeq (prm d 0 12) q
        (setPool (prm d 16 4) { p with units := p.units + dirUnits 0 } { settleFrees s with free := s.free + 1 })
      ansOk (emptyCisterns p.record (prm d 0 12) { s1 with kv := { s1.kv with epoch := (s1.kv.epoch + 1) % 2 ^ 64 } })))) ∧
  (∀ (q : KvSeq) (p : Pool), Completes 0x0607 .kvSeqSet
    (fun s _ d => editSeq s (prm d 0 12) (prm d 16 16) = .ok (q, p) ∧
      (prm d 32 16 = 0 ∨ prm d 48 8 + prm d 56 8 ≤ prm d 32 16))
    (fun s _ d => ansOk (setSeq (prm d 0 12)
      { q with budget := prm d 32 16, sink := prm d 48 8, recent := prm d 56 8, hostTag := prm d 64 32 } s))) ∧
  (∀ q : KvSeq, Completes 0x0608 .kvTableRead
    (fun s _ d => s.image ≠ none ∧ seqOf s (prm d 0 12) = some q)
    (fun s _ d => ansBody s (seqRecord (prm d 0 12) q) 64)) ∧
  (∀ p : Pool, Completes 0x0609 .kvPageRead
    (fun s _ d => s.image ≠ none ∧ poolOf (settleFrees s) (prm d 0 4) = some p ∧ 1 ≤ prm d 64 8 ∧ prm d 64 8 ≤ 64 ∧
      prm d 32 32 + prm d 64 8 ≤ pPages p.record)
    (fun s _ d => ansBytes (settleFrees s)
      ((List.range (prm d 64 8)).flatMap (fun i => pageBytes (pageOf p (prm d 32 32 + i))))))

/-- Edits of a sequence that name its generation: fork, truncate, page write and retirement (R188). -/
def Obligations.KvEditCommandsComplete : Prop :=
  (∀ (q : KvSeq) (p : Pool) (us : List Nat), Completes 0x0603 .kvFork
    (fun s _ d => editSeq (settleFrees s) (prm d 0 12) (prm d 16 16) = .ok (q, p) ∧ (settleFrees s).kv.seqs.length < 4096 ∧
      seqOf (settleFrees s) (prm d 32 12) = none ∧ cisRange (settleFrees s) p.record (prm d 32 12) = 0 ∧
      dirUnits q.leaves.length + q.leaves.length * leafUnits p.record ≤ unitsFree p ∧
      cisternsFault (settleFrees s) p.record (prm d 0 12) = none ∧
      placeTables (settleFrees s) q.pool p (dirUnits q.leaves.length :: q.leaves.map (fun _ => leafUnits p.record)) = some us)
    (tabled (fun s _ d =>
      let t := settleFrees s
      let p1 := (livePages q.leaves).foldl (fun p n => sharePage n p)
        { p with units := p.units + (dirUnits q.leaves.length + q.leaves.length * leafUnits p.record) }
      let s1 := setSeq (prm d 32 12) { q with gen := 0, hostTag := prm d 64 32, dir := unitAddr p.record (us.headD 0), leafAt := us.tail }
        (setPool q.pool p1 { t with free := t.free + 1 })
      ansBody (copyCisterns p.record (prm d 0 12) (prm d 32 12)
        { s1 with kv := { s1.kv with epoch := (s1.kv.epoch + 1) % 2 ^ 64 } }) 0 2))) ∧
  (∀ (q : KvSeq) (p : Pool), Completes 0x0606 .kvSeqRetire
    (fun s _ d => editSeq s (prm d 0 12) (prm d 16 16) = .ok (q, p))
    (tabled (fun s _ d =>
      let old := dirUnits q.leaves.length + q.leaves.length * leafUnits p.record
      let p1 := (livePages q.leaves).foldl (fun p n => dropPage s.kv.epoch n p)
        { p with units := p.units - old, deferred := p.deferred ++ (staleUnits p.record q []).map (s.kv.epoch, ·) }
      let s1 := setPool q.pool p1 s
      ansOk (settleFrees { s1 with kv := { s1.kv with
        seqs := spDel (prm d 0 12) s1.kv.seqs, epoch := (s.kv.epoch + 1) % 2 ^ 64 } })))) ∧
  (∀ (q : KvSeq) (p : Pool), Completes 0x0605 .kvTruncate
    (fun s _ d =>
      let t := settleFrees s
      let cut := (List.range (pStreams p.record)).filter (fun st => prm d 64 32 < streamLen t p.record (prm d 0 12) q st)
      editSeq t (prm d 0 12) (prm d 16 16) = .ok (q, p) ∧ cut ≠ [] ∧
      truncateFault t p.record (prm d 0 12) q cut (prm d 64 32) = none ∧
      (publishSeq (prm d 0 12) (truncated q cut (prm d 64 32 / 128)) (truncatedDrops q cut (prm d 64 32 / 128)) t).isSome = true)
    (tabled (fun s _ d =>
      let t := settleFrees s
      let pos := prm d 64 32
      let cut := (List.range (pStreams p.record)).filter (fun st => pos < streamLen t p.record (prm d 0 12) q st)
      match publishSeq (prm d 0 12) (truncated q cut (pos / 128)) (truncatedDrops q cut (pos / 128)) t with
      | none => ansOk s
      | some s1 => ansBody (cut.foldl (fun t st => putHead p.record (prm d 0 12) st (pos % 128) 0
          (match (streamPages q st)[pos / 128]? with
           | some page => decodeInto p.record (prm d 0 12) st page (pos % 128) t
           | none => t)) s1) ((q.gen + 1) % 65536) 2))) ∧
  (∀ (q : KvSeq) (p : Pool) (old pg : Nat) (src bytes : List Byte), Completes 0x0604 .kvPageWrite
    (fun s _ d =>
      let t := settleFrees s
      let lp := prm d 64 32 / 128
      editSeq t (prm d 0 12) (prm d 16 16) = .ok (q, p) ∧ prm d 32 16 < pStreams p.record ∧ 1 ≤ prm d 96 8 ∧
      prm d 64 32 % 128 + prm d 96 8 ≤ 128 ∧ (streamPages q (prm d 32 16))[lp]? = some old ∧ old ≠ hole ∧
      vaRead t.memory (regionsOf t) 1 (prm d 144 48) (prm d 96 8 * 4 * pD p.record) = .ok src ∧
      vaRead t.memory (regionsOf t) 0 (pageAddr p.record old) (pageSize p.record) = .ok bytes ∧ lowestFree p = some pg ∧
      (publishSeq (prm d 0 12) (q.leaves.set lp ((q.leaves.getD lp []).set (prm d 32 16) pg)) [old] t).isSome = true)
    (tabled (fun s _ d =>
      let r := p.record
      let lp := prm d 64 32 / 128
      let pos := prm d 64 32 % 128
      let row := fun i => (bfRow ((src.drop (i * 4 * pD r)).take (2 * pD r)), bfRow ((src.drop (i * 4 * pD r + 2 * pD r)).take (2 * pD r)))
      let half := fun h => ((List.range (prm d 96 8)).filter (fun i => (pos + i) / 64 == h)).foldl
        (fun m i => spSet ((pos + i) % 64) (row i) m) []
      let a := mergeHalf r (bytes.take (kPart r)) ((bytes.drop (2 * kPart r)).take (vPart r)) (half 0)
      let b := mergeHalf r ((bytes.drop (kPart r)).take (kPart r)) (bytes.drop (2 * kPart r + vPart r)) (half 1)
      match publishSeq (prm d 0 12) (q.leaves.set lp ((q.leaves.getD lp []).set (prm d 32 16) pg)) [old] (settleFrees s) with
      | none => ansOk s
      | some s1 => ansBody (kvPut (pageAddr r pg) (a.1 ++ b.1 ++ a.2 ++ b.2)
          (setPool q.pool (takePage pg ((poolOf s1 q.pool).getD p)) s1)) ((q.gen + 1) % 65536) 2)))

/-- The power commands. `PWR_READ` answers with the power state from which the command woke the module (R466). -/
def Obligations.PowerCommandsComplete : Prop :=
  Completes 0x0800 .pwrTolSet
    (fun s x d => x.role ≠ 1 ∨ (s.power.tolMin ≤ prm d 0 32 ∧ prm d 0 32 ≤ s.power.tolMax ∧ s.power.dwellMin ≤ prm d 32 32))
    (fun s _ d => ansOk (setTol (prm d 0 32) { s with power := { s.power with dwellUs := prm d 32 32 } })) ∧
  Completes 0x0801 .pwrBoundsSet (fun _ _ d => prm d 0 32 ≤ prm d 32 32)
    (fun s _ d =>
      let s1 := { s with power := { s.power with tolMin := prm d 0 32, tolMax := prm d 32 32, dwellMin := prm d 64 32 } }
      ansOk (if s.power.tolNs < prm d 0 32 ∨ prm d 32 32 < s.power.tolNs then setTol (max (prm d 0 32) (min (prm d 32 32) s.power.tolNs)) s1
        else s1)) ∧
  Completes 0x0802 .pwrCapSet (fun _ _ d => 800 ≤ prm d 0 16 ∧ prm d 0 16 ≤ 3800)
    (fun s _ d => ansOk { s with power := { s.power with capW := prm d 0 16 } }) ∧
  Completes 0x0803 (.pwrModeSet · true) (fun s _ _ => s.run.active = false)
    (fun s _ d =>
      let s1 := movePoint 1 0 (movePoint 0 0 s)
      ansOk { s1 with power := { s1.power with toCompat := some (prm d 0 1 == 1), handover := [], capPoint := 0, underCap := 0 } }) ∧
  (∀ (s : State) (x : Session) (d : Datagram), Accepted 0x0804 s x d →
    exec (.pwrRead d) s = .next (conclude (acceptedSession 0x0804 x d) d 0x0804
      (ansBody (wakeUp none (acceptedState 0x0804 x d s))
        (pack [(0, 2, s.power.ps), (2, 1, b2n s.power.compat), (8, 4, s.power.wake), (32, 32, s.power.tolNs),
          (64, 32, s.power.dwellUs), (96, 16, s.power.capW), (112, 16, s.power.powerW), (128, 32, s.power.tolMin),
          (160, 32, s.power.tolMax)]) 32) (acceptedState 0x0804 x d s)))

/-- `TENSOR_IMPORT`, `TENSOR_EXPORT` and `MEM_COPY` open a long operation (R422, R423). -/
def Obligations.TensorCommandsOpenOperations : Prop :=
  (∀ e : Env, Completes 0x0305 .tensorImport
    (fun s _ d =>
      let x := descOf e.im (prm d 0 24)
      let hf := prm d 32 8
      let n := hostBytes (dDims x) (hostAxis x hf) hf
      envOf s = some e ∧ idleOnly s = false ∧ isTensor e (prm d 0 24) = true ∧ hostFmtOk hf = true ∧
      (fmtScaled (dFmt x) = false ∨ prm d 64 32 = 0 ∨ normalT (prm d 64 32) = true) ∧
      firstCode [useCode e (prm d 0 24) 2, spansCode e 1 [(prm d 128 48, n)]] = 0 ∧
      overlap (piecesOf e [(prm d 128 48, n)]) (piecesOf e (storeSpans e (prm d 0 24))) = false)
    (fun s _ _ => ansLong s (engineState s))) ∧
  (∀ e : Env, Completes 0x0306 .tensorExport
    (fun s x d =>
      let t := descOf e.im (prm d 0 24)
      envOf s = some e ∧ (x.role = 3 → windowOpen s = true) ∧ copyable e (prm d 0 24) = true ∧ hostFmtOk (prm d 32 8) = true ∧
      (∀ k, (dDims t).length ≤ k → k < 6 → padLo d.params k = 0 ∧ padHi d.params k = 0) ∧ useCode e (prm d 0 24) 1 = 0 ∧
      (hostKeyFor x (prm d 64 32) (prm d 128 64) (hostBytes (padDims d.params (dDims t))
        (exportAxis t (prm d 32 8) d.params) (prm d 32 8))).isSome = true ∧ s.sessions.ops = [])
    (fun s _ _ => ansLong s 2)) ∧
  (∀ e : Env, Completes 0x0307 .memCopy
    (fun s _ d => envOf s = some e ∧ idleOnly s = false ∧ copyCode e (prm d 0 24) (prm d 24 24) (prm d 64 24) = 0)
    (fun s _ _ => ansLong s (engineState s)))

/-- `IMAGE_LOAD`, `IMAGE_UNLOAD`, `IMAGE_STATE` and `RUN`. -/
def Obligations.ImageAndRunCommandsComplete : Prop :=
  Completes 0x0400 .imageLoad
    (fun s x d => s.image = none ∧ prm d 0 48 % 256 = 0 ∧ prm d 0 48 + prm d 64 48 ≤ 0x30000000000 ∧
      windowOver s x.sid (prm d 0 48) (prm d 64 48) = false)
    (fun s _ _ => ansLong s (engineState s)) ∧
  Completes 0x0401 .imageUnload (fun s _ _ => s.run.active = false ∧ s.image ≠ none)
    (fun s _ _ => ansOk { s with
      image := none
      engines := []
      kv := { s.kv with pools := [], seqs := [], pins := [], masses := [], waiting := [] }
      changes := { groupSets := [], adapterSets := [], caravanOps := [] }
      sessions := { s.sessions with live := s.sessions.live.map (fun x => { x with keys := x.keys.filter (fun k => k.kind != 0) }) } }) ∧
  Completes 0x0402 .imageState (fun _ _ _ => True)
    (fun s _ _ => ansBody s (pack [(0, 1, b2n s.image.isSome), (1, 1, b2n s.run.active), (64, 64, (s.image.map (·.tag)).getD 0),
      (128, 32, s.run.lastBegun), (160, 32, s.run.count)]) 24) ∧
  (∀ im : Image, Completes 0x0403 .run
    (fun s _ d => s.image = some im ∧ s.run.active = false ∧ 1 ≤ prm d 208 8 ∧ prm d 208 8 ≤ 64 ∧ s.boot.retired = false ∧
      s.time.state = 2 ∧ s.time.now + 1000000 * 65536 ≤ prm d 128 64 * 65536 + prm d 192 16)
    (fun s x d => ansLong (beginRun x d im s) 0))

/-- Scale histories, adapters, groups and the caravan table: a change during a run waits for the boundary or the next origin. -/
def Obligations.RunSettingCommandsComplete : Prop :=
  (∀ (im : Image) (t : Nat) (l : List Byte), Completes 0x0404 .scaleHistRead
    (fun s _ d => scaledDesc s (prm d 0 24) = .ok (im, t) ∧ vaRead s.memory im.regions 0 (dAux t) 80 = .ok l)
    (fun s _ d => ansBytes s (match s.run.active, spGet? (pairKey im (prm d 0 24)) s.scales.nextScale with
      | false, some u => l.take 12 ++ leBytes 4 u ++ l.drop 16
      | _, _ => l))) ∧
  (∀ (im : Image) (t : Nat), Completes 0x0405 .scaleHistWrite
    (fun s _ d => s.run.active = false ∧ scaledDesc s (prm d 0 24) = .ok (im, t) ∧ bits (prm d 64 640) 0 16 ≤ 1 ∧
      histOk (prm d 64 640) = true)
    (fun s _ d => ansOk (syncScale (prm d 0 24) { s with
      memory := putHist im t (prm d 64 640) s.memory
      scales := { s.scales with
        nextScale := spDel (pairKey im (prm d 0 24)) s.scales.nextScale
        exchanged := if bits (prm d 64 640) 80 8 == 0 then s.scales.exchanged.filter (· != pairKey im (prm d 0 24))
          else s.scales.exchanged } }))) ∧
  (∀ im : Image, Completes 0x0406 .adapterSet
    (fun s _ d =>
      let e := prm d 64 128
      s.image = some im ∧ s.settings.grade ≠ 3 ∧ bits e 0 8 ≤ 64 ∧
      bits e 32 24 ≤ im.descs.length ∧ bits e 64 24 ≤ im.descs.length ∧
      (bits e 0 8 = 0 ∨ ∀ i, i = bits e 32 24 ∨ i = bits e 64 24 → dKind (descOf im i) = 0 ∧ dFmt (descOf im i) = 2))
    (fun s _ d => ansOk { s with changes := { s.changes with adapterSets := s.changes.adapterSets ++ [d.params] } })) ∧
  (∀ im : Image, Completes 0x0407 .groupSet
    (fun s _ d => s.image = some im ∧ prm d 0 12 < im.groups.length ∧ (prm d 16 1 = 1 → prm d 32 2 ≠ 3) ∧
      (prm d 17 1 = 1 → posNormal32 (prm d 64 32) = true))
    (fun s _ d => ansOk { s with changes := { s.changes with groupSets := s.changes.groupSets ++ [d.params] } })) ∧
  (∀ im : Image, Completes 0x0500 .caravanPeriod
    (fun s _ d => s.image = some im ∧ caravanOk (caravanOp (caravanNext s im) (0, 0, prm d 0 48, caravanStep s im)) (myId s.fabric) = true)
    (fun s _ d => ansOk { s with changes := { s.changes with
      caravanOps := s.changes.caravanOps ++ [(0, 0, prm d 0 48, caravanStep s im)] } })) ∧
  (∀ im : Image, Completes 0x0501 .caravanSet
    (fun s _ d => s.image = some im ∧
      prm d 0 12 ≤ (caravanNext s im).car.entries.length ∧
      caravanOk (caravanOp (caravanNext s im) (1, prm d 0 12, prm d 64 256, caravanStep s im)) (myId s.fabric) = true)
    (fun s _ d => ansOk { s with changes := { s.changes with
      caravanOps := s.changes.caravanOps ++ [(1, prm d 0 12, prm d 64 256, caravanStep s im)] } }))

/-- Diagnostics and repair: norm and diagnostic reads, the mirage map, self-test, calibration, and the end of a haboob condition
with `RESUME` = 1. -/
def Obligations.RepairCommandsComplete : Prop :=
  Completes 0x0701 .normRead (fun s _ d => prm d 0 1 = 1 → hasCap s 2 = true)
    (fun s _ d => ansBytes s (leBytes 32 (normHeader s.update) ++
      (((if prm d 0 1 == 1 then s.update.noise.map noiseBytes else s.update.norms.map normBytes).drop (prm d 32 16)).take 40).flatten)) ∧
  Completes 0x0903 .diagRead (fun _ _ d => prm d 0 8 = 4 ∧ prm d 96 16 ≤ 320 ∧ prm d 32 32 + prm d 96 16 ≤ 65535)
    (fun s _ d => ansBytes s ((List.range (prm d 96 16)).flatMap (fun i => leBytes 4 (ctrAt s (prm d 32 32 + i))))) ∧
  Completes 0x0900 .mirageRead (fun _ _ d => prm d 0 32 < 30720)
    (fun s _ d => ansBytes s (leBytes 4 30720 ++ ((mapBytes s (storedMap s)).drop (prm d 0 32)).take 1280)) ∧
  Completes 0x0901 .mirageWrite
    (fun s _ d => s.run.active = false ∧ s.repair.haboob = false ∧ s.mirage.writing = false ∧ prm d 0 32 ≠ 0 ∧
      prm d 0 32 = s.mirage.staged.length ∧ 1 ≤ prm d 32 16 ∧ prm d 32 16 ≤ 1280 ∧ prm d 48 1 = 0)
    (fun s _ d => ansOk { s with mirage := { s.mirage with
      staged := s.mirage.staged ++ leBytes (prm d 32 16) (prm d 64 (8 * prm d 32 16)) } }) ∧
  Completes 0x0902 .bistRun (fun s _ d => prm d 0 8 ≤ 2 ∧ s.image = none)
    (fun s _ _ => { ansLong s 2 with body := pack [(32, 32, s.faultLog.next + 1)], blen := 16 }) ∧
  Completes 0x0906 .calibrate
    (fun s _ d => windowOpen s = true ∧ prm d 0 8 ≤ 5 ∧ (prm d 0 8 = 4 → s.settings.grade = 1) ∧ s.run.active = false)
    (fun s _ _ => ansLong s 2) ∧
  Completes 0x0905 .haboobClear (fun s _ d => s.repair.haboob = true ∧ prm d 0 1 = 1 ∧ s.repair.pending = [])
    (fun s _ _ =>
      let s1 := addEvent 10 1 8 { s with repair := { s.repair with haboob := false, pending := [] } }
      { ansOk { s1 with
          mirage := { s1.mirage with
            subStop := false, dirty := true, written := s1.mirage.written.map (fun w => { w with subStop := false }) }
          repair := { s1.repair with faultTimes := [] }
          sessions := resumeOps s1.sessions } with events := [(9, 0)] }) ∧
  (∀ (s : State) (x : Session) (d : Datagram), Accepted 0x050B s x d → 1 ≤ prm d 0 32 → prm d 0 32 ≤ 600000 →
    s.boot.retired = false → s.run.active = false →
    exec (.moduleRetire d) s = .next (retireIdle (conclude (acceptedSession 0x050B x d) d 0x050B
      (ansLong (runState 0x050B x d s) 2) (runState 0x050B x d s))))

/-! Completion points of long operations. -/

/-- The completion points of import, export, copy and load: the operation ends `DONE`, and its effect is in memory, at the host, or
the image is resident. -/
def Obligations.TransferOperationsEnd : Prop :=
  (∀ (s s0 : State) (sid h : Nat) (o : Op) (e : Env) (data : List Byte),
    let i := bits o.params 0 24
    let t := bits o.params 64 32
    let hf := bits o.params 32 8
    let st := importOut e i t hf data
    engineOp s sid h 0x0305 = some (o, s0) → envOf s0 = some e →
    vaRead e.mem e.im.regions 1 (bits o.params 128 48)
      (hostBytes (dDims (descOf e.im i)) (hostAxis (descOf e.im i) hf) hf) = .ok data → st.fail = 0 →
    exec (.tensorImportComplete sid h) s = .next (engineNext (finishOp sid h 4 0 (opProgress sid h
      (granules (elemCount (descOf e.im i)))
      (let s1 := landHost sid h i e st (countFormat (importErrors (descOf e.im i) hf data) s0)
       if fmtScaled (dFmt (descOf e.im i)) = true ∧ t ≠ 0 ∨ hf ≠ dFmt (descOf e.im i) then
         { s1 with scales := { s1.scales with nextScale := spDel (pairKey e.im i) s1.scales.nextScale } }
       else s1))))) ∧
  (∀ (s : State) (sid h : Nat) (o : Op) (e : Env) (x : Session) (k : RKey) (l : List (List Byte × CFlag)),
    let p := o.params
    let i := bits p 0 24
    let hf := bits p 32 8
    let dims := padDims p (dDims (descOf e.im i))
    let ax := exportAxis (descOf e.im i) hf p
    let units := if fmtBlock hf then hostBlocks dims ax else List.range (prod dims)
    runningOp s sid h 0x0306 = some o → envOf s = some e → findSession s.sessions sid = some x →
    hostKeyFor x (bits p 64 32) (bits p 128 64) (hostBytes dims ax hf) = some k →
    readAll (fun u => match exportUnit e i hf p ax u with
      | .ok l => .ok l
      | .error c => .error c.1) units = .ok l →
    exec (.tensorExportComplete sid h) s = .next (finishOp sid h 4 0 (opProgress sid h (granules (prod dims))
      (landHost sid h (baseIdx e i) e (exportStored e i p (units.zip (l.map (·.2)))) (countFormat (exportErrors e i hf p)
        (rdmaSend k.qpn k.key (bits p 128 64) (l.flatMap (·.1)) s)))))) ∧
  (∀ (s s0 : State) (sid h : Nat) (o : Op) (e : Env) (st : Stored),
    let src := bits o.params 0 24
    let dst := bits o.params 24 24
    engineOp s sid h 0x0307 = some (o, s0) → envOf s0 = some e →
    copyOut s0 e src dst (bits o.params 64 24) (curHalf e dst) 0 = .ok st → st.fail = 0 →
    exec (.memCopyComplete sid h) s = .next (engineNext (finishOp sid h 4 0 (opProgress sid h (tileCount (descOf e.im dst))
      (landHost sid h (baseIdx e dst) e st (countFormat (copyErrors e src dst) s0)))))) ∧
  (∀ (s s0 : State) (sid h : Nat) (o : Op),
    let a := bits o.params 0 48
    let n := bits o.params 64 48
    let im := readImage (memRead s0.memory.hbm a n)
    engineOp s sid h 0x0400 = some (o, s0) → s0.image = none → badIn s0.memory 1 a n = none →
    imageCode s0 (memRead s0.memory.hbm a n) = 0 →
    let s1 := im.scaleInit.foldl (fun t x => syncScale x.1 t) (install im s0)
    exec (.imageLoadComplete sid h) s = .next (engineNext (finishOp sid h 4 0 (opProgress sid h (ceilDiv n 1048576)
      { s1 with sessions := dropWindowKeys s1.sessions }))))

/-- The completion points of the other long operations, and of an abort and of a retirement's deadline. -/
def Obligations.OtherOperationsEnd : Prop :=
  (∀ (s : State) (sid h : Nat) (o : Op), findOp s.sessions sid h = some o → o.aborting = true → opFinal o.state = false →
    exec (.abortTakesEffect sid h) s = .next (finishOp sid h 6 0 s)) ∧
  (∀ (s : State) (sid h : Nat) (o : Op), findOp s.sessions sid h = some o → o.opcode = 0x0B00 →
    opFinal o.state = false → o.aborting = false →
    exec (.fwInstallComplete sid h) s = .next (match fwParse s (bits o.params 0 48) (bits o.params 64 48) with
      | .ok b => finishOp sid h 4 0 { s with
          firmware := if s.firmware.active = 0 then { s.firmware with bankB := b, next := 1 } else { s.firmware with bankA := b, next := 0 }
          sessions := modOp (dropWindowKeys s.sessions) sid h (setProgress (ceilDiv (bits o.params 64 48) 1024)) }
      | .error c => finishOp sid h 5 c s)) ∧
  (∀ (s : State) (sid h : Nat) (o : Op), findOp s.sessions sid h = some o → o.opcode = 0x8000 → opFinal o.state = false →
    o.aborting = false →
    exec (.mfgTestComplete sid h) s = .next (finishOp sid h 4 0 { s with sessions := modOp s.sessions sid h (setProgress 100) })) ∧
  (∀ (s : State) (sid h : Nat) (o : Op), findOp s.sessions sid h = some o → o.opcode = 0x0508 → o.state = 2 → o.aborting = false →
    s.fabric.installing = some (sid, h, s.fabric.newest) → holders s.fabric = (portsInUse s.fabric).length →
    exec (.cmpInstallComplete sid h) s = .next (finishOp sid h 4 0 { s with
      fabric := { s.fabric with installing := none }
      sessions := modOp s.sessions sid h (setProgress (holders s.fabric)) })) ∧
  (∀ (s : State) (sid h : Nat) (o : Op), findOp s.sessions sid h = some o → o.opcode = 0x050B → opFinal o.state = false →
    o.queuedAt + 1000000 * bits o.params 0 32 ≤ nowNs s →
    exec (.retireDeadlineExpiry sid h) s = .next (finishOp sid h 5 0x050F s)) ∧
  (∀ (s : State) (sid h : Nat) (o : Op) (c : MapCopy), findOp s.sessions sid h = some o → o.opcode = 0x0901 → o.state = 2 →
    o.aborting = false → s.mirage.writing = true → mapOfBytes s.mirage.staged = some c →
    exec (.mirageWriteComplete sid h) s = .next
      (let w := { c with gen := s.mirage.gen + 1, subStop := s.mirage.subStop }
       finishOp sid h 4 0 { s with
         mirage := { s.mirage with writing := false, staged := [], written := some w, stored := storeMap s.mirage.stored w }
         sessions := modOp s.sessions sid h (setProgress 30) })) ∧
  (∀ (s : State) (sid h : Nat) (o : Op) (fails : List Nat), findOp s.sessions sid h = some o → o.opcode = 0x0902 → o.state = 2 →
    o.aborting = false → bits o.params 0 8 = 1 →
    exec (.bistComplete sid h fails) s = .next
      (let s1 := failUnits fails s
       finishOp sid h 4 0 { s1 with sessions := modOp s1.sessions sid h (setProgress 100) })) ∧
  (∀ (s : State) (sid h : Nat) (o : Op) (results : List (Nat × Nat)), findOp s.sessions sid h = some o → o.opcode = 0x0906 →
    o.state = 2 → o.aborting = false → s.run.active = false → 1 ≤ bits o.params 0 8 →
    exec (.calibrateComplete sid h true results) s = .next (finishOp sid h 4 0 { s with
      repair := { s.repair with calib := spSet (bits o.params 0 8) results s.repair.calib }
      sessions := modOp s.sessions sid h (setProgress 100) }))

/-! Sessions. -/

/-- `SESSION_HELLO` opens a provisional session: an accepted hello is answered with a fresh `SID` and nonce, and the provisional
session stands for 1 s (R391, R392). The `SID` and nonce are the module's choice: free values (log entry 3). -/
def Obligations.HelloOpensProvisionalSession : Prop :=
  ∀ (s : State) (d : Datagram), ready s = true → helloCode d = 0 →
    (s.sessions.helloTimes.filter (fun t => decide (nowNs s < t + 1000000000))).length < 64 →
    s.sessions.live.all (fun x => !(x.ip == d.srcIp && x.udp == d.srcUdp)) = true →
    (s.sessions.prov.filter (fun p => decide (nowNs s < p.expires))).length < 16 →
    ∃ t : State, exec (.sessionHello d) s = .next t ∧
      (∃ p : ProvSession, t.sessions.prov = s.sessions.prov.filter (fun p => decide (nowNs s < p.expires)) ++ [p] ∧
        p.expires = nowNs s + 1000000000 ∧ p.role = bits d.params 32 2 ∧ p.prio = bits d.params 34 2 ∧
        p.fp = bits d.params 128 256 ∧ p.nH = bits d.params 384 256 ∧ p.ip = d.srcIp ∧ p.udp = d.srcUdp ∧
        p.nM = Config.free s.free % 2 ^ 256) ∧
      t.sessions.live = s.sessions.live ∧ t.sessions.ops = s.sessions.ops ∧ t.free = s.free + 1 ∧
      t.memory = s.memory ∧ t.audit = s.audit ∧ t.settings = s.settings

/-- `SESSION_OPEN` on a provisional session. What its secret decrypts to and whether its certificate's signature verifies are the part's
own (log entry 3): a secret that does not decrypt discards the provisional session; with a tag under the session's key, a certificate that
proves its role makes the session live with the keys of R393, enters audit event 5 and is answered with the session's own tag, and one that
does not is answered 0x0202. -/
def Obligations.OpenMakesSession : Prop :=
  ∀ (s : State) (d : Datagram) (p : ProvSession),
    ready s = true → s.sessions.prov.find? (fun q => q.sid == d.sid && decide (nowNs s < q.expires)) = some p →
    p.ip = d.srcIp → p.udp = d.srcUdp → d.major = p.major → d.minor = p.minor → d.rsv = 0 → d.plen = 768 →
    s.audit.writable = true → s.sessions.live.length < 16 →
    (Config.oaep s.settings.idN (bits d.params 0 3072) = none →
      exec (.sessionOpen d) s = .next (ycpDiscard d.port (dropProv p.sid s))) ∧
    (∀ k : List Byte, Config.oaep s.settings.idN (bits d.params 0 3072) = some k →
      let kHm := sessionKey labelHost k p.sid p.nH p.nM
      let kMh := sessionKey labelModule k p.sid p.nH p.nM
      d.tag = cmdTag kHm d 0x0002 →
      let proved := roleProved s p (bits d.params 0 3072) (bits d.params 3072 3072)
      ∃ (t : State) (r : Reply), exec (.sessionOpen d) s = .next t ∧
        t.sessions.prov = s.sessions.prov.filter (fun q => q.sid != p.sid) ∧ t.memory = s.memory ∧ t.sessions.ops = s.sessions.ops ∧
        t.out.getLast? = some (.ycp d.port p.ip p.udp p.sid d.seq 0x0002 d.hostTag r
          (tag16 kMh (replyBytes p.sid d.seq 0x0002 d.hostTag p.major p.minor r))) ∧
        (proved = false → r.code = 0x0202 ∧ t.sessions.live = s.sessions.live) ∧
        (proved = true → ∃ x : Session, t.sessions.live = s.sessions.live ++ [x] ∧
          x.sid = p.sid ∧ x.role = p.role ∧ x.prio = p.prio ∧ x.fp = p.fp ∧ x.kHm = kHm ∧ x.kMh = kMh ∧ x.hi = 0 ∧ x.slots = 0 ∧
          x.nextHandle = 1 ∧ x.keys = [] ∧ x.lastAuth = nowNs s ∧ r.code = 0 ∧ r.body = p.sid ∧
          t.audit = auditPush s.audit 0x0002 0 (nowNs s) p.sid p.role 5 (certTag p.fp) (shaNat (leBytes d.plen d.params))))

/-- Expiry of a session and of a provisional one, a staged certificate part, and the end of a service window (R392, R401, R437,
R512). -/
def Obligations.SessionTimersComplete : Prop :=
  (∀ (s : State) (sid : Nat) (x : Session), findSession s.sessions sid = some x →
    x.lastAuth + s.settings.idleS * 1000000000 ≤ nowNs s →
    exec (.sessionIdleExpiry sid) s = .next (endSession sid s)) ∧
  (∀ (s : State) (sid : Nat),
    exec (.provisionalSessionExpiry sid) s = .next { s with sessions := { s.sessions with
      prov := s.sessions.prov.filter (fun p => p.sid != sid || decide (nowNs s < p.expires)) } }) ∧
  (∀ (s : State) (c : CertPart), s.security.staged = some c → c.time + 10000000000 < nowNs s →
    exec .certPartTimeout s = .next { s with security := { s.security with staged := none } }) ∧
  (∀ (s : State) (e : Nat), s.security.windowEnd = some e → e ≤ nowNs s →
    exec .serviceWindowEnd s = .next (closeWindow (auditModule 7 e s)))

/-- The end of a session removes its operations that have ended, its keys with it, its queue pairs and its slots, keeps its
accounting record among the 16 latest ended ones, and enters audit event 5 (R401, R451, R517); every other session stays. -/
def Obligations.EndSessionRemovesIt : Prop :=
  ∀ (s : State) (sid : Nat) (x : Session), findSession s.sessions sid = some x → s.audit.writable = true →
    (∀ o ∈ s.sessions.ops, o.sid = sid → opFinal o.state = true) →
    let t := endSession sid s
    t.sessions.live = s.sessions.live.filter (fun y => y.sid != sid) ∧ findSession t.sessions sid = none ∧
    t.sessions.ops = s.sessions.ops.filter (fun o => o.sid != sid) ∧
    t.host.qps = s.host.qps.filter (fun q => q.sid != sid) ∧
    t.sessions.ended = keepLast 16 (s.sessions.ended ++ [{ x.acct with live := false }]) ∧
    t.audit = auditPush s.audit 0 0 (nowNs s) sid x.role 5 (certTag x.fp) 0 ∧
    t.memory = s.memory ∧ t.out = s.out ∧ t.settings = s.settings

/-- Pre-emption of a transfer engine: the hold pauses every victim and starts the pre-emptor, and the release lets the victims go on
(R446, R447, R449, R452). -/
def Obligations.PreemptionHoldAndRelease : Prop :=
  (∀ (s : State) (sid h unit : Nat) (p : Op), findOp s.sessions sid h = some p → isPreemptor s p 7 unit = true →
    unitBusy s 7 unit = false → s.sessions.ops.any (isVictim s p unit) = true →
    ∃ t : State, exec (.preemptionHold sid h 7 unit) s = .next t ∧
      (∃ q, findOp t.sessions sid h = some q ∧ q.state = 2 ∧ q.started = true ∧ q.holds = p.holds ++ [(7, unit)]) ∧
      (∀ o ∈ s.sessions.ops, isVictim s p unit o = true → opIs sid h o = false →
        { o with state := 3, holdBy := o.holdBy ++ [(sid, h, awakeNs s)] } ∈ t.sessions.ops) ∧
      t.run = s.run ∧ t.memory = s.memory ∧ t.out = s.out) ∧
  (∀ (s : State) (sid h kind unit : Nat), preemptorDone s sid h = true →
    ∃ t : State, exec (.preemptionRelease sid h kind unit) s = .next t ∧
      (∀ o ∈ s.sessions.ops, o.holdBy ≠ [] → (∀ b ∈ o.holdBy, b.1 = sid ∧ b.2.1 = h) → o.state = 3 → o.haboobHeld = false →
        { o with state := 2, holdBy := [] } ∈ t.sessions.ops) ∧
      (∀ o ∈ t.sessions.ops, ∀ b ∈ o.holdBy, ¬(b.1 = sid ∧ b.2.1 = h)) ∧ t.run = s.run ∧ t.memory = s.memory ∧ t.out = s.out)

/-- A datagram that a check turns away: discarded and counted on its port, or refused with the code of the first check of R396 that
fails, without a slot, a record or any other effect on the session. -/
def Obligations.RefusedDatagramLeavesNoTrace : Prop :=
  (∀ (s : State) (r : RawDatagram), ready s = true → r.dstUdp = s.settings.ycpUdp →
    (r.sumOk = false ∨ r.udpLen < 48 ∨ 1432 < r.udpLen ∨ r.magic ≠ 0x4359 ∨ r.hlen ≠ 32 ∨ r.resp = true ∨
      r.d.plen + 48 ≠ r.udpLen) →
    exec (.ycpDatagramRefused r) s = .next (ycpDiscard r.d.port s)) ∧
  (∀ (s : State) (r : RawDatagram) (x : Session), ready s = true → r.dstUdp = s.settings.ycpUdp → r.sumOk = true →
    48 ≤ r.udpLen → r.udpLen ≤ 1432 → r.magic = 0x4359 → r.hlen = 32 → r.resp = false → r.d.plen + 48 = r.udpLen →
    r.opcode ≠ 0x0001 → r.opcode ≠ 0x0002 → findSession s.sessions r.d.sid = some x → r.d.tag = cmdTag x.kHm r.d r.opcode →
    r.d.major = x.major → r.d.minor = x.minor → r.d.srcIp = x.ip → r.d.srcUdp = x.udp → seqClass x r.d.seq = 1 →
    formCheck x r.d r.opcode ≠ 0 →
    exec (.ycpDatagramRefused r) s = .next (refuse x r.d r.opcode (formCheck x r.d r.opcode) (authState x s)))

/-! Host ports. -/

/-- RDMA WRITE and READ through a key in order: the bytes reach memory, or leave the module, and the expected packet number moves
on (R306, R307). -/
def Obligations.RdmaRequestsComplete : Prop :=
  (∀ (s : State) (port : Nat) (r : RdmaReq) (q : Qp) (x : Session) (ps : List (Nat × Nat × Nat)), ready s = true → r.icrcOk = true →
    findQp s.host r.qpn = some q → q.port = port → q.failed = false → r.inSubset = true → r.ce = false → r.psn = q.recvPsn →
    r.psn < 2 ^ 24 → findSession s.sessions q.sid = some x → keyPieces s x r true = .ok ps →
    exec (.rdmaWrite port r) s = .next (roceOut port [.rdmaAck port q.qpn r.psn 0]
      { wakeUp (some 2) s with
        memory := writePieces s.memory ps r.data
        host := modQp s.host q.qpn (fun q => { q with recvPsn := (r.psn + 1) % 2 ^ 24 }) })) ∧
  (∀ (s : State) (port : Nat) (r : RdmaReq) (q : Qp) (x : Session) (ps : List (Nat × Nat × Nat)) (data : List Byte),
    ready s = true → r.icrcOk = true → findQp s.host r.qpn = some q → q.port = port → q.failed = false → r.inSubset = true →
    r.ce = false → r.psn = q.recvPsn → r.psn < 2 ^ 24 → findSession s.sessions q.sid = some x → keyPieces s x r false = .ok ps →
    readPieces s.memory ps = .ok data →
    exec (.rdmaRead port r) s = .next (roceOut port (readReply port q r.psn data) (countDegraded
      { wakeUp (some 2) s with
        host := modQp s.host q.qpn (fun p => { p with recvPsn := (r.psn + max 1 (ceilDiv r.length (pmtuBytes q.pmtu))) % 2 ^ 24 }) } ps)))

/-- The requester's side of RoCE: acknowledgement, timeout with go-back-N, congestion notices and the rate (R306, R308). -/
def Obligations.RoceRequesterComplete : Prop :=
  (∀ (s : State) (qpn : Nat) (q : Qp), findQp s.host qpn = some q → q.inFlight ≠ [] → q.failed = false → q.retries < q.retry →
    exec (.roceAckTimeout qpn) s = .next (resendQp q { s with host := modQp s.host qpn (fun q => { q with retries := q.retries + 1 }) })) ∧
  (∀ (s : State) (q : Qp), (s.host.ports[q.port]?.map (·.paused)).getD [] = [] →
    (resendQp q s).out = s.out ++ q.inFlight.map (fun p => .rdmaWrite q.port q.qpn p.1 p.2.1 p.2.2.1 p.2.2.2)) ∧
  (∀ (s : State) (q : Qp) (p : HostPort), s.host.ports[q.port]? = some p → p.paused ≠ [] → (resendQp q s).out = s.out) ∧
  (∀ (s : State) (qpn psn syn : Nat) (q : Qp), findQp s.host qpn = some q → syn < 0x20 →
    exec (.roceAcknowledge qpn psn syn) s = .next { s with host := modQp s.host qpn (fun q =>
      { q with inFlight := q.inFlight.filter (fun p => !decide ((psn + 2 ^ 24 - p.1) % 2 ^ 24 < 2 ^ 23)), retries := 0 }) }) ∧
  (∀ (s : State) (qpn : Nat) (q : Qp), findQp s.host qpn = some q →
    exec (.cnp qpn) s = .next (let h := modQp s.host qpn (fun q => { q with rate := max 1000 (q.rate / 2) })
      { s with host := modHostPort h q.port (fun p => { p with cnpsReceived := tick64 p.cnpsReceived }) })) ∧
  (∀ (s : State) (qpn : Nat),
    exec (.rateIncreaseTimer qpn) s = .next { s with host := modQp s.host qpn (fun q => { q with rate := min 800000 (q.rate + 40000) }) })

/-- What a host port answers by itself, what it pauses, what it counts, and what its failure ends (R305, R309, R420, R482). -/
def Obligations.HostPortFramesComplete : Prop :=
  (∀ (s : State) (port ip senderIp senderMac : Nat), ready s = true → portUp s port = true → bitAt (portCfg s port) 3 = true →
    ip = bits (portCfg s port) 64 32 →
    exec (.arpRequest port ip senderIp senderMac) s = .next (emit [.arpReply port ip (portMac s port) senderIp senderMac] s)) ∧
  (∀ (s : State) (port ip senderIp senderMac : Nat), ready s = true → portUp s port = true → ip ≠ bits (portCfg s port) 64 32 →
    exec (.arpRequest port ip senderIp senderMac) s = exec (.otherHostPortFrame port) s) ∧
  (∀ (s : State) (port ip senderIp senderMac : Nat), ready s = true → portUp s port = true → (portAddrs s port).contains ip = true →
    exec (.neighbourSolicitation port ip senderIp senderMac) s =
      .next (emit [.arpReply port ip (portMac s port) senderIp senderMac] s)) ∧
  (∀ (s : State) (port srcIp dstIp ident seqNo : Nat) (data : List Byte), ready s = true → portUp s port = true →
    (portAddrs s port).contains dstIp = true →
    exec (.echoRequest port srcIp dstIp ident seqNo data) s = .next (emit [.echoReply port dstIp srcIp ident seqNo data] s)) ∧
  (∀ (s : State) (port : Nat),
    exec (.otherHostPortFrame port) s =
      .next { s with host := modHostPort s.host port (fun p => { p with otherDiscards := tick64 p.otherDiscards }) }) ∧
  (∀ (s : State) (port priority quanta : Nat) (h : HostPort), s.host.ports[port]? = some h → 1 ≤ quanta →
    ∃ t : State, exec (.pfcPause port priority quanta) s = .next t ∧ t.out = s.out ∧ t.memory = s.memory ∧ t.run = s.run ∧
      (∃ p, t.host.ports[port]? = some p ∧ spGet? priority p.paused = some (s.time.now + pauseTime quanta) ∧ p.held = h.held)) ∧
  (∀ (s : State) (port priority : Nat) (h : HostPort) (t : Nat), s.host.ports[port]? = some h → h.paused = [(priority, t)] →
    exec (.pfcPause port priority 0) s =
      .next (emit h.held { s with host := modHostPort s.host port (fun p => { p with paused := [], held := [] }) })) ∧
  (∀ (s : State) (port : Nat),
    exec (.hostPortFailure port) s = .next (endSessions ((s.sessions.live.filter (fun x => x.port == port)).map (·.sid))
      { s with host := modHostPort s.host port (fun p => { p with up := false }) }))

/-! Power (chapter 18). -/

/-- Entry into a low-power state and the ways out of it (R458 to R466). -/
def Obligations.PowerStatesChange : Prop :=
  (∀ s : State, ready s = true → s.power.ps = 0 → moduleIdle s = true → s.power.idleSince + 1000 * s.power.dwellUs ≤ nowNs s →
    selectState s ≠ 0 →
    exec .dwellExpiry s = .next { s with
      power := { s.power with ps := selectState s, lowSince := nowNs s }
      fabric := (lowPorts (selectState s) (List.range 32) s.fabric).1
      out := s.out ++ (lowPorts (selectState s) (List.range 32) s.fabric).2 }) ∧
  (∀ (s : State) (source : Nat), ready s = true → 1 ≤ source → source ≤ 7 → s.power.ps ≠ 0 →
    exec (.wakeEvent source) s = .next { s with
      power := { s.power with ps := 0, wake := source, idleSince := nowNs s, lowNs := s.power.lowNs + (nowNs s - s.power.lowSince) }
      fabric := (widenAll (List.range 32) s.fabric).1
      out := s.out ++ (widenAll (List.range 32) s.fabric).2 }) ∧
  (∀ (s : State) (d : Nat), nextDeparture s = some d → s.power.ps ≠ 0 → d ≤ (nowNs s + 3264) * 65536 →
    exec .caravanWakeLead s = .next { s with
      power := { s.power with ps := 0, wake := 4, idleSince := nowNs s, lowNs := s.power.lowNs + (nowNs s - s.power.lowSince) }
      fabric := (widenAll (List.range 32) s.fabric).1
      out := s.out ++ (widenAll (List.range 32) s.fabric).2 }) ∧
  (∀ (s : State) (t : Nat), s.power.holdEnd = some t → t ≤ nowNs s →
    exec .wakeHoldExpiry s = .next { s with power := { s.power with holdEnd := none, idleSince := nowNs s } })

/-- Cap, heat and the regulators (R470 to R474, R540 to R544, Table 22.3). -/
def Obligations.OperatingPointsChange : Prop :=
  (∀ (s : State) (r : Sensors), ready s = true → effectiveCap s.power.capW r.inletC < r.powerW → r.warnAny = false →
    exec (.powerCapEval r) s = .next (applyPoints { s with power := { s.power with
      powerW := min r.powerW 0xFFFF, capPoint := min s.power.capPoint s.power.hotPoint - 1, underCap := 0, hotHold := false, idleSince := if s.power.hotHold then nowNs s else s.power.idleSince } })) ∧
  (∀ (s : State) (die mv : Nat), die < 2 → s.power.toCompat = none → mv ≤ voltOf s die (dieTarget s.power die) + 5 →
    voltOf s die (dieTarget s.power die) ≤ mv + 5 →
    exec (.voltageSettled die mv) s = .next { s with power := { setDiePoint s.power die (dieTarget s.power die) with
      avsWait := s.power.avsWait.filter (· != die) } }) ∧
  (∀ (s : State) (die : Nat), die < 2 → s.power.compat = true → diePoint s.power die < dieTarget s.power die →
    exec (.avsTimeout die) s = .next (addFault 12 12 (3 * die) 0 0xFFFF (pack [(0, 8, 3 * die)]) 8
      { s with power := { s.power with avsWait := (s.power.avsWait ++ [die]).eraseDups } })) ∧
  (∀ (s : State) (die : Nat), s.power.avsWait.contains die = true →
    exec (.avsRetry die) s = .next (emit [.avsWrite die (voltOf s die (dieTarget s.power die))]
      { s with power := { s.power with avsWait := s.power.avsWait.filter (· != die) } })) ∧
  (∀ (s : State) (die status : Nat), die < 2 → s.power.compat = true →
    exec (.pmbAlert die status) s = .next (addFault 12 12 (3 * die) 0 0xFFFF (pack [(0, 8, 3 * die)]) 8 s)) ∧
  (∀ (s : State) (mv ma : Nat), ready s = true → 48000 ≤ mv →
    exec (.reducedCap mv ma) s = .next { s with boot := { s.boot with inputMv := mv }, power := { s.power with reduced := false } })

/-- A sensor above its warning threshold wakes the module, raises thermal demand and enters a fault whose event number the manual
does not give (log entry 6); its release restores the points (R543, R544). -/
def Obligations.ThermalDemandRisesAndFalls : Prop :=
  (∀ (s : State) (kind index tempC : Nat), ready s = true → warnTemp kind < tempC →
    ∃ t : State, exec (.thermalWarning kind index tempC) s = .next t ∧ t.power.thermal = true ∧ t.power.ps = 0 ∧
      (s.power.ps ≠ 0 → t.power.hotHold = true) ∧ t.free = s.free + 1 ∧ t.faultLog.next = s.faultLog.next + 1 ∧
      (t.faultLog.entries.getLast?).map (fun e => (e.seq, e.event, e.time)) =
        some (s.faultLog.next + 1, Config.free s.free % 256, nowNs s) ∧
      t.memory = s.memory ∧ t.run = s.run ∧ t.sessions = s.sessions) ∧
  (∀ s : State, s.power.thermal = true →
    exec .thermalRelease s = .next { s with power := { s.power with thermal := false, capPoint := min s.power.capPoint s.power.hotPoint, hotPoint := 15, hotHold := false, idleSince := if s.power.hotHold then nowNs s else s.power.idleSince } })

/-! Engines (chapters 5 to 8). A queue entry issues when its wait terms hold; each clause takes the case in which every operand can
be read. -/

/-- `MM`, `MM_TWIN`, `MM_WIN` and `MM_SPLIT` fill the live set, and a drain hands the pass at the head of the engine's order to its
thread and empties the live set (R87, R95, R96, R103 to R107). -/
def Obligations.MatrixCommandsComplete : Prop :=
  PassStarts .mm 1 ∧ PassStarts .mmTwin 2 ∧ PassStarts .mmWin 3 ∧ PassStarts .mmSplit 4 ∧
  (∀ (s : State) (me : Nat) (p : LivePass) (e : Env), (meOf s me).live = some p → envOf s = some e → partFault e (tOp p.entry) = none →
    let out := drainOut s e (meOf s me).ubufs p.entry p
    exec (.drain me) s = .next (setMe me { meOf s me with live := none, shadow := some p }
      (modFlight p.thread (drainInto e me p out) (countEvents out.1 out.2.1 s)))) ∧
  (∀ (s : State) (e : Env) (us : List UBuf) (ent : Nat) (p : LivePass),
    let o := tOp ent
    let els := mergedElems e o (if mOp o = 2 then [p.set0] else p.set0 :: p.set1)
    mTiles o ≠ [] → isDepthTwin e o = false → mLast o = true → mAmaxOnly o = false → isFold e o = false →
    drainOut s e us ent p = (baseIdx e (outDesc e o), storeOut s e (outDesc e o) (tMicro ent) ((finalVals e us o els).filterMap
      (fun v => (targetOf e o v.1 v.2.1).map (fun x => (x, v.2.2)))), []))

/-- `CHAIN` runs the recipe over its streams, stores the outputs and the reductions of its segments, and is done; `LEND` lends the
unit to the attention thread that it names (R122, R124 to R131). -/
def Obligations.VectorAndLendCommandsComplete : Prop :=
  (∀ (s : State) (ve qi i ent : Nat) (e : Env) (ins : List (List FV)),
    headOfClass s 2 ve 0x10 (fun x => x == 0x10) = some (qi, i, ent) → envOf s = some e →
    (∀ j < 3, vIn (tOp ent) j = 0 ∨ gateOf s e (vIn (tOp ent) j) (chainIdxs (tOp ent)) = 0) →
    let o := tOp ent
    let s1 := takeScales [vOut o, vRed o] (issue 2 ve qi i ent s)
    let e1 := envAfter e s1
    allStreams e1 o (chainIdxs o) [0, 1, 2] = .ok ins →
    let stages := chainStages e1.im (vRec o)
    let res := (List.range (vLength o)).map (fun k => runStages e1.im (ins.map (fun l => l.getD k FV.zero)) (k % vSeg o) stages)
    let outs := (chainIdxs o).zip (res.map (fun r => r.getD (stages.length - 1) FV.zero))
    let bad := ((List.range 3).map (fun j => if vIn o j = 0 then 0 else formatErrorsOf e1 (vIn o j) (chainIdxs o))).foldl (· + ·) 0
    let s2 := if vOut o = 0 then countFormat bad s1 else storeTo (tThread ent) e1 (vOut o) (tMicro ent) outs (countFormat bad s1)
    let segs := cutEvery (vSeg o) (vLength o / vSeg o) (res.map (fun r => r.getD (bits (chainHdr e1.im (vRec o)) 36 3) FV.zero))
    let s3 := if vRedOp o = 0 then s2
      else storeTo (tThread ent) e1 (vRed o) (tMicro ent) (segs.zipIdx.map (fun g => (g.2, reduceSeg (vRedOp o) g.1))) s2
    exec (.chain ve) s = .next (doneFlight (tThread ent)
      { s3 with run := { s3.run with vls := spSet ve (lastStrip (vLength o)) s3.run.vls } })) ∧
  (∀ (s : State) (kind unit qi i ent : Nat), headOfClass s kind unit 0x70 (fun _ => true) = some (qi, i, ent) →
    (kind = 1 ∨ kind = 2) →
    exec (.lend kind unit) s = .next (let t := issue kind unit qi i ent s
      { t with run := { t.run with lends := t.run.lends ++ [(kind, unit, lendThread (tOp ent), lendAs (tOp ent))] } }))

/-- The general cores: a thread starts on the lowest free hardware thread, fences retire, waits stall until their condition holds,
`DESC_XLT` translates, an atomic add changes a word or a counter, and `ECALL` with `a7` = 0 offers the thread's commit (R138 to
R143). -/
def Obligations.CoreCommandsComplete : Prop :=
  (∀ (s : State) (gc ht qi i ent : Nat), headOfClass s 3 gc 0x20 (fun _ => true) = some (qi, i, ent) →
    (List.range 8).find? (fun ht => (spGet? (htKey gc ht) s.run.threads).isNone) = some ht →
    exec (.core gc) s = .next (setHt gc ht (startThread ent) (issue 3 gc qi i ent s))) ∧
  (∀ (s : State) (gc ht : Nat) (h : HThread), htRuns s gc ht = some h →
    exec (.ttFence gc ht) s = .next (setHt gc ht (retireIns h) (issued gc ht s))) ∧
  (∀ (s : State) (gc ht rs1 rs2 : Nat) (h : HThread), htRuns s gc ht = some h →
    exec (.ctrWait gc ht rs1 rs2) s = .next (setHt gc ht
      (if xReg h rs2 % 2 ^ 32 ≤ ctrAt s (xReg h rs1) then retireIns h
       else { h with waitCtr := some (xReg h rs1, xReg h rs2 % 2 ^ 32) }) (issued gc ht s))) ∧
  (∀ (s : State) (gc ht c v : Nat) (h : HThread), spGet? (htKey gc ht) s.run.threads = some h → h.waitCtr = some (c, v) →
    s.run.active = true → v ≤ ctrAt s c →
    exec (.ctrWaitEnd gc ht) s = .next (setHt gc ht (retireIns { h with waitCtr := none }) s)) ∧
  (∀ (s : State) (gc ht rs1 rd : Nat) (h : HThread), htRuns s gc ht = some h →
    exec (.carWait gc ht rs1 rd) s = .next (setHt gc ht (match departedAt s (xReg h rs1) with
      | some t => retireIns (setX h rd t)
      | none => { h with waitCar := some (xReg h rs1, rd) }) (issued gc ht s))) ∧
  (∀ (s : State) (gc ht k rd t : Nat) (h : HThread), spGet? (htKey gc ht) s.run.threads = some h → h.waitCar = some (k, rd) →
    s.run.active = true → departedAt s k = some t →
    exec (.carWaitEnd gc ht) s = .next (setHt gc ht (retireIns (setX { h with waitCar := none } rd t)) s)) ∧
  (∀ (s : State) (gc ht rs1 rs2 rd : Nat) (h : HThread) (e : Env), htRuns s gc ht = some h → envOf s = some e →
    exec (.descXlt gc ht rs1 rs2 rd) s = .next (setHt gc ht
      (retireIns (setX h rd ((xltAddr e (xReg h rs1) (xReg h rs2)).getD (2 ^ 64 - 1)))) (issued gc ht s))) ∧
  (∀ (s : State) (gc ht rs1 rs2 rd r : Nat) (h : HThread) (l : List Byte), htRuns s gc ht = some h →
    regionAt (regionsOf s) (xReg h rs1) = some r → xReg h rs1 % 4 = 0 → rgRights r &&& 3 = 3 → rgTier r ≠ 3 →
    vaRead s.memory (regionsOf s) 3 (xReg h rs1) 4 = .ok l →
    exec (.amoaddW gc ht rs1 rs2 rd) s = .next (breakResv (xReg h rs1) 4
      (setHt gc ht (retireIns (setX h rd (ofSigned 64 (toSigned 32 (ofLe l)))))
        { issued gc ht s with memory := vaPut s.memory (regionsOf s) (xReg h rs1) (leBytes 4 (ofLe l + xReg h rs2 % 2 ^ 32)) }))) ∧
  (∀ (s : State) (gc ht rs1 rs2 rd r c : Nat) (h : HThread), htRuns s gc ht = some h →
    regionAt (regionsOf s) (xReg h rs1) = some r → xReg h rs1 % 4 = 0 → rgRights r &&& 3 = 3 → rgTier r = 3 →
    c = (rgPbase r + (xReg h rs1 - rgBase r)) / 4 → c < 65535 → ((spGet? c h.adds).isSome = true ∨ h.adds.length < 4) →
    let mine := spGet 0 c h.adds + xReg h rs2 % 2 ^ 32
    let before := recordedTotal s h.thread c
    let s1 := setHt gc ht (retireIns (setX { h with adds := spSet c mine h.adds } rd 0)) (issued gc ht s)
    exec (.amoaddW gc ht rs1 rs2 rd) s = .next (addCtr c (mine - before)
      { s1 with run := { s1.run with totals := spSet h.thread (spSet c (max mine before) (spGet [] h.thread s.run.totals)) s.run.totals } })) ∧
  (∀ (s : State) (gc ht : Nat) (h : HThread) (e : Env) (i : InFlight), htRuns s gc ht = some h → envOf s = some e →
    xReg h 17 = 0 → findFlight s h.thread = some i →
    exec (.ecall gc ht) s = .next (commitFlight e { i with done := true } (issued gc ht s)))

/-- Attention: a forward and a backward pass over the batch's block of rows, an append, an acceptance, and the flush of a full
cistern into a page (R175, R176, R182, R189, R190, R192, R195). Masses take fresh free values where rows give no sum (log entry 3). -/
def Obligations.AttentionCommandsComplete : Prop :=
  (∀ (s : State) (as qi i ent : Nat) (e : Env) (b : Batch) (p : Pool) (q : KvSeq) (qs : Sp QRow) (w : WalkOut),
    headOfClass s 4 as 0x30 (fun x => x == 0x30) = some (qi, i, ent) → envOf s = some e →
    lendsReady s as (tOp ent) (tThread ent) = true →
    let o := tOp ent
    let t := tThread ent
    let s1 := takeScales [aOut o] (issue 4 as qi i ent s)
    let e1 := envAfter e s1
    batchOf e1 o = .ok b → parentsBad b = false →
    let vs := (validRows o b).filter ((blockRows e1 o b).contains ·)
    let r := p.record
    let st := aStream r o
    let fc := cisHead s1 r b.seq st
    let pages := streamPages q st
    (vs = [] → exec (.attFwd as) s =
      .next (doneFlight t (landFwd t (tMicro ent) e1 o b (lastDim (descOf e1.im (aOut o))) [] s1))) ∧
    (vs ≠ [] → kvTarget s1 o b.seq = some (p, q) → st < pStreams r → lastDim (descOf e1.im (aQ o)) = pD r →
    (aScore o = true → 1024 * q.leaves.length + 1024 ≤ occupied e1 (descOf e1.im (aAux o))) →
    headFault s1 r b.seq [st] = none → readQs e1 r (aQ o) (aQHead o) b.row0 vs = .ok qs →
    walkBlocks e1 r o b.seq fc.1 pages.length b (operT e1 (aQ o)) qs (keyBlocks pages fc.1 fc.2 b.parents)
      { rows := vs.map (fun i => (i, RowState.start (pD r))), recs := [] } = .ok w →
    exec (.attFwd as) s = .next (
      let pgs := walkedPages w
      let masses := if aScore o = true then pgs.zipIdx.map (fun x =>
        (aPool o, x.1.2, massOf w.rows ((w.recs.filter (fun y => y.1 == x.1.1)).map (·.2.2.2)) (s1.free + x.2))) else []
      let s2 := modFlight t (fun i => { i with
        writes := i.writes ++ (if aScore o = true then massWrites (dBase (descOf e1.im (aAux o))) w else [])
        masses := masses }) (addPin t b.seq st (landFwd t (tMicro ent) e1 o b (pD r) w.rows s1))
      doneFlight t { s2 with free := s2.free + pgs.length }))) ∧
  (∀ (s : State) (as qi i ent : Nat) (e : Env) (b : Batch) (p : Pool) (q : KvSeq) (rows : Sp BRow) (dq : Sp (List FV))
    (ad : List (Nat × Nat)),
    headOfClass s 4 as 0x30 (fun x => x == 0x31) = some (qi, i, ent) → envOf s = some e →
    lendsReady s as (tOp ent) (tThread ent) = true →
    let o := tOp ent
    let t := tThread ent
    let s1 := takeScales [aOut o] (issue 4 as qi i ent s)
    let e1 := envAfter e s1
    batchOf e1 o = .ok b → parentsBad b = false →
    let vs := (validRows o b).filter ((blockRows e1 o b).contains ·)
    let r := p.record
    let st := aStream r o
    let fc := cisHead s1 r b.seq st
    let pages := streamPages q st
    (vs = [] → exec (.attBwd as) s = .next (doneFlight t (landBwd t (tMicro ent) e1 o b [] s1))) ∧
    (vs ≠ [] → kvTarget s1 o b.seq = some (p, q) → st < pStreams r → lastDim (descOf e1.im (aQ o)) = pD r → isS4 r = false →
    headFault s1 r b.seq [st] = none → readBRows e1 r o b.row0 vs = .ok rows →
    bwdWalk e1 r o (tMicro ent) b pages.length fc.1 rows (keyBlocks pages fc.1 fc.2 b.parents)
      (vs.map (fun i => (i, List.replicate (pD r) FV.zero))) [] = .ok (dq, ad) →
    exec (.attBwd as) s = .next (doneFlight t (modFlight t (fun i => { i with adds := i.adds ++ ad })
      (addPin t b.seq st (landBwd t (tMicro ent) e1 o b dq s1)))))) ∧
  (∀ (s : State) (as qi i ent : Nat) (e : Env) (b : Batch) (p : Pool) (q : KvSeq) (rows : List (List Byte)),
    headOfClass s 4 as 0x30 (fun x => x == 0x32) = some (qi, i, ent) → envOf s = some e →
    let o := tOp ent
    let t := tThread ent
    let s1 := issue 4 as qi i ent s
    let e1 := envAfter e s1
    batchOf e1 o = .ok b → parentsBad b = false →
    (validRows o b = [] → exec (.attAppend as) s = .next (doneFlight t s1)) ∧
    (validRows o b ≠ [] → kvHeadFault s1 o b false = none → appendCode s1 e1 o b (validRows o b).length = 0 → kvTarget s1 o b.seq = some (p, q) →
      appendRows e1 p.record o ((validRows o b).map (b.row0 + ·)) = .ok rows →
      exec (.attAppend as) s = .next (doneFlight t (modFlight t (fun i => { i with rows := rows }) s1)))) ∧
  (∀ (s : State) (as qi i ent : Nat) (e : Env) (b : Batch) (l : List (Option (Nat × Nat × Nat))),
    headOfClass s 4 as 0x30 (fun x => x == 0x33) = some (qi, i, ent) → envOf s = some e →
    let o := tOp ent
    let t := tThread ent
    let s1 := issue 4 as qi i ent s
    let e1 := envAfter e s1
    batchOf e1 o = .ok b → readAll (rawAt e1 (aAux o)) ((List.range 17).map (17 * b.idx + ·)) = .ok l →
    let v := l.map (fun x => match x with
      | some (_, _, raw) => raw % 256
      | none => 0)
    let acc := (v.drop 1).take (v.headD 0)
    kvHeadFault s1 o b true = none → commitCode s1 o b (v.headD 0) acc = 0 →
    exec (.attCommit as) s = .next (doneFlight t (modFlight t (fun i => { i with accept := acc }) s1))) ∧
  (∀ (s t : State) (seq stream : Nat) (w : KvWait) (q : KvSeq) (p : Pool),
    let s1 := settleFrees s
    s1.kv.waiting.find? (fun w => w.seq == seq && w.stream == stream) = some w → seqOf s1 seq = some q →
    poolOf s1 q.pool = some p → wantsFlush s1 p.record w = true → cisPinned s1 seq stream = false →
    flushCistern seq stream s1 = .ok t →
    exec (.flush seq stream) s = .next (syncTables s1 t))

/-- The update engines: an element or factor pass that waits in flight, or the one at the head of the queue, runs once it is ready;
the repeats of a step that clips run together (R214, R215, R220, R222). An update entry in a step that reduces nothing is done at once. -/
def Obligations.UpdateCommandsComplete : Prop :=
  (∀ c : Nat → Instr, ∀ op : Nat, (c = .elementPass ∧ op = 0x40 ∨ c = .factorPass ∧ op = 0x41) →
    (∀ (s : State) (uu : Nat) (i : InFlight) (e : Env), let s0 := localSums s
      envOf s0 = some e →
      nextPass s0 uu = some i → uOp (tOp i.entry) = op → passReady s0 e i.thread (tOp i.entry) = true →
      runGoes s0 = true → unitHeld s0 5 uu = false →
      exec (c uu) s = .next (runUpd uu e i.thread (tOp i.entry) s0)) ∧
    (∀ (s : State) (uu qi i ent : Nat) (e : Env), let s0 := localSums s
      envOf s0 = some e →
      (∀ j, nextPass s0 uu = some j → uOp (tOp j.entry) ≠ op ∨ passReady s0 e j.thread (tOp j.entry) = false) →
      headOfClass s0 5 uu 0x40 (fun x => x == op) = some (qi, i, ent) →
      let s1 := issue 5 uu qi i ent s0
      let s2 := countGroup (uGroup (tOp ent)) s1
      exec (c uu) s = .next (if reducesStep s0 = false then doneFlight (tThread ent) s1
        else if (nextPass s0 uu).isNone = true ∧ passReady s2 e (tThread ent) (tOp ent) = true then runUpd uu e (tThread ent) (tOp ent) s2 else s2))) ∧
  (∀ (s : State) (uu : Nat) (x : InFlight) (e : Env), let s0 := localSums s
    envOf s0 = some e → lastEntry s0 uu = some x → stepClips s0 e.im = true → s0.update.repeats.contains uu = false →
    runGoes s0 = true → (flightOf s0 5 uu).all (·.done) = true →
    exec (.repeatedElementPasses uu) s = .next (
      let s1 := (passesRun s0 uu).foldl (fun t ent => repeatPass uu ent e t) s0
      { s1 with update := { s1.update with
          repeats := s1.update.repeats ++ [uu]
          redone := if s1.update.repeats.isEmpty then (s1.update.redone + 1) % 2 ^ 32 else s1.update.redone } })) ∧
  (∀ (s : State) (uu t o : Nat) (e : Env) (l : List (Nat × Stored)), uOp o = 0x40 →
    let s1 := takeScales [uPub o] s
    let e1 := envAfter e s1
    elementPassOut s1 e1 o (passClip s1 e1.im false (uGroup o)) = .ok l →
    runUpd uu e t o s = doneFlight t (landAll e1 t l s1)) ∧
  (∀ (s : State) (uu t o : Nat) (e : Env) (l : List (Nat × Stored)), uOp o = 0x41 →
    let s1 := keepFactors e o s
    let e1 := envAfter e s1
    factorPassOut e1 o (factorsNow e1 o) (passClip s1 e1.im false (uGroup o)) = .ok l →
    runUpd uu e t o s = doneFlight t (landAll e1 t l s1))

/-- The stem: an embedding stores its patches' values, and a weight gradient adds to its gradient areas (R166, R167). -/
def Obligations.StemCommandsComplete : Prop :=
  (∀ (s : State) (st qi i ent bad : Nat) (e : Env) (ns em bias : List FV),
    headOfClass s 6 st 0x50 (fun x => x == 0x50) = some (qi, i, ent) → envOf s = some e →
    gateOf s e (sE (tOp ent)) (List.range (elemCount (descOf e.im (sE (tOp ent))))) = 0 →
    (sBias (tOp ent) = 0 ∨ gateOf s e (sBias (tOp ent)) (List.range (elemCount (descOf e.im (sBias (tOp ent))))) = 0) →
    sE (tOp ent) ≠ 0 →
    let o := tOp ent
    let s1 := takeScales [sY o] (issue 6 st qi i ent s)
    let e1 := envAfter e s1
    allSamples e1 o = .ok (ns, bad) → readTensor e1 (sE o) = .ok em →
    (sBias o = 0 ∧ bias = [] ∨ sBias o ≠ 0 ∧ readTensor e1 (sBias o) = .ok bias) →
    exec (.stemEmbed st) s = .next (doneFlight (tThread ent) (storeTo (tThread ent) e1 (sY o) (tMicro ent)
      ((List.range (sPatches o * sD e1 o)).map (fun i => (i, embedElem o (i % sD e1 o) (sD e1 o) ns em bias (i / sD e1 o))))
      (countFormat bad s1)))) ∧
  (∀ (s : State) (st qi i ent bad : Nat) (e : Env) (ns dy : List FV),
    headOfClass s 6 st 0x50 (fun x => x == 0x51) = some (qi, i, ent) → envOf s = some e →
    let o := tOp ent
    let s1 := issue 6 st qi i ent s
    let e1 := envAfter e s1
    allSamples e1 o = .ok (ns, bad) → readTensor e1 (sY o) = .ok dy →
    let dd := sD e1 o
    let sum := fun (f g : Nat → FV) => enc40 ((List.range (sPatches o)).foldl (fun a p => mac40 a (f p) (g p)) FV.zero)
    let de := (List.range (sK o * dd)).filterMap (fun i => (elemAddr e1 (descOf e1.im (sE o)) 0 i).map (fun a =>
      (a, sum (fun p => ns.getD (p * sK o + i / dd) FV.zero) (fun p => dy.getD (p * dd + i % dd) FV.zero))))
    let db := if sBias o = 0 then [] else (List.range dd).filterMap (fun d => (elemAddr e1 (descOf e1.im (sBias o)) 0 d).map (fun a =>
      (a, sum (fun p => dy.getD (p * dd + d) FV.zero) (fun _ => FV.one))))
    exec (.stemWeightGradient st) s = .next (doneFlight (tThread ent)
      (modFlight (tThread ent) (fun f => { f with adds := f.adds ++ de ++ db }) (countFormat bad s1))))

/-- The transfer engines: `COPY`, `SPILL`, `FILL` and `ZERO` leave what they write with their thread, to land at its commit (R264 to
R266). -/
def Obligations.TransferCommandsComplete : Prop :=
  (∀ (s : State) (xe qi i ent : Nat) (e : Env) (st : Stored),
    xferHead s xe 0x60 = some (qi, i, ent) → envOf s = some e →
    let o := tOp ent
    let idxs := List.range (elemCount (descOf e.im (xSrc o)))
    gateOf s e (xSrc o) idxs = 0 →
    let s1 := (if copiesBytes e (xSrc o) (xDst o) then id else takeScales [xDst o]) (issue 7 xe qi i ent s)
    let e1 := envAfter e s1
    copyOut s1 e1 (xSrc o) (xDst o) (xStage o) (storeHalf e1 (xDst o)) (tMicro ent) = .ok st →
    let n := copyErrors e1 (xSrc o) (xDst o)
    exec (.copy xe) s = .next (doneFlight (tThread ent) (modFlight (tThread ent) (landStored (baseIdx e1 (xDst o)) st)
      (countEvents (baseIdx e1 (xDst o)) st (countFormat n s1))))) ∧
  (∀ (s : State) (xe qi i ent : Nat) (w : WgbSlot), xferHead s xe 0x61 = some (qi, i, ent) →
    slotOf s (xMe (tOp ent)) (xSlot (tOp ent)) = some w → w.st = 1 →
    exec (.spill xe) s = .next (doneFlight (tThread ent) (modFlight (tThread ent) (fun f => { f with writes :=
      [{ addr := xSpill (tOp ent), bytes := p40Bytes w.vals }, { addr := xSpill (tOp ent) + 20480, bytes := leBytes 8 (slotWord w) }] })
      (issue 7 xe qi i ent s)))) ∧
  (∀ (s : State) (xe qi i ent : Nat) (e : Env) (w : WgbSlot) (l : List Byte), xferHead s xe 0x62 = some (qi, i, ent) →
    envOf s = some e → slotOf s (xMe (tOp ent)) (xSlot (tOp ent)) = some w → w.st = 5 →
    vaRead e.mem e.im.regions 1 (xSpill (tOp ent)) 20488 = .ok l →
    exec (.fill xe) s = .next (doneFlight (tThread ent) (modFlight (tThread ent) (fun f => { f with rows := [l] })
      (issue 7 xe qi i ent s)))) ∧
  (∀ (s : State) (xe qi i ent : Nat) (e : Env) (ws : List Write), xferHead s xe 0x63 = some (qi, i, ent) → envOf s = some e →
    scatterTwice e (xDst (tOp ent)) = false → zeroOut e (xDst (tOp ent)) (storeHalf e (xDst (tOp ent))) = .ok ws →
    exec (.zero xe) s = .next (doneFlight (tThread ent) (modFlight (tThread ent) (fun f => { f with writes := f.writes ++ ws })
      (issue 7 xe qi i ent s))))

/-! The run (chapters 5 and 12). -/

/-- A thread's commit lands everything that it produced; a run whose queues all wait on terms that nothing due can meet fails with
0x0403 (R119, R123, R484). -/
def Obligations.CommitAndDeadlockComplete : Prop :=
  (∀ (s : State) (thread : Nat) (e : Env) (i : InFlight), let s0 := localSums s
    envOf s0 = some e → findFlight s0 thread = some i → mayCommit s0 e.im i = true → i.fail = 0 →
    let s1 := if i.kind = 4 then landCistern i e s0 else s0
    s1.run.active = true → s1.kv.waiting.all (fun w => w.thread != i.thread) = true →
    i.wgb.all (fun a => wgbMeets s1 e.im a == 0) = true →
    exec (.tileThreadCommit thread) s = .next (landThread (envAfter e s1) i s1)) ∧
  (∀ (s : State) (e : Env), envOf s = some e → runGoes s = true → s.run.inflight = [] → openQueues s e.im ≠ [] →
    (∀ q ∈ openQueues s e.im, ∃ ent, q.2 = some ent ∧ waitsMet s q.1.kind ent = false) → s.reductions.past = [] →
    (∀ k < e.im.car.entries.length, hasDeparted s k s.run.step = true) → receptionDue s e = false →
    exec .deadlockDetected s = .next (failRun 0x0403 ((openQueues s e.im).foldl (fun t q => match q.2 with
      | none => t
      | some ent => addThreadFault q.1.kind q.1.unit (tThread ent) 0x0403 1 (unmetCtr s ent) 0 t) s)))

/-- The run's progress: its start at the start time, the caravan's departures in order, the step boundary, and the end of the last
step (R121, R197, R311, R314, R315, R427). -/
def Obligations.RunProgressComplete : Prop :=
  (∀ (s : State) (sid h : Nat) (o : Op), findOp s.sessions sid h = some o → o.opcode = 0x0403 → o.state = 0 →
    s.run.active = true → s.run.begun = false → s.run.sid = sid → s.run.handle = h → s.run.origin ≤ s.time.now →
    let s0 := { s with sessions := modOp s.sessions sid h (fun o => { o with queuedAwake := awakeNs s - (nowNs s - s.run.origin >>> 16) }) }
    exec (.runStartTime sid h) s = .next (signalLinks (leaveNow (applyCaravanOps
      { beginOp sid h s0 with run := { s.run with begun := true, lastBegun := s.run.step } })))) ∧
  (∀ (s : State) (k st count origin : Nat) (im : Image) (es : List Nat), s.image = some im → s.run.active = true →
    s.run.begun = true →
    (carSteps s im).find? (fun c => decide (k < c.2.2.2.length) && !hasDeparted s k c.1) = some (st, count, origin, es) →
    let e := es.getD k 0
    let d := origin + carOffset e
    (∀ x ∈ es.zipIdx, (carOffset x.1 < carOffset e ∨ carOffset x.1 = carOffset e ∧ x.2 < k) → hasDeparted s x.2 st = true) →
    d ≤ s.time.now → st ≠ (s.run.step + 2) % 2 ^ 32 →
    let w := wakeUp (some 4) s
    let s1 := prunePast { w with reductions := { w.reductions with departures := w.reductions.departures ++ [(k, st, d >>> 16)] } }
    (firesOn s count e = false → exec (.caravanDeparture k) s = .next s1) ∧
    (firesOn s count e = true → st = (s.run.step + 1) % 2 ^ 32 → exec (.caravanDeparture k) s = .next
      { s1 with reductions := { s1.reductions with early := s1.reductions.early ++ [k] } }) ∧
    (firesOn s count e = true → st ≠ (s.run.step + 1) % 2 ^ 32 →
      exec (.caravanDeparture k) s = .next (carAction e st (d >>> 16) s1))) ∧
  (∀ (s : State) (e : Env), envOf s = some e → boundaryDue s = true → shortSlots s e.im = [] →
    let s1 := kvBoundary s
    let s2 := sendBwdAck s1
    let s3 := recordStep (if reducesStep s2 = true ∧ hasRecordColl e.im = false then exchangeLocal s2 else s2)
    s1.run.active = true → s2.run.active = true → s3.run.active = true →
    (retiresNow s3 = true →
      exec .stepBoundary s = .next (retireNotice (applySets { s3 with run := freshRun e.im s3.run }))) ∧
    (retiresNow s3 = false → wasLast s3 = true →
      let l := leaveStep e (retireUnsent s3)
      exec .stepBoundary s = .next (applySets { l with run := freshRun e.im { l.run with finishing := true } })) ∧
    (retiresNow s3 = false → wasLast s3 = false → exec .stepBoundary s = .next (nextStep e (retireUnsent s3)))) ∧
  (∀ (s : State) (sid h : Nat), s.run.active = true → s.run.finishing = true → s.run.sid = sid → s.run.handle = h →
    s.run.retireAt = none → stepSettled s = true →
    exec (.runComplete sid h) s = .next (doneRun (if reducesStep s = true then nextVersions s else s)))

/-! The fabric's collectives (chapters 12 and 14). -/

/-- Reductions: leaves drain, a module's partial departs when its leaves are in, grace stands in for what is missing, frames land,
replays are answered and acknowledgements settle (R207, R318, R320, R323, R326, R327, R330 to R334). -/
def Obligations.ReductionCommandsComplete : Prop :=
  (∀ (s : State) (me slot coll tile : Nat) (im : Image) (w : WgbSlot) (a b : ChunkRt), s.image = some im →
    slotOf s me slot = some w → slotTile im me slot = some (coll, tile) → w.st = 2 →
    let st := leafStep s coll (2 * tile) me
    leafStep s coll (2 * tile + 1) me = st → findChunk s coll (2 * tile) st = some a → findChunk s coll (2 * tile + 1) st = some b →
    a.launched = true → a.done = false → b.launched = true → b.done = false →
    exec (.wgbDrain me slot) s = .next (
      modChunk coll (2 * tile + 1) st (fun h => if h.leaves.contains me then h else { h with leaves := h.leaves ++ [me] })
        (modChunk coll (2 * tile) st (fun h => if h.leaves.contains me then h else { h with leaves := h.leaves ++ [me] })
          (drainSlot me slot s)))) ∧
  (∀ (s : State) (coll chunk leaf : Nat) (e : Env) (ch : ChunkRt), envOf s = some e →
    let st := leafStep s coll chunk leaf
    findChunk s coll chunk st = some ch → ch.done = true → ch.used.contains leaf = false → ch.late.contains leaf = false →
    (leavesOf e coll chunk).contains leaf = true → leafReady s e coll chunk st leaf = true → coKind (collOf e.im coll) ≠ 0 →
    leafFault e coll chunk leaf = none → (coDefers (collOf e.im coll) = true → ch.carry = none ∨ ch.acked = true) →
    let s1 := modChunk coll chunk st (fun h => { h with late := h.late ++ [leaf] }) s
    exec (.stragglerLeaf coll chunk leaf) s = .next (if coDefers (collOf e.im coll) = true
      then putDefer coll chunk (deferLeaf coll chunk leaf (leafVals s e coll chunk leaf) s1) else warnRun 0x0501 s1)) ∧
  (∀ (s : State) (coll chunk leaf sl : Nat) (e : Env) (ch : ChunkRt) (w : WgbSlot), envOf s = some e →
    let st := leafStep s coll chunk leaf
    findChunk s coll chunk st = some ch → ch.done = true → ch.used.contains leaf = false → ch.late.contains leaf = false →
    (leavesOf e coll chunk).contains leaf = true → leafReady s e coll chunk st leaf = true → coKind (collOf e.im coll) = 0 →
    (coDefers (collOf e.im coll) = true → ch.carry = none ∨ ch.acked = true) →
    leafSlot e.im coll chunk leaf = some sl → slotOf s leaf sl = some w →
    let s0 := if w.st = 2 then drainLeaf coll (chunk / 2) st leaf sl s else s
    let s1 := settleSlot e.im coll chunk leaf (modChunk coll chunk st (fun h => { h with late := h.late ++ [leaf] }) s0)
    exec (.stragglerLeaf coll chunk leaf) s = .next (if coDefers (collOf e.im coll) = true
      then putDefer coll chunk (deferLeaf coll chunk leaf (leafVals s0 e coll chunk leaf) s1) else warnRun 0x0501 s1)) ∧
  (∀ (s : State) (coll chunk : Nat) (e : Env) (ch : ChunkRt), envOf s = some e →
    let st := chunkFor s coll chunk (fun c => c.launched && !c.done)
    findChunk s coll chunk st = some ch → ch.launched = true → ch.done = false →
    let ls := if coKind (collOf e.im coll) = 0 then ch.leaves else readyLeaves s e ch
    (∀ l ∈ leavesOf e coll chunk, ls.contains l = true) →
    exec (.modulePartial coll chunk) s = .next (sendPartial coll chunk st ls s)) ∧
  (∀ (s : State) (coll chunk d : Nat) (im : Image) (ch : ChunkRt), s.image = some im →
    let st := chunkFor s coll chunk (fun c => c.done && !c.formed)
    findChunk s coll chunk st = some ch → (findColl s coll st).bind (·.deadline) = some d → ch.formed = false → ch.done = true →
    d + 65536 * coGrace (collOf im coll) ≤ s.time.now →
    exec (.graceSubstitution coll chunk) s = .next (substitute coll chunk st (missingNodes s im ch) s)) ∧
  (∀ (s : State) (f : Frame) (im : Image) (src : Nat) (ch : ChunkRt), f.ftype = 1 → s.image = some im → s.run.active = true →
    let coll := tsp f 128 12
    let chunk := tsp f 140 24
    let step := stepOf2 s (tsp f 166 2)
    let k := tsp f 168 5
    let lo := nodeLo src k
    posOf (membersOf im coll) f.src = some src → frameOver s coll chunk step = false →
    let s0 := ensureChunk coll chunk step s
    let s1 := if f.redo = true then redoChunk coll chunk step s0 else s0
    findChunk s1 coll chunk step = some ch → (ch.redo = true → f.redo = true) → ch.acked = false → ch.landed = false →
    let s2 := takeFrame f s1
    (coQ16 (collOf im coll) = true → tsp f 165 1 = 0 → ch.formed = false → partAt ch.parts lo k = none →
      exec (.reduceFrame f) s = .next (advance coll chunk step (modChunk coll chunk step
        (fun h => { h with parts := h.parts ++ [(lo, k, frameQ16 f)] }) s2))) ∧
    (coQ16 (collOf im coll) = true → tsp f 165 1 = 1 → ch.rplFormed = false → partAt ch.rplParts lo k = none →
      exec (.reduceFrame f) s = .next (advanceReplay coll chunk step (modChunk coll chunk step
        (fun h => { h with rplParts := h.rplParts ++ [(lo, k, frameQ16 f)] }) s2))) ∧
    (coQ16 (collOf im coll) = false → tsp f 165 1 = 0 → ch.formed = false → partAt ch.parts lo k = none →
      let part := tsp f 164 1
      let vals := cutNats 5 1024 f.payload
      (ch.halves.find? (fun x => x.1 == lo && x.2.1 == k) = none → exec (.reduceFrame f) s = .next
        (modChunk coll chunk step (fun h => { h with halves := h.halves ++ [(lo, k, part, vals)] }) s2)) ∧
      (∀ x, ch.halves.find? (fun x => x.1 == lo && x.2.1 == k) = some x → x.2.2.1 ≠ part →
        let all := if part = 1 then x.2.2.2 ++ vals else vals ++ x.2.2.2
        let p : Partial := { q16 := false, vals := all, exps := [], flags := [], maxe := tsp f 173 8, ssq := tsp f 181 40,
                             ncont := tsp f 221 21, nstale := tsp f 242 14 }
        exec (.reduceFrame f) s = .next (advance coll chunk step (modChunk coll chunk step (fun h =>
          { h with parts := h.parts ++ [(lo, k, p)], halves := h.halves.filter (fun y => !(y.1 == lo && y.2.1 == k)) }) s2))))) ∧
  (∀ (s : State) (f : Frame), f.ftype = 4 →
    let coll := tsp f 128 12
    let chunk := tsp f 140 24
    let step := stepOf2 s (tsp f 164 2)
    let s1 := redoFrame f coll chunk step s
    oldFrame f coll chunk step s1 = false →
    exec (.replayReq f) s = .next (answerReplay coll chunk step (tsp f 166 8) (tsp f 174 32) (takeFrame f s1))) ∧
  (∀ (s : State) (f : Frame) (ch : ChunkRt), f.ftype = 2 → s.image.isSome = true →
    let coll := tsp f 128 12
    let chunk := tsp f 140 24
    let step := stepOf2 s (tsp f 165 2)
    let part := tsp f 164 1
    frameOver s coll chunk step = false →
    let s1 := redoFrame f coll chunk step (ensureChunk coll chunk step s)
    oldFrame f coll chunk step s1 = false → findChunk s1 coll chunk step = some ch → ch.landed = false → spGet? part ch.delivered = none →
    let d := spSet part f.payload ch.delivered
    let s2 := modChunk coll chunk step (fun h => { h with delivered := d }) (takeFrame f s1)
    exec (.deliver f) s = .next (match spGet? 0 d, spGet? 1 d with
      | some a, some b => landChunk 18 coll chunk step (cutNats 5 1024 a ++ cutNats 5 1024 b) (ofLe (b.drop 5120)) s2
      | _, _ => s2)) ∧
  (∀ (s : State) (f : Frame), f.ftype = 5 →
    exec (.chunkAck f) s = .next ((List.range (tsp f 166 16)).foldl
      (fun t i => ackOne f (tsp f 128 12) (tsp f 140 24 + i) (stepOf2 s (tsp f 164 2)) t) (takeFrame f s)))

/-- Record collectives: a module's items leave when its sums are ready, and another's frames are taken in once (R336, R337). -/
def Obligations.RecordCommandsComplete : Prop :=
  (∀ (s : State) (coll : Nat) (e : Env) (c : CollRt), envOf s = some e →
    s.reductions.colls.find? (fun c => c.coll == coll && c.launched && !c.itemsSent) = some c →
    coKind (collOf e.im coll) = 2 → s.run.active = true → sumsReady s e c.step = true →
    (stepOver s c.step = true ∨ amaxReady s e.im = true) → sumsFault s e = none → historyFault e (managedTensors e.im) = none →
    let items := sumItems s e ++ amaxItems e
    let s1 := modColl coll c.step (fun c =>
      { c with itemsSent := true, snap := scaleSnap e, items := c.items ++ items.map (tagItem e.id) }) s
    exec (.recordItemsSend coll) s = .next (finishItems coll c.step
      (sendOrFail (recordFrames s1 e.im coll c.step (items.length + 1) 0 items) s1))) ∧
  (∀ (s : State) (f : Frame) (im : Image) (c : CollRt), f.ftype = 7 → bits f.tspec 0 8 = 1 → s.image = some im →
    s.run.active = true →
    let coll := tsp f 136 12
    let step := stepOf2 s (tsp f 148 2)
    coKind (collOf im coll) = 2 → (membersOf im coll).contains f.src = true →
    let s1 := ensureColl coll step s
    findColl s1 coll step = some c → c.frames.any (fun x => x.1 == f.src && x.2.1 == tsp f 151 16) = false →
    let good := (frameItems f).filter (fun x => bits x 0 8 == 1 || bits x 0 8 == 2)
    good.length = (frameItems f).length →
    exec (.normRec f) s = .next (finishItems coll step (takeFrame f (modColl coll step (fun c => { c with
      frames := c.frames ++ [(f.src, tsp f 151 16, tsp f 150 1 == 1)], items := c.items ++ good.map (tagItem f.src) }) s1))))

/-- Publication, reader acknowledgements and checkpoints: a shard that may leave is sent and becomes current at its owner, a frame
lands once, a step's backward acknowledgement leaves once, and a pair of a checkpoint in progress is copied (R339 to R342, R381). -/
def Obligations.PublicationAndCheckpointCommandsComplete : Prop :=
  (∀ (s : State) (pub shard sh : Nat) (e : Env) (v : ShardVer), envOf s = some e → findVer s pub shard = some v →
    v.departed = some sh → publishable s e v = true →
    (∀ u ∈ s.versions.shards, u.pub = pub → u.shard < shard → publishable s e u = false) →
    pubFault e pub (v.pver % 2) sh = none →
    let bytes := readShard e (pubDesc e pub) (v.pver % 2) sh ++ streamEnd e pub sh (v.pver % 2)
    let s1 := modVer pub shard (fun v => { v with sent := true }) s
    let s2 := if v.cur = v.pver then s1 else makeCurrent pub shard v.pver (landStream pub shard v.pver 0 sh bytes s1)
    let l := cutStream (bytes.length + 1) 0 bytes
    exec (.shardPublication pub shard) s = .next (if isWhole e pub = true ∨ speaker s sh ≠ e.id then s2
      else sendOrFail (l.zipIdx.map (fun f => (some (dFmt (pubDesc e pub)), mkFrame s.fabric 3 true (puMcast (pubOf e.im pub)) (shard % 256)
        [(128, 12, pub), (140, 24, shard), (164, 32, v.pver), (196, 32, f.1.1), (228, 1, b2n (f.2 + 1 == l.length))] f.1.2))) s2)) ∧
  (∀ (s : State) (f : Frame) (e : Env) (v : ShardVer) (sh : Nat), f.ftype = 3 → envOf s = some e →
    let pub := tsp f 128 12
    let shard := tsp f 140 24
    let pver := tsp f 164 32
    let off := tsp f 196 32
    findVer s pub shard = some v → (pubShards e pub)[shard]? = some sh →
    0 < (pver + 2 ^ 32 - v.cur) % 2 ^ 32 → (pver + 2 ^ 32 - v.cur) % 2 ^ 32 < 2 ^ 31 →
    (v.rxVer = pver → v.frames.all (fun x => x.1 != off) = true) →
    let s1 := modVer pub shard (fun v =>
      { v with rxVer := pver, frames := (if v.rxVer = pver then v.frames else []) ++ [(off, f.payload.length)],
               total := if tsp f 228 1 = 1 then some (256 * off + f.payload.length) else (if v.rxVer = pver then v.total else none) })
      (takeFrame f s)
    let s2 := landStream pub shard pver (256 * off) sh f.payload s1
    ∀ u : ShardVer, findVer s2 pub shard = some u →
      exec (.publish f) s = .next (if u.total = some ((u.frames.map (·.2)).foldl (· + ·) 0) then makeCurrent pub shard pver s2 else s2)) ∧
  (∀ (s : State) (im : Image), s.image = some im → s.run.active = true → s.run.begun = true → bwdCtr im ≠ 0xFFFF →
    waitMet s (bwdCtr im) (bwdValue im) = true → s.versions.ackSent = false →
    exec .bwdAckSend s = .next (sendOrFail [(none, mkFrame s.fabric 7 true (ackMcast im) 0 [(128, 8, 2), (136, 32, s.run.step)] [])]
      (noteAck (myId s.fabric) s.run.step { s with versions := { s.versions with ackSent := true } }))) ∧
  (∀ (s : State) (f : Frame), f.ftype = 7 → bits f.tspec 0 8 = 2 →
    exec (.bwdAck f) s = .next (noteAck f.src (tsp f 136 32) (takeFrame f s))) ∧
  (∀ (s : State) (pair l st v x : Nat) (e : Env) (ws : List Write), envOf s = some e → s.ckpt.active = some (l, pair, st, v) →
    (e.im.car.ckpts.getD l [])[pair]? = some x → sourceReady s e.im (bits x 0 24) st = true →
    copyPair e s.reductions.ring (bits x 0 24) (bits x 24 24) v = .ok ws →
    exec (.checkpointCopy pair) s = .next (syncScale (bits x 24 24) { s with
      ckpt := { s.ckpt with active := some (l, pair + 1, st, v) }
      memory := applyWrites e ws s.memory })) ∧
  (∀ (s : State) (l p st v : Nat) (im : Image), s.image = some im → s.ckpt.active = some (l, p, st, v) →
    (im.car.ckpts.getD l []).length ≤ p →
    exec .checkpointComplete s = .next { s with ckpt :=
      { completed := tick64 s.ckpt.completed, lastStep := st, waiting := s.ckpt.waiting.drop 1,
        active := s.ckpt.waiting.head?.map (fun w => (w.1, 0, w.2.1, w.2.2)) } })

/-- Stage links and re-cuts: a tensor is sent in bulk frames once a step, a frame that is new lands in the receiving buffer or in
staging, and a list whose tiles are all in is copied into its tensors (R367 to R372). -/
def Obligations.StageLinkAndRecutCommandsComplete : Prop :=
  (∀ (s : State) (link l : Nat) (e : Env) (bs : List Byte), envOf s = some e → e.im.links[link]? = some l → liRecv l = false →
    s.run.active = true → s.run.begun = true → s.mapping.linkSent.contains (link, s.run.step) = false →
    waitMet s (liCtr l) (liValue l) = true →
    let d := descOf e.im (liLocal l)
    vaRead s.memory e.im.regions 0 (dBase d + halfOff e d (curHalf e (liLocal l))) (occupied e d) = .ok bs →
    rangesFault s.memory e.im.regions (scaleRanges d) = none →
    exec (.stageLinkSend link) s = .next (sendOrFail (bulkFrames s 0 (if liCmp l = true then some (dFmt d) else none) (liPeer l)
      (liDescPeer l) link s.run.step (link % 256) (scalePart e d ++ bs))
      { s with mapping := { s.mapping with linkSent := s.mapping.linkSent ++ [(link, s.run.step)] } })) ∧
  (∀ (s : State) (f : Frame) (e : Env) (i l : Nat), f.ftype = 6 → bits f.tspec 0 4 = 0 → envOf s = some e → s.run.active = true →
    linkEntryFor e.im f = some (i, l) →
    let step := tsp f 224 32
    let off := tsp f 160 40
    (step = s.run.step ∨ step = (s.run.step + 1) % 2 ^ 32) → streamHas s.mapping.links i step off = false →
    let buf := if step % 2 = 0 then liLocal l else liOdd l
    let d := descOf e.im buf
    (fmtScaled (dFmt d) = true → badOffsets (windowOf (256 * off) f.payload 256 (256 + tileCount d)) = false) →
    rangeFault e 18 (linkRanges e d (256 * off) f.payload) = none →
    let links := addFrame i step off f.payload.length (tsp f 133 1 == 1) s.mapping.links
    let s1 := syncScale buf
      (takeFrame f { s with memory := landLink e d (256 * off) f.payload s.memory, mapping := { s.mapping with links := links } })
    exec (.stageLinkFrame f) s = .next (if step = s.run.step ∧ streamWhole links i step = true then addCtr (liCtr l) 1 s1 else s1)) ∧
  (∀ (s : State) (list st : Nat) (im : Image), s.image = some im →
    firstStep s.mapping.recutDep s.mapping.recutSent list = some st → s.run.active = true →
    (stepOver s st = true ∨ st = s.run.step ∧ s.run.begun = true ∧ (rcPhase (recutOf im list).head = 1 ∨
      waitMet s (rcDoneCtr (recutOf im list).head) (rcDoneValue (recutOf im list).head) = true)) →
    moveLost s im (recutOf im list) = false →
    exec (.recutMovesSend list) s = .next (copyHeldTiles list (sendMoves list st (fun _ => true)
      { s with mapping := { s.mapping with recutSent := s.mapping.recutSent ++ [(list, st)] } }))) ∧
  (∀ (s : State) (f : Frame) (e : Env) (list m i before tilesBefore : Nat), f.ftype = 6 → bits f.tspec 0 4 = 2 →
    envOf s = some e → s.run.active = true →
    let step := tsp f 224 32
    let off := tsp f 160 40
    (step = s.run.step ∨ step = (s.run.step + 1) % 2 ^ 32) → moveFor s e.im f = some (list, m, i, before, tilesBefore) →
    streamHas s.mapping.moves (moveKey list i) step off = false →
    let r := recutOf e.im list
    let n := mvTiles m * tileBytes (rtDescs e.im (r.tensors.getD (mvTensor m) 0)).2
    let st := rcStage r.head step
    let w1 := windowOf (256 * off) f.payload 0 n
    let w2 := windowOf (256 * off) f.payload n (n + mvTiles m)
    badOffsets w2 = false →
    rangeFault e 18 (windowRange (st + before) w1 ++ windowRange (st + incomingBytes e.im e.id r + tilesBefore) w2) = none →
    let m1 := putWindow e (st + before) w1 s.memory
    let m2 := putWindow e (st + incomingBytes e.im e.id r + tilesBefore) w2 m1
    let mv := addFrame (moveKey list i) step off f.payload.length (tsp f 133 1 == 1) s.mapping.moves
    exec (.recutMoveFrame f) s = .next (takeFrame f { s with memory := m2, mapping := { s.mapping with moves := mv } })) ∧
  (∀ (s : State) (list st : Nat) (e : Env), envOf s = some e →
    firstStep s.mapping.recutSent s.mapping.recutDone list = some st → s.run.active = true →
    let r := recutOf e.im list
    let ins := incoming e.im e.id r
    ins.all (fun m => streamWhole s.mapping.moves (moveKey list m.2.1) st) = true →
    let base := rcStage r.head st
    let exps := base + incomingBytes e.im e.id r
    stagedFault e r base ins = none →
    let mem := ins.foldl (fun mm m =>
      let d := (rtDescs e.im (r.tensors.getD (mvTensor m.1) 0)).2
      (mvRange m.1).zipIdx.foldl (fun mm t => putTile e d t.1 (vaPeek e.mem e.im.regions (base + m.2.2.1 + t.2 * tileBytes d) (tileBytes d))
        (peekN e (exps + m.2.2.2 + t.2) 1) mm) mm) s.memory
    exec (.recutStageCopy list) s = .next (addCtr (rcMoveCtr r.head) 1
      { s with memory := mem, mapping := { s.mapping with recutDone := s.mapping.recutDone ++ [(list, st)] } }))

/-- The federation: a module sends its slice's change to the slice's lead, the lead combines what has come, results are taken in and
acknowledged, and what stays unanswered is sent again or given up with a warning (R344 to R346). -/
def Obligations.FederationCommandsComplete : Prop :=
  (∀ (s : State) (r f : Nat) (e : Env) (x : Slice), envOf s = some e → findSlice s r f = some x →
    let rg := rangeOf e.im r
    let site := fedSite e.im
    let lead := leadOf e.im f
    let v := deltaVals e rg f x.ver
    s.run.active = true → x.done = false → x.combined = false → x.sent = none → x.deltas.any (fun d => d.1 == site) = false →
    frOwner0 rg site = e.id → sliceWritten s e.im rg f x.ver = true → sliceFault e rg f x.ver = none →
    exec (.federationDeltaSend r f) s = .next (if lead = site then modSlice r f (fun y => { y with deltas := y.deltas ++ [(site, v)] }) s
      else fedSend e.im 0 lead (frOwner0 rg lead) r f (p40Bytes v)
        (modSlice r f (fun y => { y with sent := some (0, v), resend := [(lead, frOwner0 rg lead)] }) s))) ∧
  (∀ (s : State) (port : Nat) (g : FedDgram) (im : Image) (r : Nat) (x : Slice), s.image = some im → fedGood s im 0 g = true →
    fedRange im g = some r →
    let s1 := fedClock im g s
    let f := bits g.header 88 40
    let site := bits g.header 16 4
    let rg := rangeOf im r
    findSlice s1 r f = some x → leadOf im f = fedSite im → frOwner0 rg (fedSite im) = myId s.fabric →
    x.deltas.any (fun d => d.1 == site) = false → x.combined = false → x.done = false →
    s.time.now < x.departed + fedWait im →
    exec (.delta port g) s = .next (fedSend im 2 site (frOwner0 rg site) r f []
      (modSlice r f (fun y => { y with deltas := y.deltas ++ [(site, fedVals g)] }) s1))) ∧
  (∀ (s : State) (r f : Nat) (e : Env) (x : Slice), envOf s = some e → findSlice s r f = some x →
    let rg := rangeOf e.im r
    let site := fedSite e.im
    let vals := combineVals e rg f x
    let dests := ((List.range (fedSites e.im)).flatMap (fun j => (if j = site then [] else [(j, frOwner0 rg j)]) ++ [(j, frOwner1 rg j)])).filter
      (fun d => d.2 != 0xFFFF)
    s.run.active = true → x.done = false → x.combined = false → leadOf e.im f = site → frOwner0 rg site = e.id →
    x.deltas.any (fun d => d.1 == site) = true →
    ((∀ j < fedSites e.im, frOwner0 rg j ≠ 0xFFFF → x.deltas.any (fun d => d.1 == j) = true) ∨ x.departed + fedWait e.im ≤ s.time.now) →
    sliceFault e rg f x.ver = none →
    exec (.federationCombine r f) s = .next (sendAll e.im r f (takeResult rg f x.ver vals (modSlice r f (fun y =>
      { y with combined := true, done := true, late := y.late.filter (fun l => !y.deltas.any (fun d => d.1 == l.1)),
               sent := some (1, vals.map enc40), resend := dests }) s)))) ∧
  (∀ (s : State) (port : Nat) (g : FedDgram) (e : Env) (r : Nat) (x : Slice), envOf s = some e → fedGood s e.im 1 g = true →
    fedRange e.im g = some r →
    let s1 := fedClock e.im g s
    let f := bits g.header 88 40
    let site := bits g.header 16 4
    let rg := rangeOf e.im r
    findSlice s1 r f = some x → site = leadOf e.im f → ¬ (leadOf e.im f = fedSite e.im ∧ frOwner0 rg site = e.id) →
    x.combined = false → x.done = false → sliceWritten s e.im rg f x.ver = true →
    exec (.result port g) s = .next (fedSend e.im 2 site (frOwner0 rg site) r f []
      (takeResult rg f x.ver ((fedVals g).map dec40) (modSlice r f (fun y => { y with combined := true, done := true, resend := [] }) s1)))) ∧
  (∀ (s : State) (r f : Nat) (im : Image) (x : Slice), s.image = some im → findSlice s r f = some x → x.done = false →
    s.run.active = true → x.departed + 2 * fedWait im ≤ s.time.now →
    exec (.federationResultTimeout r f) s = .next (warnRun 0x0507 (modSlice r f (fun y => { y with done := true, resend := [] }) s))) ∧
  (∀ (s : State) (r f : Nat) (im : Image) (x : Slice), s.image = some im → findSlice s r f = some x →
    s.time.now < x.departed + 2 * fedWait im →
    exec (.federationResendTimer r f) s = .next (sendAll im r f s)) ∧
  (∀ (s : State) (port : Nat) (g : FedDgram) (im : Image) (r : Nat) (a : Nat × Nat × Nat × Nat), s.image = some im →
    fedGood s im 2 g = true → fedRange im g = some r →
    s.federation.addrs.find? (fun a => a.1 == bits g.header 16 4 && a.2.2.2 == g.srcIp) = some a →
    exec (.ack port g) s = .next (modSlice r (bits g.header 88 40) (fun y =>
      { y with resend := y.resend.filter (· != (a.1, a.2.1)) }) (fedClock im g s)))

/-! Links (chapter 11 and sections 13 and 18). -/

/-- Frames and `LINK` frames of a port in service: the frame that is next in sequence is taken by the switch, a repeat only returns
credit, a frame out of sequence or bad asks for a resend once; a retry request or a timeout goes back; slot reports, releases, widths
and quiet requests change the port; timers send what is due (R282 to R286, R291, R357, R358, R467, R468). -/
def Obligations.LinkCommandsComplete : Prop :=
  (∀ (s : State) (port : Nat) (f : Frame) (p : Port), getPort s.fabric port = some p → linkUp s port = true → f.good = true →
    f.etype = gftEtype s.fabric → f.etype ≠ 0x88F7 → f.ftype ≠ 0 →
    (f.lseq = p.rxSeq → p.rxSeq < 4096 → exec (.frameForward port f) s = .next (afterReceipt port (switchFrame port f
      (onPort port (fun p => { applyLink f p with rxSeq := (p.rxSeq + 1) % 4096, rxAny := true, retrySent := false, lackDue := true }) s)))) ∧
    (0 < (p.rxSeq + 4096 - f.lseq) % 4096 → (p.rxSeq + 4096 - f.lseq) % 4096 ≤ 2047 → p.rxAny = true →
      exec (.frameForward port f) s = .next (onFabric (returnDue 256) (oweFor port f (onPort port (applyAck f) s)))) ∧
    (2047 < (p.rxSeq + 4096 - f.lseq) % 4096 → exec (.frameForward port f) s = .next (badFrame port false f s))) ∧
  (∀ (s : State) (port : Nat) (f : Frame), linkUp s port = true → f.ftype = 0 → f.lenOk = true → f.payload = [] →
    newerFrame f = false → (tsp f 128 8 = 0 ∨ 6 < tsp f 128 8) →
    exec (.link port f) s = .next (afterReceipt port (onPort port (applyLink f) s))) ∧
  (∀ (s : State) (port : Nat) (f : Frame) (p : Port), linkFor s port f 1 = true →
    let s1 := onPort port (applyLink f) s
    getPort s1.fabric port = some p → p.replay.any (fun x => x.f.lseq == tsp f 136 12) = true → p.resends < 8 →
    exec (.retryRequest port f) s = .next (afterReceipt port
      (onPort port (fun p => { goBack (tsp f 136 12) p with resends := p.resends + 1 }) s1))) ∧
  (∀ (s : State) (port : Nat) (p : Port) (h : Held) (r : List Held), linkUp s port = true → getPort s.fabric port = some p →
    p.replay = h :: r → p.resends < 8 →
    exec (.replayTimeout port) s = .next (afterReceipt port
      (onPort port (fun p => { goBack h.f.lseq p with resends := p.resends + 1 }) s))) ∧
  (∀ (s : State) (port : Nat) (p : Port), linkUp s port = true → getPort s.fabric port = some p →
    (p.lackDue = true → exec (.lackReportTimer port) s = .next (sendLink port 0 [] s)) ∧
    ((creditDue p).isSome = true → exec (.creditReturnTimer port) s = .next (sendLink port 0 [] s)) ∧
    (transitioning s.fabric p = true →
      exec (.slotReportTimer port) s = .next (onFabric (fun fab => reportSlots fab port) s)) ∧
    (∀ g, p.releasing = some g → exec (.releaseTimer port) s = .next (sendLink port 4 [(136, 16, g)] s)) ∧
    (p.quiet = true → exec (.wakeBurst port) s = .next (pumpSt port
      (onPort port (fun p => { p with quiet := false, wantQuiet := false, width := fullWidth p, wantWidth := fullWidth p }) s)))) ∧
  (∀ (s : State) (port : Nat) (f : Frame), linkFor s port f 3 = true →
    exec (.slotReport port f) s = .next (afterReceipt port (onPort port (fun p => takeReport f (applyLink f p)) s))) ∧
  (∀ (s : State) (port : Nat) (f : Frame), linkFor s port f 4 = true →
    exec (.release port f) s = .next (afterReceipt port (onFabric (fun fab => reportSlots fab port)
      (onPort port (fun p => emptySlot s.fabric.newest (tsp f 136 16) (applyLink f p)) s)))) ∧
  (∀ (s : State) (port : Nat) (f : Frame) (p : Port), linkFor s port f 5 = true →
    let s1 := onPort port (applyLink f) s
    let w := tsp f 136 4
    getPort s1.fabric port = some p → (w = 1 ∨ w = 4 ∨ w = 8) → w ≤ fullWidth p →
    let s2 := onPort port (fun p => { p with width := w, wantWidth := w }) s1
    exec (.width port f) s = .next (afterReceipt port
      (if p.wantWidth = w ∧ p.width ≠ w then s2 else sendLink port 5 [(136, 4, w)] s2))) ∧
  (∀ (s : State) (port : Nat), exec (.widthAnswerTimeout port) s =
    .next (onPort port (fun p => { p with wantWidth := p.width, wantQuiet := false }) s)) ∧
  (∀ (s : State) (port : Nat) (f : Frame) (p : Port), linkFor s port f 6 = true →
    let s1 := onPort port (applyLink f) s
    getPort s1.fabric port = some p →
    (p.wantQuiet = true → exec (.quiet port f) s = .next (onPort port (fun p => { p with quiet := true, wantQuiet := false }) s1)) ∧
    (p.wantQuiet = false → peTime (portEntry s.fabric port) = 0 → p.queue = [] → p.again = [] →
      exec (.quiet port f) s = .next (onPort port (fun p => { p with quiet := true, wantQuiet := false }) (sendLink port 6 [] s1))))

/-- Training brings a port into service with fresh credit and sequence numbers or names why not, a failed lane is replaced by L8 or
narrows the port, and fabric time answers, measures and counts its messages (R275, R276, R282, R300, R301). The figure of an
interruption in a lane fault's entry is a free value (log entry 7). -/
def Obligations.TrainingLanesAndTimeComplete : Prop :=
  (∀ (s : State) (port : Nat) (t : Training) (p : Port), inUse s.fabric port = true → getPort s.fabric port = some p →
    p.training = true →
    (trainReason s port t = 0 → exec (.linkTraining port t) s = .next (linkEvent port 5 (pumpSt port (onFabric
      (fun f => reportSlots f port) (onPort port
        (fun p => { freshPort s.fabric.newest (mapLanes s port) t.peerCells p with subst := mapSubst s port })
        { routesReturn port s with fabric := dropCells port (routesReturn port s).fabric }))))) ∧
    (trainReason s port t ≠ 0 → exec (.linkTraining port t) s = .next (linkEvent port (trainReason s port t)
      (onPort port (fun p => { p with up := false, training := false }) s)))) ∧
  (∀ (s : State) (port : Nat) (p : Port), inUse s.fabric port = true → 0 < s.boot.stage → getPort s.fabric port = some p →
    p.up = false → exec (.trainingRetryTimer port) s = .next (onPort port (fun p => { p with training := true }) s)) ∧
  (∀ (s : State) (port lane : Nat) (p : Port), getPort s.fabric port = some p → linkUp s port = true → bitAt p.lanes lane = true →
    lane < 8 → p.subst = none → bitAt p.lanes 8 = true →
    exec (.laneFailure port lane) s = .next (
      let n := takeFree (countFault s)
      afterCount (sendLink port 2 [(148, 4, lane)] (substLane port lane (addFault 1 11 port lane (partIn s (partKey 11 port lane)).1
        (pack [(0, 16, 8), (32, 32, Config.free n.1)]) 8 n.2))))) ∧
  (∀ (s : State) (port : Nat) (f : Frame) (p : Port), linkFor s port f 2 = true →
    let s1 := onPort port (applyLink f) s
    getPort s1.fabric port = some p → tsp f 148 4 < 8 → p.subst = none → bitAt p.lanes (tsp f 148 4) = true →
    bitAt p.lanes 8 = true →
    exec (.laneSubstitution port f) s = .next (afterReceipt port (substLane port (tsp f 148 4) s1))) ∧
  (∀ (s : State) (port : Nat) (m : PtpMsg), linkUp s port = true → peTime (portEntry s.fabric port) ≠ 0 → m.domain = 0 →
    (m.kind = .pdelayReq →
      exec (.ptpMessage port m) s = .next (emit
        [ptpOut s.fabric port 3 m.seq m.rxTime, ptpOut s.fabric port 4 m.seq s.time.now] s)) ∧
    (m.kind = .pdelayResp → ∀ (t1 a b : Nat), spGet? port s.time.pd = some (m.seq, t1, a, b) →
      exec (.ptpMessage port m) s = .next { s with time := { s.time with pd := spSet port (m.seq, t1, m.carried, stamp16 m.rxTime) s.time.pd } }) ∧
    (m.kind = .pdelayRespFollowUp → ∀ (t1 t2 t4 : Nat), spGet? port s.time.pd = some (m.seq, t1, t2, t4) → t4 ≠ 0 →
      exec (.ptpMessage port m) s = .next (
        let d : Int := (((t4 : Int) - t1) - ((m.carried : Int) - t2) - m.correction) / 2
        { s with time := { s.time with pd := spDel port s.time.pd, pdelay := spSet port d s.time.pdelay } })) ∧
    (m.kind = .sync → peTime (portEntry s.fabric port) ≠ 3 → s.time.master = false →
      exec (.ptpMessage port m) s = .next (syncSt port m s)) ∧
    (m.kind = .followUp → peTime (portEntry s.fabric port) ≠ 3 → s.time.master = false →
      exec (.ptpMessage port m) s = .next (followUpSt port m s))) ∧
  (∀ (s : State) (port : Nat), inUse s.fabric port = true → peTime (portEntry s.fabric port) ≠ 0 →
    peTime (portEntry s.fabric port) ≠ 3 → s.time.master = false →
    let v := peTime (portEntry s.fabric port)
    let s1 := { s with time := { s.time with
      syncMiss := spSet port (spGet 0 port s.time.syncMiss + 1) s.time.syncMiss
      syncRun := spSet port 0 s.time.syncRun
      good := if v = parentTime s then 0 else s.time.good } }
    (∃ m, missedFrom s1 1 = some m ∧ m < 16) → exec (.syncTimeout port) s = .next s1)

/-! Faults, spares and peers (chapters 19 and 21). -/

/-- A failed unit, the fifth fault within a second, a unit without progress, a copied WGB, a failed regulator phase, and the write of the changed map to flash
(R479, R481 to R486, R492, R497, R498). -/
def Obligations.UnitFaultCommandsComplete : Prop :=
  (∀ (s : State) (kind scope phys sp : Nat), ready s = true → 1 ≤ kind → kind ≤ 7 → scope < kindScopes kind →
    phys < (kindCount kind scope).2 →
    let k := partKey kind scope phys
    partKind k = kind → ((partIn s k).2 = 0 ∨ (partIn s k).2 = 4) → s.repair.haboob = false →
    (countFault s).repair.faultTimes.length < 5 → subStopped s = false →
    (if kind = 7 then (scopeParts 7 0).find? (fun j => j != k && (partIn s j).2 == 0) else spareFor s.mirage.entries k) = some sp →
    exec (.unitFaultDetected kind scope phys) s = .next (replaced k sp (countFault s)) ∧
    (flightOf s kind (logicalOf s k) ≠ [] → exec (.noProgressTimeout kind scope phys) s = .next (replaced k sp (countFault s)))) ∧
  (∀ (s : State) (kind scope phys : Nat), ready s = true → 1 ≤ kind → kind ≤ 7 → scope < kindScopes kind →
    phys < (kindCount kind scope).2 → s.repair.haboob = false →
    let k := partKey kind scope phys
    let s1 := countFault s
    partKind k = kind → ((partIn s k).2 = 0 ∨ (partIn s k).2 = 4) → 5 ≤ s1.repair.faultTimes.length →
    exec (.unitFaultDetected kind scope phys) s =
      .next (raiseHaboob (unreplaced k { s1 with repair := { s1.repair with haboob := true } }))) ∧
  (∀ (s : State) (me : Nat), exec (.wgbCopyComplete me) s =
    .next { s with repair := { s.repair with wgbCopy := s.repair.wgbCopy.filter (· != me) } }) ∧
  (∀ (s : State) (rail phase sp : Nat), ready s = true → rail < 6 → phase < (railPhases rail).2 →
    let k := partKey 12 rail phase
    (partIn s k).2 = 0 → freeSpare s.mirage.entries k = some sp → (countFault s).repair.faultTimes.length < 5 →
    exec (.regulatorPhaseFault rail phase) s = .next (changeMap (fun m => replacePart m k sp)
      (addFault 12 12 rail phase (partIn s k).1 (pack [(0, 8, rail), (8, 8, phase)]) 8 (countFault s)))) ∧
  (∀ s : State, s.mirage.dirty = true →
    let w := s.mirage.written.map (fun w => { w with gen := s.mirage.gen + 2 })
    let st := storeMap s.mirage.stored
      { gen := s.mirage.gen + 1, subStop := s.mirage.subStop, lastFault := s.mirage.lastFault, entries := s.mirage.entries }
    exec .mirageMapFlashWrite s = .next { s with mirage := { s.mirage with
      gen := s.mirage.gen + 1
      dirty := false
      written := w
      stored := match w with
        | some x => storeMap st x
        | none => st } })

/-- Banks, pseudo-channels, stacks and DDR5 channels that fail, what takes their place, and the memory tests (R257 to R261, R489 to
R491, R495, R496). The figures of a rebuild are free values (log entry 7). -/
def Obligations.MemoryRepairCommandsComplete : Prop :=
  (∀ (s : State) (field bank k sp : Nat), servedBy s 8 field bank = some k → ready s = true →
    s.repair.bankRebuild.contains (field, bank) = false →
    s.repair.bankRebuild.all (fun b => !(b.1 == field && b.2 / 16 == bank / 16)) = true → spareFor s.mirage.entries k = some sp →
    (countFault s).repair.faultTimes.length < 5 → repairStopped s = false →
    exec (.bankFailure field bank) s = .next (let s1 := addFault 3 8 field (partPhys k) bank 0 0 (countFault s)
      { s1 with repair := { s1.repair with bankRebuild := s1.repair.bankRebuild ++ [(field, bank)] } })) ∧
  (∀ (s : State) (field bank k sp : Nat), s.repair.bankRebuild.contains (field, bank) = true → subStopped s = false →
    servedBy s 8 field bank = some k → spareFor s.mirage.entries k = some sp →
    exec (.bankRebuildComplete field bank) s = .next (changeMap (fun m => replacePart m k sp) (doneEntry sp bank
      { s with repair := { s.repair with bankRebuild := s.repair.bankRebuild.filter (· != (field, bank)) } }))) ∧
  (∀ (s : State) (stack pc p k j : Nat), physStack s stack = some p → servedBy s 10 p pc = some k → ready s = true →
    s.repair.degraded.contains (stack, pc) = false → s.repair.degraded.all (fun d => !(d.1 == stack && d.2 / 17 == pc / 17)) = true →
    (scopeParts 10 p).find? (fun j => (partIn s j).2 == 1 && !s.repair.rebuilding.any (fun r => r.1 == stack && r.2.2 == partPhys j)) = some j →
    (countFault s).repair.faultTimes.length < 5 → repairStopped s = false →
    exec (.pseudoChannelFailure stack pc) s = .next (let s1 := addFault 3 10 p (partPhys k) pc 0 0 (countFault s)
      { s1 with repair := { s1.repair with
          degraded := s1.repair.degraded ++ [(stack, pc)]
          rebuilding := s1.repair.rebuilding ++ [(stack, pc, partPhys j)] } })) ∧
  (∀ (s : State) (stack pc p k : Nat) (r : Nat × Nat × Nat), subStopped s = false →
    s.repair.rebuilding.find? (fun r => r.1 == stack && r.2.1 == pc) = some r → physStack s stack = some p →
    servedBy s 10 p pc = some k →
    exec (.pseudoChannelRebuildDone stack pc) s = .next (
      let s2 := changeMap (fun m => replacePart m k (partKey 10 p r.2.2)) (doneEntry (partKey 10 p r.2.2) pc s)
      { s2 with repair := { s2.repair with
          degraded := s2.repair.degraded.filter (· != (stack, pc))
          rebuilding := s2.repair.rebuilding.filter (· != r) } })) ∧
  (∀ (s : State) (stack k sp : Nat), servedBy s 9 0 stack = some k → ready s = true → subStopped s = false →
    s.repair.migrating.all (fun m => m.1 != stack) = true → dueToMigrate s stack = true → freeSpare s.mirage.entries k = some sp →
    exec (.stackMigrationStart stack) s = .next (let s1 := changeMap (fun m => setPart m k (stack, 4)) s
      { s1 with repair := { s1.repair with migrating := s1.repair.migrating ++ [(stack, partPhys sp)] } })) ∧
  (∀ (s : State) (stack k : Nat) (m : Nat × Nat), s.repair.migrating.find? (fun m => m.1 == stack) = some m →
    servedBy s 9 0 stack = some k → subStopped s = false →
    exec (.stackMigrationComplete stack) s = .next (
      let s2 := changeMap (fun e => replacePart e k (partKey 9 0 m.2)) (doneEntry (partKey 9 0 m.2) stack s)
      { s2 with repair := { s2.repair with
          migrating := s2.repair.migrating.filter (· != m)
          degraded := s2.repair.degraded.filter (fun d => d.1 != stack)
          rebuilding := s2.repair.rebuilding.filter (fun d => d.1 != stack)
          corrRecent := spDel stack s2.repair.corrRecent } })) ∧
  (∀ (s : State) (stack k sp : Nat), servedBy s 9 0 stack = some k → ready s = true → subStopped s = false →
    freeSpare s.mirage.entries k = some sp →
    ∃ t : State, exec (.stackLoss stack) s = .next t ∧
      t.memory = { s.memory with
        hbm := s.memory.hbm.filter (fun c => stackOfHbm c.1 != stack)
        badHbm := s.memory.badHbm.filter (fun w => stackOfHbm (512 * w) != stack)
        lostGroups := s.memory.lostGroups.filter (fun g => g.1 != stack)
        rewritten := s.memory.rewritten.filter (fun w => stackOfHbm (512 * w) != stack) } ∧
      t.mirage.entries = replacePart s.mirage.entries k sp ∧ t.mirage.dirty = true ∧
      t.repair.migrating = s.repair.migrating.filter (fun d => d.1 != stack)) ∧
  (∀ (s : State) (channel : Nat), ready s = true → channel < 16 → s.settings.grade = 1 →
    exec (.ddr5ChannelFailure channel) s = .next (addFault 2 0 (channel / 8) channel 0xFFFF (pack [(0, 16, 0x0306)]) 8
      { s with memory := { s.memory with ddrOut := (s.memory.ddrOut ++ [channel / 8]).eraseDups } })) ∧
  (∀ (s : State) (tier addr : Nat), ready s = true → s.power.ps ≠ 2 → tier ≤ 2 → (tier = 2 → s.settings.grade = 1) → addr < tierSize tier →
    exec (.scrub tier addr .clean) s = .next s ∧
    exec (.scrub tier addr .corrected) s = .next (if tier = 1 then countCorrected (stackOfHbm addr) s
      else if tier = 0 then { s with memory := { s.memory with spadCorrected := tick64 s.memory.spadCorrected } }
      else s) ∧
    exec (.scrub tier addr .uncorrectable) s =
      .next (addMemError tier (addr / unitBytes tier) 0xFFFFFFFF (markBad tier (addr / unitBytes tier) s))) ∧
  (∀ (s : State) (fails : List Nat), ready s = true → s.power.ps ≠ 2 →
    exec (.spareBist fails) s = .next (failTests (fails.filter (fun i => match allParts[i]? with
      | some k => (partIn s k).2 == 1
      | none => false)) s) ∧
    (s.boot.memTest = false → exec (.fullMemoryTest fails) s = .next (
      let s1 := failUnits fails s
      { s1 with boot := { s1.boot with memTest := true } })))

/-- Peers: a neighbour whose ports are all down is declared lost, and notices of loss, retirement and its acknowledgement are taken in
(R493, R529, R531, R534). -/
def Obligations.PeerCommandsComplete : Prop :=
  (∀ (s : State) (m : Nat), portsToward s.fabric m ≠ [] → (portsToward s.fabric m).all (fun p => !portServes s.fabric p) = true →
    knownAbsent s m = false → exec (.peerLossDeclared m) s = .next (declareLost m s)) ∧
  (∀ (s : State) (f : Frame), f.ftype = 7 → bits f.tspec 0 8 = 16 → knownAbsent s (tsp f 136 16) = false →
    tsp f 136 16 ≠ myId s.fabric → exec (.loss f) s = .next (declareLost (tsp f 136 16) (takeFrame f s))) ∧
  (∀ (s : State) (f : Frame), f.ftype = 7 → bits f.tspec 0 8 = 17 →
    let m := tsp f 136 16
    knownAbsent s m = false → m ≠ myId s.fabric →
    let s1 := leaveNow (takeFrame f { s with reductions := { s.reductions with
      leaving := s.reductions.leaving ++ [(m, if tsp f 152 32 = 0xFFFFFFFF then s.run.step else tsp f 152 32)] } })
    let n := match envOf s with
      | none => 0
      | some e => ((shardsOwnedBy e m).filter (fun sh => twinOf s m sh == some e.id)).length
    let s2 := if n = 0 then s1
      else (sendFrames [(none, mkFrame s1.fabric 7 false m 0 [(128, 8, 18), (136, 16, m), (152, 32, n)] [])] s1).1
    exec (.retire f) s = .next ((portsToward s2.fabric m).foldl (fun t p => if portServes t.fabric p then portFails p t else t) s2)) ∧
  (∀ (s : State) (f : Frame) (o : Op), f.ftype = 7 → bits f.tspec 0 8 = 18 → tsp f 136 16 = myId s.fabric →
    s.run.retireAt ≠ none → retireOp s = some o →
    exec (.retireAck f) s = .next (retireDone (takeFrame f { s with
      sessions := modOp s.sessions o.sid o.handle (fun o => setProgress (o.progress + tsp f 152 32) o) })))

/-- Power, presence and resets (R520 to R528, R539, R543). The event number of a trip and of a critical temperature is a free value
(log entry 6). -/
def Obligations.SupplyAndResetCommandsComplete : Prop :=
  (∀ (s : State) (b : BootInputs) (i : Nat) (fb : Bool), s.boot.stage = 0 → powerIsGood s = true → s.boot.critical = false →
    b.idModulus = s.settings.idN → pickBank b s.firmware = some (i, fb) →
    exec (.powerGood b) s = .next (bootOn b i fb (coldClear 1 s))) ∧
  (∀ s : State, 0 < s.boot.stage → s.boot.stage < 8 →
    let bank := { bankAt s.firmware s.firmware.active with failedBoot := true }
    exec .bootWatchdog s = .next (coldClear 0 { s with firmware := setBank s.firmware s.firmware.active bank })) ∧
  (∀ (s : State) (lowNs : Nat) (b : BootInputs), s.boot.present = true → 42000 ≤ s.boot.inputMv →
    (lowNs < 1000000 → s.boot.stage ≠ 0 → s.boot.critical = false → exec (.rstNRise lowNs b) s =
      .next { s with scales := { s.scales with shortResets := tick64 s.scales.shortResets } }) ∧
    (1000000 ≤ lowNs → lowNs < 1000000000 → ready s = true → exec (.rstNRise lowNs b) s = .next (warmReset b s)) ∧
    (1000000000 ≤ lowNs → exec (.rstNRise lowNs b) s = .next (bootUp b (endAll { s with boot := { s.boot with critical := false } })))) ∧
  (∀ (s : State) (mv : Nat), s.boot.present = false →
    exec (.presentMate mv) s = .next { s with boot := { s.boot with present := true, inputMv := mv } }) ∧
  (∀ s : State, s.boot.present = true →
    exec .presentBreak s = .next (powerOff 0 { s with boot := { s.boot with present := false } })) ∧
  (∀ (s : State) (mv : Nat), mv < 42000 → exec (.undervoltage mv) s = .next (powerOff mv s)) ∧
  (∀ (s : State) (mv : Nat), 56000 < mv → exec (.overvoltage mv) s = .next (powerOff mv s)) ∧
  (∀ (s : State) (ma : Nat), 96000 < ma → s.boot.stage ≠ 0 →
    exec (.overcurrentTrip ma) s = .next (powerOff s.boot.inputMv (endAll (addOpenEvent 0 0 0 0xFFFF s)))) ∧
  (∀ (s : State) (kind index tempC : Nat), s.boot.stage ≠ 0 → criticalTemp kind ≤ tempC →
    exec (.thermalCritical kind index tempC) s = .next (
      let s1 := endAll (addOpenEvent (if kind = 1 then 9 else 0) 0 (if kind = 1 then index else 0) 0xFFFF s)
      coldClear 9 { s1 with boot := { s1.boot with critical := true } }))

/-! Rules of every session. -/

/-- How a session treats the number of a command that is authentic and comes from the session's own address, whatever the command:
a number outside the window is discarded and counted, a repeat is answered with the recorded reply and carries nothing out, a new
number with no free slot is answered 0x0108 and not recorded, and a new number behind a closed fence waits (R397 to R400). -/
def Obligations.SequenceWindow : Prop :=
  ∀ (opc : Nat) (c : Datagram → Instr) (part : Part), (∀ d s, exec (c d) s = .next (ycp opc (c d) part d s)) →
  ∀ (s : State) (x : Session) (d : Datagram), ready s = true → findSession s.sessions d.sid = some x →
    s.sessions.resuming = false → d.tag = cmdTag x.kHm d opc → d.major = x.major → d.minor = x.minor → d.srcIp = x.ip →
    d.srcUdp = x.udp → x.hi < 2 ^ 32 → 0 < d.seq → d.seq < 2 ^ 32 →
    let ahead := (d.seq + 2 ^ 32 - x.hi) % 2 ^ 32
    let behind := (x.hi + 2 ^ 32 - d.seq) % 2 ^ 32
    (64 < ahead → 127 < behind → exec (c d) s = .next (ycpDiscard d.port (authState x s))) ∧
    (∀ (r : SeqRec), behind ≤ 127 → x.recs.find? (fun r => r.seq == d.seq) = some r →
      exec (c d) s = .next (match r.reply with
        | some p => sendReply x.sid d.port d.seq r.opcode r.hostTag p (authState x s)
        | none => ycpDiscard d.port (authState x s))) ∧
    ((1 ≤ ahead ∧ ahead ≤ 64 ∨ behind ≤ 127 ∧ x.recs.all (fun r => r.seq != d.seq) = true) → formCheck x d opc = 0 →
      isRefusal (part (authState x s) x d).code = false →
      (64 ≤ x.slots →
        let ss := modAcct (authState x s).sessions x.sid (fun a => { a with windowFull := satAdd 32 a.windowFull 1 })
        exec (c d) s = .next (refuse x d opc 0x0108 { authState x s with sessions := ss })) ∧
      (x.slots < 64 → mustWait (acceptedSession opc x d) d.seq d.fence = true →
        let s1 := acceptedState opc x d s
        exec (c d) s = .next { s1 with sessions := modSession s1.sessions x.sid (fun y => { y with fenced := y.fenced ++ [c d] }) }))

/-! Formats. -/

/-- R44: a scale byte of 0xFF makes every element of a block read as NaN, whatever its codes and its escape field hold; a converter
writes it when any input is NaN or infinite, with the codes and the escape field zero. -/
def Obligations.NanBlocks : Prop :=
  ∀ fmt : Nat, (fmt = 8 ∨ fmt = 9 ∨ fmt = 10) →
    (∀ (blk i : Nat), i < 64 → blockScale fmt blk = 255 → blockElem fmt blk i = .nan) ∧
    (∀ (t : FV) (rm : Nat → Rm) (xs : List FV), xs.any (fun x => !fvFinite x) = true →
      blockScale fmt (convBlock fmt t rm xs).1 = 255 ∧ escField fmt (convBlock fmt t rm xs).1 = 0 ∧
      ∀ i < 64, blockCode fmt (convBlock fmt t rm xs).1 i = 0)

/-- The floating formats: an encoding that is no NaN is the encoding of its value, a NaN is written as the canonical one, and every
FP32, BF16, FP16 and FP8 value converts to P40 and back exactly (R34 to R37). -/
def Obligations.FloatEncodingsRoundTrip : Prop :=
  (∀ f ∈ [fp32, bf16, fp16, e5m2, p40, fp64], ∀ w < 2 ^ (1 + f.eb + f.fb),
    encodeFlt f (decodeFlt f w) = if fvIsNan (decodeFlt f w) = true then ((2 ^ f.eb - 1) <<< f.fb) + 2 ^ (f.fb - 1) else w) ∧
  (∀ w < 256, encodeE4m3 (decodeE4m3 w) = if w % 128 = 127 then 0x7F else w) ∧
  (∀ f ∈ [fp32, bf16, fp16, e5m2], ∀ w < 2 ^ (1 + f.eb + f.fb), fvIsNan (decodeFlt f w) = false →
    encodeFlt f (roundTo f .rne (dec40 (enc40 (decodeFlt f w)))) = w) ∧
  (∀ w < 256, w % 128 ≠ 127 → encodeE4m3 (dec40 (enc40 (decodeE4m3 w))) = w)

/-- Wire compression loses nothing: a payload coded with a generation that is built in or that R355 admits decodes, at a receiver whose
slot holds that generation, to the payload, with the same blocks coded and stored (R352 to R356, R362). -/
def Obligations.CompressedPayloadDecodes : Prop :=
  ∀ (g : GenSet) (gen fmt n k x0 cur : Nat) (slots : List (Bool × Nat × GenSet)) (bs : List Byte),
    (g = none ∧ gen = 0 ∨ ∃ l, g = some l ∧ genSetOk cur l = true) → slots[gen % 2]? = some (true, gen, g) → fmt < 32 →
    bs.length ≤ 4096 * n → n ≤ k →
    let r := encodePayload g gen (genProfile g fmt) n x0 bs
    decodePayload slots k x0 r.1 = some (bs, r.2.1, r.2.2)

/-! The audit log and the power ladder. -/

/-- R515: entry 0 stands at manufacture and chains to 32 zero bytes; each entry that is appended to a log whose chain is intact holds
its fields where Table 20.4 puts them, and its `CHAIN` is SHA-256 of the `CHAIN` of the entry before it followed by its own bytes 0
to 71. -/
def Obligations.AuditLogChains : Prop :=
  (∃ e, State.reset.audit.entries = [e] ∧ bits e 0 16 = 1 ∧ bits e 16 16 = 128 ∧ bits e 64 64 = 0 ∧
    e >>> 576 = shaNat (List.replicate 32 0 ++ leBytes 72 (e % 2 ^ 576)) ∧ State.reset.audit.chain = e >>> 576) ∧
  (∀ (a : Audit) (last opc code time sid role event cert arg : Nat), a.entries.getLast? = some last → last >>> 576 = a.chain →
    opc < 2 ^ 16 → code < 2 ^ 16 → a.next < 2 ^ 64 → time < 2 ^ 64 → sid < 2 ^ 32 → role < 4 → event < 2 ^ 8 → cert < 2 ^ 64 →
    arg < 2 ^ 256 →
    ∃ e, (auditPush a opc code time sid role event cert arg).entries = keepLast 524288 (a.entries ++ [e]) ∧
      (auditPush a opc code time sid role event cert arg).chain = e >>> 576 ∧
      (auditPush a opc code time sid role event cert arg).next = a.next + 1 ∧
      bits e 0 16 = 1 ∧ bits e 16 16 = 128 ∧ bits e 32 16 = opc ∧ bits e 48 16 = code ∧ bits e 64 64 = a.next ∧
      bits e 128 64 = time ∧ bits e 192 32 = sid ∧ bits e 224 2 = role ∧ bits e 226 6 = 0 ∧ bits e 232 8 = event ∧
      bits e 240 16 = 0 ∧ bits e 256 64 = cert ∧ bits e 320 256 = arg ∧
      e >>> 576 = shaNat (leBytes 32 (last >>> 576) ++ leBytes 72 (e % 2 ^ 576)))

/-- R465: the departure of a `WAKE` action holds PS0 for `OPERAND0` µs from its departure and extends a hold in force to that end;
while the hold is in force the module is not idle, so that it enters no low state and the hold does not end. -/
def Obligations.WakeHoldKeepsPs0 : Prop :=
  (∀ (s : State) (e step ns : Nat), caAction e = 4 →
    carAction e step ns s = { s with power := { s.power with
      holdEnd := some (max (s.power.holdEnd.getD 0) (ns + 1000 * caOp0 e)) } }) ∧
  (∀ (s : State) (t : Nat), s.power.holdEnd = some t → nowNs s < t →
    moduleIdle s = false ∧ exec .dwellExpiry s = .next s ∧ exec .wakeHoldExpiry s = .next s)

/-! Memory and the whole machine. -/

/-- A write into a tier keeps the canonical form, is read back, and leaves every other byte of every tier as it was; two memories in
canonical form that read alike are equal. -/
def Obligations.MemoryWritesReadBack : Prop :=
  (∀ (m : Memory) (tier a : Nat) (bs : List Byte), memoryWf m = true → tier < 3 →
    memoryWf (writeTier m tier a bs) = true ∧
    (∀ x, memGet (tierMem (writeTier m tier a bs) tier) x =
      if a ≤ x ∧ x < a + bs.length then bs.getD (x - a) 0 else memGet (tierMem m tier) x) ∧
    (∀ t < 3, t ≠ tier → tierMem (writeTier m tier a bs) t = tierMem m t)) ∧
  (∀ m n : Mem, memWf m = true → memWf n = true → (∀ a, memGet m a = memGet n a) → m = n)

/-- Right after reset: flash as from the factory with entry 0 alone in the audit log, no session, image, run or key, fabric ports held
down, fabric time `FREE` at 0, the power values of R457, nothing queued; memory is canonical and lists nothing, and the settings keep
their bounds. What the factory left and what an unwritten byte reads as are the model's choices (log entries 1 and 2). -/
def Obligations.ResetState : Prop :=
  let z := State.reset
  MemInv z ∧ SettingsInv z ∧ AuditInv z ∧ (∀ tier a : Nat, byteAt z tier a = 0) ∧
  z.sessions.live = [] ∧ z.sessions.prov = [] ∧ z.sessions.ops = [] ∧ z.image = none ∧ z.run.active = false ∧ z.engines = [] ∧
  z.kv.pools = [] ∧ z.kv.seqs = [] ∧ z.faultLog.entries = [] ∧ z.audit.entries.length = 1 ∧ z.security.windowEnd = none ∧
  z.fabric.ports.length = 32 ∧ (∀ p ∈ z.fabric.ports, p.up = false ∧ p.queue = []) ∧ z.fabric.force.topo = none ∧
  z.time.state = 0 ∧ z.time.now = 0 ∧ z.power.ps = 0 ∧ z.power.tolNs = 0 ∧ z.power.dwellUs = 1000 ∧ z.power.tolMin = 0 ∧
  z.power.dwellMin = 0 ∧ z.power.tolMax = 0xFFFFFFFF ∧ z.boot.stage = 0 ∧ z.out = [] ∧ z.pending = []

/-- Every step keeps memory in canonical form. -/
def Obligations.StepsKeepMemoryCanonical : Prop :=
  ∀ s t : State, MemInv s → step s = .next t → MemInv t
end

