-- ==== Sys2Proof/Laws/Memory.lean ====
section
/-! SUPPORT. Laws of sparse tables and of memory: what a read gives after a write, and that every memory operation keeps the canonical
form. -/

namespace Sys2Proof.Laws

open Sys2Proof.Machine Sys2Proof.Safety

/-! Sparse tables. -/

theorem spGet?_spSet {α : Type} (x k : Nat) (v : α) (l : Sp α) :
    spGet? x (spSet k v l) = if x = k then some v else spGet? x l := by
  induction l with
  | nil =>
    by_cases e : x = k
    · simp [spSet, spGet?, e]
    · simp [spSet, spGet?, e, Ne.symm e]
  | cons p r ih =>
    obtain ⟨j, w⟩ := p
    simp only [spSet]
    split
    · by_cases e : x = k
      · simp [spGet?, e]
      · simp [spGet?, e, Ne.symm e]
    · split
      · rename_i _ h
        have h' : k = j := by simpa using h
        subst h'
        by_cases e : x = k
        · simp [spGet?, e]
        · simp [spGet?, e, Ne.symm e]
      · rename_i _ h
        have h' : ¬ k = j := by simpa using h
        simp only [spGet?, ih]
        by_cases e : j = x
        · subst e
          simp [Ne.symm h']
        · simp [e]

theorem spGet?_spDel {α : Type} (x k : Nat) (l : Sp α) : spGet? x (spDel k l) = if x = k then none else spGet? x l := by
  induction l with
  | nil => simp [spDel, spGet?]
  | cons p r ih =>
    obtain ⟨j, w⟩ := p
    simp only [spDel, List.filter_cons] at ih ⊢
    by_cases e : j = k
    · subst e
      simp only [bne_self_eq_false, Bool.false_eq_true, if_false, ih, spGet?]
      by_cases f : x = j
      · simp [f]
      · simp [f, Ne.symm f]
    · have e' : (j != k) = true := by simpa using e
      simp only [e', if_true, spGet?, ih]
      by_cases f : j = x
      · subst f
        simp [e]
      · simp [f]

/-- What a table reads as after one entry is stored. -/
theorem spGet_spPut {α : Type} [BEq α] [LawfulBEq α] (d : α) (x k : Nat) (v : α) (l : Sp α) :
    spGet d x (spPut d k v l) = if x = k then v else spGet d x l := by
  unfold spPut
  split
  · rename_i h
    have h' : v = d := by simpa using h
    simp only [spGet, spGet?_spDel]
    by_cases e : x = k
    · simp [e, h']
    · simp [e]
  · simp only [spGet, spGet?_spSet]
    by_cases e : x = k
    · simp [e]
    · simp [e]

theorem spSorted_iff {α : Type} (l : Sp α) : spSorted l = true ↔ l.Pairwise (fun a b => a.1 < b.1) := by
  induction l with
  | nil => simp [spSorted]
  | cons p r ih =>
    cases r with
    | nil => simp [spSorted]
    | cons q r =>
      obtain ⟨i, u⟩ := p
      obtain ⟨j, v⟩ := q
      rw [spSorted, Bool.and_eq_true, ih, List.pairwise_cons (a := (i, u)), decide_eq_true_eq]
      constructor
      · rintro ⟨h1, h2⟩
        refine ⟨?_, h2⟩
        intro a ha
        rcases List.mem_cons.mp ha with rfl | ha
        · exact h1
        · exact Nat.lt_trans h1 ((List.pairwise_cons.mp h2).1 a ha)
      · rintro ⟨h1, h2⟩
        exact ⟨h1 (j, v) (by simp), h2⟩

theorem mem_spSet {α : Type} {k : Nat} {v : α} {l : Sp α} {p : Nat × α} (h : p ∈ spSet k v l) : p = (k, v) ∨ p ∈ l := by
  induction l with
  | nil => left; simpa [spSet] using h
  | cons q r ih =>
    obtain ⟨j, w⟩ := q
    simp only [spSet] at h
    split at h
    · rcases List.mem_cons.mp h with h | h
      · exact .inl h
      · exact .inr h
    · split at h
      · rcases List.mem_cons.mp h with h | h
        · exact .inl h
        · exact .inr (List.mem_cons_of_mem _ h)
      · rcases List.mem_cons.mp h with h | h
        · exact .inr (by simp [h])
        · rcases ih h with h | h
          · exact .inl h
          · exact .inr (List.mem_cons_of_mem _ h)

theorem spSorted_spSet {α : Type} (k : Nat) (v : α) (l : Sp α) (h : spSorted l = true) : spSorted (spSet k v l) = true := by
  rw [spSorted_iff] at h ⊢
  induction l with
  | nil => simp [spSet]
  | cons p r ih =>
    obtain ⟨j, w⟩ := p
    rw [List.pairwise_cons] at h
    obtain ⟨h1, h2⟩ := h
    simp only [spSet]
    split
    · rename_i hk
      refine List.pairwise_cons.mpr ⟨?_, List.pairwise_cons.mpr ⟨h1, h2⟩⟩
      intro a ha
      rcases List.mem_cons.mp ha with rfl | ha
      · exact hk
      · exact Nat.lt_trans hk (h1 a ha)
    · split
      · rename_i _ hk
        have hk' : k = j := by simpa using hk
        subst hk'
        exact List.pairwise_cons.mpr ⟨h1, h2⟩
      · rename_i hl hk
        have hk' : ¬ k = j := by simpa using hk
        refine List.pairwise_cons.mpr ⟨?_, ih h2⟩
        intro a ha
        rcases mem_spSet ha with rfl | ha
        · show j < k
          omega
        · exact h1 a ha

theorem spSorted_filter {α : Type} (f : Nat × α → Bool) (l : Sp α) (h : spSorted l = true) : spSorted (l.filter f) = true := by
  rw [spSorted_iff] at h ⊢
  exact h.filter f

theorem spSorted_spPut {α : Type} [BEq α] (d : α) (k : Nat) (v : α) (l : Sp α) (h : spSorted l = true) :
    spSorted (spPut d k v l) = true := by
  unfold spPut
  split
  · exact spSorted_filter _ l h
  · exact spSorted_spSet k v l h

/-! Memory of one tier. -/

@[simp] theorem memGet_nil (a : Nat) : memGet [] a = 0 := rfl

theorem memGet_memSet (m : Mem) (a x : Nat) (b : Byte) : memGet (memSet m a b) x = if x = a then b else memGet m x :=
  spGet_spPut 0 x a b m

theorem memWf_memSet (m : Mem) (a : Nat) (b : Byte) (h : memWf m = true) : memWf (memSet m a b) = true := by
  simp only [memWf, Bool.and_eq_true] at h ⊢
  refine ⟨spSorted_spPut 0 a b m h.1, ?_⟩
  rw [List.all_eq_true] at h ⊢
  intro c hc
  unfold memSet spPut at hc
  split at hc
  · exact h.2 c (List.mem_of_mem_filter hc)
  · rename_i hb
    rcases mem_spSet hc with rfl | hc
    · simpa using hb
    · exact h.2 c hc

theorem memWf_memWrite (bs : List Byte) : ∀ (m : Mem) (a : Nat), memWf m = true → memWf (memWrite m a bs) = true := by
  induction bs with
  | nil => intro m a h; exact h
  | cons b r ih => intro m a h; exact ih _ _ (memWf_memSet m a b h)

theorem memWf_filter (f : Nat × Byte → Bool) (m : Mem) (h : memWf m = true) : memWf (m.filter f) = true := by
  simp only [memWf, Bool.and_eq_true] at h ⊢
  refine ⟨spSorted_filter f m h.1, ?_⟩
  rw [List.all_eq_true] at h ⊢
  exact fun c hc => h.2 c (List.mem_of_mem_filter hc)

/-- A write below a byte's address leaves that byte alone. -/
theorem memGet_memWrite_below (bs : List Byte) : ∀ (m : Mem) (a x : Nat), x < a → memGet (memWrite m a bs) x = memGet m x := by
  induction bs with
  | nil => intro m a x _; rfl
  | cons b r ih =>
    intro m a x h
    rw [memWrite, ih _ _ _ (by omega), memGet_memSet, if_neg (by omega)]

/-! The three tiers. -/

theorem memoryWf_iff (m : Memory) : memoryWf m = true ↔ memWf m.spad = true ∧ memWf m.hbm = true ∧ memWf m.ddr = true := by
  simp [memoryWf, and_assoc]

theorem memWf_tierMem (m : Memory) (tier : Nat) (h : memoryWf m = true) : memWf (tierMem m tier) = true := by
  rw [memoryWf_iff] at h
  unfold tierMem
  split
  · exact h.1
  · split
    · exact h.2.1
    · exact h.2.2

theorem memoryWf_setTier (m : Memory) (tier : Nat) (x : Mem) (h : memoryWf m = true) (hx : memWf x = true) :
    memoryWf (setTier m tier x) = true := by
  rw [memoryWf_iff] at h ⊢
  unfold setTier
  split
  · exact ⟨hx, h.2.1, h.2.2⟩
  · split
    · exact ⟨h.1, hx, h.2.2⟩
    · exact ⟨h.1, h.2.1, hx⟩

@[simp] theorem memoryWf_setBad (m : Memory) (tier : Nat) (l : List Nat) : memoryWf (setBad m tier l) = memoryWf m := by
  unfold setBad
  split
  · rfl
  · split <;> rfl

@[simp] theorem memoryWf_rewriteWords (m : Memory) (a n : Nat) : memoryWf (rewriteWords m a n) = memoryWf m := by
  unfold rewriteWords
  split <;> rfl

theorem memoryWf_writeTier (m : Memory) (tier a : Nat) (bs : List Byte) (h : memoryWf m = true) :
    memoryWf (writeTier m tier a bs) = true := by
  have hw := memoryWf_setTier m tier _ h (memWf_memWrite bs _ a (memWf_tierMem m tier h))
  simp only [writeTier, memoryWf_setBad]
  split
  · rw [memoryWf_rewriteWords]; exact hw
  · exact hw

theorem memoryWf_writePieces (ps : List (Nat × Nat × Nat)) :
    ∀ (m : Memory) (bs : List Byte), memoryWf m = true → memoryWf (writePieces m ps bs) = true := by
  induction ps with
  | nil => intro m bs h; exact h
  | cons p r ih =>
    obtain ⟨t, a, n⟩ := p
    intro m bs h
    exact ih _ _ (memoryWf_writeTier m t a _ h)

/-- Everything a checked write can do: it fails with a translation's code, or it writes the pieces and memory stays canonical. -/
theorem vaWrite_cases (m : Memory) (rs : List Nat) (need va : Nat) (bs : List Byte) :
    (∃ c, translate m rs need (rs.length + 1) va bs.length = .error c ∧ vaWrite m rs need va bs = .error c) ∨
    (∃ ps, translate m rs need (rs.length + 1) va bs.length = .ok ps ∧ vaWrite m rs need va bs = .ok (writePieces m ps bs) ∧
      (memoryWf m = true → memoryWf (writePieces m ps bs) = true)) := by
  unfold vaWrite
  cases h : translate m rs need (rs.length + 1) va bs.length with
  | error c => exact .inl ⟨c, rfl, rfl⟩
  | ok ps => exact .inr ⟨ps, rfl, rfl, memoryWf_writePieces ps m bs⟩

theorem memoryWf_vaPut (m : Memory) (rs : List Nat) (va : Nat) (bs : List Byte) (h : memoryWf m = true) :
    memoryWf (vaPut m rs va bs) = true := by
  unfold vaPut
  split
  · exact h
  · exact memoryWf_writePieces _ m bs h

theorem memoryWf_vaPuts (rs : List Nat) (ws : List (Nat × List Byte)) :
    ∀ m : Memory, memoryWf m = true → memoryWf (ws.foldl (fun m w => vaPut m rs w.1 w.2) m) = true := by
  induction ws with
  | nil => intro m h; exact h
  | cons w r ih => intro m h; exact ih _ (memoryWf_vaPut m rs w.1 w.2 h)

/-! Translation (R239, R240). -/

/-- A range of no bytes translates to nothing, whatever the regions. -/
@[simp] theorem translate_zero (m : Memory) (rs : List Nat) (need k va : Nat) : translate m rs need k va 0 = .ok [] := by
  cases k <;> simp [Machine.translate]

/-- The pieces of a translated range cover it: their lengths add up to it. -/
theorem translate_length (m : Memory) (rs : List Nat) (need : Nat) :
    ∀ (k va n : Nat) (ps : List (Nat × Nat × Nat)), translate m rs need k va n = .ok ps → (ps.map (·.2.2)).sum = n := by
  intro k
  induction k with
  | zero =>
    intro va n ps h
    unfold Machine.translate at h
    split at h
    · rename_i hn
      have : n = 0 := by simpa using hn
      cases h
      simp [this]
    · cases h
  | succ k ih =>
    intro va n ps h
    unfold Machine.translate at h
    split at h
    · rename_i hn
      have : n = 0 := by simpa using hn
      cases h
      simp [this]
    · split at h
      · cases h
      · simp only at h
        split at h
        · cases h
        · split at h
          · cases h
          · split at h
            · cases h
            · rename_i qs hq
              cases h
              have := ih _ _ _ hq
              simp only [List.map_cons, List.sum_cons, this]
              omega

/-! A state's memory. -/

theorem memInv_of_eq {s t : State} (h : MemInv s) (e : t.memory = s.memory) : MemInv t := by
  unfold MemInv
  rw [e]
  exact h

theorem memInv_write {s t : State} (h : MemInv s) (rs : List Nat) (va : Nat) (bs : List Byte)
    (e : t.memory = vaPut s.memory rs va bs) : MemInv t := by
  unfold MemInv
  rw [e]
  exact memoryWf_vaPut _ rs va bs h

end Sys2Proof.Laws
end

