-- ==== Sys2Proof/Laws/State.lean ====
section
/-! SUPPORT. One lemma per field of the state that a shared update leaves alone, so that no proof unfolds the update to read
another field. -/

namespace Sys2Proof.Laws

open Sys2Proof.Machine

/-! `emit`. -/

@[simp] theorem emit_settings (es : List Emission) (s : State) : (emit es s).settings = s.settings := rfl
@[simp] theorem emit_firmware (es : List Emission) (s : State) : (emit es s).firmware = s.firmware := rfl
@[simp] theorem emit_security (es : List Emission) (s : State) : (emit es s).security = s.security := rfl
@[simp] theorem emit_audit (es : List Emission) (s : State) : (emit es s).audit = s.audit := rfl
@[simp] theorem emit_faultLog (es : List Emission) (s : State) : (emit es s).faultLog = s.faultLog := rfl
@[simp] theorem emit_sessions (es : List Emission) (s : State) : (emit es s).sessions = s.sessions := rfl
@[simp] theorem emit_host (es : List Emission) (s : State) : (emit es s).host = s.host := rfl
@[simp] theorem emit_memory (es : List Emission) (s : State) : (emit es s).memory = s.memory := rfl
@[simp] theorem emit_mirage (es : List Emission) (s : State) : (emit es s).mirage = s.mirage := rfl
@[simp] theorem emit_repair (es : List Emission) (s : State) : (emit es s).repair = s.repair := rfl
@[simp] theorem emit_image (es : List Emission) (s : State) : (emit es s).image = s.image := rfl
@[simp] theorem emit_run (es : List Emission) (s : State) : (emit es s).run = s.run := rfl
@[simp] theorem emit_scales (es : List Emission) (s : State) : (emit es s).scales = s.scales := rfl
@[simp] theorem emit_engines (es : List Emission) (s : State) : (emit es s).engines = s.engines := rfl
@[simp] theorem emit_kv (es : List Emission) (s : State) : (emit es s).kv = s.kv := rfl
@[simp] theorem emit_reductions (es : List Emission) (s : State) : (emit es s).reductions = s.reductions := rfl
@[simp] theorem emit_update (es : List Emission) (s : State) : (emit es s).update = s.update := rfl
@[simp] theorem emit_versions (es : List Emission) (s : State) : (emit es s).versions = s.versions := rfl
@[simp] theorem emit_changes (es : List Emission) (s : State) : (emit es s).changes = s.changes := rfl
@[simp] theorem emit_mapping (es : List Emission) (s : State) : (emit es s).mapping = s.mapping := rfl
@[simp] theorem emit_ckpt (es : List Emission) (s : State) : (emit es s).ckpt = s.ckpt := rfl
@[simp] theorem emit_federation (es : List Emission) (s : State) : (emit es s).federation = s.federation := rfl
@[simp] theorem emit_fabric (es : List Emission) (s : State) : (emit es s).fabric = s.fabric := rfl
@[simp] theorem emit_time (es : List Emission) (s : State) : (emit es s).time = s.time := rfl
@[simp] theorem emit_power (es : List Emission) (s : State) : (emit es s).power = s.power := rfl
@[simp] theorem emit_boot (es : List Emission) (s : State) : (emit es s).boot = s.boot := rfl
@[simp] theorem emit_pending (es : List Emission) (s : State) : (emit es s).pending = s.pending := rfl
@[simp] theorem emit_free (es : List Emission) (s : State) : (emit es s).free = s.free := rfl

/-! `wakeUp`. -/

@[simp] theorem wakeUp_settings (r : Option Nat) (s : State) : (wakeUp r s).settings = s.settings := by unfold wakeUp; split <;> rfl
@[simp] theorem wakeUp_firmware (r : Option Nat) (s : State) : (wakeUp r s).firmware = s.firmware := by unfold wakeUp; split <;> rfl
@[simp] theorem wakeUp_security (r : Option Nat) (s : State) : (wakeUp r s).security = s.security := by unfold wakeUp; split <;> rfl
@[simp] theorem wakeUp_audit (r : Option Nat) (s : State) : (wakeUp r s).audit = s.audit := by unfold wakeUp; split <;> rfl
@[simp] theorem wakeUp_faultLog (r : Option Nat) (s : State) : (wakeUp r s).faultLog = s.faultLog := by unfold wakeUp; split <;> rfl
@[simp] theorem wakeUp_sessions (r : Option Nat) (s : State) : (wakeUp r s).sessions = s.sessions := by unfold wakeUp; split <;> rfl
@[simp] theorem wakeUp_host (r : Option Nat) (s : State) : (wakeUp r s).host = s.host := by unfold wakeUp; split <;> rfl
@[simp] theorem wakeUp_memory (r : Option Nat) (s : State) : (wakeUp r s).memory = s.memory := by unfold wakeUp; split <;> rfl
@[simp] theorem wakeUp_mirage (r : Option Nat) (s : State) : (wakeUp r s).mirage = s.mirage := by unfold wakeUp; split <;> rfl
@[simp] theorem wakeUp_repair (r : Option Nat) (s : State) : (wakeUp r s).repair = s.repair := by unfold wakeUp; split <;> rfl
@[simp] theorem wakeUp_image (r : Option Nat) (s : State) : (wakeUp r s).image = s.image := by unfold wakeUp; split <;> rfl
@[simp] theorem wakeUp_run (r : Option Nat) (s : State) : (wakeUp r s).run = s.run := by unfold wakeUp; split <;> rfl
@[simp] theorem wakeUp_scales (r : Option Nat) (s : State) : (wakeUp r s).scales = s.scales := by unfold wakeUp; split <;> rfl
@[simp] theorem wakeUp_engines (r : Option Nat) (s : State) : (wakeUp r s).engines = s.engines := by unfold wakeUp; split <;> rfl
@[simp] theorem wakeUp_kv (r : Option Nat) (s : State) : (wakeUp r s).kv = s.kv := by unfold wakeUp; split <;> rfl
@[simp] theorem wakeUp_reductions (r : Option Nat) (s : State) : (wakeUp r s).reductions = s.reductions := by unfold wakeUp; split <;> rfl
@[simp] theorem wakeUp_update (r : Option Nat) (s : State) : (wakeUp r s).update = s.update := by unfold wakeUp; split <;> rfl
@[simp] theorem wakeUp_versions (r : Option Nat) (s : State) : (wakeUp r s).versions = s.versions := by unfold wakeUp; split <;> rfl
@[simp] theorem wakeUp_changes (r : Option Nat) (s : State) : (wakeUp r s).changes = s.changes := by unfold wakeUp; split <;> rfl
@[simp] theorem wakeUp_mapping (r : Option Nat) (s : State) : (wakeUp r s).mapping = s.mapping := by unfold wakeUp; split <;> rfl
@[simp] theorem wakeUp_ckpt (r : Option Nat) (s : State) : (wakeUp r s).ckpt = s.ckpt := by unfold wakeUp; split <;> rfl
@[simp] theorem wakeUp_federation (r : Option Nat) (s : State) : (wakeUp r s).federation = s.federation := by unfold wakeUp; split <;> rfl
@[simp] theorem wakeUp_time (r : Option Nat) (s : State) : (wakeUp r s).time = s.time := by unfold wakeUp; split <;> rfl
@[simp] theorem wakeUp_boot (r : Option Nat) (s : State) : (wakeUp r s).boot = s.boot := by unfold wakeUp; split <;> rfl
@[simp] theorem wakeUp_pending (r : Option Nat) (s : State) : (wakeUp r s).pending = s.pending := by unfold wakeUp; split <;> rfl
@[simp] theorem wakeUp_free (r : Option Nat) (s : State) : (wakeUp r s).free = s.free := by unfold wakeUp; split <;> rfl

/-! `addFault`. -/

@[simp] theorem addFault_settings (ev k sc p l b n : Nat) (s : State) : (addFault ev k sc p l b n s).settings = s.settings := by simp [addFault]
@[simp] theorem addFault_firmware (ev k sc p l b n : Nat) (s : State) : (addFault ev k sc p l b n s).firmware = s.firmware := by simp [addFault]
@[simp] theorem addFault_security (ev k sc p l b n : Nat) (s : State) : (addFault ev k sc p l b n s).security = s.security := by simp [addFault]
@[simp] theorem addFault_audit (ev k sc p l b n : Nat) (s : State) : (addFault ev k sc p l b n s).audit = s.audit := by simp [addFault]
@[simp] theorem addFault_sessions (ev k sc p l b n : Nat) (s : State) : (addFault ev k sc p l b n s).sessions = s.sessions := by simp [addFault]
@[simp] theorem addFault_host (ev k sc p l b n : Nat) (s : State) : (addFault ev k sc p l b n s).host = s.host := by simp [addFault]
@[simp] theorem addFault_memory (ev k sc p l b n : Nat) (s : State) : (addFault ev k sc p l b n s).memory = s.memory := by simp [addFault]
@[simp] theorem addFault_mirage (ev k sc p l b n : Nat) (s : State) : (addFault ev k sc p l b n s).mirage = s.mirage := by simp [addFault]
@[simp] theorem addFault_repair (ev k sc p l b n : Nat) (s : State) : (addFault ev k sc p l b n s).repair = s.repair := by simp [addFault]
@[simp] theorem addFault_image (ev k sc p l b n : Nat) (s : State) : (addFault ev k sc p l b n s).image = s.image := by simp [addFault]
@[simp] theorem addFault_run (ev k sc p l b n : Nat) (s : State) : (addFault ev k sc p l b n s).run = s.run := by simp [addFault]
@[simp] theorem addFault_scales (ev k sc p l b n : Nat) (s : State) : (addFault ev k sc p l b n s).scales = s.scales := by simp [addFault]
@[simp] theorem addFault_engines (ev k sc p l b n : Nat) (s : State) : (addFault ev k sc p l b n s).engines = s.engines := by simp [addFault]
@[simp] theorem addFault_kv (ev k sc p l b n : Nat) (s : State) : (addFault ev k sc p l b n s).kv = s.kv := by simp [addFault]
@[simp] theorem addFault_reductions (ev k sc p l b n : Nat) (s : State) : (addFault ev k sc p l b n s).reductions = s.reductions := by simp [addFault]
@[simp] theorem addFault_update (ev k sc p l b n : Nat) (s : State) : (addFault ev k sc p l b n s).update = s.update := by simp [addFault]
@[simp] theorem addFault_versions (ev k sc p l b n : Nat) (s : State) : (addFault ev k sc p l b n s).versions = s.versions := by simp [addFault]
@[simp] theorem addFault_changes (ev k sc p l b n : Nat) (s : State) : (addFault ev k sc p l b n s).changes = s.changes := by simp [addFault]
@[simp] theorem addFault_mapping (ev k sc p l b n : Nat) (s : State) : (addFault ev k sc p l b n s).mapping = s.mapping := by simp [addFault]
@[simp] theorem addFault_ckpt (ev k sc p l b n : Nat) (s : State) : (addFault ev k sc p l b n s).ckpt = s.ckpt := by simp [addFault]
@[simp] theorem addFault_federation (ev k sc p l b n : Nat) (s : State) : (addFault ev k sc p l b n s).federation = s.federation := by simp [addFault]
@[simp] theorem addFault_time (ev k sc p l b n : Nat) (s : State) : (addFault ev k sc p l b n s).time = s.time := by simp [addFault]
@[simp] theorem addFault_boot (ev k sc p l b n : Nat) (s : State) : (addFault ev k sc p l b n s).boot = s.boot := by simp [addFault]
@[simp] theorem addFault_pending (ev k sc p l b n : Nat) (s : State) : (addFault ev k sc p l b n s).pending = s.pending := by simp [addFault]
@[simp] theorem addFault_free (ev k sc p l b n : Nat) (s : State) : (addFault ev k sc p l b n s).free = s.free := by simp [addFault]

/-! `addEvent`. -/

@[simp] theorem addEvent_settings (ev b n : Nat) (s : State) : (addEvent ev b n s).settings = s.settings := by simp [addEvent]
@[simp] theorem addEvent_firmware (ev b n : Nat) (s : State) : (addEvent ev b n s).firmware = s.firmware := by simp [addEvent]
@[simp] theorem addEvent_security (ev b n : Nat) (s : State) : (addEvent ev b n s).security = s.security := by simp [addEvent]
@[simp] theorem addEvent_audit (ev b n : Nat) (s : State) : (addEvent ev b n s).audit = s.audit := by simp [addEvent]
@[simp] theorem addEvent_sessions (ev b n : Nat) (s : State) : (addEvent ev b n s).sessions = s.sessions := by simp [addEvent]
@[simp] theorem addEvent_host (ev b n : Nat) (s : State) : (addEvent ev b n s).host = s.host := by simp [addEvent]
@[simp] theorem addEvent_memory (ev b n : Nat) (s : State) : (addEvent ev b n s).memory = s.memory := by simp [addEvent]
@[simp] theorem addEvent_mirage (ev b n : Nat) (s : State) : (addEvent ev b n s).mirage = s.mirage := by simp [addEvent]
@[simp] theorem addEvent_repair (ev b n : Nat) (s : State) : (addEvent ev b n s).repair = s.repair := by simp [addEvent]
@[simp] theorem addEvent_image (ev b n : Nat) (s : State) : (addEvent ev b n s).image = s.image := by simp [addEvent]
@[simp] theorem addEvent_run (ev b n : Nat) (s : State) : (addEvent ev b n s).run = s.run := by simp [addEvent]
@[simp] theorem addEvent_scales (ev b n : Nat) (s : State) : (addEvent ev b n s).scales = s.scales := by simp [addEvent]
@[simp] theorem addEvent_engines (ev b n : Nat) (s : State) : (addEvent ev b n s).engines = s.engines := by simp [addEvent]
@[simp] theorem addEvent_kv (ev b n : Nat) (s : State) : (addEvent ev b n s).kv = s.kv := by simp [addEvent]
@[simp] theorem addEvent_reductions (ev b n : Nat) (s : State) : (addEvent ev b n s).reductions = s.reductions := by simp [addEvent]
@[simp] theorem addEvent_update (ev b n : Nat) (s : State) : (addEvent ev b n s).update = s.update := by simp [addEvent]
@[simp] theorem addEvent_versions (ev b n : Nat) (s : State) : (addEvent ev b n s).versions = s.versions := by simp [addEvent]
@[simp] theorem addEvent_changes (ev b n : Nat) (s : State) : (addEvent ev b n s).changes = s.changes := by simp [addEvent]
@[simp] theorem addEvent_mapping (ev b n : Nat) (s : State) : (addEvent ev b n s).mapping = s.mapping := by simp [addEvent]
@[simp] theorem addEvent_ckpt (ev b n : Nat) (s : State) : (addEvent ev b n s).ckpt = s.ckpt := by simp [addEvent]
@[simp] theorem addEvent_federation (ev b n : Nat) (s : State) : (addEvent ev b n s).federation = s.federation := by simp [addEvent]
@[simp] theorem addEvent_time (ev b n : Nat) (s : State) : (addEvent ev b n s).time = s.time := by simp [addEvent]
@[simp] theorem addEvent_boot (ev b n : Nat) (s : State) : (addEvent ev b n s).boot = s.boot := by simp [addEvent]
@[simp] theorem addEvent_pending (ev b n : Nat) (s : State) : (addEvent ev b n s).pending = s.pending := by simp [addEvent]
@[simp] theorem addEvent_free (ev b n : Nat) (s : State) : (addEvent ev b n s).free = s.free := by simp [addEvent]

/-! `addThreadFault`. -/

@[simp] theorem addThreadFault_settings (k l th c ca ct a : Nat) (s : State) : (addThreadFault k l th c ca ct a s).settings = s.settings := by simp [addThreadFault]
@[simp] theorem addThreadFault_firmware (k l th c ca ct a : Nat) (s : State) : (addThreadFault k l th c ca ct a s).firmware = s.firmware := by simp [addThreadFault]
@[simp] theorem addThreadFault_security (k l th c ca ct a : Nat) (s : State) : (addThreadFault k l th c ca ct a s).security = s.security := by simp [addThreadFault]
@[simp] theorem addThreadFault_audit (k l th c ca ct a : Nat) (s : State) : (addThreadFault k l th c ca ct a s).audit = s.audit := by simp [addThreadFault]
@[simp] theorem addThreadFault_sessions (k l th c ca ct a : Nat) (s : State) : (addThreadFault k l th c ca ct a s).sessions = s.sessions := by simp [addThreadFault]
@[simp] theorem addThreadFault_host (k l th c ca ct a : Nat) (s : State) : (addThreadFault k l th c ca ct a s).host = s.host := by simp [addThreadFault]
@[simp] theorem addThreadFault_memory (k l th c ca ct a : Nat) (s : State) : (addThreadFault k l th c ca ct a s).memory = s.memory := by simp [addThreadFault]
@[simp] theorem addThreadFault_mirage (k l th c ca ct a : Nat) (s : State) : (addThreadFault k l th c ca ct a s).mirage = s.mirage := by simp [addThreadFault]
@[simp] theorem addThreadFault_repair (k l th c ca ct a : Nat) (s : State) : (addThreadFault k l th c ca ct a s).repair = s.repair := by simp [addThreadFault]
@[simp] theorem addThreadFault_image (k l th c ca ct a : Nat) (s : State) : (addThreadFault k l th c ca ct a s).image = s.image := by simp [addThreadFault]
@[simp] theorem addThreadFault_run (k l th c ca ct a : Nat) (s : State) : (addThreadFault k l th c ca ct a s).run = s.run := by simp [addThreadFault]
@[simp] theorem addThreadFault_scales (k l th c ca ct a : Nat) (s : State) : (addThreadFault k l th c ca ct a s).scales = s.scales := by simp [addThreadFault]
@[simp] theorem addThreadFault_engines (k l th c ca ct a : Nat) (s : State) : (addThreadFault k l th c ca ct a s).engines = s.engines := by simp [addThreadFault]
@[simp] theorem addThreadFault_kv (k l th c ca ct a : Nat) (s : State) : (addThreadFault k l th c ca ct a s).kv = s.kv := by simp [addThreadFault]
@[simp] theorem addThreadFault_reductions (k l th c ca ct a : Nat) (s : State) : (addThreadFault k l th c ca ct a s).reductions = s.reductions := by simp [addThreadFault]
@[simp] theorem addThreadFault_update (k l th c ca ct a : Nat) (s : State) : (addThreadFault k l th c ca ct a s).update = s.update := by simp [addThreadFault]
@[simp] theorem addThreadFault_versions (k l th c ca ct a : Nat) (s : State) : (addThreadFault k l th c ca ct a s).versions = s.versions := by simp [addThreadFault]
@[simp] theorem addThreadFault_changes (k l th c ca ct a : Nat) (s : State) : (addThreadFault k l th c ca ct a s).changes = s.changes := by simp [addThreadFault]
@[simp] theorem addThreadFault_mapping (k l th c ca ct a : Nat) (s : State) : (addThreadFault k l th c ca ct a s).mapping = s.mapping := by simp [addThreadFault]
@[simp] theorem addThreadFault_ckpt (k l th c ca ct a : Nat) (s : State) : (addThreadFault k l th c ca ct a s).ckpt = s.ckpt := by simp [addThreadFault]
@[simp] theorem addThreadFault_federation (k l th c ca ct a : Nat) (s : State) : (addThreadFault k l th c ca ct a s).federation = s.federation := by simp [addThreadFault]
@[simp] theorem addThreadFault_time (k l th c ca ct a : Nat) (s : State) : (addThreadFault k l th c ca ct a s).time = s.time := by simp [addThreadFault]
@[simp] theorem addThreadFault_boot (k l th c ca ct a : Nat) (s : State) : (addThreadFault k l th c ca ct a s).boot = s.boot := by simp [addThreadFault]
@[simp] theorem addThreadFault_pending (k l th c ca ct a : Nat) (s : State) : (addThreadFault k l th c ca ct a s).pending = s.pending := by simp [addThreadFault]
@[simp] theorem addThreadFault_free (k l th c ca ct a : Nat) (s : State) : (addThreadFault k l th c ca ct a s).free = s.free := by simp [addThreadFault]

/-! `auditEntry`. -/

@[simp] theorem auditEntry_settings (o c sid r ev ce a : Nat) (s : State) : (auditEntry o c sid r ev ce a s).settings = s.settings := by unfold auditEntry; split <;> simp
@[simp] theorem auditEntry_firmware (o c sid r ev ce a : Nat) (s : State) : (auditEntry o c sid r ev ce a s).firmware = s.firmware := by unfold auditEntry; split <;> simp
@[simp] theorem auditEntry_security (o c sid r ev ce a : Nat) (s : State) : (auditEntry o c sid r ev ce a s).security = s.security := by unfold auditEntry; split <;> simp
@[simp] theorem auditEntry_sessions (o c sid r ev ce a : Nat) (s : State) : (auditEntry o c sid r ev ce a s).sessions = s.sessions := by unfold auditEntry; split <;> simp
@[simp] theorem auditEntry_host (o c sid r ev ce a : Nat) (s : State) : (auditEntry o c sid r ev ce a s).host = s.host := by unfold auditEntry; split <;> simp
@[simp] theorem auditEntry_memory (o c sid r ev ce a : Nat) (s : State) : (auditEntry o c sid r ev ce a s).memory = s.memory := by unfold auditEntry; split <;> simp
@[simp] theorem auditEntry_mirage (o c sid r ev ce a : Nat) (s : State) : (auditEntry o c sid r ev ce a s).mirage = s.mirage := by unfold auditEntry; split <;> simp
@[simp] theorem auditEntry_repair (o c sid r ev ce a : Nat) (s : State) : (auditEntry o c sid r ev ce a s).repair = s.repair := by unfold auditEntry; split <;> simp
@[simp] theorem auditEntry_image (o c sid r ev ce a : Nat) (s : State) : (auditEntry o c sid r ev ce a s).image = s.image := by unfold auditEntry; split <;> simp
@[simp] theorem auditEntry_run (o c sid r ev ce a : Nat) (s : State) : (auditEntry o c sid r ev ce a s).run = s.run := by unfold auditEntry; split <;> simp
@[simp] theorem auditEntry_scales (o c sid r ev ce a : Nat) (s : State) : (auditEntry o c sid r ev ce a s).scales = s.scales := by unfold auditEntry; split <;> simp
@[simp] theorem auditEntry_engines (o c sid r ev ce a : Nat) (s : State) : (auditEntry o c sid r ev ce a s).engines = s.engines := by unfold auditEntry; split <;> simp
@[simp] theorem auditEntry_kv (o c sid r ev ce a : Nat) (s : State) : (auditEntry o c sid r ev ce a s).kv = s.kv := by unfold auditEntry; split <;> simp
@[simp] theorem auditEntry_reductions (o c sid r ev ce a : Nat) (s : State) : (auditEntry o c sid r ev ce a s).reductions = s.reductions := by unfold auditEntry; split <;> simp
@[simp] theorem auditEntry_update (o c sid r ev ce a : Nat) (s : State) : (auditEntry o c sid r ev ce a s).update = s.update := by unfold auditEntry; split <;> simp
@[simp] theorem auditEntry_versions (o c sid r ev ce a : Nat) (s : State) : (auditEntry o c sid r ev ce a s).versions = s.versions := by unfold auditEntry; split <;> simp
@[simp] theorem auditEntry_changes (o c sid r ev ce a : Nat) (s : State) : (auditEntry o c sid r ev ce a s).changes = s.changes := by unfold auditEntry; split <;> simp
@[simp] theorem auditEntry_mapping (o c sid r ev ce a : Nat) (s : State) : (auditEntry o c sid r ev ce a s).mapping = s.mapping := by unfold auditEntry; split <;> simp
@[simp] theorem auditEntry_ckpt (o c sid r ev ce a : Nat) (s : State) : (auditEntry o c sid r ev ce a s).ckpt = s.ckpt := by unfold auditEntry; split <;> simp
@[simp] theorem auditEntry_federation (o c sid r ev ce a : Nat) (s : State) : (auditEntry o c sid r ev ce a s).federation = s.federation := by unfold auditEntry; split <;> simp
@[simp] theorem auditEntry_time (o c sid r ev ce a : Nat) (s : State) : (auditEntry o c sid r ev ce a s).time = s.time := by unfold auditEntry; split <;> simp
@[simp] theorem auditEntry_boot (o c sid r ev ce a : Nat) (s : State) : (auditEntry o c sid r ev ce a s).boot = s.boot := by unfold auditEntry; split <;> simp
@[simp] theorem auditEntry_pending (o c sid r ev ce a : Nat) (s : State) : (auditEntry o c sid r ev ce a s).pending = s.pending := by unfold auditEntry; split <;> simp
@[simp] theorem auditEntry_free (o c sid r ev ce a : Nat) (s : State) : (auditEntry o c sid r ev ce a s).free = s.free := by unfold auditEntry; split <;> simp

/-! `auditModule`. -/

@[simp] theorem auditModule_settings (ev a : Nat) (s : State) : (auditModule ev a s).settings = s.settings := by simp [auditModule]
@[simp] theorem auditModule_firmware (ev a : Nat) (s : State) : (auditModule ev a s).firmware = s.firmware := by simp [auditModule]
@[simp] theorem auditModule_security (ev a : Nat) (s : State) : (auditModule ev a s).security = s.security := by simp [auditModule]
@[simp] theorem auditModule_sessions (ev a : Nat) (s : State) : (auditModule ev a s).sessions = s.sessions := by simp [auditModule]
@[simp] theorem auditModule_host (ev a : Nat) (s : State) : (auditModule ev a s).host = s.host := by simp [auditModule]
@[simp] theorem auditModule_memory (ev a : Nat) (s : State) : (auditModule ev a s).memory = s.memory := by simp [auditModule]
@[simp] theorem auditModule_mirage (ev a : Nat) (s : State) : (auditModule ev a s).mirage = s.mirage := by simp [auditModule]
@[simp] theorem auditModule_repair (ev a : Nat) (s : State) : (auditModule ev a s).repair = s.repair := by simp [auditModule]
@[simp] theorem auditModule_image (ev a : Nat) (s : State) : (auditModule ev a s).image = s.image := by simp [auditModule]
@[simp] theorem auditModule_run (ev a : Nat) (s : State) : (auditModule ev a s).run = s.run := by simp [auditModule]
@[simp] theorem auditModule_scales (ev a : Nat) (s : State) : (auditModule ev a s).scales = s.scales := by simp [auditModule]
@[simp] theorem auditModule_engines (ev a : Nat) (s : State) : (auditModule ev a s).engines = s.engines := by simp [auditModule]
@[simp] theorem auditModule_kv (ev a : Nat) (s : State) : (auditModule ev a s).kv = s.kv := by simp [auditModule]
@[simp] theorem auditModule_reductions (ev a : Nat) (s : State) : (auditModule ev a s).reductions = s.reductions := by simp [auditModule]
@[simp] theorem auditModule_update (ev a : Nat) (s : State) : (auditModule ev a s).update = s.update := by simp [auditModule]
@[simp] theorem auditModule_versions (ev a : Nat) (s : State) : (auditModule ev a s).versions = s.versions := by simp [auditModule]
@[simp] theorem auditModule_changes (ev a : Nat) (s : State) : (auditModule ev a s).changes = s.changes := by simp [auditModule]
@[simp] theorem auditModule_mapping (ev a : Nat) (s : State) : (auditModule ev a s).mapping = s.mapping := by simp [auditModule]
@[simp] theorem auditModule_ckpt (ev a : Nat) (s : State) : (auditModule ev a s).ckpt = s.ckpt := by simp [auditModule]
@[simp] theorem auditModule_federation (ev a : Nat) (s : State) : (auditModule ev a s).federation = s.federation := by simp [auditModule]
@[simp] theorem auditModule_time (ev a : Nat) (s : State) : (auditModule ev a s).time = s.time := by simp [auditModule]
@[simp] theorem auditModule_boot (ev a : Nat) (s : State) : (auditModule ev a s).boot = s.boot := by simp [auditModule]
@[simp] theorem auditModule_pending (ev a : Nat) (s : State) : (auditModule ev a s).pending = s.pending := by simp [auditModule]
@[simp] theorem auditModule_free (ev a : Nat) (s : State) : (auditModule ev a s).free = s.free := by simp [auditModule]

/-! `takeFree`. -/

@[simp] theorem takeFree_settings (s : State) : (takeFree s).2.settings = s.settings := rfl
@[simp] theorem takeFree_firmware (s : State) : (takeFree s).2.firmware = s.firmware := rfl
@[simp] theorem takeFree_security (s : State) : (takeFree s).2.security = s.security := rfl
@[simp] theorem takeFree_audit (s : State) : (takeFree s).2.audit = s.audit := rfl
@[simp] theorem takeFree_faultLog (s : State) : (takeFree s).2.faultLog = s.faultLog := rfl
@[simp] theorem takeFree_sessions (s : State) : (takeFree s).2.sessions = s.sessions := rfl
@[simp] theorem takeFree_host (s : State) : (takeFree s).2.host = s.host := rfl
@[simp] theorem takeFree_memory (s : State) : (takeFree s).2.memory = s.memory := rfl
@[simp] theorem takeFree_mirage (s : State) : (takeFree s).2.mirage = s.mirage := rfl
@[simp] theorem takeFree_repair (s : State) : (takeFree s).2.repair = s.repair := rfl
@[simp] theorem takeFree_image (s : State) : (takeFree s).2.image = s.image := rfl
@[simp] theorem takeFree_run (s : State) : (takeFree s).2.run = s.run := rfl
@[simp] theorem takeFree_scales (s : State) : (takeFree s).2.scales = s.scales := rfl
@[simp] theorem takeFree_engines (s : State) : (takeFree s).2.engines = s.engines := rfl
@[simp] theorem takeFree_kv (s : State) : (takeFree s).2.kv = s.kv := rfl
@[simp] theorem takeFree_reductions (s : State) : (takeFree s).2.reductions = s.reductions := rfl
@[simp] theorem takeFree_update (s : State) : (takeFree s).2.update = s.update := rfl
@[simp] theorem takeFree_versions (s : State) : (takeFree s).2.versions = s.versions := rfl
@[simp] theorem takeFree_changes (s : State) : (takeFree s).2.changes = s.changes := rfl
@[simp] theorem takeFree_mapping (s : State) : (takeFree s).2.mapping = s.mapping := rfl
@[simp] theorem takeFree_ckpt (s : State) : (takeFree s).2.ckpt = s.ckpt := rfl
@[simp] theorem takeFree_federation (s : State) : (takeFree s).2.federation = s.federation := rfl
@[simp] theorem takeFree_fabric (s : State) : (takeFree s).2.fabric = s.fabric := rfl
@[simp] theorem takeFree_time (s : State) : (takeFree s).2.time = s.time := rfl
@[simp] theorem takeFree_power (s : State) : (takeFree s).2.power = s.power := rfl
@[simp] theorem takeFree_boot (s : State) : (takeFree s).2.boot = s.boot := rfl
@[simp] theorem takeFree_out (s : State) : (takeFree s).2.out = s.out := rfl
@[simp] theorem takeFree_pending (s : State) : (takeFree s).2.pending = s.pending := rfl

/-! `sendFrames`. -/

@[simp] theorem sendFrames_settings (fs : List (Option Nat × Frame)) (s : State) : (sendFrames fs s).1.settings = s.settings := rfl
@[simp] theorem sendFrames_firmware (fs : List (Option Nat × Frame)) (s : State) : (sendFrames fs s).1.firmware = s.firmware := rfl
@[simp] theorem sendFrames_security (fs : List (Option Nat × Frame)) (s : State) : (sendFrames fs s).1.security = s.security := rfl
@[simp] theorem sendFrames_audit (fs : List (Option Nat × Frame)) (s : State) : (sendFrames fs s).1.audit = s.audit := rfl
@[simp] theorem sendFrames_faultLog (fs : List (Option Nat × Frame)) (s : State) : (sendFrames fs s).1.faultLog = s.faultLog := rfl
@[simp] theorem sendFrames_sessions (fs : List (Option Nat × Frame)) (s : State) : (sendFrames fs s).1.sessions = s.sessions := rfl
@[simp] theorem sendFrames_host (fs : List (Option Nat × Frame)) (s : State) : (sendFrames fs s).1.host = s.host := rfl
@[simp] theorem sendFrames_memory (fs : List (Option Nat × Frame)) (s : State) : (sendFrames fs s).1.memory = s.memory := rfl
@[simp] theorem sendFrames_mirage (fs : List (Option Nat × Frame)) (s : State) : (sendFrames fs s).1.mirage = s.mirage := rfl
@[simp] theorem sendFrames_repair (fs : List (Option Nat × Frame)) (s : State) : (sendFrames fs s).1.repair = s.repair := rfl
@[simp] theorem sendFrames_image (fs : List (Option Nat × Frame)) (s : State) : (sendFrames fs s).1.image = s.image := rfl
@[simp] theorem sendFrames_run (fs : List (Option Nat × Frame)) (s : State) : (sendFrames fs s).1.run = s.run := rfl
@[simp] theorem sendFrames_scales (fs : List (Option Nat × Frame)) (s : State) : (sendFrames fs s).1.scales = s.scales := rfl
@[simp] theorem sendFrames_engines (fs : List (Option Nat × Frame)) (s : State) : (sendFrames fs s).1.engines = s.engines := rfl
@[simp] theorem sendFrames_kv (fs : List (Option Nat × Frame)) (s : State) : (sendFrames fs s).1.kv = s.kv := rfl
@[simp] theorem sendFrames_reductions (fs : List (Option Nat × Frame)) (s : State) : (sendFrames fs s).1.reductions = s.reductions := rfl
@[simp] theorem sendFrames_update (fs : List (Option Nat × Frame)) (s : State) : (sendFrames fs s).1.update = s.update := rfl
@[simp] theorem sendFrames_versions (fs : List (Option Nat × Frame)) (s : State) : (sendFrames fs s).1.versions = s.versions := rfl
@[simp] theorem sendFrames_changes (fs : List (Option Nat × Frame)) (s : State) : (sendFrames fs s).1.changes = s.changes := rfl
@[simp] theorem sendFrames_mapping (fs : List (Option Nat × Frame)) (s : State) : (sendFrames fs s).1.mapping = s.mapping := rfl
@[simp] theorem sendFrames_ckpt (fs : List (Option Nat × Frame)) (s : State) : (sendFrames fs s).1.ckpt = s.ckpt := rfl
@[simp] theorem sendFrames_federation (fs : List (Option Nat × Frame)) (s : State) : (sendFrames fs s).1.federation = s.federation := rfl
@[simp] theorem sendFrames_time (fs : List (Option Nat × Frame)) (s : State) : (sendFrames fs s).1.time = s.time := rfl
@[simp] theorem sendFrames_power (fs : List (Option Nat × Frame)) (s : State) : (sendFrames fs s).1.power = s.power := rfl
@[simp] theorem sendFrames_boot (fs : List (Option Nat × Frame)) (s : State) : (sendFrames fs s).1.boot = s.boot := rfl
@[simp] theorem sendFrames_pending (fs : List (Option Nat × Frame)) (s : State) : (sendFrames fs s).1.pending = s.pending := rfl
@[simp] theorem sendFrames_free (fs : List (Option Nat × Frame)) (s : State) : (sendFrames fs s).1.free = s.free := rfl

/-! `onFabric`. -/

@[simp] theorem onFabric_settings (g : Fabric → Fabric × List Emission) (s : State) : (onFabric g s).settings = s.settings := rfl
@[simp] theorem onFabric_firmware (g : Fabric → Fabric × List Emission) (s : State) : (onFabric g s).firmware = s.firmware := rfl
@[simp] theorem onFabric_security (g : Fabric → Fabric × List Emission) (s : State) : (onFabric g s).security = s.security := rfl
@[simp] theorem onFabric_audit (g : Fabric → Fabric × List Emission) (s : State) : (onFabric g s).audit = s.audit := rfl
@[simp] theorem onFabric_faultLog (g : Fabric → Fabric × List Emission) (s : State) : (onFabric g s).faultLog = s.faultLog := rfl
@[simp] theorem onFabric_sessions (g : Fabric → Fabric × List Emission) (s : State) : (onFabric g s).sessions = s.sessions := rfl
@[simp] theorem onFabric_host (g : Fabric → Fabric × List Emission) (s : State) : (onFabric g s).host = s.host := rfl
@[simp] theorem onFabric_memory (g : Fabric → Fabric × List Emission) (s : State) : (onFabric g s).memory = s.memory := rfl
@[simp] theorem onFabric_mirage (g : Fabric → Fabric × List Emission) (s : State) : (onFabric g s).mirage = s.mirage := rfl
@[simp] theorem onFabric_repair (g : Fabric → Fabric × List Emission) (s : State) : (onFabric g s).repair = s.repair := rfl
@[simp] theorem onFabric_image (g : Fabric → Fabric × List Emission) (s : State) : (onFabric g s).image = s.image := rfl
@[simp] theorem onFabric_run (g : Fabric → Fabric × List Emission) (s : State) : (onFabric g s).run = s.run := rfl
@[simp] theorem onFabric_scales (g : Fabric → Fabric × List Emission) (s : State) : (onFabric g s).scales = s.scales := rfl
@[simp] theorem onFabric_engines (g : Fabric → Fabric × List Emission) (s : State) : (onFabric g s).engines = s.engines := rfl
@[simp] theorem onFabric_kv (g : Fabric → Fabric × List Emission) (s : State) : (onFabric g s).kv = s.kv := rfl
@[simp] theorem onFabric_reductions (g : Fabric → Fabric × List Emission) (s : State) : (onFabric g s).reductions = s.reductions := rfl
@[simp] theorem onFabric_update (g : Fabric → Fabric × List Emission) (s : State) : (onFabric g s).update = s.update := rfl
@[simp] theorem onFabric_versions (g : Fabric → Fabric × List Emission) (s : State) : (onFabric g s).versions = s.versions := rfl
@[simp] theorem onFabric_changes (g : Fabric → Fabric × List Emission) (s : State) : (onFabric g s).changes = s.changes := rfl
@[simp] theorem onFabric_mapping (g : Fabric → Fabric × List Emission) (s : State) : (onFabric g s).mapping = s.mapping := rfl
@[simp] theorem onFabric_ckpt (g : Fabric → Fabric × List Emission) (s : State) : (onFabric g s).ckpt = s.ckpt := rfl
@[simp] theorem onFabric_federation (g : Fabric → Fabric × List Emission) (s : State) : (onFabric g s).federation = s.federation := rfl
@[simp] theorem onFabric_time (g : Fabric → Fabric × List Emission) (s : State) : (onFabric g s).time = s.time := rfl
@[simp] theorem onFabric_power (g : Fabric → Fabric × List Emission) (s : State) : (onFabric g s).power = s.power := rfl
@[simp] theorem onFabric_boot (g : Fabric → Fabric × List Emission) (s : State) : (onFabric g s).boot = s.boot := rfl
@[simp] theorem onFabric_pending (g : Fabric → Fabric × List Emission) (s : State) : (onFabric g s).pending = s.pending := rfl
@[simp] theorem onFabric_free (g : Fabric → Fabric × List Emission) (s : State) : (onFabric g s).free = s.free := rfl

/-! `sendLink`. -/

@[simp] theorem sendLink_settings (p l : Nat) (fl : List (Nat × Nat × Nat)) (s : State) : (sendLink p l fl s).settings = s.settings := rfl
@[simp] theorem sendLink_firmware (p l : Nat) (fl : List (Nat × Nat × Nat)) (s : State) : (sendLink p l fl s).firmware = s.firmware := rfl
@[simp] theorem sendLink_security (p l : Nat) (fl : List (Nat × Nat × Nat)) (s : State) : (sendLink p l fl s).security = s.security := rfl
@[simp] theorem sendLink_audit (p l : Nat) (fl : List (Nat × Nat × Nat)) (s : State) : (sendLink p l fl s).audit = s.audit := rfl
@[simp] theorem sendLink_faultLog (p l : Nat) (fl : List (Nat × Nat × Nat)) (s : State) : (sendLink p l fl s).faultLog = s.faultLog := rfl
@[simp] theorem sendLink_sessions (p l : Nat) (fl : List (Nat × Nat × Nat)) (s : State) : (sendLink p l fl s).sessions = s.sessions := rfl
@[simp] theorem sendLink_host (p l : Nat) (fl : List (Nat × Nat × Nat)) (s : State) : (sendLink p l fl s).host = s.host := rfl
@[simp] theorem sendLink_memory (p l : Nat) (fl : List (Nat × Nat × Nat)) (s : State) : (sendLink p l fl s).memory = s.memory := rfl
@[simp] theorem sendLink_mirage (p l : Nat) (fl : List (Nat × Nat × Nat)) (s : State) : (sendLink p l fl s).mirage = s.mirage := rfl
@[simp] theorem sendLink_repair (p l : Nat) (fl : List (Nat × Nat × Nat)) (s : State) : (sendLink p l fl s).repair = s.repair := rfl
@[simp] theorem sendLink_image (p l : Nat) (fl : List (Nat × Nat × Nat)) (s : State) : (sendLink p l fl s).image = s.image := rfl
@[simp] theorem sendLink_run (p l : Nat) (fl : List (Nat × Nat × Nat)) (s : State) : (sendLink p l fl s).run = s.run := rfl
@[simp] theorem sendLink_scales (p l : Nat) (fl : List (Nat × Nat × Nat)) (s : State) : (sendLink p l fl s).scales = s.scales := rfl
@[simp] theorem sendLink_engines (p l : Nat) (fl : List (Nat × Nat × Nat)) (s : State) : (sendLink p l fl s).engines = s.engines := rfl
@[simp] theorem sendLink_kv (p l : Nat) (fl : List (Nat × Nat × Nat)) (s : State) : (sendLink p l fl s).kv = s.kv := rfl
@[simp] theorem sendLink_reductions (p l : Nat) (fl : List (Nat × Nat × Nat)) (s : State) : (sendLink p l fl s).reductions = s.reductions := rfl
@[simp] theorem sendLink_update (p l : Nat) (fl : List (Nat × Nat × Nat)) (s : State) : (sendLink p l fl s).update = s.update := rfl
@[simp] theorem sendLink_versions (p l : Nat) (fl : List (Nat × Nat × Nat)) (s : State) : (sendLink p l fl s).versions = s.versions := rfl
@[simp] theorem sendLink_changes (p l : Nat) (fl : List (Nat × Nat × Nat)) (s : State) : (sendLink p l fl s).changes = s.changes := rfl
@[simp] theorem sendLink_mapping (p l : Nat) (fl : List (Nat × Nat × Nat)) (s : State) : (sendLink p l fl s).mapping = s.mapping := rfl
@[simp] theorem sendLink_ckpt (p l : Nat) (fl : List (Nat × Nat × Nat)) (s : State) : (sendLink p l fl s).ckpt = s.ckpt := rfl
@[simp] theorem sendLink_federation (p l : Nat) (fl : List (Nat × Nat × Nat)) (s : State) : (sendLink p l fl s).federation = s.federation := rfl
@[simp] theorem sendLink_time (p l : Nat) (fl : List (Nat × Nat × Nat)) (s : State) : (sendLink p l fl s).time = s.time := rfl
@[simp] theorem sendLink_power (p l : Nat) (fl : List (Nat × Nat × Nat)) (s : State) : (sendLink p l fl s).power = s.power := rfl
@[simp] theorem sendLink_boot (p l : Nat) (fl : List (Nat × Nat × Nat)) (s : State) : (sendLink p l fl s).boot = s.boot := rfl
@[simp] theorem sendLink_pending (p l : Nat) (fl : List (Nat × Nat × Nat)) (s : State) : (sendLink p l fl s).pending = s.pending := rfl
@[simp] theorem sendLink_free (p l : Nat) (fl : List (Nat × Nat × Nat)) (s : State) : (sendLink p l fl s).free = s.free := rfl

/-! `onPort`. -/

@[simp] theorem onPort_settings (n : Nat) (g : Port → Port) (s : State) : (onPort n g s).settings = s.settings := rfl
@[simp] theorem onPort_firmware (n : Nat) (g : Port → Port) (s : State) : (onPort n g s).firmware = s.firmware := rfl
@[simp] theorem onPort_security (n : Nat) (g : Port → Port) (s : State) : (onPort n g s).security = s.security := rfl
@[simp] theorem onPort_audit (n : Nat) (g : Port → Port) (s : State) : (onPort n g s).audit = s.audit := rfl
@[simp] theorem onPort_faultLog (n : Nat) (g : Port → Port) (s : State) : (onPort n g s).faultLog = s.faultLog := rfl
@[simp] theorem onPort_sessions (n : Nat) (g : Port → Port) (s : State) : (onPort n g s).sessions = s.sessions := rfl
@[simp] theorem onPort_host (n : Nat) (g : Port → Port) (s : State) : (onPort n g s).host = s.host := rfl
@[simp] theorem onPort_memory (n : Nat) (g : Port → Port) (s : State) : (onPort n g s).memory = s.memory := rfl
@[simp] theorem onPort_mirage (n : Nat) (g : Port → Port) (s : State) : (onPort n g s).mirage = s.mirage := rfl
@[simp] theorem onPort_repair (n : Nat) (g : Port → Port) (s : State) : (onPort n g s).repair = s.repair := rfl
@[simp] theorem onPort_image (n : Nat) (g : Port → Port) (s : State) : (onPort n g s).image = s.image := rfl
@[simp] theorem onPort_run (n : Nat) (g : Port → Port) (s : State) : (onPort n g s).run = s.run := rfl
@[simp] theorem onPort_scales (n : Nat) (g : Port → Port) (s : State) : (onPort n g s).scales = s.scales := rfl
@[simp] theorem onPort_engines (n : Nat) (g : Port → Port) (s : State) : (onPort n g s).engines = s.engines := rfl
@[simp] theorem onPort_kv (n : Nat) (g : Port → Port) (s : State) : (onPort n g s).kv = s.kv := rfl
@[simp] theorem onPort_reductions (n : Nat) (g : Port → Port) (s : State) : (onPort n g s).reductions = s.reductions := rfl
@[simp] theorem onPort_update (n : Nat) (g : Port → Port) (s : State) : (onPort n g s).update = s.update := rfl
@[simp] theorem onPort_versions (n : Nat) (g : Port → Port) (s : State) : (onPort n g s).versions = s.versions := rfl
@[simp] theorem onPort_changes (n : Nat) (g : Port → Port) (s : State) : (onPort n g s).changes = s.changes := rfl
@[simp] theorem onPort_mapping (n : Nat) (g : Port → Port) (s : State) : (onPort n g s).mapping = s.mapping := rfl
@[simp] theorem onPort_ckpt (n : Nat) (g : Port → Port) (s : State) : (onPort n g s).ckpt = s.ckpt := rfl
@[simp] theorem onPort_federation (n : Nat) (g : Port → Port) (s : State) : (onPort n g s).federation = s.federation := rfl
@[simp] theorem onPort_time (n : Nat) (g : Port → Port) (s : State) : (onPort n g s).time = s.time := rfl
@[simp] theorem onPort_power (n : Nat) (g : Port → Port) (s : State) : (onPort n g s).power = s.power := rfl
@[simp] theorem onPort_boot (n : Nat) (g : Port → Port) (s : State) : (onPort n g s).boot = s.boot := rfl
@[simp] theorem onPort_out (n : Nat) (g : Port → Port) (s : State) : (onPort n g s).out = s.out := rfl
@[simp] theorem onPort_pending (n : Nat) (g : Port → Port) (s : State) : (onPort n g s).pending = s.pending := rfl
@[simp] theorem onPort_free (n : Nat) (g : Port → Port) (s : State) : (onPort n g s).free = s.free := rfl

/-! `discardOn`. -/

@[simp] theorem discardOn_settings (n : Nat) (s : State) : (discardOn n s).settings = s.settings := rfl
@[simp] theorem discardOn_firmware (n : Nat) (s : State) : (discardOn n s).firmware = s.firmware := rfl
@[simp] theorem discardOn_security (n : Nat) (s : State) : (discardOn n s).security = s.security := rfl
@[simp] theorem discardOn_audit (n : Nat) (s : State) : (discardOn n s).audit = s.audit := rfl
@[simp] theorem discardOn_faultLog (n : Nat) (s : State) : (discardOn n s).faultLog = s.faultLog := rfl
@[simp] theorem discardOn_sessions (n : Nat) (s : State) : (discardOn n s).sessions = s.sessions := rfl
@[simp] theorem discardOn_host (n : Nat) (s : State) : (discardOn n s).host = s.host := rfl
@[simp] theorem discardOn_memory (n : Nat) (s : State) : (discardOn n s).memory = s.memory := rfl
@[simp] theorem discardOn_mirage (n : Nat) (s : State) : (discardOn n s).mirage = s.mirage := rfl
@[simp] theorem discardOn_repair (n : Nat) (s : State) : (discardOn n s).repair = s.repair := rfl
@[simp] theorem discardOn_image (n : Nat) (s : State) : (discardOn n s).image = s.image := rfl
@[simp] theorem discardOn_run (n : Nat) (s : State) : (discardOn n s).run = s.run := rfl
@[simp] theorem discardOn_scales (n : Nat) (s : State) : (discardOn n s).scales = s.scales := rfl
@[simp] theorem discardOn_engines (n : Nat) (s : State) : (discardOn n s).engines = s.engines := rfl
@[simp] theorem discardOn_kv (n : Nat) (s : State) : (discardOn n s).kv = s.kv := rfl
@[simp] theorem discardOn_reductions (n : Nat) (s : State) : (discardOn n s).reductions = s.reductions := rfl
@[simp] theorem discardOn_update (n : Nat) (s : State) : (discardOn n s).update = s.update := rfl
@[simp] theorem discardOn_versions (n : Nat) (s : State) : (discardOn n s).versions = s.versions := rfl
@[simp] theorem discardOn_changes (n : Nat) (s : State) : (discardOn n s).changes = s.changes := rfl
@[simp] theorem discardOn_mapping (n : Nat) (s : State) : (discardOn n s).mapping = s.mapping := rfl
@[simp] theorem discardOn_ckpt (n : Nat) (s : State) : (discardOn n s).ckpt = s.ckpt := rfl
@[simp] theorem discardOn_federation (n : Nat) (s : State) : (discardOn n s).federation = s.federation := rfl
@[simp] theorem discardOn_time (n : Nat) (s : State) : (discardOn n s).time = s.time := rfl
@[simp] theorem discardOn_power (n : Nat) (s : State) : (discardOn n s).power = s.power := rfl
@[simp] theorem discardOn_boot (n : Nat) (s : State) : (discardOn n s).boot = s.boot := rfl
@[simp] theorem discardOn_out (n : Nat) (s : State) : (discardOn n s).out = s.out := rfl
@[simp] theorem discardOn_pending (n : Nat) (s : State) : (discardOn n s).pending = s.pending := rfl
@[simp] theorem discardOn_free (n : Nat) (s : State) : (discardOn n s).free = s.free := rfl

/-! `takeFrame`. -/

@[simp] theorem takeFrame_settings (f : Frame) (s : State) : (takeFrame f s).settings = s.settings := rfl
@[simp] theorem takeFrame_firmware (f : Frame) (s : State) : (takeFrame f s).firmware = s.firmware := rfl
@[simp] theorem takeFrame_security (f : Frame) (s : State) : (takeFrame f s).security = s.security := rfl
@[simp] theorem takeFrame_audit (f : Frame) (s : State) : (takeFrame f s).audit = s.audit := rfl
@[simp] theorem takeFrame_faultLog (f : Frame) (s : State) : (takeFrame f s).faultLog = s.faultLog := rfl
@[simp] theorem takeFrame_sessions (f : Frame) (s : State) : (takeFrame f s).sessions = s.sessions := rfl
@[simp] theorem takeFrame_host (f : Frame) (s : State) : (takeFrame f s).host = s.host := rfl
@[simp] theorem takeFrame_memory (f : Frame) (s : State) : (takeFrame f s).memory = s.memory := rfl
@[simp] theorem takeFrame_mirage (f : Frame) (s : State) : (takeFrame f s).mirage = s.mirage := rfl
@[simp] theorem takeFrame_repair (f : Frame) (s : State) : (takeFrame f s).repair = s.repair := rfl
@[simp] theorem takeFrame_image (f : Frame) (s : State) : (takeFrame f s).image = s.image := rfl
@[simp] theorem takeFrame_run (f : Frame) (s : State) : (takeFrame f s).run = s.run := rfl
@[simp] theorem takeFrame_scales (f : Frame) (s : State) : (takeFrame f s).scales = s.scales := rfl
@[simp] theorem takeFrame_engines (f : Frame) (s : State) : (takeFrame f s).engines = s.engines := rfl
@[simp] theorem takeFrame_kv (f : Frame) (s : State) : (takeFrame f s).kv = s.kv := rfl
@[simp] theorem takeFrame_reductions (f : Frame) (s : State) : (takeFrame f s).reductions = s.reductions := rfl
@[simp] theorem takeFrame_update (f : Frame) (s : State) : (takeFrame f s).update = s.update := rfl
@[simp] theorem takeFrame_versions (f : Frame) (s : State) : (takeFrame f s).versions = s.versions := rfl
@[simp] theorem takeFrame_changes (f : Frame) (s : State) : (takeFrame f s).changes = s.changes := rfl
@[simp] theorem takeFrame_mapping (f : Frame) (s : State) : (takeFrame f s).mapping = s.mapping := rfl
@[simp] theorem takeFrame_ckpt (f : Frame) (s : State) : (takeFrame f s).ckpt = s.ckpt := rfl
@[simp] theorem takeFrame_federation (f : Frame) (s : State) : (takeFrame f s).federation = s.federation := rfl
@[simp] theorem takeFrame_time (f : Frame) (s : State) : (takeFrame f s).time = s.time := rfl
@[simp] theorem takeFrame_power (f : Frame) (s : State) : (takeFrame f s).power = s.power := rfl
@[simp] theorem takeFrame_boot (f : Frame) (s : State) : (takeFrame f s).boot = s.boot := rfl
@[simp] theorem takeFrame_out (f : Frame) (s : State) : (takeFrame f s).out = s.out := rfl
@[simp] theorem takeFrame_pending (f : Frame) (s : State) : (takeFrame f s).pending = s.pending := rfl
@[simp] theorem takeFrame_free (f : Frame) (s : State) : (takeFrame f s).free = s.free := rfl

/-! `duplicate`. -/

@[simp] theorem duplicate_settings (f : Frame) (s : State) : (duplicate f s).settings = s.settings := rfl
@[simp] theorem duplicate_firmware (f : Frame) (s : State) : (duplicate f s).firmware = s.firmware := rfl
@[simp] theorem duplicate_security (f : Frame) (s : State) : (duplicate f s).security = s.security := rfl
@[simp] theorem duplicate_audit (f : Frame) (s : State) : (duplicate f s).audit = s.audit := rfl
@[simp] theorem duplicate_faultLog (f : Frame) (s : State) : (duplicate f s).faultLog = s.faultLog := rfl
@[simp] theorem duplicate_sessions (f : Frame) (s : State) : (duplicate f s).sessions = s.sessions := rfl
@[simp] theorem duplicate_host (f : Frame) (s : State) : (duplicate f s).host = s.host := rfl
@[simp] theorem duplicate_memory (f : Frame) (s : State) : (duplicate f s).memory = s.memory := rfl
@[simp] theorem duplicate_mirage (f : Frame) (s : State) : (duplicate f s).mirage = s.mirage := rfl
@[simp] theorem duplicate_repair (f : Frame) (s : State) : (duplicate f s).repair = s.repair := rfl
@[simp] theorem duplicate_image (f : Frame) (s : State) : (duplicate f s).image = s.image := rfl
@[simp] theorem duplicate_run (f : Frame) (s : State) : (duplicate f s).run = s.run := rfl
@[simp] theorem duplicate_scales (f : Frame) (s : State) : (duplicate f s).scales = s.scales := rfl
@[simp] theorem duplicate_engines (f : Frame) (s : State) : (duplicate f s).engines = s.engines := rfl
@[simp] theorem duplicate_kv (f : Frame) (s : State) : (duplicate f s).kv = s.kv := rfl
@[simp] theorem duplicate_reductions (f : Frame) (s : State) : (duplicate f s).reductions = s.reductions := rfl
@[simp] theorem duplicate_update (f : Frame) (s : State) : (duplicate f s).update = s.update := rfl
@[simp] theorem duplicate_versions (f : Frame) (s : State) : (duplicate f s).versions = s.versions := rfl
@[simp] theorem duplicate_changes (f : Frame) (s : State) : (duplicate f s).changes = s.changes := rfl
@[simp] theorem duplicate_mapping (f : Frame) (s : State) : (duplicate f s).mapping = s.mapping := rfl
@[simp] theorem duplicate_ckpt (f : Frame) (s : State) : (duplicate f s).ckpt = s.ckpt := rfl
@[simp] theorem duplicate_federation (f : Frame) (s : State) : (duplicate f s).federation = s.federation := rfl
@[simp] theorem duplicate_time (f : Frame) (s : State) : (duplicate f s).time = s.time := rfl
@[simp] theorem duplicate_power (f : Frame) (s : State) : (duplicate f s).power = s.power := rfl
@[simp] theorem duplicate_boot (f : Frame) (s : State) : (duplicate f s).boot = s.boot := rfl
@[simp] theorem duplicate_out (f : Frame) (s : State) : (duplicate f s).out = s.out := rfl
@[simp] theorem duplicate_pending (f : Frame) (s : State) : (duplicate f s).pending = s.pending := rfl
@[simp] theorem duplicate_free (f : Frame) (s : State) : (duplicate f s).free = s.free := rfl

/-! `beginOp`. -/

@[simp] theorem beginOp_settings (sid h : Nat) (s : State) : (beginOp sid h s).settings = s.settings := by
  unfold beginOp; split
  · rfl
  · split_ifs <;> rfl
@[simp] theorem beginOp_firmware (sid h : Nat) (s : State) : (beginOp sid h s).firmware = s.firmware := by
  unfold beginOp; split
  · rfl
  · split_ifs <;> rfl
@[simp] theorem beginOp_security (sid h : Nat) (s : State) : (beginOp sid h s).security = s.security := by
  unfold beginOp; split
  · rfl
  · split_ifs <;> rfl
@[simp] theorem beginOp_audit (sid h : Nat) (s : State) : (beginOp sid h s).audit = s.audit := by
  unfold beginOp; split
  · rfl
  · split_ifs <;> rfl
@[simp] theorem beginOp_faultLog (sid h : Nat) (s : State) : (beginOp sid h s).faultLog = s.faultLog := by
  unfold beginOp; split
  · rfl
  · split_ifs <;> rfl
@[simp] theorem beginOp_host (sid h : Nat) (s : State) : (beginOp sid h s).host = s.host := by
  unfold beginOp; split
  · rfl
  · split_ifs <;> rfl
@[simp] theorem beginOp_memory (sid h : Nat) (s : State) : (beginOp sid h s).memory = s.memory := by
  unfold beginOp; split
  · rfl
  · split_ifs <;> rfl
@[simp] theorem beginOp_mirage (sid h : Nat) (s : State) : (beginOp sid h s).mirage = s.mirage := by
  unfold beginOp; split
  · rfl
  · split_ifs <;> rfl
@[simp] theorem beginOp_repair (sid h : Nat) (s : State) : (beginOp sid h s).repair = s.repair := by
  unfold beginOp; split
  · rfl
  · split_ifs <;> rfl
@[simp] theorem beginOp_image (sid h : Nat) (s : State) : (beginOp sid h s).image = s.image := by
  unfold beginOp; split
  · rfl
  · split_ifs <;> rfl
@[simp] theorem beginOp_run (sid h : Nat) (s : State) : (beginOp sid h s).run = s.run := by
  unfold beginOp; split
  · rfl
  · split_ifs <;> rfl
@[simp] theorem beginOp_scales (sid h : Nat) (s : State) : (beginOp sid h s).scales = s.scales := by
  unfold beginOp; split
  · rfl
  · split_ifs <;> rfl
@[simp] theorem beginOp_engines (sid h : Nat) (s : State) : (beginOp sid h s).engines = s.engines := by
  unfold beginOp; split
  · rfl
  · split_ifs <;> rfl
@[simp] theorem beginOp_kv (sid h : Nat) (s : State) : (beginOp sid h s).kv = s.kv := by
  unfold beginOp; split
  · rfl
  · split_ifs <;> rfl
@[simp] theorem beginOp_reductions (sid h : Nat) (s : State) : (beginOp sid h s).reductions = s.reductions := by
  unfold beginOp; split
  · rfl
  · split_ifs <;> rfl
@[simp] theorem beginOp_update (sid h : Nat) (s : State) : (beginOp sid h s).update = s.update := by
  unfold beginOp; split
  · rfl
  · split_ifs <;> rfl
@[simp] theorem beginOp_versions (sid h : Nat) (s : State) : (beginOp sid h s).versions = s.versions := by
  unfold beginOp; split
  · rfl
  · split_ifs <;> rfl
@[simp] theorem beginOp_changes (sid h : Nat) (s : State) : (beginOp sid h s).changes = s.changes := by
  unfold beginOp; split
  · rfl
  · split_ifs <;> rfl
@[simp] theorem beginOp_mapping (sid h : Nat) (s : State) : (beginOp sid h s).mapping = s.mapping := by
  unfold beginOp; split
  · rfl
  · split_ifs <;> rfl
@[simp] theorem beginOp_ckpt (sid h : Nat) (s : State) : (beginOp sid h s).ckpt = s.ckpt := by
  unfold beginOp; split
  · rfl
  · split_ifs <;> rfl
@[simp] theorem beginOp_federation (sid h : Nat) (s : State) : (beginOp sid h s).federation = s.federation := by
  unfold beginOp; split
  · rfl
  · split_ifs <;> rfl
@[simp] theorem beginOp_fabric (sid h : Nat) (s : State) : (beginOp sid h s).fabric = s.fabric := by
  unfold beginOp; split
  · rfl
  · split_ifs <;> rfl
@[simp] theorem beginOp_time (sid h : Nat) (s : State) : (beginOp sid h s).time = s.time := by
  unfold beginOp; split
  · rfl
  · split_ifs <;> rfl
@[simp] theorem beginOp_power (sid h : Nat) (s : State) : (beginOp sid h s).power = s.power := by
  unfold beginOp; split
  · rfl
  · split_ifs <;> rfl
@[simp] theorem beginOp_boot (sid h : Nat) (s : State) : (beginOp sid h s).boot = s.boot := by
  unfold beginOp; split
  · rfl
  · split_ifs <;> rfl
@[simp] theorem beginOp_out (sid h : Nat) (s : State) : (beginOp sid h s).out = s.out := by
  unfold beginOp; split
  · rfl
  · split_ifs <;> rfl
@[simp] theorem beginOp_pending (sid h : Nat) (s : State) : (beginOp sid h s).pending = s.pending := by
  unfold beginOp; split
  · rfl
  · split_ifs <;> rfl
@[simp] theorem beginOp_free (sid h : Nat) (s : State) : (beginOp sid h s).free = s.free := by
  unfold beginOp; split
  · rfl
  · split_ifs <;> rfl

/-! `endRun`. -/

@[simp] theorem endRun_settings (ok : Bool) (s : State) : (endRun ok s).settings = s.settings := rfl
@[simp] theorem endRun_firmware (ok : Bool) (s : State) : (endRun ok s).firmware = s.firmware := rfl
@[simp] theorem endRun_security (ok : Bool) (s : State) : (endRun ok s).security = s.security := rfl
@[simp] theorem endRun_audit (ok : Bool) (s : State) : (endRun ok s).audit = s.audit := rfl
@[simp] theorem endRun_faultLog (ok : Bool) (s : State) : (endRun ok s).faultLog = s.faultLog := rfl
@[simp] theorem endRun_sessions (ok : Bool) (s : State) : (endRun ok s).sessions = s.sessions := rfl
@[simp] theorem endRun_host (ok : Bool) (s : State) : (endRun ok s).host = s.host := rfl
@[simp] theorem endRun_memory (ok : Bool) (s : State) : (endRun ok s).memory = s.memory := rfl
@[simp] theorem endRun_mirage (ok : Bool) (s : State) : (endRun ok s).mirage = s.mirage := rfl
@[simp] theorem endRun_repair (ok : Bool) (s : State) : (endRun ok s).repair = s.repair := rfl
@[simp] theorem endRun_image (ok : Bool) (s : State) : (endRun ok s).image = s.image := rfl
@[simp] theorem endRun_scales (ok : Bool) (s : State) : (endRun ok s).scales = s.scales := rfl
@[simp] theorem endRun_reductions (ok : Bool) (s : State) : (endRun ok s).reductions = s.reductions := rfl
@[simp] theorem endRun_update (ok : Bool) (s : State) : (endRun ok s).update = s.update := rfl
@[simp] theorem endRun_versions (ok : Bool) (s : State) : (endRun ok s).versions = s.versions := rfl
@[simp] theorem endRun_changes (ok : Bool) (s : State) : (endRun ok s).changes = s.changes := rfl
@[simp] theorem endRun_mapping (ok : Bool) (s : State) : (endRun ok s).mapping = s.mapping := rfl
@[simp] theorem endRun_ckpt (ok : Bool) (s : State) : (endRun ok s).ckpt = s.ckpt := rfl
@[simp] theorem endRun_federation (ok : Bool) (s : State) : (endRun ok s).federation = s.federation := rfl
@[simp] theorem endRun_fabric (ok : Bool) (s : State) : (endRun ok s).fabric = s.fabric := rfl
@[simp] theorem endRun_time (ok : Bool) (s : State) : (endRun ok s).time = s.time := rfl
@[simp] theorem endRun_boot (ok : Bool) (s : State) : (endRun ok s).boot = s.boot := rfl
@[simp] theorem endRun_out (ok : Bool) (s : State) : (endRun ok s).out = s.out := rfl
@[simp] theorem endRun_pending (ok : Bool) (s : State) : (endRun ok s).pending = s.pending := rfl
@[simp] theorem endRun_free (ok : Bool) (s : State) : (endRun ok s).free = s.free := rfl

/-! `undoOp`. -/

@[simp] theorem undoOp_settings (o : Op) (s : State) : (undoOp o s).settings = s.settings := by unfold undoOp; split_ifs <;> rfl
@[simp] theorem undoOp_security (o : Op) (s : State) : (undoOp o s).security = s.security := by unfold undoOp; split_ifs <;> rfl
@[simp] theorem undoOp_audit (o : Op) (s : State) : (undoOp o s).audit = s.audit := by unfold undoOp; split_ifs <;> rfl
@[simp] theorem undoOp_faultLog (o : Op) (s : State) : (undoOp o s).faultLog = s.faultLog := by unfold undoOp; split_ifs <;> rfl
@[simp] theorem undoOp_host (o : Op) (s : State) : (undoOp o s).host = s.host := by unfold undoOp; split_ifs <;> rfl
@[simp] theorem undoOp_memory (o : Op) (s : State) : (undoOp o s).memory = s.memory := by unfold undoOp; split_ifs <;> rfl
@[simp] theorem undoOp_repair (o : Op) (s : State) : (undoOp o s).repair = s.repair := by unfold undoOp; split_ifs <;> rfl
@[simp] theorem undoOp_image (o : Op) (s : State) : (undoOp o s).image = s.image := by unfold undoOp; split_ifs <;> rfl
@[simp] theorem undoOp_scales (o : Op) (s : State) : (undoOp o s).scales = s.scales := by unfold undoOp; split_ifs <;> rfl
@[simp] theorem undoOp_reductions (o : Op) (s : State) : (undoOp o s).reductions = s.reductions := by unfold undoOp; split_ifs <;> rfl
@[simp] theorem undoOp_update (o : Op) (s : State) : (undoOp o s).update = s.update := by unfold undoOp; split_ifs <;> rfl
@[simp] theorem undoOp_versions (o : Op) (s : State) : (undoOp o s).versions = s.versions := by unfold undoOp; split_ifs <;> rfl
@[simp] theorem undoOp_changes (o : Op) (s : State) : (undoOp o s).changes = s.changes := by unfold undoOp; split_ifs <;> rfl
@[simp] theorem undoOp_mapping (o : Op) (s : State) : (undoOp o s).mapping = s.mapping := by unfold undoOp; split_ifs <;> rfl
@[simp] theorem undoOp_ckpt (o : Op) (s : State) : (undoOp o s).ckpt = s.ckpt := by unfold undoOp; split_ifs <;> rfl
@[simp] theorem undoOp_federation (o : Op) (s : State) : (undoOp o s).federation = s.federation := by unfold undoOp; split_ifs <;> rfl
@[simp] theorem undoOp_time (o : Op) (s : State) : (undoOp o s).time = s.time := by unfold undoOp; split_ifs <;> rfl
@[simp] theorem undoOp_boot (o : Op) (s : State) : (undoOp o s).boot = s.boot := by unfold undoOp; split_ifs <;> rfl
@[simp] theorem undoOp_out (o : Op) (s : State) : (undoOp o s).out = s.out := by unfold undoOp; split_ifs <;> rfl
@[simp] theorem undoOp_pending (o : Op) (s : State) : (undoOp o s).pending = s.pending := by unfold undoOp; split_ifs <;> rfl
@[simp] theorem undoOp_free (o : Op) (s : State) : (undoOp o s).free = s.free := by unfold undoOp; split_ifs <;> rfl

/-! `sendReply`. -/

@[simp] theorem sendReply_settings (sid p q o t : Nat) (r : Reply) (s : State) : (sendReply sid p q o t r s).settings = s.settings := by unfold sendReply; split <;> rfl
@[simp] theorem sendReply_firmware (sid p q o t : Nat) (r : Reply) (s : State) : (sendReply sid p q o t r s).firmware = s.firmware := by unfold sendReply; split <;> rfl
@[simp] theorem sendReply_security (sid p q o t : Nat) (r : Reply) (s : State) : (sendReply sid p q o t r s).security = s.security := by unfold sendReply; split <;> rfl
@[simp] theorem sendReply_audit (sid p q o t : Nat) (r : Reply) (s : State) : (sendReply sid p q o t r s).audit = s.audit := by unfold sendReply; split <;> rfl
@[simp] theorem sendReply_faultLog (sid p q o t : Nat) (r : Reply) (s : State) : (sendReply sid p q o t r s).faultLog = s.faultLog := by unfold sendReply; split <;> rfl
@[simp] theorem sendReply_sessions (sid p q o t : Nat) (r : Reply) (s : State) : (sendReply sid p q o t r s).sessions = s.sessions := by unfold sendReply; split <;> rfl
@[simp] theorem sendReply_host (sid p q o t : Nat) (r : Reply) (s : State) : (sendReply sid p q o t r s).host = s.host := by unfold sendReply; split <;> rfl
@[simp] theorem sendReply_memory (sid p q o t : Nat) (r : Reply) (s : State) : (sendReply sid p q o t r s).memory = s.memory := by unfold sendReply; split <;> rfl
@[simp] theorem sendReply_mirage (sid p q o t : Nat) (r : Reply) (s : State) : (sendReply sid p q o t r s).mirage = s.mirage := by unfold sendReply; split <;> rfl
@[simp] theorem sendReply_repair (sid p q o t : Nat) (r : Reply) (s : State) : (sendReply sid p q o t r s).repair = s.repair := by unfold sendReply; split <;> rfl
@[simp] theorem sendReply_image (sid p q o t : Nat) (r : Reply) (s : State) : (sendReply sid p q o t r s).image = s.image := by unfold sendReply; split <;> rfl
@[simp] theorem sendReply_run (sid p q o t : Nat) (r : Reply) (s : State) : (sendReply sid p q o t r s).run = s.run := by unfold sendReply; split <;> rfl
@[simp] theorem sendReply_scales (sid p q o t : Nat) (r : Reply) (s : State) : (sendReply sid p q o t r s).scales = s.scales := by unfold sendReply; split <;> rfl
@[simp] theorem sendReply_engines (sid p q o t : Nat) (r : Reply) (s : State) : (sendReply sid p q o t r s).engines = s.engines := by unfold sendReply; split <;> rfl
@[simp] theorem sendReply_kv (sid p q o t : Nat) (r : Reply) (s : State) : (sendReply sid p q o t r s).kv = s.kv := by unfold sendReply; split <;> rfl
@[simp] theorem sendReply_reductions (sid p q o t : Nat) (r : Reply) (s : State) : (sendReply sid p q o t r s).reductions = s.reductions := by unfold sendReply; split <;> rfl
@[simp] theorem sendReply_update (sid p q o t : Nat) (r : Reply) (s : State) : (sendReply sid p q o t r s).update = s.update := by unfold sendReply; split <;> rfl
@[simp] theorem sendReply_versions (sid p q o t : Nat) (r : Reply) (s : State) : (sendReply sid p q o t r s).versions = s.versions := by unfold sendReply; split <;> rfl
@[simp] theorem sendReply_changes (sid p q o t : Nat) (r : Reply) (s : State) : (sendReply sid p q o t r s).changes = s.changes := by unfold sendReply; split <;> rfl
@[simp] theorem sendReply_mapping (sid p q o t : Nat) (r : Reply) (s : State) : (sendReply sid p q o t r s).mapping = s.mapping := by unfold sendReply; split <;> rfl
@[simp] theorem sendReply_ckpt (sid p q o t : Nat) (r : Reply) (s : State) : (sendReply sid p q o t r s).ckpt = s.ckpt := by unfold sendReply; split <;> rfl
@[simp] theorem sendReply_federation (sid p q o t : Nat) (r : Reply) (s : State) : (sendReply sid p q o t r s).federation = s.federation := by unfold sendReply; split <;> rfl
@[simp] theorem sendReply_fabric (sid p q o t : Nat) (r : Reply) (s : State) : (sendReply sid p q o t r s).fabric = s.fabric := by unfold sendReply; split <;> rfl
@[simp] theorem sendReply_time (sid p q o t : Nat) (r : Reply) (s : State) : (sendReply sid p q o t r s).time = s.time := by unfold sendReply; split <;> rfl
@[simp] theorem sendReply_power (sid p q o t : Nat) (r : Reply) (s : State) : (sendReply sid p q o t r s).power = s.power := by unfold sendReply; split <;> rfl
@[simp] theorem sendReply_boot (sid p q o t : Nat) (r : Reply) (s : State) : (sendReply sid p q o t r s).boot = s.boot := by unfold sendReply; split <;> rfl
@[simp] theorem sendReply_pending (sid p q o t : Nat) (r : Reply) (s : State) : (sendReply sid p q o t r s).pending = s.pending := by unfold sendReply; split <;> rfl
@[simp] theorem sendReply_free (sid p q o t : Nat) (r : Reply) (s : State) : (sendReply sid p q o t r s).free = s.free := by unfold sendReply; split <;> rfl

/-! `finishOp`. -/

@[simp] theorem finishOp_settings (sid h st c : Nat) (s : State) : (finishOp sid h st c s).settings = s.settings := by
  unfold finishOp; split
  · rfl
  · dsimp only; split_ifs <;> simp
@[simp] theorem finishOp_security (sid h st c : Nat) (s : State) : (finishOp sid h st c s).security = s.security := by
  unfold finishOp; split
  · rfl
  · dsimp only; split_ifs <;> simp
@[simp] theorem finishOp_host (sid h st c : Nat) (s : State) : (finishOp sid h st c s).host = s.host := by
  unfold finishOp; split
  · rfl
  · dsimp only; split_ifs <;> simp
@[simp] theorem finishOp_memory (sid h st c : Nat) (s : State) : (finishOp sid h st c s).memory = s.memory := by
  unfold finishOp; split
  · rfl
  · dsimp only; split_ifs <;> simp
@[simp] theorem finishOp_repair (sid h st c : Nat) (s : State) : (finishOp sid h st c s).repair = s.repair := by
  unfold finishOp; split
  · rfl
  · dsimp only; split_ifs <;> simp
@[simp] theorem finishOp_image (sid h st c : Nat) (s : State) : (finishOp sid h st c s).image = s.image := by
  unfold finishOp; split
  · rfl
  · dsimp only; split_ifs <;> simp
@[simp] theorem finishOp_scales (sid h st c : Nat) (s : State) : (finishOp sid h st c s).scales = s.scales := by
  unfold finishOp; split
  · rfl
  · dsimp only; split_ifs <;> simp
@[simp] theorem finishOp_reductions (sid h st c : Nat) (s : State) : (finishOp sid h st c s).reductions = s.reductions := by
  unfold finishOp; split
  · rfl
  · dsimp only; split_ifs <;> simp
@[simp] theorem finishOp_update (sid h st c : Nat) (s : State) : (finishOp sid h st c s).update = s.update := by
  unfold finishOp; split
  · rfl
  · dsimp only; split_ifs <;> simp
@[simp] theorem finishOp_versions (sid h st c : Nat) (s : State) : (finishOp sid h st c s).versions = s.versions := by
  unfold finishOp; split
  · rfl
  · dsimp only; split_ifs <;> simp
@[simp] theorem finishOp_changes (sid h st c : Nat) (s : State) : (finishOp sid h st c s).changes = s.changes := by
  unfold finishOp; split
  · rfl
  · dsimp only; split_ifs <;> simp
@[simp] theorem finishOp_mapping (sid h st c : Nat) (s : State) : (finishOp sid h st c s).mapping = s.mapping := by
  unfold finishOp; split
  · rfl
  · dsimp only; split_ifs <;> simp
@[simp] theorem finishOp_ckpt (sid h st c : Nat) (s : State) : (finishOp sid h st c s).ckpt = s.ckpt := by
  unfold finishOp; split
  · rfl
  · dsimp only; split_ifs <;> simp
@[simp] theorem finishOp_federation (sid h st c : Nat) (s : State) : (finishOp sid h st c s).federation = s.federation := by
  unfold finishOp; split
  · rfl
  · dsimp only; split_ifs <;> simp
@[simp] theorem finishOp_time (sid h st c : Nat) (s : State) : (finishOp sid h st c s).time = s.time := by
  unfold finishOp; split
  · rfl
  · dsimp only; split_ifs <;> simp
@[simp] theorem finishOp_boot (sid h st c : Nat) (s : State) : (finishOp sid h st c s).boot = s.boot := by
  unfold finishOp; split
  · rfl
  · dsimp only; split_ifs <;> simp
@[simp] theorem finishOp_pending (sid h st c : Nat) (s : State) : (finishOp sid h st c s).pending = s.pending := by
  unfold finishOp; split
  · rfl
  · dsimp only; split_ifs <;> simp
@[simp] theorem finishOp_free (sid h st c : Nat) (s : State) : (finishOp sid h st c s).free = s.free := by
  unfold finishOp; split
  · rfl
  · dsimp only; split_ifs <;> simp

/-! `abortOp`. -/

@[simp] theorem abortOp_settings (o : Op) (s : State) : (abortOp o s).settings = s.settings := by unfold abortOp; split_ifs <;> simp
@[simp] theorem abortOp_security (o : Op) (s : State) : (abortOp o s).security = s.security := by unfold abortOp; split_ifs <;> simp
@[simp] theorem abortOp_host (o : Op) (s : State) : (abortOp o s).host = s.host := by unfold abortOp; split_ifs <;> simp
@[simp] theorem abortOp_memory (o : Op) (s : State) : (abortOp o s).memory = s.memory := by unfold abortOp; split_ifs <;> simp
@[simp] theorem abortOp_repair (o : Op) (s : State) : (abortOp o s).repair = s.repair := by unfold abortOp; split_ifs <;> simp
@[simp] theorem abortOp_image (o : Op) (s : State) : (abortOp o s).image = s.image := by unfold abortOp; split_ifs <;> simp
@[simp] theorem abortOp_scales (o : Op) (s : State) : (abortOp o s).scales = s.scales := by unfold abortOp; split_ifs <;> simp
@[simp] theorem abortOp_reductions (o : Op) (s : State) : (abortOp o s).reductions = s.reductions := by unfold abortOp; split_ifs <;> simp
@[simp] theorem abortOp_update (o : Op) (s : State) : (abortOp o s).update = s.update := by unfold abortOp; split_ifs <;> simp
@[simp] theorem abortOp_versions (o : Op) (s : State) : (abortOp o s).versions = s.versions := by unfold abortOp; split_ifs <;> simp
@[simp] theorem abortOp_changes (o : Op) (s : State) : (abortOp o s).changes = s.changes := by unfold abortOp; split_ifs <;> simp
@[simp] theorem abortOp_mapping (o : Op) (s : State) : (abortOp o s).mapping = s.mapping := by unfold abortOp; split_ifs <;> simp
@[simp] theorem abortOp_ckpt (o : Op) (s : State) : (abortOp o s).ckpt = s.ckpt := by unfold abortOp; split_ifs <;> simp
@[simp] theorem abortOp_federation (o : Op) (s : State) : (abortOp o s).federation = s.federation := by unfold abortOp; split_ifs <;> simp
@[simp] theorem abortOp_time (o : Op) (s : State) : (abortOp o s).time = s.time := by unfold abortOp; split_ifs <;> simp
@[simp] theorem abortOp_boot (o : Op) (s : State) : (abortOp o s).boot = s.boot := by unfold abortOp; split_ifs <;> simp
@[simp] theorem abortOp_pending (o : Op) (s : State) : (abortOp o s).pending = s.pending := by unfold abortOp; split_ifs <;> simp
@[simp] theorem abortOp_free (o : Op) (s : State) : (abortOp o s).free = s.free := by unfold abortOp; split_ifs <;> simp

/-! `abortAll`. -/

@[simp] theorem abortAll_settings (os : List Op) (s : State) : (abortAll os s).settings = s.settings := by
  induction os generalizing s with
  | nil => rfl
  | cons o r ih => simp [abortAll, ih]
@[simp] theorem abortAll_security (os : List Op) (s : State) : (abortAll os s).security = s.security := by
  induction os generalizing s with
  | nil => rfl
  | cons o r ih => simp [abortAll, ih]
@[simp] theorem abortAll_host (os : List Op) (s : State) : (abortAll os s).host = s.host := by
  induction os generalizing s with
  | nil => rfl
  | cons o r ih => simp [abortAll, ih]
@[simp] theorem abortAll_memory (os : List Op) (s : State) : (abortAll os s).memory = s.memory := by
  induction os generalizing s with
  | nil => rfl
  | cons o r ih => simp [abortAll, ih]
@[simp] theorem abortAll_repair (os : List Op) (s : State) : (abortAll os s).repair = s.repair := by
  induction os generalizing s with
  | nil => rfl
  | cons o r ih => simp [abortAll, ih]
@[simp] theorem abortAll_image (os : List Op) (s : State) : (abortAll os s).image = s.image := by
  induction os generalizing s with
  | nil => rfl
  | cons o r ih => simp [abortAll, ih]
@[simp] theorem abortAll_scales (os : List Op) (s : State) : (abortAll os s).scales = s.scales := by
  induction os generalizing s with
  | nil => rfl
  | cons o r ih => simp [abortAll, ih]
@[simp] theorem abortAll_reductions (os : List Op) (s : State) : (abortAll os s).reductions = s.reductions := by
  induction os generalizing s with
  | nil => rfl
  | cons o r ih => simp [abortAll, ih]
@[simp] theorem abortAll_update (os : List Op) (s : State) : (abortAll os s).update = s.update := by
  induction os generalizing s with
  | nil => rfl
  | cons o r ih => simp [abortAll, ih]
@[simp] theorem abortAll_versions (os : List Op) (s : State) : (abortAll os s).versions = s.versions := by
  induction os generalizing s with
  | nil => rfl
  | cons o r ih => simp [abortAll, ih]
@[simp] theorem abortAll_changes (os : List Op) (s : State) : (abortAll os s).changes = s.changes := by
  induction os generalizing s with
  | nil => rfl
  | cons o r ih => simp [abortAll, ih]
@[simp] theorem abortAll_mapping (os : List Op) (s : State) : (abortAll os s).mapping = s.mapping := by
  induction os generalizing s with
  | nil => rfl
  | cons o r ih => simp [abortAll, ih]
@[simp] theorem abortAll_ckpt (os : List Op) (s : State) : (abortAll os s).ckpt = s.ckpt := by
  induction os generalizing s with
  | nil => rfl
  | cons o r ih => simp [abortAll, ih]
@[simp] theorem abortAll_federation (os : List Op) (s : State) : (abortAll os s).federation = s.federation := by
  induction os generalizing s with
  | nil => rfl
  | cons o r ih => simp [abortAll, ih]
@[simp] theorem abortAll_time (os : List Op) (s : State) : (abortAll os s).time = s.time := by
  induction os generalizing s with
  | nil => rfl
  | cons o r ih => simp [abortAll, ih]
@[simp] theorem abortAll_boot (os : List Op) (s : State) : (abortAll os s).boot = s.boot := by
  induction os generalizing s with
  | nil => rfl
  | cons o r ih => simp [abortAll, ih]
@[simp] theorem abortAll_pending (os : List Op) (s : State) : (abortAll os s).pending = s.pending := by
  induction os generalizing s with
  | nil => rfl
  | cons o r ih => simp [abortAll, ih]
@[simp] theorem abortAll_free (os : List Op) (s : State) : (abortAll os s).free = s.free := by
  induction os generalizing s with
  | nil => rfl
  | cons o r ih => simp [abortAll, ih]

/-! `endSession`. -/

@[simp] theorem endSession_settings (sid : Nat) (s : State) : (endSession sid s).settings = s.settings := by
  unfold endSession; split
  · rfl
  · simp
@[simp] theorem endSession_security (sid : Nat) (s : State) : (endSession sid s).security = s.security := by
  unfold endSession; split
  · rfl
  · simp
@[simp] theorem endSession_memory (sid : Nat) (s : State) : (endSession sid s).memory = s.memory := by
  unfold endSession; split
  · rfl
  · simp
@[simp] theorem endSession_repair (sid : Nat) (s : State) : (endSession sid s).repair = s.repair := by
  unfold endSession; split
  · rfl
  · simp
@[simp] theorem endSession_image (sid : Nat) (s : State) : (endSession sid s).image = s.image := by
  unfold endSession; split
  · rfl
  · simp
@[simp] theorem endSession_scales (sid : Nat) (s : State) : (endSession sid s).scales = s.scales := by
  unfold endSession; split
  · rfl
  · simp
@[simp] theorem endSession_reductions (sid : Nat) (s : State) : (endSession sid s).reductions = s.reductions := by
  unfold endSession; split
  · rfl
  · simp
@[simp] theorem endSession_update (sid : Nat) (s : State) : (endSession sid s).update = s.update := by
  unfold endSession; split
  · rfl
  · simp
@[simp] theorem endSession_versions (sid : Nat) (s : State) : (endSession sid s).versions = s.versions := by
  unfold endSession; split
  · rfl
  · simp
@[simp] theorem endSession_changes (sid : Nat) (s : State) : (endSession sid s).changes = s.changes := by
  unfold endSession; split
  · rfl
  · simp
@[simp] theorem endSession_mapping (sid : Nat) (s : State) : (endSession sid s).mapping = s.mapping := by
  unfold endSession; split
  · rfl
  · simp
@[simp] theorem endSession_ckpt (sid : Nat) (s : State) : (endSession sid s).ckpt = s.ckpt := by
  unfold endSession; split
  · rfl
  · simp
@[simp] theorem endSession_federation (sid : Nat) (s : State) : (endSession sid s).federation = s.federation := by
  unfold endSession; split
  · rfl
  · simp
@[simp] theorem endSession_time (sid : Nat) (s : State) : (endSession sid s).time = s.time := by
  unfold endSession; split
  · rfl
  · simp
@[simp] theorem endSession_boot (sid : Nat) (s : State) : (endSession sid s).boot = s.boot := by
  unfold endSession; split
  · rfl
  · simp
@[simp] theorem endSession_pending (sid : Nat) (s : State) : (endSession sid s).pending = s.pending := by
  unfold endSession; split
  · rfl
  · simp
@[simp] theorem endSession_free (sid : Nat) (s : State) : (endSession sid s).free = s.free := by
  unfold endSession; split
  · rfl
  · simp

/-! `endSessions`. -/

@[simp] theorem endSessions_settings (is : List Nat) (s : State) : (endSessions is s).settings = s.settings := by
  induction is generalizing s with
  | nil => rfl
  | cons o r ih => simp [endSessions, ih]
@[simp] theorem endSessions_security (is : List Nat) (s : State) : (endSessions is s).security = s.security := by
  induction is generalizing s with
  | nil => rfl
  | cons o r ih => simp [endSessions, ih]
@[simp] theorem endSessions_memory (is : List Nat) (s : State) : (endSessions is s).memory = s.memory := by
  induction is generalizing s with
  | nil => rfl
  | cons o r ih => simp [endSessions, ih]
@[simp] theorem endSessions_repair (is : List Nat) (s : State) : (endSessions is s).repair = s.repair := by
  induction is generalizing s with
  | nil => rfl
  | cons o r ih => simp [endSessions, ih]
@[simp] theorem endSessions_image (is : List Nat) (s : State) : (endSessions is s).image = s.image := by
  induction is generalizing s with
  | nil => rfl
  | cons o r ih => simp [endSessions, ih]
@[simp] theorem endSessions_scales (is : List Nat) (s : State) : (endSessions is s).scales = s.scales := by
  induction is generalizing s with
  | nil => rfl
  | cons o r ih => simp [endSessions, ih]
@[simp] theorem endSessions_reductions (is : List Nat) (s : State) : (endSessions is s).reductions = s.reductions := by
  induction is generalizing s with
  | nil => rfl
  | cons o r ih => simp [endSessions, ih]
@[simp] theorem endSessions_update (is : List Nat) (s : State) : (endSessions is s).update = s.update := by
  induction is generalizing s with
  | nil => rfl
  | cons o r ih => simp [endSessions, ih]
@[simp] theorem endSessions_versions (is : List Nat) (s : State) : (endSessions is s).versions = s.versions := by
  induction is generalizing s with
  | nil => rfl
  | cons o r ih => simp [endSessions, ih]
@[simp] theorem endSessions_changes (is : List Nat) (s : State) : (endSessions is s).changes = s.changes := by
  induction is generalizing s with
  | nil => rfl
  | cons o r ih => simp [endSessions, ih]
@[simp] theorem endSessions_mapping (is : List Nat) (s : State) : (endSessions is s).mapping = s.mapping := by
  induction is generalizing s with
  | nil => rfl
  | cons o r ih => simp [endSessions, ih]
@[simp] theorem endSessions_ckpt (is : List Nat) (s : State) : (endSessions is s).ckpt = s.ckpt := by
  induction is generalizing s with
  | nil => rfl
  | cons o r ih => simp [endSessions, ih]
@[simp] theorem endSessions_federation (is : List Nat) (s : State) : (endSessions is s).federation = s.federation := by
  induction is generalizing s with
  | nil => rfl
  | cons o r ih => simp [endSessions, ih]
@[simp] theorem endSessions_time (is : List Nat) (s : State) : (endSessions is s).time = s.time := by
  induction is generalizing s with
  | nil => rfl
  | cons o r ih => simp [endSessions, ih]
@[simp] theorem endSessions_boot (is : List Nat) (s : State) : (endSessions is s).boot = s.boot := by
  induction is generalizing s with
  | nil => rfl
  | cons o r ih => simp [endSessions, ih]
@[simp] theorem endSessions_pending (is : List Nat) (s : State) : (endSessions is s).pending = s.pending := by
  induction is generalizing s with
  | nil => rfl
  | cons o r ih => simp [endSessions, ih]
@[simp] theorem endSessions_free (is : List Nat) (s : State) : (endSessions is s).free = s.free := by
  induction is generalizing s with
  | nil => rfl
  | cons o r ih => simp [endSessions, ih]

/-! `auditFold`. -/

@[simp] theorem auditFold_settings (es : List (Nat × Nat)) (o c sid r ce : Nat) (s : State) : (es.foldl (fun t e => auditEntry o c sid r e.1 ce e.2 t) s).settings = s.settings := by
  induction es generalizing s with
  | nil => rfl
  | cons o r ih => simp [ih]
@[simp] theorem auditFold_firmware (es : List (Nat × Nat)) (o c sid r ce : Nat) (s : State) : (es.foldl (fun t e => auditEntry o c sid r e.1 ce e.2 t) s).firmware = s.firmware := by
  induction es generalizing s with
  | nil => rfl
  | cons o r ih => simp [ih]
@[simp] theorem auditFold_security (es : List (Nat × Nat)) (o c sid r ce : Nat) (s : State) : (es.foldl (fun t e => auditEntry o c sid r e.1 ce e.2 t) s).security = s.security := by
  induction es generalizing s with
  | nil => rfl
  | cons o r ih => simp [ih]
@[simp] theorem auditFold_sessions (es : List (Nat × Nat)) (o c sid r ce : Nat) (s : State) : (es.foldl (fun t e => auditEntry o c sid r e.1 ce e.2 t) s).sessions = s.sessions := by
  induction es generalizing s with
  | nil => rfl
  | cons o r ih => simp [ih]
@[simp] theorem auditFold_host (es : List (Nat × Nat)) (o c sid r ce : Nat) (s : State) : (es.foldl (fun t e => auditEntry o c sid r e.1 ce e.2 t) s).host = s.host := by
  induction es generalizing s with
  | nil => rfl
  | cons o r ih => simp [ih]
@[simp] theorem auditFold_memory (es : List (Nat × Nat)) (o c sid r ce : Nat) (s : State) : (es.foldl (fun t e => auditEntry o c sid r e.1 ce e.2 t) s).memory = s.memory := by
  induction es generalizing s with
  | nil => rfl
  | cons o r ih => simp [ih]
@[simp] theorem auditFold_mirage (es : List (Nat × Nat)) (o c sid r ce : Nat) (s : State) : (es.foldl (fun t e => auditEntry o c sid r e.1 ce e.2 t) s).mirage = s.mirage := by
  induction es generalizing s with
  | nil => rfl
  | cons o r ih => simp [ih]
@[simp] theorem auditFold_repair (es : List (Nat × Nat)) (o c sid r ce : Nat) (s : State) : (es.foldl (fun t e => auditEntry o c sid r e.1 ce e.2 t) s).repair = s.repair := by
  induction es generalizing s with
  | nil => rfl
  | cons o r ih => simp [ih]
@[simp] theorem auditFold_image (es : List (Nat × Nat)) (o c sid r ce : Nat) (s : State) : (es.foldl (fun t e => auditEntry o c sid r e.1 ce e.2 t) s).image = s.image := by
  induction es generalizing s with
  | nil => rfl
  | cons o r ih => simp [ih]
@[simp] theorem auditFold_run (es : List (Nat × Nat)) (o c sid r ce : Nat) (s : State) : (es.foldl (fun t e => auditEntry o c sid r e.1 ce e.2 t) s).run = s.run := by
  induction es generalizing s with
  | nil => rfl
  | cons o r ih => simp [ih]
@[simp] theorem auditFold_scales (es : List (Nat × Nat)) (o c sid r ce : Nat) (s : State) : (es.foldl (fun t e => auditEntry o c sid r e.1 ce e.2 t) s).scales = s.scales := by
  induction es generalizing s with
  | nil => rfl
  | cons o r ih => simp [ih]
@[simp] theorem auditFold_engines (es : List (Nat × Nat)) (o c sid r ce : Nat) (s : State) : (es.foldl (fun t e => auditEntry o c sid r e.1 ce e.2 t) s).engines = s.engines := by
  induction es generalizing s with
  | nil => rfl
  | cons o r ih => simp [ih]
@[simp] theorem auditFold_kv (es : List (Nat × Nat)) (o c sid r ce : Nat) (s : State) : (es.foldl (fun t e => auditEntry o c sid r e.1 ce e.2 t) s).kv = s.kv := by
  induction es generalizing s with
  | nil => rfl
  | cons o r ih => simp [ih]
@[simp] theorem auditFold_reductions (es : List (Nat × Nat)) (o c sid r ce : Nat) (s : State) : (es.foldl (fun t e => auditEntry o c sid r e.1 ce e.2 t) s).reductions = s.reductions := by
  induction es generalizing s with
  | nil => rfl
  | cons o r ih => simp [ih]
@[simp] theorem auditFold_update (es : List (Nat × Nat)) (o c sid r ce : Nat) (s : State) : (es.foldl (fun t e => auditEntry o c sid r e.1 ce e.2 t) s).update = s.update := by
  induction es generalizing s with
  | nil => rfl
  | cons o r ih => simp [ih]
@[simp] theorem auditFold_versions (es : List (Nat × Nat)) (o c sid r ce : Nat) (s : State) : (es.foldl (fun t e => auditEntry o c sid r e.1 ce e.2 t) s).versions = s.versions := by
  induction es generalizing s with
  | nil => rfl
  | cons o r ih => simp [ih]
@[simp] theorem auditFold_changes (es : List (Nat × Nat)) (o c sid r ce : Nat) (s : State) : (es.foldl (fun t e => auditEntry o c sid r e.1 ce e.2 t) s).changes = s.changes := by
  induction es generalizing s with
  | nil => rfl
  | cons o r ih => simp [ih]
@[simp] theorem auditFold_mapping (es : List (Nat × Nat)) (o c sid r ce : Nat) (s : State) : (es.foldl (fun t e => auditEntry o c sid r e.1 ce e.2 t) s).mapping = s.mapping := by
  induction es generalizing s with
  | nil => rfl
  | cons o r ih => simp [ih]
@[simp] theorem auditFold_ckpt (es : List (Nat × Nat)) (o c sid r ce : Nat) (s : State) : (es.foldl (fun t e => auditEntry o c sid r e.1 ce e.2 t) s).ckpt = s.ckpt := by
  induction es generalizing s with
  | nil => rfl
  | cons o r ih => simp [ih]
@[simp] theorem auditFold_federation (es : List (Nat × Nat)) (o c sid r ce : Nat) (s : State) : (es.foldl (fun t e => auditEntry o c sid r e.1 ce e.2 t) s).federation = s.federation := by
  induction es generalizing s with
  | nil => rfl
  | cons o r ih => simp [ih]
@[simp] theorem auditFold_time (es : List (Nat × Nat)) (o c sid r ce : Nat) (s : State) : (es.foldl (fun t e => auditEntry o c sid r e.1 ce e.2 t) s).time = s.time := by
  induction es generalizing s with
  | nil => rfl
  | cons o r ih => simp [ih]
@[simp] theorem auditFold_boot (es : List (Nat × Nat)) (o c sid r ce : Nat) (s : State) : (es.foldl (fun t e => auditEntry o c sid r e.1 ce e.2 t) s).boot = s.boot := by
  induction es generalizing s with
  | nil => rfl
  | cons o r ih => simp [ih]
@[simp] theorem auditFold_pending (es : List (Nat × Nat)) (o c sid r ce : Nat) (s : State) : (es.foldl (fun t e => auditEntry o c sid r e.1 ce e.2 t) s).pending = s.pending := by
  induction es generalizing s with
  | nil => rfl
  | cons o r ih => simp [ih]
@[simp] theorem auditFold_free (es : List (Nat × Nat)) (o c sid r ce : Nat) (s : State) : (es.foldl (fun t e => auditEntry o c sid r e.1 ce e.2 t) s).free = s.free := by
  induction es generalizing s with
  | nil => rfl
  | cons o r ih => simp [ih]

/-! `abortNamed`. -/

@[simp] theorem abortNamed_settings (l : List (Nat × Nat)) (s : State) : (abortNamed l s).settings = s.settings := by simp [abortNamed]
@[simp] theorem abortNamed_security (l : List (Nat × Nat)) (s : State) : (abortNamed l s).security = s.security := by simp [abortNamed]
@[simp] theorem abortNamed_host (l : List (Nat × Nat)) (s : State) : (abortNamed l s).host = s.host := by simp [abortNamed]
@[simp] theorem abortNamed_memory (l : List (Nat × Nat)) (s : State) : (abortNamed l s).memory = s.memory := by simp [abortNamed]
@[simp] theorem abortNamed_repair (l : List (Nat × Nat)) (s : State) : (abortNamed l s).repair = s.repair := by simp [abortNamed]
@[simp] theorem abortNamed_image (l : List (Nat × Nat)) (s : State) : (abortNamed l s).image = s.image := by simp [abortNamed]
@[simp] theorem abortNamed_scales (l : List (Nat × Nat)) (s : State) : (abortNamed l s).scales = s.scales := by simp [abortNamed]
@[simp] theorem abortNamed_reductions (l : List (Nat × Nat)) (s : State) : (abortNamed l s).reductions = s.reductions := by simp [abortNamed]
@[simp] theorem abortNamed_update (l : List (Nat × Nat)) (s : State) : (abortNamed l s).update = s.update := by simp [abortNamed]
@[simp] theorem abortNamed_versions (l : List (Nat × Nat)) (s : State) : (abortNamed l s).versions = s.versions := by simp [abortNamed]
@[simp] theorem abortNamed_changes (l : List (Nat × Nat)) (s : State) : (abortNamed l s).changes = s.changes := by simp [abortNamed]
@[simp] theorem abortNamed_mapping (l : List (Nat × Nat)) (s : State) : (abortNamed l s).mapping = s.mapping := by simp [abortNamed]
@[simp] theorem abortNamed_ckpt (l : List (Nat × Nat)) (s : State) : (abortNamed l s).ckpt = s.ckpt := by simp [abortNamed]
@[simp] theorem abortNamed_federation (l : List (Nat × Nat)) (s : State) : (abortNamed l s).federation = s.federation := by simp [abortNamed]
@[simp] theorem abortNamed_time (l : List (Nat × Nat)) (s : State) : (abortNamed l s).time = s.time := by simp [abortNamed]
@[simp] theorem abortNamed_boot (l : List (Nat × Nat)) (s : State) : (abortNamed l s).boot = s.boot := by simp [abortNamed]
@[simp] theorem abortNamed_pending (l : List (Nat × Nat)) (s : State) : (abortNamed l s).pending = s.pending := by simp [abortNamed]
@[simp] theorem abortNamed_free (l : List (Nat × Nat)) (s : State) : (abortNamed l s).free = s.free := by simp [abortNamed]

/-! `conclude`. -/

@[simp] theorem conclude_settings (x : Session) (d : Datagram) (o : Nat) (a : Answer) (s : State) : (conclude x d o a s).settings = a.st.settings := by
  simp only [conclude, endSessions_settings, sendReply_settings]
  split <;> (simp only [abortNamed_settings, auditFold_settings]; split <;> rfl)
@[simp] theorem conclude_security (x : Session) (d : Datagram) (o : Nat) (a : Answer) (s : State) : (conclude x d o a s).security = a.st.security := by
  simp only [conclude, endSessions_security, sendReply_security]
  split <;> (simp only [abortNamed_security, auditFold_security]; split <;> rfl)
@[simp] theorem conclude_memory (x : Session) (d : Datagram) (o : Nat) (a : Answer) (s : State) : (conclude x d o a s).memory = a.st.memory := by
  simp only [conclude, endSessions_memory, sendReply_memory]
  split <;> (simp only [abortNamed_memory, auditFold_memory]; split <;> rfl)
@[simp] theorem conclude_repair (x : Session) (d : Datagram) (o : Nat) (a : Answer) (s : State) : (conclude x d o a s).repair = a.st.repair := by
  simp only [conclude, endSessions_repair, sendReply_repair]
  split <;> (simp only [abortNamed_repair, auditFold_repair]; split <;> rfl)
@[simp] theorem conclude_image (x : Session) (d : Datagram) (o : Nat) (a : Answer) (s : State) : (conclude x d o a s).image = a.st.image := by
  simp only [conclude, endSessions_image, sendReply_image]
  split <;> (simp only [abortNamed_image, auditFold_image]; split <;> rfl)
@[simp] theorem conclude_scales (x : Session) (d : Datagram) (o : Nat) (a : Answer) (s : State) : (conclude x d o a s).scales = a.st.scales := by
  simp only [conclude, endSessions_scales, sendReply_scales]
  split <;> (simp only [abortNamed_scales, auditFold_scales]; split <;> rfl)
@[simp] theorem conclude_reductions (x : Session) (d : Datagram) (o : Nat) (a : Answer) (s : State) : (conclude x d o a s).reductions = a.st.reductions := by
  simp only [conclude, endSessions_reductions, sendReply_reductions]
  split <;> (simp only [abortNamed_reductions, auditFold_reductions]; split <;> rfl)
@[simp] theorem conclude_update (x : Session) (d : Datagram) (o : Nat) (a : Answer) (s : State) : (conclude x d o a s).update = a.st.update := by
  simp only [conclude, endSessions_update, sendReply_update]
  split <;> (simp only [abortNamed_update, auditFold_update]; split <;> rfl)
@[simp] theorem conclude_versions (x : Session) (d : Datagram) (o : Nat) (a : Answer) (s : State) : (conclude x d o a s).versions = a.st.versions := by
  simp only [conclude, endSessions_versions, sendReply_versions]
  split <;> (simp only [abortNamed_versions, auditFold_versions]; split <;> rfl)
@[simp] theorem conclude_changes (x : Session) (d : Datagram) (o : Nat) (a : Answer) (s : State) : (conclude x d o a s).changes = a.st.changes := by
  simp only [conclude, endSessions_changes, sendReply_changes]
  split <;> (simp only [abortNamed_changes, auditFold_changes]; split <;> rfl)
@[simp] theorem conclude_mapping (x : Session) (d : Datagram) (o : Nat) (a : Answer) (s : State) : (conclude x d o a s).mapping = a.st.mapping := by
  simp only [conclude, endSessions_mapping, sendReply_mapping]
  split <;> (simp only [abortNamed_mapping, auditFold_mapping]; split <;> rfl)
@[simp] theorem conclude_ckpt (x : Session) (d : Datagram) (o : Nat) (a : Answer) (s : State) : (conclude x d o a s).ckpt = a.st.ckpt := by
  simp only [conclude, endSessions_ckpt, sendReply_ckpt]
  split <;> (simp only [abortNamed_ckpt, auditFold_ckpt]; split <;> rfl)
@[simp] theorem conclude_federation (x : Session) (d : Datagram) (o : Nat) (a : Answer) (s : State) : (conclude x d o a s).federation = a.st.federation := by
  simp only [conclude, endSessions_federation, sendReply_federation]
  split <;> (simp only [abortNamed_federation, auditFold_federation]; split <;> rfl)
@[simp] theorem conclude_time (x : Session) (d : Datagram) (o : Nat) (a : Answer) (s : State) : (conclude x d o a s).time = a.st.time := by
  simp only [conclude, endSessions_time, sendReply_time]
  split <;> (simp only [abortNamed_time, auditFold_time]; split <;> rfl)
@[simp] theorem conclude_boot (x : Session) (d : Datagram) (o : Nat) (a : Answer) (s : State) : (conclude x d o a s).boot = a.st.boot := by
  simp only [conclude, endSessions_boot, sendReply_boot]
  split <;> (simp only [abortNamed_boot, auditFold_boot]; split <;> rfl)
@[simp] theorem conclude_pending (x : Session) (d : Datagram) (o : Nat) (a : Answer) (s : State) : (conclude x d o a s).pending = a.st.pending := by
  simp only [conclude, endSessions_pending, sendReply_pending]
  split <;> (simp only [abortNamed_pending, auditFold_pending]; split <;> rfl)
@[simp] theorem conclude_free (x : Session) (d : Datagram) (o : Nat) (a : Answer) (s : State) : (conclude x d o a s).free = a.st.free := by
  simp only [conclude, endSessions_free, sendReply_free]
  split <;> (simp only [abortNamed_free, auditFold_free]; split <;> rfl)

/-! `failRun`. -/

@[simp] theorem failRun_settings (c : Nat) (s : State) : (failRun c s).settings = s.settings := by unfold failRun; split <;> simp
@[simp] theorem failRun_security (c : Nat) (s : State) : (failRun c s).security = s.security := by unfold failRun; split <;> simp
@[simp] theorem failRun_host (c : Nat) (s : State) : (failRun c s).host = s.host := by unfold failRun; split <;> simp
@[simp] theorem failRun_memory (c : Nat) (s : State) : (failRun c s).memory = s.memory := by unfold failRun; split <;> simp
@[simp] theorem failRun_repair (c : Nat) (s : State) : (failRun c s).repair = s.repair := by unfold failRun; split <;> simp
@[simp] theorem failRun_image (c : Nat) (s : State) : (failRun c s).image = s.image := by unfold failRun; split <;> simp
@[simp] theorem failRun_scales (c : Nat) (s : State) : (failRun c s).scales = s.scales := by unfold failRun; split <;> simp
@[simp] theorem failRun_reductions (c : Nat) (s : State) : (failRun c s).reductions = s.reductions := by unfold failRun; split <;> simp
@[simp] theorem failRun_update (c : Nat) (s : State) : (failRun c s).update = s.update := by unfold failRun; split <;> simp
@[simp] theorem failRun_versions (c : Nat) (s : State) : (failRun c s).versions = s.versions := by unfold failRun; split <;> simp
@[simp] theorem failRun_changes (c : Nat) (s : State) : (failRun c s).changes = s.changes := by unfold failRun; split <;> simp
@[simp] theorem failRun_mapping (c : Nat) (s : State) : (failRun c s).mapping = s.mapping := by unfold failRun; split <;> simp
@[simp] theorem failRun_ckpt (c : Nat) (s : State) : (failRun c s).ckpt = s.ckpt := by unfold failRun; split <;> simp
@[simp] theorem failRun_federation (c : Nat) (s : State) : (failRun c s).federation = s.federation := by unfold failRun; split <;> simp
@[simp] theorem failRun_time (c : Nat) (s : State) : (failRun c s).time = s.time := by unfold failRun; split <;> simp
@[simp] theorem failRun_boot (c : Nat) (s : State) : (failRun c s).boot = s.boot := by unfold failRun; split <;> simp
@[simp] theorem failRun_pending (c : Nat) (s : State) : (failRun c s).pending = s.pending := by unfold failRun; split <;> simp
@[simp] theorem failRun_free (c : Nat) (s : State) : (failRun c s).free = s.free := by unfold failRun; split <;> simp

/-! `warnRun`. -/

@[simp] theorem warnRun_settings (w : Nat) (s : State) : (warnRun w s).settings = s.settings := rfl
@[simp] theorem warnRun_firmware (w : Nat) (s : State) : (warnRun w s).firmware = s.firmware := rfl
@[simp] theorem warnRun_security (w : Nat) (s : State) : (warnRun w s).security = s.security := rfl
@[simp] theorem warnRun_audit (w : Nat) (s : State) : (warnRun w s).audit = s.audit := rfl
@[simp] theorem warnRun_faultLog (w : Nat) (s : State) : (warnRun w s).faultLog = s.faultLog := rfl
@[simp] theorem warnRun_host (w : Nat) (s : State) : (warnRun w s).host = s.host := rfl
@[simp] theorem warnRun_memory (w : Nat) (s : State) : (warnRun w s).memory = s.memory := rfl
@[simp] theorem warnRun_mirage (w : Nat) (s : State) : (warnRun w s).mirage = s.mirage := rfl
@[simp] theorem warnRun_repair (w : Nat) (s : State) : (warnRun w s).repair = s.repair := rfl
@[simp] theorem warnRun_image (w : Nat) (s : State) : (warnRun w s).image = s.image := rfl
@[simp] theorem warnRun_engines (w : Nat) (s : State) : (warnRun w s).engines = s.engines := rfl
@[simp] theorem warnRun_kv (w : Nat) (s : State) : (warnRun w s).kv = s.kv := rfl
@[simp] theorem warnRun_reductions (w : Nat) (s : State) : (warnRun w s).reductions = s.reductions := rfl
@[simp] theorem warnRun_update (w : Nat) (s : State) : (warnRun w s).update = s.update := rfl
@[simp] theorem warnRun_versions (w : Nat) (s : State) : (warnRun w s).versions = s.versions := rfl
@[simp] theorem warnRun_changes (w : Nat) (s : State) : (warnRun w s).changes = s.changes := rfl
@[simp] theorem warnRun_mapping (w : Nat) (s : State) : (warnRun w s).mapping = s.mapping := rfl
@[simp] theorem warnRun_ckpt (w : Nat) (s : State) : (warnRun w s).ckpt = s.ckpt := rfl
@[simp] theorem warnRun_federation (w : Nat) (s : State) : (warnRun w s).federation = s.federation := rfl
@[simp] theorem warnRun_fabric (w : Nat) (s : State) : (warnRun w s).fabric = s.fabric := rfl
@[simp] theorem warnRun_time (w : Nat) (s : State) : (warnRun w s).time = s.time := rfl
@[simp] theorem warnRun_power (w : Nat) (s : State) : (warnRun w s).power = s.power := rfl
@[simp] theorem warnRun_boot (w : Nat) (s : State) : (warnRun w s).boot = s.boot := rfl
@[simp] theorem warnRun_out (w : Nat) (s : State) : (warnRun w s).out = s.out := rfl
@[simp] theorem warnRun_pending (w : Nat) (s : State) : (warnRun w s).pending = s.pending := rfl
@[simp] theorem warnRun_free (w : Nat) (s : State) : (warnRun w s).free = s.free := rfl

/-! `addCtr`. -/

@[simp] theorem addCtr_settings (n v : Nat) (s : State) : (addCtr n v s).settings = s.settings := by
  unfold addCtr; split_ifs <;> simp
@[simp] theorem addCtr_security (n v : Nat) (s : State) : (addCtr n v s).security = s.security := by
  unfold addCtr; split_ifs <;> simp
@[simp] theorem addCtr_host (n v : Nat) (s : State) : (addCtr n v s).host = s.host := by
  unfold addCtr; split_ifs <;> simp
@[simp] theorem addCtr_memory (n v : Nat) (s : State) : (addCtr n v s).memory = s.memory := by
  unfold addCtr; split_ifs <;> simp
@[simp] theorem addCtr_repair (n v : Nat) (s : State) : (addCtr n v s).repair = s.repair := by
  unfold addCtr; split_ifs <;> simp
@[simp] theorem addCtr_image (n v : Nat) (s : State) : (addCtr n v s).image = s.image := by
  unfold addCtr; split_ifs <;> simp
@[simp] theorem addCtr_scales (n v : Nat) (s : State) : (addCtr n v s).scales = s.scales := by
  unfold addCtr; split_ifs <;> simp
@[simp] theorem addCtr_reductions (n v : Nat) (s : State) : (addCtr n v s).reductions = s.reductions := by
  unfold addCtr; split_ifs <;> simp
@[simp] theorem addCtr_update (n v : Nat) (s : State) : (addCtr n v s).update = s.update := by
  unfold addCtr; split_ifs <;> simp
@[simp] theorem addCtr_versions (n v : Nat) (s : State) : (addCtr n v s).versions = s.versions := by
  unfold addCtr; split_ifs <;> simp
@[simp] theorem addCtr_changes (n v : Nat) (s : State) : (addCtr n v s).changes = s.changes := by
  unfold addCtr; split_ifs <;> simp
@[simp] theorem addCtr_mapping (n v : Nat) (s : State) : (addCtr n v s).mapping = s.mapping := by
  unfold addCtr; split_ifs <;> simp
@[simp] theorem addCtr_ckpt (n v : Nat) (s : State) : (addCtr n v s).ckpt = s.ckpt := by
  unfold addCtr; split_ifs <;> simp
@[simp] theorem addCtr_federation (n v : Nat) (s : State) : (addCtr n v s).federation = s.federation := by
  unfold addCtr; split_ifs <;> simp
@[simp] theorem addCtr_time (n v : Nat) (s : State) : (addCtr n v s).time = s.time := by
  unfold addCtr; split_ifs <;> simp
@[simp] theorem addCtr_boot (n v : Nat) (s : State) : (addCtr n v s).boot = s.boot := by
  unfold addCtr; split_ifs <;> simp
@[simp] theorem addCtr_pending (n v : Nat) (s : State) : (addCtr n v s).pending = s.pending := by
  unfold addCtr; split_ifs <;> simp
@[simp] theorem addCtr_free (n v : Nat) (s : State) : (addCtr n v s).free = s.free := by
  unfold addCtr; split_ifs <;> simp

/-! `issue`. -/

@[simp] theorem issue_settings (k u q i e : Nat) (s : State) : (issue k u q i e s).settings = s.settings := by unfold issue stepQueue; split <;> rfl
@[simp] theorem issue_firmware (k u q i e : Nat) (s : State) : (issue k u q i e s).firmware = s.firmware := by unfold issue stepQueue; split <;> rfl
@[simp] theorem issue_security (k u q i e : Nat) (s : State) : (issue k u q i e s).security = s.security := by unfold issue stepQueue; split <;> rfl
@[simp] theorem issue_audit (k u q i e : Nat) (s : State) : (issue k u q i e s).audit = s.audit := by unfold issue stepQueue; split <;> rfl
@[simp] theorem issue_faultLog (k u q i e : Nat) (s : State) : (issue k u q i e s).faultLog = s.faultLog := by unfold issue stepQueue; split <;> rfl
@[simp] theorem issue_sessions (k u q i e : Nat) (s : State) : (issue k u q i e s).sessions = s.sessions := by unfold issue stepQueue; split <;> rfl
@[simp] theorem issue_host (k u q i e : Nat) (s : State) : (issue k u q i e s).host = s.host := by unfold issue stepQueue; split <;> rfl
@[simp] theorem issue_memory (k u q i e : Nat) (s : State) : (issue k u q i e s).memory = s.memory := by unfold issue stepQueue; split <;> rfl
@[simp] theorem issue_mirage (k u q i e : Nat) (s : State) : (issue k u q i e s).mirage = s.mirage := by unfold issue stepQueue; split <;> rfl
@[simp] theorem issue_repair (k u q i e : Nat) (s : State) : (issue k u q i e s).repair = s.repair := by unfold issue stepQueue; split <;> rfl
@[simp] theorem issue_image (k u q i e : Nat) (s : State) : (issue k u q i e s).image = s.image := by unfold issue stepQueue; split <;> rfl
@[simp] theorem issue_scales (k u q i e : Nat) (s : State) : (issue k u q i e s).scales = s.scales := by unfold issue stepQueue; split <;> rfl
@[simp] theorem issue_engines (k u q i e : Nat) (s : State) : (issue k u q i e s).engines = s.engines := by unfold issue stepQueue; split <;> rfl
@[simp] theorem issue_kv (k u q i e : Nat) (s : State) : (issue k u q i e s).kv = s.kv := by unfold issue stepQueue; split <;> rfl
@[simp] theorem issue_reductions (k u q i e : Nat) (s : State) : (issue k u q i e s).reductions = s.reductions := by unfold issue stepQueue; split <;> rfl
@[simp] theorem issue_update (k u q i e : Nat) (s : State) : (issue k u q i e s).update = s.update := by unfold issue stepQueue; split <;> rfl
@[simp] theorem issue_versions (k u q i e : Nat) (s : State) : (issue k u q i e s).versions = s.versions := by unfold issue stepQueue; split <;> rfl
@[simp] theorem issue_changes (k u q i e : Nat) (s : State) : (issue k u q i e s).changes = s.changes := by unfold issue stepQueue; split <;> rfl
@[simp] theorem issue_mapping (k u q i e : Nat) (s : State) : (issue k u q i e s).mapping = s.mapping := by unfold issue stepQueue; split <;> rfl
@[simp] theorem issue_ckpt (k u q i e : Nat) (s : State) : (issue k u q i e s).ckpt = s.ckpt := by unfold issue stepQueue; split <;> rfl
@[simp] theorem issue_federation (k u q i e : Nat) (s : State) : (issue k u q i e s).federation = s.federation := by unfold issue stepQueue; split <;> rfl
@[simp] theorem issue_fabric (k u q i e : Nat) (s : State) : (issue k u q i e s).fabric = s.fabric := by unfold issue stepQueue; split <;> rfl
@[simp] theorem issue_time (k u q i e : Nat) (s : State) : (issue k u q i e s).time = s.time := by unfold issue stepQueue; split <;> rfl
@[simp] theorem issue_power (k u q i e : Nat) (s : State) : (issue k u q i e s).power = s.power := by unfold issue stepQueue; split <;> rfl
@[simp] theorem issue_boot (k u q i e : Nat) (s : State) : (issue k u q i e s).boot = s.boot := by unfold issue stepQueue; split <;> rfl
@[simp] theorem issue_out (k u q i e : Nat) (s : State) : (issue k u q i e s).out = s.out := by unfold issue stepQueue; split <;> rfl
@[simp] theorem issue_pending (k u q i e : Nat) (s : State) : (issue k u q i e s).pending = s.pending := by unfold issue stepQueue; split <;> rfl
@[simp] theorem issue_free (k u q i e : Nat) (s : State) : (issue k u q i e s).free = s.free := by unfold issue stepQueue; split <;> rfl

/-! `modFlight`. -/

@[simp] theorem modFlight_settings (th : Nat) (g : InFlight → InFlight) (s : State) : (modFlight th g s).settings = s.settings := rfl
@[simp] theorem modFlight_firmware (th : Nat) (g : InFlight → InFlight) (s : State) : (modFlight th g s).firmware = s.firmware := rfl
@[simp] theorem modFlight_security (th : Nat) (g : InFlight → InFlight) (s : State) : (modFlight th g s).security = s.security := rfl
@[simp] theorem modFlight_audit (th : Nat) (g : InFlight → InFlight) (s : State) : (modFlight th g s).audit = s.audit := rfl
@[simp] theorem modFlight_faultLog (th : Nat) (g : InFlight → InFlight) (s : State) : (modFlight th g s).faultLog = s.faultLog := rfl
@[simp] theorem modFlight_sessions (th : Nat) (g : InFlight → InFlight) (s : State) : (modFlight th g s).sessions = s.sessions := rfl
@[simp] theorem modFlight_host (th : Nat) (g : InFlight → InFlight) (s : State) : (modFlight th g s).host = s.host := rfl
@[simp] theorem modFlight_memory (th : Nat) (g : InFlight → InFlight) (s : State) : (modFlight th g s).memory = s.memory := rfl
@[simp] theorem modFlight_mirage (th : Nat) (g : InFlight → InFlight) (s : State) : (modFlight th g s).mirage = s.mirage := rfl
@[simp] theorem modFlight_repair (th : Nat) (g : InFlight → InFlight) (s : State) : (modFlight th g s).repair = s.repair := rfl
@[simp] theorem modFlight_image (th : Nat) (g : InFlight → InFlight) (s : State) : (modFlight th g s).image = s.image := rfl
@[simp] theorem modFlight_scales (th : Nat) (g : InFlight → InFlight) (s : State) : (modFlight th g s).scales = s.scales := rfl
@[simp] theorem modFlight_engines (th : Nat) (g : InFlight → InFlight) (s : State) : (modFlight th g s).engines = s.engines := rfl
@[simp] theorem modFlight_kv (th : Nat) (g : InFlight → InFlight) (s : State) : (modFlight th g s).kv = s.kv := rfl
@[simp] theorem modFlight_reductions (th : Nat) (g : InFlight → InFlight) (s : State) : (modFlight th g s).reductions = s.reductions := rfl
@[simp] theorem modFlight_update (th : Nat) (g : InFlight → InFlight) (s : State) : (modFlight th g s).update = s.update := rfl
@[simp] theorem modFlight_versions (th : Nat) (g : InFlight → InFlight) (s : State) : (modFlight th g s).versions = s.versions := rfl
@[simp] theorem modFlight_changes (th : Nat) (g : InFlight → InFlight) (s : State) : (modFlight th g s).changes = s.changes := rfl
@[simp] theorem modFlight_mapping (th : Nat) (g : InFlight → InFlight) (s : State) : (modFlight th g s).mapping = s.mapping := rfl
@[simp] theorem modFlight_ckpt (th : Nat) (g : InFlight → InFlight) (s : State) : (modFlight th g s).ckpt = s.ckpt := rfl
@[simp] theorem modFlight_federation (th : Nat) (g : InFlight → InFlight) (s : State) : (modFlight th g s).federation = s.federation := rfl
@[simp] theorem modFlight_fabric (th : Nat) (g : InFlight → InFlight) (s : State) : (modFlight th g s).fabric = s.fabric := rfl
@[simp] theorem modFlight_time (th : Nat) (g : InFlight → InFlight) (s : State) : (modFlight th g s).time = s.time := rfl
@[simp] theorem modFlight_power (th : Nat) (g : InFlight → InFlight) (s : State) : (modFlight th g s).power = s.power := rfl
@[simp] theorem modFlight_boot (th : Nat) (g : InFlight → InFlight) (s : State) : (modFlight th g s).boot = s.boot := rfl
@[simp] theorem modFlight_out (th : Nat) (g : InFlight → InFlight) (s : State) : (modFlight th g s).out = s.out := rfl
@[simp] theorem modFlight_pending (th : Nat) (g : InFlight → InFlight) (s : State) : (modFlight th g s).pending = s.pending := rfl
@[simp] theorem modFlight_free (th : Nat) (g : InFlight → InFlight) (s : State) : (modFlight th g s).free = s.free := rfl

/-! `doneFlight`. -/

@[simp] theorem doneFlight_settings (th : Nat) (s : State) : (doneFlight th s).settings = s.settings := rfl
@[simp] theorem doneFlight_firmware (th : Nat) (s : State) : (doneFlight th s).firmware = s.firmware := rfl
@[simp] theorem doneFlight_security (th : Nat) (s : State) : (doneFlight th s).security = s.security := rfl
@[simp] theorem doneFlight_audit (th : Nat) (s : State) : (doneFlight th s).audit = s.audit := rfl
@[simp] theorem doneFlight_faultLog (th : Nat) (s : State) : (doneFlight th s).faultLog = s.faultLog := rfl
@[simp] theorem doneFlight_sessions (th : Nat) (s : State) : (doneFlight th s).sessions = s.sessions := rfl
@[simp] theorem doneFlight_host (th : Nat) (s : State) : (doneFlight th s).host = s.host := rfl
@[simp] theorem doneFlight_memory (th : Nat) (s : State) : (doneFlight th s).memory = s.memory := rfl
@[simp] theorem doneFlight_mirage (th : Nat) (s : State) : (doneFlight th s).mirage = s.mirage := rfl
@[simp] theorem doneFlight_repair (th : Nat) (s : State) : (doneFlight th s).repair = s.repair := rfl
@[simp] theorem doneFlight_image (th : Nat) (s : State) : (doneFlight th s).image = s.image := rfl
@[simp] theorem doneFlight_scales (th : Nat) (s : State) : (doneFlight th s).scales = s.scales := rfl
@[simp] theorem doneFlight_engines (th : Nat) (s : State) : (doneFlight th s).engines = s.engines := rfl
@[simp] theorem doneFlight_kv (th : Nat) (s : State) : (doneFlight th s).kv = s.kv := rfl
@[simp] theorem doneFlight_reductions (th : Nat) (s : State) : (doneFlight th s).reductions = s.reductions := rfl
@[simp] theorem doneFlight_update (th : Nat) (s : State) : (doneFlight th s).update = s.update := rfl
@[simp] theorem doneFlight_versions (th : Nat) (s : State) : (doneFlight th s).versions = s.versions := rfl
@[simp] theorem doneFlight_changes (th : Nat) (s : State) : (doneFlight th s).changes = s.changes := rfl
@[simp] theorem doneFlight_mapping (th : Nat) (s : State) : (doneFlight th s).mapping = s.mapping := rfl
@[simp] theorem doneFlight_ckpt (th : Nat) (s : State) : (doneFlight th s).ckpt = s.ckpt := rfl
@[simp] theorem doneFlight_federation (th : Nat) (s : State) : (doneFlight th s).federation = s.federation := rfl
@[simp] theorem doneFlight_fabric (th : Nat) (s : State) : (doneFlight th s).fabric = s.fabric := rfl
@[simp] theorem doneFlight_time (th : Nat) (s : State) : (doneFlight th s).time = s.time := rfl
@[simp] theorem doneFlight_power (th : Nat) (s : State) : (doneFlight th s).power = s.power := rfl
@[simp] theorem doneFlight_boot (th : Nat) (s : State) : (doneFlight th s).boot = s.boot := rfl
@[simp] theorem doneFlight_out (th : Nat) (s : State) : (doneFlight th s).out = s.out := rfl
@[simp] theorem doneFlight_pending (th : Nat) (s : State) : (doneFlight th s).pending = s.pending := rfl
@[simp] theorem doneFlight_free (th : Nat) (s : State) : (doneFlight th s).free = s.free := rfl

/-! `countFormat`. -/

@[simp] theorem countFormat_settings (n : Nat) (s : State) : (countFormat n s).settings = s.settings := rfl
@[simp] theorem countFormat_firmware (n : Nat) (s : State) : (countFormat n s).firmware = s.firmware := rfl
@[simp] theorem countFormat_security (n : Nat) (s : State) : (countFormat n s).security = s.security := rfl
@[simp] theorem countFormat_audit (n : Nat) (s : State) : (countFormat n s).audit = s.audit := rfl
@[simp] theorem countFormat_faultLog (n : Nat) (s : State) : (countFormat n s).faultLog = s.faultLog := rfl
@[simp] theorem countFormat_sessions (n : Nat) (s : State) : (countFormat n s).sessions = s.sessions := rfl
@[simp] theorem countFormat_host (n : Nat) (s : State) : (countFormat n s).host = s.host := rfl
@[simp] theorem countFormat_memory (n : Nat) (s : State) : (countFormat n s).memory = s.memory := rfl
@[simp] theorem countFormat_mirage (n : Nat) (s : State) : (countFormat n s).mirage = s.mirage := rfl
@[simp] theorem countFormat_repair (n : Nat) (s : State) : (countFormat n s).repair = s.repair := rfl
@[simp] theorem countFormat_image (n : Nat) (s : State) : (countFormat n s).image = s.image := rfl
@[simp] theorem countFormat_run (n : Nat) (s : State) : (countFormat n s).run = s.run := rfl
@[simp] theorem countFormat_engines (n : Nat) (s : State) : (countFormat n s).engines = s.engines := rfl
@[simp] theorem countFormat_kv (n : Nat) (s : State) : (countFormat n s).kv = s.kv := rfl
@[simp] theorem countFormat_reductions (n : Nat) (s : State) : (countFormat n s).reductions = s.reductions := rfl
@[simp] theorem countFormat_update (n : Nat) (s : State) : (countFormat n s).update = s.update := rfl
@[simp] theorem countFormat_versions (n : Nat) (s : State) : (countFormat n s).versions = s.versions := rfl
@[simp] theorem countFormat_changes (n : Nat) (s : State) : (countFormat n s).changes = s.changes := rfl
@[simp] theorem countFormat_mapping (n : Nat) (s : State) : (countFormat n s).mapping = s.mapping := rfl
@[simp] theorem countFormat_ckpt (n : Nat) (s : State) : (countFormat n s).ckpt = s.ckpt := rfl
@[simp] theorem countFormat_federation (n : Nat) (s : State) : (countFormat n s).federation = s.federation := rfl
@[simp] theorem countFormat_fabric (n : Nat) (s : State) : (countFormat n s).fabric = s.fabric := rfl
@[simp] theorem countFormat_time (n : Nat) (s : State) : (countFormat n s).time = s.time := rfl
@[simp] theorem countFormat_power (n : Nat) (s : State) : (countFormat n s).power = s.power := rfl
@[simp] theorem countFormat_boot (n : Nat) (s : State) : (countFormat n s).boot = s.boot := rfl
@[simp] theorem countFormat_out (n : Nat) (s : State) : (countFormat n s).out = s.out := rfl
@[simp] theorem countFormat_pending (n : Nat) (s : State) : (countFormat n s).pending = s.pending := rfl
@[simp] theorem countFormat_free (n : Nat) (s : State) : (countFormat n s).free = s.free := rfl

/-! `setMe`. -/

@[simp] theorem setMe_settings (me : Nat) (x : MatrixEngine) (s : State) : (setMe me x s).settings = s.settings := rfl
@[simp] theorem setMe_firmware (me : Nat) (x : MatrixEngine) (s : State) : (setMe me x s).firmware = s.firmware := rfl
@[simp] theorem setMe_security (me : Nat) (x : MatrixEngine) (s : State) : (setMe me x s).security = s.security := rfl
@[simp] theorem setMe_audit (me : Nat) (x : MatrixEngine) (s : State) : (setMe me x s).audit = s.audit := rfl
@[simp] theorem setMe_faultLog (me : Nat) (x : MatrixEngine) (s : State) : (setMe me x s).faultLog = s.faultLog := rfl
@[simp] theorem setMe_sessions (me : Nat) (x : MatrixEngine) (s : State) : (setMe me x s).sessions = s.sessions := rfl
@[simp] theorem setMe_host (me : Nat) (x : MatrixEngine) (s : State) : (setMe me x s).host = s.host := rfl
@[simp] theorem setMe_memory (me : Nat) (x : MatrixEngine) (s : State) : (setMe me x s).memory = s.memory := rfl
@[simp] theorem setMe_mirage (me : Nat) (x : MatrixEngine) (s : State) : (setMe me x s).mirage = s.mirage := rfl
@[simp] theorem setMe_repair (me : Nat) (x : MatrixEngine) (s : State) : (setMe me x s).repair = s.repair := rfl
@[simp] theorem setMe_image (me : Nat) (x : MatrixEngine) (s : State) : (setMe me x s).image = s.image := rfl
@[simp] theorem setMe_run (me : Nat) (x : MatrixEngine) (s : State) : (setMe me x s).run = s.run := rfl
@[simp] theorem setMe_scales (me : Nat) (x : MatrixEngine) (s : State) : (setMe me x s).scales = s.scales := rfl
@[simp] theorem setMe_kv (me : Nat) (x : MatrixEngine) (s : State) : (setMe me x s).kv = s.kv := rfl
@[simp] theorem setMe_reductions (me : Nat) (x : MatrixEngine) (s : State) : (setMe me x s).reductions = s.reductions := rfl
@[simp] theorem setMe_update (me : Nat) (x : MatrixEngine) (s : State) : (setMe me x s).update = s.update := rfl
@[simp] theorem setMe_versions (me : Nat) (x : MatrixEngine) (s : State) : (setMe me x s).versions = s.versions := rfl
@[simp] theorem setMe_changes (me : Nat) (x : MatrixEngine) (s : State) : (setMe me x s).changes = s.changes := rfl
@[simp] theorem setMe_mapping (me : Nat) (x : MatrixEngine) (s : State) : (setMe me x s).mapping = s.mapping := rfl
@[simp] theorem setMe_ckpt (me : Nat) (x : MatrixEngine) (s : State) : (setMe me x s).ckpt = s.ckpt := rfl
@[simp] theorem setMe_federation (me : Nat) (x : MatrixEngine) (s : State) : (setMe me x s).federation = s.federation := rfl
@[simp] theorem setMe_fabric (me : Nat) (x : MatrixEngine) (s : State) : (setMe me x s).fabric = s.fabric := rfl
@[simp] theorem setMe_time (me : Nat) (x : MatrixEngine) (s : State) : (setMe me x s).time = s.time := rfl
@[simp] theorem setMe_power (me : Nat) (x : MatrixEngine) (s : State) : (setMe me x s).power = s.power := rfl
@[simp] theorem setMe_boot (me : Nat) (x : MatrixEngine) (s : State) : (setMe me x s).boot = s.boot := rfl
@[simp] theorem setMe_out (me : Nat) (x : MatrixEngine) (s : State) : (setMe me x s).out = s.out := rfl
@[simp] theorem setMe_pending (me : Nat) (x : MatrixEngine) (s : State) : (setMe me x s).pending = s.pending := rfl
@[simp] theorem setMe_free (me : Nat) (x : MatrixEngine) (s : State) : (setMe me x s).free = s.free := rfl

/-! `setHt`. -/

@[simp] theorem setHt_settings (gc ht : Nat) (x : HThread) (s : State) : (setHt gc ht x s).settings = s.settings := rfl
@[simp] theorem setHt_firmware (gc ht : Nat) (x : HThread) (s : State) : (setHt gc ht x s).firmware = s.firmware := rfl
@[simp] theorem setHt_security (gc ht : Nat) (x : HThread) (s : State) : (setHt gc ht x s).security = s.security := rfl
@[simp] theorem setHt_audit (gc ht : Nat) (x : HThread) (s : State) : (setHt gc ht x s).audit = s.audit := rfl
@[simp] theorem setHt_faultLog (gc ht : Nat) (x : HThread) (s : State) : (setHt gc ht x s).faultLog = s.faultLog := rfl
@[simp] theorem setHt_sessions (gc ht : Nat) (x : HThread) (s : State) : (setHt gc ht x s).sessions = s.sessions := rfl
@[simp] theorem setHt_host (gc ht : Nat) (x : HThread) (s : State) : (setHt gc ht x s).host = s.host := rfl
@[simp] theorem setHt_memory (gc ht : Nat) (x : HThread) (s : State) : (setHt gc ht x s).memory = s.memory := rfl
@[simp] theorem setHt_mirage (gc ht : Nat) (x : HThread) (s : State) : (setHt gc ht x s).mirage = s.mirage := rfl
@[simp] theorem setHt_repair (gc ht : Nat) (x : HThread) (s : State) : (setHt gc ht x s).repair = s.repair := rfl
@[simp] theorem setHt_image (gc ht : Nat) (x : HThread) (s : State) : (setHt gc ht x s).image = s.image := rfl
@[simp] theorem setHt_scales (gc ht : Nat) (x : HThread) (s : State) : (setHt gc ht x s).scales = s.scales := rfl
@[simp] theorem setHt_engines (gc ht : Nat) (x : HThread) (s : State) : (setHt gc ht x s).engines = s.engines := rfl
@[simp] theorem setHt_kv (gc ht : Nat) (x : HThread) (s : State) : (setHt gc ht x s).kv = s.kv := rfl
@[simp] theorem setHt_reductions (gc ht : Nat) (x : HThread) (s : State) : (setHt gc ht x s).reductions = s.reductions := rfl
@[simp] theorem setHt_update (gc ht : Nat) (x : HThread) (s : State) : (setHt gc ht x s).update = s.update := rfl
@[simp] theorem setHt_versions (gc ht : Nat) (x : HThread) (s : State) : (setHt gc ht x s).versions = s.versions := rfl
@[simp] theorem setHt_changes (gc ht : Nat) (x : HThread) (s : State) : (setHt gc ht x s).changes = s.changes := rfl
@[simp] theorem setHt_mapping (gc ht : Nat) (x : HThread) (s : State) : (setHt gc ht x s).mapping = s.mapping := rfl
@[simp] theorem setHt_ckpt (gc ht : Nat) (x : HThread) (s : State) : (setHt gc ht x s).ckpt = s.ckpt := rfl
@[simp] theorem setHt_federation (gc ht : Nat) (x : HThread) (s : State) : (setHt gc ht x s).federation = s.federation := rfl
@[simp] theorem setHt_fabric (gc ht : Nat) (x : HThread) (s : State) : (setHt gc ht x s).fabric = s.fabric := rfl
@[simp] theorem setHt_time (gc ht : Nat) (x : HThread) (s : State) : (setHt gc ht x s).time = s.time := rfl
@[simp] theorem setHt_power (gc ht : Nat) (x : HThread) (s : State) : (setHt gc ht x s).power = s.power := rfl
@[simp] theorem setHt_boot (gc ht : Nat) (x : HThread) (s : State) : (setHt gc ht x s).boot = s.boot := rfl
@[simp] theorem setHt_out (gc ht : Nat) (x : HThread) (s : State) : (setHt gc ht x s).out = s.out := rfl
@[simp] theorem setHt_pending (gc ht : Nat) (x : HThread) (s : State) : (setHt gc ht x s).pending = s.pending := rfl
@[simp] theorem setHt_free (gc ht : Nat) (x : HThread) (s : State) : (setHt gc ht x s).free = s.free := rfl

/-! `kvPut`. -/

@[simp] theorem kvPut_settings (a : Nat) (bs : List Byte) (s : State) : (kvPut a bs s).settings = s.settings := rfl
@[simp] theorem kvPut_firmware (a : Nat) (bs : List Byte) (s : State) : (kvPut a bs s).firmware = s.firmware := rfl
@[simp] theorem kvPut_security (a : Nat) (bs : List Byte) (s : State) : (kvPut a bs s).security = s.security := rfl
@[simp] theorem kvPut_audit (a : Nat) (bs : List Byte) (s : State) : (kvPut a bs s).audit = s.audit := rfl
@[simp] theorem kvPut_faultLog (a : Nat) (bs : List Byte) (s : State) : (kvPut a bs s).faultLog = s.faultLog := rfl
@[simp] theorem kvPut_sessions (a : Nat) (bs : List Byte) (s : State) : (kvPut a bs s).sessions = s.sessions := rfl
@[simp] theorem kvPut_host (a : Nat) (bs : List Byte) (s : State) : (kvPut a bs s).host = s.host := rfl
@[simp] theorem kvPut_mirage (a : Nat) (bs : List Byte) (s : State) : (kvPut a bs s).mirage = s.mirage := rfl
@[simp] theorem kvPut_repair (a : Nat) (bs : List Byte) (s : State) : (kvPut a bs s).repair = s.repair := rfl
@[simp] theorem kvPut_image (a : Nat) (bs : List Byte) (s : State) : (kvPut a bs s).image = s.image := rfl
@[simp] theorem kvPut_run (a : Nat) (bs : List Byte) (s : State) : (kvPut a bs s).run = s.run := rfl
@[simp] theorem kvPut_scales (a : Nat) (bs : List Byte) (s : State) : (kvPut a bs s).scales = s.scales := rfl
@[simp] theorem kvPut_engines (a : Nat) (bs : List Byte) (s : State) : (kvPut a bs s).engines = s.engines := rfl
@[simp] theorem kvPut_kv (a : Nat) (bs : List Byte) (s : State) : (kvPut a bs s).kv = s.kv := rfl
@[simp] theorem kvPut_reductions (a : Nat) (bs : List Byte) (s : State) : (kvPut a bs s).reductions = s.reductions := rfl
@[simp] theorem kvPut_update (a : Nat) (bs : List Byte) (s : State) : (kvPut a bs s).update = s.update := rfl
@[simp] theorem kvPut_versions (a : Nat) (bs : List Byte) (s : State) : (kvPut a bs s).versions = s.versions := rfl
@[simp] theorem kvPut_changes (a : Nat) (bs : List Byte) (s : State) : (kvPut a bs s).changes = s.changes := rfl
@[simp] theorem kvPut_mapping (a : Nat) (bs : List Byte) (s : State) : (kvPut a bs s).mapping = s.mapping := rfl
@[simp] theorem kvPut_ckpt (a : Nat) (bs : List Byte) (s : State) : (kvPut a bs s).ckpt = s.ckpt := rfl
@[simp] theorem kvPut_federation (a : Nat) (bs : List Byte) (s : State) : (kvPut a bs s).federation = s.federation := rfl
@[simp] theorem kvPut_fabric (a : Nat) (bs : List Byte) (s : State) : (kvPut a bs s).fabric = s.fabric := rfl
@[simp] theorem kvPut_time (a : Nat) (bs : List Byte) (s : State) : (kvPut a bs s).time = s.time := rfl
@[simp] theorem kvPut_power (a : Nat) (bs : List Byte) (s : State) : (kvPut a bs s).power = s.power := rfl
@[simp] theorem kvPut_boot (a : Nat) (bs : List Byte) (s : State) : (kvPut a bs s).boot = s.boot := rfl
@[simp] theorem kvPut_out (a : Nat) (bs : List Byte) (s : State) : (kvPut a bs s).out = s.out := rfl
@[simp] theorem kvPut_pending (a : Nat) (bs : List Byte) (s : State) : (kvPut a bs s).pending = s.pending := rfl
@[simp] theorem kvPut_free (a : Nat) (bs : List Byte) (s : State) : (kvPut a bs s).free = s.free := rfl

/-! `setPool`. -/

@[simp] theorem setPool_settings (n : Nat) (p : Pool) (s : State) : (setPool n p s).settings = s.settings := rfl
@[simp] theorem setPool_firmware (n : Nat) (p : Pool) (s : State) : (setPool n p s).firmware = s.firmware := rfl
@[simp] theorem setPool_security (n : Nat) (p : Pool) (s : State) : (setPool n p s).security = s.security := rfl
@[simp] theorem setPool_audit (n : Nat) (p : Pool) (s : State) : (setPool n p s).audit = s.audit := rfl
@[simp] theorem setPool_faultLog (n : Nat) (p : Pool) (s : State) : (setPool n p s).faultLog = s.faultLog := rfl
@[simp] theorem setPool_sessions (n : Nat) (p : Pool) (s : State) : (setPool n p s).sessions = s.sessions := rfl
@[simp] theorem setPool_host (n : Nat) (p : Pool) (s : State) : (setPool n p s).host = s.host := rfl
@[simp] theorem setPool_memory (n : Nat) (p : Pool) (s : State) : (setPool n p s).memory = s.memory := rfl
@[simp] theorem setPool_mirage (n : Nat) (p : Pool) (s : State) : (setPool n p s).mirage = s.mirage := rfl
@[simp] theorem setPool_repair (n : Nat) (p : Pool) (s : State) : (setPool n p s).repair = s.repair := rfl
@[simp] theorem setPool_image (n : Nat) (p : Pool) (s : State) : (setPool n p s).image = s.image := rfl
@[simp] theorem setPool_run (n : Nat) (p : Pool) (s : State) : (setPool n p s).run = s.run := rfl
@[simp] theorem setPool_scales (n : Nat) (p : Pool) (s : State) : (setPool n p s).scales = s.scales := rfl
@[simp] theorem setPool_engines (n : Nat) (p : Pool) (s : State) : (setPool n p s).engines = s.engines := rfl
@[simp] theorem setPool_reductions (n : Nat) (p : Pool) (s : State) : (setPool n p s).reductions = s.reductions := rfl
@[simp] theorem setPool_update (n : Nat) (p : Pool) (s : State) : (setPool n p s).update = s.update := rfl
@[simp] theorem setPool_versions (n : Nat) (p : Pool) (s : State) : (setPool n p s).versions = s.versions := rfl
@[simp] theorem setPool_changes (n : Nat) (p : Pool) (s : State) : (setPool n p s).changes = s.changes := rfl
@[simp] theorem setPool_mapping (n : Nat) (p : Pool) (s : State) : (setPool n p s).mapping = s.mapping := rfl
@[simp] theorem setPool_ckpt (n : Nat) (p : Pool) (s : State) : (setPool n p s).ckpt = s.ckpt := rfl
@[simp] theorem setPool_federation (n : Nat) (p : Pool) (s : State) : (setPool n p s).federation = s.federation := rfl
@[simp] theorem setPool_fabric (n : Nat) (p : Pool) (s : State) : (setPool n p s).fabric = s.fabric := rfl
@[simp] theorem setPool_time (n : Nat) (p : Pool) (s : State) : (setPool n p s).time = s.time := rfl
@[simp] theorem setPool_power (n : Nat) (p : Pool) (s : State) : (setPool n p s).power = s.power := rfl
@[simp] theorem setPool_boot (n : Nat) (p : Pool) (s : State) : (setPool n p s).boot = s.boot := rfl
@[simp] theorem setPool_out (n : Nat) (p : Pool) (s : State) : (setPool n p s).out = s.out := rfl
@[simp] theorem setPool_pending (n : Nat) (p : Pool) (s : State) : (setPool n p s).pending = s.pending := rfl
@[simp] theorem setPool_free (n : Nat) (p : Pool) (s : State) : (setPool n p s).free = s.free := rfl

/-! `setSeq`. -/

@[simp] theorem setSeq_settings (n : Nat) (x : KvSeq) (s : State) : (setSeq n x s).settings = s.settings := rfl
@[simp] theorem setSeq_firmware (n : Nat) (x : KvSeq) (s : State) : (setSeq n x s).firmware = s.firmware := rfl
@[simp] theorem setSeq_security (n : Nat) (x : KvSeq) (s : State) : (setSeq n x s).security = s.security := rfl
@[simp] theorem setSeq_audit (n : Nat) (x : KvSeq) (s : State) : (setSeq n x s).audit = s.audit := rfl
@[simp] theorem setSeq_faultLog (n : Nat) (x : KvSeq) (s : State) : (setSeq n x s).faultLog = s.faultLog := rfl
@[simp] theorem setSeq_sessions (n : Nat) (x : KvSeq) (s : State) : (setSeq n x s).sessions = s.sessions := rfl
@[simp] theorem setSeq_host (n : Nat) (x : KvSeq) (s : State) : (setSeq n x s).host = s.host := rfl
@[simp] theorem setSeq_memory (n : Nat) (x : KvSeq) (s : State) : (setSeq n x s).memory = s.memory := rfl
@[simp] theorem setSeq_mirage (n : Nat) (x : KvSeq) (s : State) : (setSeq n x s).mirage = s.mirage := rfl
@[simp] theorem setSeq_repair (n : Nat) (x : KvSeq) (s : State) : (setSeq n x s).repair = s.repair := rfl
@[simp] theorem setSeq_image (n : Nat) (x : KvSeq) (s : State) : (setSeq n x s).image = s.image := rfl
@[simp] theorem setSeq_run (n : Nat) (x : KvSeq) (s : State) : (setSeq n x s).run = s.run := rfl
@[simp] theorem setSeq_scales (n : Nat) (x : KvSeq) (s : State) : (setSeq n x s).scales = s.scales := rfl
@[simp] theorem setSeq_engines (n : Nat) (x : KvSeq) (s : State) : (setSeq n x s).engines = s.engines := rfl
@[simp] theorem setSeq_reductions (n : Nat) (x : KvSeq) (s : State) : (setSeq n x s).reductions = s.reductions := rfl
@[simp] theorem setSeq_update (n : Nat) (x : KvSeq) (s : State) : (setSeq n x s).update = s.update := rfl
@[simp] theorem setSeq_versions (n : Nat) (x : KvSeq) (s : State) : (setSeq n x s).versions = s.versions := rfl
@[simp] theorem setSeq_changes (n : Nat) (x : KvSeq) (s : State) : (setSeq n x s).changes = s.changes := rfl
@[simp] theorem setSeq_mapping (n : Nat) (x : KvSeq) (s : State) : (setSeq n x s).mapping = s.mapping := rfl
@[simp] theorem setSeq_ckpt (n : Nat) (x : KvSeq) (s : State) : (setSeq n x s).ckpt = s.ckpt := rfl
@[simp] theorem setSeq_federation (n : Nat) (x : KvSeq) (s : State) : (setSeq n x s).federation = s.federation := rfl
@[simp] theorem setSeq_fabric (n : Nat) (x : KvSeq) (s : State) : (setSeq n x s).fabric = s.fabric := rfl
@[simp] theorem setSeq_time (n : Nat) (x : KvSeq) (s : State) : (setSeq n x s).time = s.time := rfl
@[simp] theorem setSeq_power (n : Nat) (x : KvSeq) (s : State) : (setSeq n x s).power = s.power := rfl
@[simp] theorem setSeq_boot (n : Nat) (x : KvSeq) (s : State) : (setSeq n x s).boot = s.boot := rfl
@[simp] theorem setSeq_out (n : Nat) (x : KvSeq) (s : State) : (setSeq n x s).out = s.out := rfl
@[simp] theorem setSeq_pending (n : Nat) (x : KvSeq) (s : State) : (setSeq n x s).pending = s.pending := rfl
@[simp] theorem setSeq_free (n : Nat) (x : KvSeq) (s : State) : (setSeq n x s).free = s.free := rfl

/-! `modSlice`. -/

@[simp] theorem modSlice_settings (r f : Nat) (g : Slice → Slice) (s : State) : (modSlice r f g s).settings = s.settings := rfl
@[simp] theorem modSlice_firmware (r f : Nat) (g : Slice → Slice) (s : State) : (modSlice r f g s).firmware = s.firmware := rfl
@[simp] theorem modSlice_security (r f : Nat) (g : Slice → Slice) (s : State) : (modSlice r f g s).security = s.security := rfl
@[simp] theorem modSlice_audit (r f : Nat) (g : Slice → Slice) (s : State) : (modSlice r f g s).audit = s.audit := rfl
@[simp] theorem modSlice_faultLog (r f : Nat) (g : Slice → Slice) (s : State) : (modSlice r f g s).faultLog = s.faultLog := rfl
@[simp] theorem modSlice_sessions (r f : Nat) (g : Slice → Slice) (s : State) : (modSlice r f g s).sessions = s.sessions := rfl
@[simp] theorem modSlice_host (r f : Nat) (g : Slice → Slice) (s : State) : (modSlice r f g s).host = s.host := rfl
@[simp] theorem modSlice_memory (r f : Nat) (g : Slice → Slice) (s : State) : (modSlice r f g s).memory = s.memory := rfl
@[simp] theorem modSlice_mirage (r f : Nat) (g : Slice → Slice) (s : State) : (modSlice r f g s).mirage = s.mirage := rfl
@[simp] theorem modSlice_repair (r f : Nat) (g : Slice → Slice) (s : State) : (modSlice r f g s).repair = s.repair := rfl
@[simp] theorem modSlice_image (r f : Nat) (g : Slice → Slice) (s : State) : (modSlice r f g s).image = s.image := rfl
@[simp] theorem modSlice_run (r f : Nat) (g : Slice → Slice) (s : State) : (modSlice r f g s).run = s.run := rfl
@[simp] theorem modSlice_scales (r f : Nat) (g : Slice → Slice) (s : State) : (modSlice r f g s).scales = s.scales := rfl
@[simp] theorem modSlice_engines (r f : Nat) (g : Slice → Slice) (s : State) : (modSlice r f g s).engines = s.engines := rfl
@[simp] theorem modSlice_kv (r f : Nat) (g : Slice → Slice) (s : State) : (modSlice r f g s).kv = s.kv := rfl
@[simp] theorem modSlice_reductions (r f : Nat) (g : Slice → Slice) (s : State) : (modSlice r f g s).reductions = s.reductions := rfl
@[simp] theorem modSlice_update (r f : Nat) (g : Slice → Slice) (s : State) : (modSlice r f g s).update = s.update := rfl
@[simp] theorem modSlice_versions (r f : Nat) (g : Slice → Slice) (s : State) : (modSlice r f g s).versions = s.versions := rfl
@[simp] theorem modSlice_changes (r f : Nat) (g : Slice → Slice) (s : State) : (modSlice r f g s).changes = s.changes := rfl
@[simp] theorem modSlice_mapping (r f : Nat) (g : Slice → Slice) (s : State) : (modSlice r f g s).mapping = s.mapping := rfl
@[simp] theorem modSlice_ckpt (r f : Nat) (g : Slice → Slice) (s : State) : (modSlice r f g s).ckpt = s.ckpt := rfl
@[simp] theorem modSlice_fabric (r f : Nat) (g : Slice → Slice) (s : State) : (modSlice r f g s).fabric = s.fabric := rfl
@[simp] theorem modSlice_time (r f : Nat) (g : Slice → Slice) (s : State) : (modSlice r f g s).time = s.time := rfl
@[simp] theorem modSlice_power (r f : Nat) (g : Slice → Slice) (s : State) : (modSlice r f g s).power = s.power := rfl
@[simp] theorem modSlice_boot (r f : Nat) (g : Slice → Slice) (s : State) : (modSlice r f g s).boot = s.boot := rfl
@[simp] theorem modSlice_out (r f : Nat) (g : Slice → Slice) (s : State) : (modSlice r f g s).out = s.out := rfl
@[simp] theorem modSlice_pending (r f : Nat) (g : Slice → Slice) (s : State) : (modSlice r f g s).pending = s.pending := rfl
@[simp] theorem modSlice_free (r f : Nat) (g : Slice → Slice) (s : State) : (modSlice r f g s).free = s.free := rfl

/-! `modVer`. -/

@[simp] theorem modVer_settings (p sh : Nat) (g : ShardVer → ShardVer) (s : State) : (modVer p sh g s).settings = s.settings := rfl
@[simp] theorem modVer_firmware (p sh : Nat) (g : ShardVer → ShardVer) (s : State) : (modVer p sh g s).firmware = s.firmware := rfl
@[simp] theorem modVer_security (p sh : Nat) (g : ShardVer → ShardVer) (s : State) : (modVer p sh g s).security = s.security := rfl
@[simp] theorem modVer_audit (p sh : Nat) (g : ShardVer → ShardVer) (s : State) : (modVer p sh g s).audit = s.audit := rfl
@[simp] theorem modVer_faultLog (p sh : Nat) (g : ShardVer → ShardVer) (s : State) : (modVer p sh g s).faultLog = s.faultLog := rfl
@[simp] theorem modVer_sessions (p sh : Nat) (g : ShardVer → ShardVer) (s : State) : (modVer p sh g s).sessions = s.sessions := rfl
@[simp] theorem modVer_host (p sh : Nat) (g : ShardVer → ShardVer) (s : State) : (modVer p sh g s).host = s.host := rfl
@[simp] theorem modVer_memory (p sh : Nat) (g : ShardVer → ShardVer) (s : State) : (modVer p sh g s).memory = s.memory := rfl
@[simp] theorem modVer_mirage (p sh : Nat) (g : ShardVer → ShardVer) (s : State) : (modVer p sh g s).mirage = s.mirage := rfl
@[simp] theorem modVer_repair (p sh : Nat) (g : ShardVer → ShardVer) (s : State) : (modVer p sh g s).repair = s.repair := rfl
@[simp] theorem modVer_image (p sh : Nat) (g : ShardVer → ShardVer) (s : State) : (modVer p sh g s).image = s.image := rfl
@[simp] theorem modVer_run (p sh : Nat) (g : ShardVer → ShardVer) (s : State) : (modVer p sh g s).run = s.run := rfl
@[simp] theorem modVer_scales (p sh : Nat) (g : ShardVer → ShardVer) (s : State) : (modVer p sh g s).scales = s.scales := rfl
@[simp] theorem modVer_engines (p sh : Nat) (g : ShardVer → ShardVer) (s : State) : (modVer p sh g s).engines = s.engines := rfl
@[simp] theorem modVer_kv (p sh : Nat) (g : ShardVer → ShardVer) (s : State) : (modVer p sh g s).kv = s.kv := rfl
@[simp] theorem modVer_reductions (p sh : Nat) (g : ShardVer → ShardVer) (s : State) : (modVer p sh g s).reductions = s.reductions := rfl
@[simp] theorem modVer_update (p sh : Nat) (g : ShardVer → ShardVer) (s : State) : (modVer p sh g s).update = s.update := rfl
@[simp] theorem modVer_changes (p sh : Nat) (g : ShardVer → ShardVer) (s : State) : (modVer p sh g s).changes = s.changes := rfl
@[simp] theorem modVer_mapping (p sh : Nat) (g : ShardVer → ShardVer) (s : State) : (modVer p sh g s).mapping = s.mapping := rfl
@[simp] theorem modVer_ckpt (p sh : Nat) (g : ShardVer → ShardVer) (s : State) : (modVer p sh g s).ckpt = s.ckpt := rfl
@[simp] theorem modVer_federation (p sh : Nat) (g : ShardVer → ShardVer) (s : State) : (modVer p sh g s).federation = s.federation := rfl
@[simp] theorem modVer_fabric (p sh : Nat) (g : ShardVer → ShardVer) (s : State) : (modVer p sh g s).fabric = s.fabric := rfl
@[simp] theorem modVer_time (p sh : Nat) (g : ShardVer → ShardVer) (s : State) : (modVer p sh g s).time = s.time := rfl
@[simp] theorem modVer_power (p sh : Nat) (g : ShardVer → ShardVer) (s : State) : (modVer p sh g s).power = s.power := rfl
@[simp] theorem modVer_boot (p sh : Nat) (g : ShardVer → ShardVer) (s : State) : (modVer p sh g s).boot = s.boot := rfl
@[simp] theorem modVer_out (p sh : Nat) (g : ShardVer → ShardVer) (s : State) : (modVer p sh g s).out = s.out := rfl
@[simp] theorem modVer_pending (p sh : Nat) (g : ShardVer → ShardVer) (s : State) : (modVer p sh g s).pending = s.pending := rfl
@[simp] theorem modVer_free (p sh : Nat) (g : ShardVer → ShardVer) (s : State) : (modVer p sh g s).free = s.free := rfl

/-! `changeMap`. -/

@[simp] theorem changeMap_settings (g : Sp (Nat × Nat) → Sp (Nat × Nat)) (s : State) : (changeMap g s).settings = s.settings := rfl
@[simp] theorem changeMap_firmware (g : Sp (Nat × Nat) → Sp (Nat × Nat)) (s : State) : (changeMap g s).firmware = s.firmware := rfl
@[simp] theorem changeMap_security (g : Sp (Nat × Nat) → Sp (Nat × Nat)) (s : State) : (changeMap g s).security = s.security := rfl
@[simp] theorem changeMap_audit (g : Sp (Nat × Nat) → Sp (Nat × Nat)) (s : State) : (changeMap g s).audit = s.audit := rfl
@[simp] theorem changeMap_faultLog (g : Sp (Nat × Nat) → Sp (Nat × Nat)) (s : State) : (changeMap g s).faultLog = s.faultLog := rfl
@[simp] theorem changeMap_sessions (g : Sp (Nat × Nat) → Sp (Nat × Nat)) (s : State) : (changeMap g s).sessions = s.sessions := rfl
@[simp] theorem changeMap_host (g : Sp (Nat × Nat) → Sp (Nat × Nat)) (s : State) : (changeMap g s).host = s.host := rfl
@[simp] theorem changeMap_memory (g : Sp (Nat × Nat) → Sp (Nat × Nat)) (s : State) : (changeMap g s).memory = s.memory := rfl
@[simp] theorem changeMap_repair (g : Sp (Nat × Nat) → Sp (Nat × Nat)) (s : State) : (changeMap g s).repair = s.repair := rfl
@[simp] theorem changeMap_image (g : Sp (Nat × Nat) → Sp (Nat × Nat)) (s : State) : (changeMap g s).image = s.image := rfl
@[simp] theorem changeMap_run (g : Sp (Nat × Nat) → Sp (Nat × Nat)) (s : State) : (changeMap g s).run = s.run := rfl
@[simp] theorem changeMap_scales (g : Sp (Nat × Nat) → Sp (Nat × Nat)) (s : State) : (changeMap g s).scales = s.scales := rfl
@[simp] theorem changeMap_engines (g : Sp (Nat × Nat) → Sp (Nat × Nat)) (s : State) : (changeMap g s).engines = s.engines := rfl
@[simp] theorem changeMap_kv (g : Sp (Nat × Nat) → Sp (Nat × Nat)) (s : State) : (changeMap g s).kv = s.kv := rfl
@[simp] theorem changeMap_reductions (g : Sp (Nat × Nat) → Sp (Nat × Nat)) (s : State) : (changeMap g s).reductions = s.reductions := rfl
@[simp] theorem changeMap_update (g : Sp (Nat × Nat) → Sp (Nat × Nat)) (s : State) : (changeMap g s).update = s.update := rfl
@[simp] theorem changeMap_versions (g : Sp (Nat × Nat) → Sp (Nat × Nat)) (s : State) : (changeMap g s).versions = s.versions := rfl
@[simp] theorem changeMap_changes (g : Sp (Nat × Nat) → Sp (Nat × Nat)) (s : State) : (changeMap g s).changes = s.changes := rfl
@[simp] theorem changeMap_mapping (g : Sp (Nat × Nat) → Sp (Nat × Nat)) (s : State) : (changeMap g s).mapping = s.mapping := rfl
@[simp] theorem changeMap_ckpt (g : Sp (Nat × Nat) → Sp (Nat × Nat)) (s : State) : (changeMap g s).ckpt = s.ckpt := rfl
@[simp] theorem changeMap_federation (g : Sp (Nat × Nat) → Sp (Nat × Nat)) (s : State) : (changeMap g s).federation = s.federation := rfl
@[simp] theorem changeMap_fabric (g : Sp (Nat × Nat) → Sp (Nat × Nat)) (s : State) : (changeMap g s).fabric = s.fabric := rfl
@[simp] theorem changeMap_time (g : Sp (Nat × Nat) → Sp (Nat × Nat)) (s : State) : (changeMap g s).time = s.time := rfl
@[simp] theorem changeMap_power (g : Sp (Nat × Nat) → Sp (Nat × Nat)) (s : State) : (changeMap g s).power = s.power := rfl
@[simp] theorem changeMap_boot (g : Sp (Nat × Nat) → Sp (Nat × Nat)) (s : State) : (changeMap g s).boot = s.boot := rfl
@[simp] theorem changeMap_out (g : Sp (Nat × Nat) → Sp (Nat × Nat)) (s : State) : (changeMap g s).out = s.out := rfl
@[simp] theorem changeMap_pending (g : Sp (Nat × Nat) → Sp (Nat × Nat)) (s : State) : (changeMap g s).pending = s.pending := rfl
@[simp] theorem changeMap_free (g : Sp (Nat × Nat) → Sp (Nat × Nat)) (s : State) : (changeMap g s).free = s.free := rfl

end Sys2Proof.Laws
end

