-- ==== Sys2Proof/Laws/Ops.lean ====
section
/-! SUPPORT. What each shared operation does to the fields it changes, said once: output, wake, the two logs, free values, threads in
flight, and the acceptance of a command datagram. -/

namespace Sys2Proof.Laws

open Sys2Proof.Machine Sys2Proof.Safety

/-! Output and free values. -/

@[simp] theorem emit_out (es : List Emission) (s : State) : (emit es s).out = s.out ++ es := rfl
@[simp] theorem takeFree_fst (s : State) : (takeFree s).1 = s.free := rfl
@[simp] theorem takeFree_free (s : State) : (takeFree s).2.free = s.free + 1 := rfl

/-! Wake (R463, R466). -/

/-- After a wake the module is in PS0. -/
@[simp] theorem wakeUp_ps (r : Option Nat) (s : State) : (wakeUp r s).power.ps = 0 := by
  unfold wakeUp
  split
  · rename_i h
    simpa using h
  · rfl

@[simp] theorem nowNs_wakeUp (r : Option Nat) (s : State) : nowNs (wakeUp r s) = nowNs s := by
  unfold nowNs
  rw [wakeUp_time]

/-- Everything a wake does: in PS0 it starts the dwell again; in a low state it also records its source, sets PS0 and widens the
ports. -/
theorem wakeUp_cases (r : Option Nat) (s : State) :
    (s.power.ps = 0 ∧ wakeUp r s = { s with power := { s.power with idleSince := nowNs s } }) ∨
    (s.power.ps ≠ 0 ∧ wakeUp r s =
      { s with
        power := { s.power with
          ps := 0, wake := r.getD s.power.wake, idleSince := nowNs s, lowNs := s.power.lowNs + (nowNs s - s.power.lowSince) }
        fabric := (widenAll (List.range 32) s.fabric).1
        out := s.out ++ (widenAll (List.range 32) s.fabric).2 }) := by
  unfold wakeUp
  by_cases h : s.power.ps = 0
  · left
    simp [h]
  · right
    simp [h]

/-! The two logs (R500, R515). -/

/-- A fault enters the log at its end, under the next number. -/
theorem addFault_faultLog (ev k sc p l b n : Nat) (s : State) :
    (addFault ev k sc p l b n s).faultLog =
      { entries := keepLast 65536 (s.faultLog.entries ++
          [{ seq := s.faultLog.next + 1, event := ev, kind := k, scope := sc, phys := p, logical := l, time := nowNs s,
             step := stepInForce s, body := b, bodyLen := n }])
        next := s.faultLog.next + 1 } := by
  simp [addFault]

@[simp] theorem addFault_next (ev k sc p l b n : Nat) (s : State) :
    (addFault ev k sc p l b n s).faultLog.next = s.faultLog.next + 1 := by
  rw [addFault_faultLog]

/-- An audit entry that can be written is pushed on the chain. -/
theorem auditEntry_audit (o c sid r ev ce a : Nat) (s : State) (h : s.audit.writable = true) :
    (auditEntry o c sid r ev ce a s).audit = auditPush s.audit o c (nowNs s) sid r ev ce a := by
  simp [auditEntry, h]

/-- An audit entry that cannot be written leaves the audit log alone and enters event 14 (R516). -/
theorem auditEntry_fails (o c sid r ev ce a : Nat) (s : State) (h : s.audit.writable = false) :
    auditEntry o c sid r ev ce a s = addEvent 14 (pack [(0, 16, o), (16, 16, c), (32, 32, sid)]) 8 s := by
  simp [auditEntry, h]

@[simp] theorem auditPush_writable (x : Audit) (o c t sid r ev ce a : Nat) :
    (auditPush x o c t sid r ev ce a).writable = x.writable := by
  obtain ⟨_, _, _, _⟩ := x
  rfl
@[simp] theorem auditPush_next (x : Audit) (o c t sid r ev ce a : Nat) : (auditPush x o c t sid r ev ce a).next = x.next + 1 := by
  obtain ⟨_, _, _, _⟩ := x
  rfl

/-- Whether the audit log can be written does not depend on what was written. -/
@[simp] theorem auditEntry_writable (o c sid r ev ce a : Nat) (s : State) :
    (auditEntry o c sid r ev ce a s).audit.writable = s.audit.writable := by
  by_cases h : s.audit.writable = true
  · rw [auditEntry_audit _ _ _ _ _ _ _ _ h, auditPush_writable]
  · have h' : s.audit.writable = false := by simpa using h
    rw [auditEntry_fails _ _ _ _ _ _ _ _ h', addEvent_audit]

/-! Frames. -/

@[simp] theorem sendFrames_fabric (fs : List (Option Nat × Frame)) (s : State) :
    (sendFrames fs s).1.fabric = (fabricSendAll s.fabric fs).1 := rfl
@[simp] theorem sendFrames_out (fs : List (Option Nat × Frame)) (s : State) :
    (sendFrames fs s).1.out = s.out ++ (fabricSendAll s.fabric fs).2.1 := rfl
@[simp] theorem onPort_fabric (n : Nat) (g : Port → Port) (s : State) : (onPort n g s).fabric = modPort s.fabric n g := rfl
@[simp] theorem takeFrame_inbox (f : Frame) (s : State) :
    (takeFrame f s).fabric.inbox = s.fabric.inbox.eraseP (fun x => x.2 == f) := rfl

/-! Engines and the KV cache. -/

@[simp] theorem modFlight_run (th : Nat) (g : InFlight → InFlight) (s : State) : (modFlight th g s).run =
    { s.run with inflight := s.run.inflight.map (fun i => if i.thread == th then g i else i) } := rfl
@[simp] theorem setMe_engines (me : Nat) (x : MatrixEngine) (s : State) : (setMe me x s).engines = spSet me x s.engines := rfl
@[simp] theorem kvPut_memory (a : Nat) (bs : List Byte) (s : State) :
    (kvPut a bs s).memory = vaPut s.memory (regionsOf s) a bs := rfl
@[simp] theorem setPool_pools (n : Nat) (p : Pool) (s : State) : (setPool n p s).kv.pools = spSet n p s.kv.pools := rfl
@[simp] theorem setSeq_seqs (n : Nat) (x : KvSeq) (s : State) : (setSeq n x s).kv.seqs = spSet n x s.kv.seqs := rfl

/-- A write into the KV cache keeps memory canonical. -/
theorem memInv_kvPut (a : Nat) (bs : List Byte) (s : State) (h : MemInv s) : MemInv (kvPut a bs s) :=
  memInv_write h (regionsOf s) a bs rfl

/-- A counter that reaches 2³² fails the run and keeps its value (R120); a thread without a counter signals nothing. -/
theorem addCtr_cases (n v : Nat) (s : State) :
    (n = 0xFFFF ∧ addCtr n v s = s) ∨
    (n ≠ 0xFFFF ∧ 2 ^ 32 ≤ ctrAt s n + v ∧ addCtr n v s = failRun 0x0404 s) ∨
    (n ≠ 0xFFFF ∧ ctrAt s n + v < 2 ^ 32 ∧
      addCtr n v s = { s with run := { s.run with counters := spPut 0 n (ctrAt s n + v) s.run.counters } }) := by
  unfold addCtr
  by_cases h : n = 0xFFFF
  · exact .inl ⟨h, by simp [h]⟩
  · by_cases h2 : 2 ^ 32 ≤ ctrAt s n + v
    · exact .inr (.inl ⟨h, h2, by simp only [beq_iff_eq, h, if_false, if_pos h2]⟩)
    · exact .inr (.inr ⟨h, by omega, by simp only [beq_iff_eq, h, if_false, if_neg h2]⟩)

/-! Acceptance of a command datagram (R396 to R400). -/

@[simp] theorem runState_memory (o : Nat) (x : Session) (d : Datagram) (s : State) : (runState o x d s).memory = s.memory := by
  simp [runState, acceptedState, authState]
@[simp] theorem runState_audit (o : Nat) (x : Session) (d : Datagram) (s : State) : (runState o x d s).audit = s.audit := by
  simp [runState, acceptedState, authState]
@[simp] theorem runState_settings (o : Nat) (x : Session) (d : Datagram) (s : State) : (runState o x d s).settings = s.settings := by
  simp [runState, acceptedState, authState]
@[simp] theorem runState_image (o : Nat) (x : Session) (d : Datagram) (s : State) : (runState o x d s).image = s.image := by
  simp [runState, acceptedState, authState]
@[simp] theorem runState_run (o : Nat) (x : Session) (d : Datagram) (s : State) : (runState o x d s).run = s.run := by
  simp [runState, acceptedState, authState]
@[simp] theorem runState_kv (o : Nat) (x : Session) (d : Datagram) (s : State) : (runState o x d s).kv = s.kv := by
  simp [runState, acceptedState, authState]
@[simp] theorem runState_host (o : Nat) (x : Session) (d : Datagram) (s : State) : (runState o x d s).host = s.host := by
  simp [runState, acceptedState, authState]
@[simp] theorem runState_boot (o : Nat) (x : Session) (d : Datagram) (s : State) : (runState o x d s).boot = s.boot := by
  simp [runState, acceptedState, authState]
@[simp] theorem runState_free (o : Nat) (x : Session) (d : Datagram) (s : State) : (runState o x d s).free = s.free := by
  simp [runState, acceptedState, authState]

/-- A command whose audit entry can be written runs awake. -/
theorem carryOut_awake (x : Session) (d : Datagram) (opc : Nat) (part : Part) (s : State) (hne : opc ≠ 0x0804)
    (ha : s.audit.writable = true) :
    carryOut x d opc part s = conclude x d opc (part (wakeUp (some 1) s) x d) (wakeUp (some 1) s) := by
  simp [carryOut, ha, hne]

/-- An accepted datagram whose own part does not refuse it is carried out on the accepted state. -/
theorem ycp_accepted {opc : Nat} {c : Instr} {part : Part} {d : Datagram} {s : State} {x : Session} (h : Accepted opc s x d)
    (hr : isRefusal (part (authState x s) x d).code = false) :
    ycp opc c part d s = carryOut (acceptedSession opc x d) d opc part (acceptedState opc x d s) := by
  obtain ⟨h1, h2, h3, h4, h5, h6, h7, h8, h9, h10, h11, h12, h13⟩ := h
  have h11' : ¬ (64 ≤ x.slots) := by omega
  have h12' : mustWait (acceptSeq x d.seq opc d.hostTag) d.seq d.fence = false := h12
  have hr' : isRefusal (part
      { s with sessions := modSession s.sessions x.sid (fun y => { y with lastAuth := nowNs s }) } x d).code = false := hr
  unfold ycp
  simp only [h1, h2, h3, h4, h5, h6, h7, h8, h9, h10, h11', h12', hr']
  simp [acceptedSession, acceptedState, authState]

/-- A row that is `ycp` over a part completes with what the part answers under the row's conditions. -/
theorem completes_of {opc : Nat} {c : Datagram → Instr} {part : Part} {P : State → Session → Datagram → Prop}
    {ans : State → Session → Datagram → Answer}
    (hx : ∀ s d, exec (c d) s = .next (ycp opc (c d) part d s)) (hne : opc ≠ 0x0804)
    (hp : ∀ s x d, P s x d → part s x d = ans s x d) (hr : ∀ s x d, P s x d → isRefusal (ans s x d).code = false) :
    Completes opc c P ans := by
  intro s x d ha h1 h2
  have hw : (acceptedState opc x d s).audit.writable = true := ha.audit
  rw [hx, ycp_accepted ha (by rw [hp _ _ _ h1]; exact hr _ _ _ h1), carryOut_awake _ _ _ _ _ hne hw]
  rw [show wakeUp (some 1) (acceptedState opc x d s) = runState opc x d s from rfl, hp _ _ _ h2]

end Sys2Proof.Laws
end

