-- ==== Sys2Proof/WellFormed.lean ====
section
/-! DEFINITION. Well-formed commands: every operand within the width or the range that the spec gives it. A meaning is
total and needs none of these checks; a statement may. -/

namespace Sys2Proof

/-- n fits in w bits. -/
def fits (w n : Nat) : Bool := decide (n < 2 ^ w)

/-- Widths of Table 15.1; `PLEN` at most 1,384 (R385); ports H0, H1 and M0 (R384). -/
def Datagram.wf (d : Datagram) : Bool :=
  decide (d.port < 3) && fits 128 d.srcIp && fits 16 d.srcUdp && fits 8 d.major && fits 8 d.minor && fits 29 d.rsv &&
  fits 32 d.sid && fits 32 d.seq && fits 64 d.hostTag && decide (d.plen ≤ 1384) && fits (8 * d.plen) d.params &&
  fits 128 d.tag

def RawDatagram.wf (r : RawDatagram) : Bool :=
  r.d.wf && fits 16 r.opcode && fits 16 r.magic && fits 16 r.hlen && fits 16 r.udpLen && fits 16 r.dstUdp

/-- Widths of Table 11.3 and the payload limit of R278. -/
def Frame.wf (f : Frame) : Bool :=
  fits 16 f.etype && fits 4 f.ftype && fits 2 f.cls && fits 8 f.hops && fits 16 f.dst && fits 16 f.src &&
  fits 12 f.lseq && fits 12 f.lack && fits 3 f.crdVc && fits 12 f.crdCells && fits 8 f.flow && fits 128 f.tspec &&
  decide (f.payload.length ≤ 9166)

def FedDgram.wf (g : FedDgram) : Bool :=
  fits 128 g.srcIp && fits 512 g.header && decide (g.dataLen ≤ 1384) && fits (8 * g.dataLen) g.data && fits 128 g.tag

def RdmaReq.wf (r : RdmaReq) : Bool :=
  fits 24 r.qpn && fits 24 r.psn && fits 32 r.rkey && fits 64 r.addr && fits 32 r.length

def fport (p : Nat) : Bool := decide (p < 32)
def hport (p : Nat) : Bool := decide (p < 2)
def reg5 (r : Nat) : Bool := decide (r < 32)
/-- A general core, 0 to 255, and its hardware thread, 0 to 7 (R137, R138). -/
def coreThread (gc ht : Nat) : Bool := decide (gc < 256) && decide (ht < 8)

/-- Every operand of a command is in the width or range the spec gives it. -/
def Instr.wf : Instr → Bool
  | .sessionHello d | .sessionOpen d | .sessionClose d | .sessionPing d | .opStatus d | .opPartial d | .opAbort d
  | .capRead d | .identRead d | .attest d | .cfgHostPort d | .cfgYcp d | .cfgGrade d | .cfgRead d | .qpCreate d
  | .qpDestroy d | .memRegister d | .memHostKey d | .memDeregister d | .tensorImport d | .tensorExport d | .memCopy d
  | .imageLoad d | .imageUnload d | .imageState d | .run d | .scaleHistRead d | .scaleHistWrite d | .adapterSet d
  | .groupSet d | .caravanPeriod d | .caravanSet d | .topoWrite d | .routeWrite d | .mcastWrite d | .fabricCommit d
  | .fabricRead d | .timeSet d | .cmpInstall d | .fedMapSet d | .fedKeySet d | .moduleRetire d | .kvPoolCreate d
  | .kvPoolDestroy d | .kvSeqCreate d | .kvFork d | .kvPageWrite d | .kvTruncate d | .kvSeqRetire d | .kvSeqSet d
  | .kvTableRead d | .kvPageRead d | .telemRead d | .normRead d | .faultRead d | .accountRead d | .pwrTolSet d
  | .pwrBoundsSet d | .pwrCapSet d | .pwrModeSet d _ | .pwrRead d | .mirageRead d | .mirageWrite d | .bistRun d
  | .diagRead d | .serviceWindow d | .haboobClear d | .calibrate d | .certEnroll d | .certRevoke d | .certList d
  | .auditRead d | .auditHead d | .fwInstall d | .fwActivate d | .fwRead d | .mfgTest d => d.wf
  | .abortTakesEffect sid h | .tensorImportComplete sid h | .tensorExportComplete sid h | .memCopyComplete sid h
  | .imageLoadComplete sid h | .runStartTime sid h | .runComplete sid h | .cmpInstallComplete sid h
  | .retireDeadlineExpiry sid h | .mirageWriteComplete sid h | .fwInstallComplete sid h | .mfgTestComplete sid h =>
    fits 32 sid && fits 32 h
  | .bistComplete sid h fs => fits 32 sid && fits 32 h && fs.all (fun f => decide (f < 3784))
  | .calibrateComplete sid h _ _ => fits 32 sid && fits 32 h
  | .preemptionHold sid h _ _ | .preemptionRelease sid h _ _ => fits 32 sid && fits 32 h
  | .sessionIdleExpiry sid | .provisionalSessionExpiry sid => fits 32 sid
  | .mm me | .mmTwin me | .mmWin me | .mmSplit me | .drain me | .wgbCopyComplete me => decide (me < 32)
  | .wgbDrain me slot => decide (me < 32) && decide (slot < 614)
  | .chain ve => decide (ve < 16)
  | .core gc => decide (gc < 256)
  | .ttFence gc ht | .ctrWaitEnd gc ht | .carWaitEnd gc ht | .ecall gc ht => coreThread gc ht
  | .ctrWait gc ht a b | .carWait gc ht a b => coreThread gc ht && reg5 a && reg5 b
  | .descXlt gc ht a b c | .amoaddW gc ht a b c => coreThread gc ht && reg5 a && reg5 b && reg5 c
  | .attFwd u | .attBwd u | .attAppend u | .attCommit u => decide (u < 8)
  | .elementPass u | .factorPass u | .repeatedElementPasses u => decide (u < 4)
  | .stemEmbed u | .stemWeightGradient u => decide (u < 2)
  | .copy u | .spill u | .fill u | .zero u => decide (u < 2)
  | .flush seq stream => decide (seq < 4096) && fits 16 stream
  | .reduceFrame f | .replayReq f | .deliver f | .chunkAck f | .normRec f | .publish f | .bwdAck f | .stageLinkFrame f
  | .recutMoveFrame f | .loss f | .retire f | .retireAck f => f.wf
  | .frameForward p f | .link p f | .retryRequest p f | .laneSubstitution p f | .slotReport p f | .release p f
  | .width p f | .quiet p f => fport p && f.wf
  | .replayTimeout p | .lackReportTimer p | .creditReturnTimer p | .trainingRetryTimer p | .slotReportTimer p
  | .releaseTimer p | .widthAnswerTimeout p | .wakeBurst p | .syncTimeout p => fport p
  | .linkTraining p t => fport p && fits 9 t.lanes
  | .laneFailure p l => fport p && decide (l < 9)
  | .ptpMessage p _ => fport p
  | .delta p g | .result p g | .ack p g => hport p && g.wf
  | .rdmaWrite p r | .rdmaRead p r => hport p && r.wf
  | .roceAckTimeout q | .cnp q | .rateIncreaseTimer q => fits 24 q
  | .roceAcknowledge q psn syn => fits 24 q && fits 24 psn && fits 8 syn
  | .arpRequest p ip si sm => decide (p < 3) && fits 32 ip && fits 32 si && fits 48 sm
  | .neighbourSolicitation p ip si sm => decide (p < 3) && fits 128 ip && fits 128 si && fits 48 sm
  | .echoRequest p a b _ _ _ => decide (p < 3) && fits 128 a && fits 128 b
  | .otherHostPortFrame p | .hostPortFailure p => decide (p < 3)
  | .pfcPause p pr q => hport p && decide (pr < 8) && fits 16 q
  | .ycpDatagramRefused r => r.wf
  | .stragglerLeaf c k l => decide (c < 4096) && fits 32 k && fits 16 l
  | .modulePartial c k | .graceSubstitution c k => decide (c < 4096) && fits 32 k
  | .recordItemsSend c => decide (c < 4096)
  | .caravanDeparture e => decide (e < 4096)
  | .tileThreadCommit t => fits 32 t
  | .scrub tier _ _ => decide (tier < 3)
  | .ddr5ChannelFailure c => decide (c < 16)
  | .stackMigrationStart k | .stackMigrationComplete k | .stackLoss k => decide (k < 32)
  | .pseudoChannelFailure k c | .pseudoChannelRebuildDone k c => decide (k < 32) && decide (c < 72)
  | .bankFailure f b | .bankRebuildComplete f b => decide (f < 8) && decide (b < 64)
  | .peerLossDeclared p => fits 16 p
  | .voltageSettled die _ | .avsTimeout die | .avsRetry die | .pmbAlert die _ => decide (die < 2)
  | .lend kind unit => decide (kind < 16) && decide (unit < 256)
  | .shardPublication _ sh => fits 32 sh
  | .stageLinkSend _ | .recutMovesSend _ | .recutStageCopy _ | .checkpointCopy _ => true
  | .federationDeltaSend _ _ | .federationCombine _ _ | .federationResultTimeout _ _ | .federationResendTimer _ _ => true
  | .serviceWindowEnd | .certPartTimeout | .deadlockDetected | .stepBoundary | .wakeHoldExpiry | .bwdAckSend
  | .dwellExpiry | .caravanWakeLead | .thermalRelease | .mirageMapFlashWrite | .bootWatchdog | .presentBreak
  | .checkpointComplete => true
  | .wakeEvent src => fits 4 src
  | .powerCapEval _ | .thermalWarning .. | .thermalCritical .. | .unitFaultDetected .. | .noProgressTimeout ..
  | .regulatorPhaseFault .. | .spareBist _ | .fullMemoryTest _ | .powerGood _ | .rstNRise .. | .presentMate _
  | .undervoltage _ | .overcurrentTrip _ | .overvoltage _ | .reducedCap .. => true

end Sys2Proof
end

