-- ==== Sys2Proof/Tests/Slice0.lean ====
section
/-! SUPPORT. Tests: refusals of well-formedness, and for every statement a state and operands that meet what it assumes. -/

namespace Sys2Proof.Tests

set_option Elab.async false
set_option linter.unusedVariables false

open Sys2Proof.Machine Sys2Proof.Safety Sys2Proof.Laws

/-! States of the tests. -/

/-- A module that is command-ready (stage 8). -/
def up : State := { State.reset with boot := { State.reset.boot with stage := 8, present := true, inputMv := 54000 } }

/-- A session of a role with an empty window. -/
def user (role : Nat) : Session :=
  { sid := 9, port := 0, ip := 7, udp := 5000, role := role, prio := 1, fp := 3, major := 1, minor := 0, kHm := 11, kMh := 12, hi := 0,
    recs := [], slots := 0, nextHandle := 1, keys := [], lastAuth := 0,
    acct := { sid := 9, role := role, prio := 1, live := true, opened := 0, commands := 0, longOps := 0, queueNs := 0, preempts := 0,
              preemptsCaused := 0, lostNs := 0, windowFull := 0 },
    fenced := [] }

/-- A state with one live session. -/
def withUser (x : Session) (s : State) : State := { s with sessions := { s.sessions with live := [x] } }

/-- A datagram of a session with its tag: sequence number 1, the length of its command. -/
def dgm (x : Session) (opc : Nat) (ps : List (Nat × Nat × Nat)) : Datagram :=
  let d : Datagram :=
    { port := 0, srcIp := x.ip, srcUdp := x.udp, major := x.major, minor := x.minor, retry := false, fence := false, rsv := 0,
      sid := x.sid, seq := 1, hostTag := 0, plen := ((opForm opc).map (·.2.1)).getD 0, params := pack ps, tag := 0 }
  { d with tag := cmdTag x.kHm d opc }

theorem cmdTag_tag (key t opc : Nat) (d : Datagram) : cmdTag key { d with tag := t } opc = cmdTag key d opc := by
  unfold cmdTag ycpBytes ycpHeader
  rfl

theorem dgm_tag (x : Session) (opc : Nat) (ps : List (Nat × Nat × Nat)) : (dgm x opc ps).tag = cmdTag x.kHm (dgm x opc ps) opc := by
  unfold dgm
  rw [cmdTag_tag]

/-- Some state, session and datagram are accepted and meet a command's condition. -/
def Met (opc : Nat) (P : State → Session → Datagram → Prop) : Prop :=
  ∃ (s : State) (x : Session) (d : Datagram), Accepted opc s x d ∧ P (authState x s) x d ∧
    P (runState opc x d s) (acceptedSession opc x d) d

theorem accepted_dgm (opc : Nat) (s : State) (x : Session) (ps : List (Nat × Nat × Nat))
    (h : ready s = true ∧ findSession s.sessions x.sid = some x ∧ s.sessions.resuming = false ∧ s.audit.writable = true ∧
      seqClass x 1 = 1 ∧ formCheck x (dgm x opc ps) opc = 0 ∧ x.slots < 64 ∧
      mustWait (acceptedSession opc x (dgm x opc ps)) 1 false = false) :
    Accepted opc s x (dgm x opc ps) := by
  obtain ⟨h1, h2, h3, h4, h5, h6, h7, h8⟩ := h
  exact { ready := h1, live := h2, plain := h3, tag := dgm_tag x opc ps, major := rfl, minor := rfl, ip := rfl, udp := rfl, fresh := h5, form := h6,
          slot := h7, now := h8, audit := h4 }

theorem met (opc : Nat) (s : State) (x : Session) (ps : List (Nat × Nat × Nat)) {P : State → Session → Datagram → Prop}
    (h : ready s = true ∧ findSession s.sessions x.sid = some x ∧ s.sessions.resuming = false ∧ s.audit.writable = true ∧
      seqClass x 1 = 1 ∧ formCheck x (dgm x opc ps) opc = 0 ∧ x.slots < 64 ∧
      mustWait (acceptedSession opc x (dgm x opc ps)) 1 false = false)
    (h1 : P (authState x s) x (dgm x opc ps)) (h2 : P (runState opc x (dgm x opc ps) s) (acceptedSession opc x (dgm x opc ps)) (dgm x opc ps)) :
    Met opc P := ⟨s, x, dgm x opc ps, accepted_dgm opc s x ps h, h1, h2⟩

/-- A long operation of the tests' session, under handle 1. -/
def opOf (opcode state : Nat) (ps : List (Nat × Nat × Nat)) : Op :=
  { sid := 9, handle := 1, prio := 1, role := 3, cert := 3, opcode := opcode, order := 0, state := state, progress := 0, code := 0,
    warn := false, moreWarns := 0, part := false, aborting := false, slotHeld := true, params := pack ps, queuedAt := 0, queuedAwake := 0,
    started := false, holds := [], holdBy := [], haboobHeld := false }

/-- A state with one operation. -/
def withOp (o : Op) (s : State) : State := { s with sessions := { s.sessions with ops := [o] } }

/-- A queue pair of the tests' session. -/
def pair : Qp :=
  { qpn := 5, sid := 9, port := 0, pmtu := 2, timeout := 10, retry := 3, peerQpn := 6, peerGid := 0, peerMac := 0, sendPsn := 0,
    recvPsn := 0, retries := 0, inFlight := [], rate := 400000, lastCnp := 0, failed := false }

def withPair (q : Qp) (s : State) : State := { s with host := { s.host with qps := [q] } }

/-- Host port 0 paused for priority 3 until the time 7. -/
def pausedPort : State :=
  { up with host := modHostPort up.host 0 (fun p => { p with paused := [(3, 7)] }) }

/-- The time in nanoseconds. -/
def atNs (n : Nat) (s : State) : State := { s with time := { s.time with now := n * 65536 } }

/-- An image with nothing in it. -/
def emptyImage : Image :=
  { tag := 0, hash := 0, regions := [], queues := [], chainArea := [], descs := [], owners := [], mapHead := 0, links := [], recuts := [],
    experts := [], readers := [],
    car := { period := 0, entries := [], colls := [], groups := [], pubs := [], ckpts := [], fedHead := 0, fedRanges := [] }
    recipes := [], groupHead := 0, groups := [], wgbMap := [], funcs := [], ledger := [], adapters := [], scaleInit := [], doubles := [],
    states := [] }

def withImage (im : Image) (s : State) : State := { s with image := some im }

/-- The value of an answer that is one, else a given value. -/
def valueOr {α : Type} (d : α) (e : Except Nat α) : α :=
  match e with
  | .ok x => x
  | .error _ => d

/-- A session with a host key of 4,096 bytes. -/
def keyed : Session :=
  { user 1 with keys := [{ key := 4, kind := 2, r := false, w := true, addr := 0, length := 4096, qpn := 5, valid := true }] }

/-- Region of 1 MiB at 0 in HBM with every right. -/
def plainRegion : Nat := pack [(0, 48, 0), (64, 32, 16), (96, 3, 1), (99, 5, 31), (128, 48, 0)]

/-- Header of a topology table: module 5, GFT EtherType 0x88B5, 64 cells a channel. -/
def topoHead : Nat :=
  pack [(0, 16, 1), (16, 16, 576), (32, 16, 5), (48, 16, 0x88B5), (80, 8, 8), (96, 12, 64), (108, 12, 64), (120, 12, 64), (132, 12, 64),
        (144, 12, 64), (156, 12, 64), (168, 12, 64), (180, 12, 64), (192, 8, 1), (200, 8, 1), (208, 8, 1)]


/-! Key and value caches. -/

/-- A pool record: E4M3, shift 1, 32 dimensions, one stream, 2 pages at 0, cisterns at 32768, a table of 16 units at 98304. -/
def poolRecord : Nat :=
  pack [(0, 16, 1), (16, 16, 64), (32, 8, 4), (40, 8, 1), (48, 16, 32), (96, 32, 2), (128, 32, 0x3F800000), (160, 32, 0x3F800000),
        (192, 48, 0), (240, 48, 32768), (288, 48, 98304), (336, 32, 16)]

def thePool : Pool :=
  { record := poolRecord, pages := [(0, { ref := 1, score := 0xFFFF, free := false, lastEpoch := 0 })], units := 2, deferred := [] }

def theSeq : KvSeq := { pool := 0, gen := 4, hostTag := 0, budget := 0, sink := 0, recent := 0, dir := 98560, leaves := [[0]], leafAt := [2] }

def kvImage : Image := { emptyImage with regions := [plainRegion] }

/-- A state with a pool, and a sequence of one page in it. -/
def withPool (s : State) : State := withImage kvImage { s with kv := { s.kv with pools := [(0, thePool)] } }

def withSeq (s : State) : State :=
  withImage kvImage { s with kv := { s.kv with pools := [(0, thePool)], seqs := [(3, theSeq)] } }

/-! Tensors. -/

/-- A dense tensor of 64 FP32 elements at an address, and one in a scaled format (E4M3) whose histories are at another. -/
def plainDesc (tid base : Nat) : Nat :=
  pack [(0, 16, 1), (16, 16, 104), (40, 8, 1), (56, 3, 1), (64, 32, tid), (96, 32, 0x3F800000), (128, 48, base), (384, 32, 64)]

def scaledDescr (tid base aux : Nat) : Nat :=
  pack [(0, 16, 1), (16, 16, 104), (40, 8, 4), (56, 3, 1), (64, 32, tid), (96, 32, 0x3F800000), (128, 48, base), (256, 48, aux),
        (384, 32, 64)]

def tensorImage : Image := { emptyImage with regions := [plainRegion], descs := [plainDesc 1 0, plainDesc 2 4096, scaledDescr 3 8192 16384] }

def envOfImage (im : Image) (s : State) : Env :=
  { mem := s.memory, im := im, ver := s.versions, id := myId s.fabric, seed := s.run.seed, step := s.run.step }

/-- A caravan of one departure: START at 1000 ns. -/
def caravanImage : Image := { emptyImage with car := { emptyImage.car with period := 2000, entries := [0] } }

/-- The cells of some bytes at an address. -/
def cellsOf (a : Nat) : List Byte → List Host.Cell
  | [] => []
  | b :: r => if b == 0 then cellsOf (a + 1) r else (a, b) :: cellsOf (a + 1) r

theorem cellsOf_below (l : List Byte) : ∀ a k : Nat, k < a → memGet (cellsOf a l) k = 0 := by
  induction l with
  | nil => intros; rfl
  | cons b r ih =>
    intro a k h
    unfold cellsOf
    split_ifs
    · exact ih _ _ (by omega)
    · have hk : (a == k) = false := by simp; omega
      have := ih (a + 1) k (by omega)
      simpa [memGet, spGet, spGet?, hk] using this

theorem memGet_cellsOf (l : List Byte) : ∀ a i : Nat, memGet (cellsOf a l) (a + i) = l.getD i 0 := by
  induction l with
  | nil => intro a i; simp [cellsOf, memGet, spGet, spGet?]
  | cons b r ih =>
    intro a i
    unfold cellsOf
    cases i with
    | zero =>
      split_ifs with h
      · rw [cellsOf_below _ _ _ (by omega)]
        simpa using (beq_iff_eq.mp h).symm
      · simp [memGet, spGet, spGet?]
    | succ i =>
      have hk : (a == a + (i + 1)) = false := by simp
      have := ih (a + 1) i
      rw [show a + 1 + i = a + (i + 1) by omega] at this
      split_ifs
      · simpa using this
      · simpa [memGet, spGet, spGet?, hk] using this

theorem memRead_cellsOf (a : Nat) (l : List Byte) : memRead (cellsOf a l) a l.length = l := by
  unfold memRead
  simp only [memGet_cellsOf]
  apply List.ext_getElem
  · simp
  · intro i h1 h2
    simp at h1
    simp [List.getD, h1]

/-- A state with some bytes in HBM. -/
def withHbm (a : Nat) (l : List Byte) (s : State) : State := { s with memory := { s.memory with hbm := cellsOf a l } }

/-- A generation set of one table, whose codes all have 8 bits: generation 1, no format coded. -/
def genBytes : List Byte :=
  [1, 0, 0, 1, 1, 0, 1, 0] ++ List.replicate 16 0xFF ++ List.replicate 40 0 ++ (List.replicate 8 [1, 0, 0, 0, 0, 0, 0, 0]).flatten ++
    List.replicate 128 0x88

theorem ok_valueOr {α : Type} (d : α) (e : Except Nat α) (h : e.toBool = true) : e = .ok (valueOr d e) := by
  cases e with
  | ok x => rfl
  | error c => exact Bool.noConfusion h

/-- A firmware image whose fields are right is refused by its signature alone. -/
theorem fwParse_signed (s : State) (base len : Nat)
    (h1 : (384 * 2 ^ 20 < len || tierSize 1 < base + len || len < 896) = false) (h2 : (badIn s.memory 1 base len).isSome = false)
    (h3 : (let b := memRead s.memory.hbm base len
      let h := ofLe (b.take 128)
      1 < bits h 0 16 || (bits h 160 32 != 0 && 512 + bits h 128 32 + bits h 160 32 + 384 ≤ len && 1 < bits (trustHead b h) 0 16)) = false)
    (h4 : (let h := ofLe ((memRead s.memory.hbm base len).take 128)
      bits h 0 16 != 1 || bits h 16 16 != 512 || len < 512 + bits h 128 32 + bits h 160 32 + 384 || bits h 32 32 < bits h 64 32) = false)
    (h5 : ¬ bits (ofLe ((memRead s.memory.hbm base len).take 128)) 32 32 < s.firmware.floor) :
    (∃ b, fwParse s base len = .ok b) ∨ fwParse s base len = .error 0x0B01 := by
  unfold fwParse
  simp only [h1, h2, Bool.false_eq_true, if_false]
  dsimp only at h3 h4
  simp only [h3, h4, h5, Bool.false_eq_true, if_false]
  split_ifs <;> first | exact .inr rfl | exact .inl ⟨_, rfl⟩

/-- The parameters of a page write: one row at position 127 of stream 0. -/
def writePs : List (Nat × Nat × Nat) := [(0, 12, 3), (16, 16, 4), (64, 32, 127), (96, 8, 1), (144, 48, 131072)]

/-! A step image of one region, one tensor of 64 elements at 65536 and one caravan departure. -/

def testDir : List Byte :=
  [(1, 192, 64), (2, 256, 16), (3, 320, 256), (4, 576, 144), (5, 768, 384), (6, 1152, 272)].flatMap
    (fun x => leBytes 16 (pack [(0, 8, x.1), (16, 48, x.2.1), (64, 48, x.2.2)]))

def testDesc : Nat :=
  pack [(0, 16, 1), (16, 16, 104), (40, 8, 1), (48, 2, 2), (56, 3, 1), (64, 32, 1), (96, 32, 0x3F800000), (128, 48, 65536), (384, 32, 64)]

def testBody : List Byte :=
  leBytes 32 (pack [(0, 16, 1), (32, 16, 1)]) ++ leBytes 32 plainRegion ++ leBytes 64 1 ++
    leBytes 32 (pack [(0, 16, 1), (32, 20, 1)]) ++ leBytes 128 testDesc ++ leBytes 32 1 ++
    leBytes 64 (pack [(0, 16, 1), (64, 32, 64), (96, 32, 64), (160, 32, 64)]) ++
    leBytes 64 (pack [(0, 16, 1), (32, 13, 1), (64, 48, 2000), (128, 32, 96), (160, 32, 112), (192, 32, 128)]) ++ leBytes 32 0 ++
    leBytes 16 1 ++ leBytes 16 1 ++ leBytes 64 1 ++
    leBytes 272 (pack [(0, 16, 1), (32, 32, 272), (64, 32, 368)]) ++
    leBytes 32 (pack [(0, 16, 1), (32, 16, 1), (64, 32, 0x3F800000)]) ++ leBytes 64 (pack [(8, 8, 1), (16, 8, 1)]) ++ leBytes 16 1 ++
    leBytes 272 1

/-- CRC-32C bit by bit, each value computed before the next. -/
def crcEager : Nat → Nat → Nat
  | 0, c => c
  | n + 1, c =>
    match (if c % 2 == 1 then (c >>> 1) ^^^ 0x82F63B78 else c >>> 1) with
    | 0 => crcEager n 0
    | m + 1 => crcEager n (m + 1)

def crcAll : List Byte → Nat → Nat
  | [], c => c
  | b :: r, c =>
    match crcEager 8 (c ^^^ b.toNat) with
    | 0 => crcAll r 0
    | m + 1 => crcAll r (m + 1)

theorem crcEager_eq (n : Nat) : ∀ c : Nat, crcEager n c = crcBits n c := by
  induction n with
  | zero => intro c; rfl
  | succ n ih =>
    intro c
    unfold crcEager crcBits
    generalize (if c % 2 == 1 then (c >>> 1) ^^^ 0x82F63B78 else c >>> 1) = x
    cases x <;> exact ih _

theorem crcAll_eq (l : List Byte) : crc32c l = crcAll l 0xFFFFFFFF ^^^ 0xFFFFFFFF := by
  have h : ∀ (l : List Byte) (c : Nat), l.foldl (fun c b => crcBits 8 (c ^^^ b.toNat)) c = crcAll l c := by
    intro l
    induction l with
    | nil => intro c; rfl
    | cons b r ih =>
      intro c
      rw [List.foldl_cons, ih]
      conv => rhs; unfold crcAll
      rw [crcEager_eq]
      generalize crcBits 8 (c ^^^ b.toNat) = x
      cases x <;> rfl
  rw [crc32c, h]

/-- The whole image; its CRC-32C was computed apart from the model. -/
def testImage : List Byte :=
  leBytes 64 (pack [(0, 16, 1), (16, 16, 64), (32, 8, 6), (64, 48, 1424), (128, 32, 0x57EECCC0), (192, 64, 7)]) ++ testDir ++
    leBytes 32 0 ++ testBody

/-- A stored result, or the empty one. -/
def valueOr3 {ε : Type} (e : Except ε Stored) : Stored :=
  match e with
  | .ok x => x
  | .error _ => {}

/-- The load of that image, and the state in which it runs. -/
def loadOp : Op := opOf 0x0400 2 [(64, 48, 1424)]

def loadState : State := withOp loadOp (withHbm 0 testImage up)

theorem testImage_crc : imCrcOk testImage = true := by
  unfold imCrcOk
  rw [crcAll_eq]
  decide +kernel

/-- The image passes every check of load. -/
theorem test_image_loads : imageCode loadState testImage = 0 := by
  have h1 : directoryOk testImage = true := by
    unfold directoryOk
    rw [testImage_crc]
    decide +kernel
  unfold imageCode
  rw [h1]
  decide +kernel

/-! Sessions, host ports and power. -/

/-- A hello of version 1.0 from an operator. -/
def helloDgm : Datagram :=
  { port := 0, srcIp := 7, srcUdp := 5000, major := 0, minor := 0, retry := false, fence := false, rsv := 0, sid := 0, seq := 0, hostTag := 0,
    plen := 80, params := pack [(0, 8, 1), (16, 8, 1), (32, 2, 1)], tag := 0 }

def provOf : ProvSession :=
  { sid := 4, port := 0, ip := 7, udp := 5000, role := 1, prio := 1, fp := 3, nH := 5, nM := 6, major := 1, minor := 0, helloParams := 0,
    replyParams := 0, expires := 1000 }

def openDgm : Datagram := { helloDgm with sid := 4, major := 1, plen := 768, params := 0 }

def withProv (p : ProvSession) (s : State) : State := { s with sessions := { s.sessions with prov := [p] } }

/-- An export that waits to pre-empt, and one of lower priority that runs on the same engine. -/
def waitingExport : Op := { opOf 0x0306 1 [] with prio := 3 }

def runningExport : Op := { opOf 0x0306 2 [] with handle := 2, prio := 0 }

def raw (x : Session) (opc : Nat) (ps : List (Nat × Nat × Nat)) : RawDatagram :=
  { d := dgm x opc ps, opcode := opc, magic := 0x4359, hlen := 32, resp := false, udpLen := (dgm x opc ps).plen + 48, dstUdp := 43600, sumOk := true }

def windowUser : Session :=
  { user 1 with keys := [{ key := 4, kind := 1, r := false, w := true, addr := 0, length := 4096, qpn := 0, valid := true }] }

def regionUser : Session :=
  { user 1 with keys := [{ key := 4, kind := 0, r := true, w := true, addr := 0, length := 65536, qpn := 0, valid := true }] }

def rdmaReq (psn n : Nat) (data : List Byte) : RdmaReq :=
  { qpn := 5, psn := psn, rkey := 4, addr := 4096 - n, length := n, ce := false, inSubset := true, icrcOk := true, data := data }

/-- A host port 0 that is up, with IPv4 address 9. -/
def withPort (s : State) : State :=
  { s with
    settings := { s.settings with hostPorts := s.settings.hostPorts.set 0 (pack [(3, 1, 1), (64, 32, 9)]) }
    host := { s.host with ports := s.host.ports.map (fun p => { p with up := true }) } }

def sensors (w c : Nat) : Sensors := { powerW := w, inletC := c, inputMa := 0, warnAny := false }

/-- A run in progress whose next departure is at 1,000 ns. -/
def departing (s : State) : State :=
  withImage { emptyImage with car := { emptyImage.car with period := 2000, entries := [pack [(64, 48, 1000)]] } }
    { s with run := { s.run with active := true } }

/-! Runs. -/

/-- A tile-thread entry of thread 1 that waits for nothing: its class and its operation word. -/
def entryOf (cls : Nat) (op : List (Nat × Nat × Nat)) : Nat :=
  pack [(0, 16, 1), (16, 16, 64), (32, 8, cls), (40, 1, 1), (48, 16, 0xFFFF), (96, 16, 0xFFFF), (144, 16, 0xFFFF), (176, 32, 1)] +
    (pack op <<< 256)

/-- An image of one queue with one entry, over a region of 1 MiB. -/
def oneEntry (kind ent : Nat) (descs : List Nat) : Image :=
  { emptyImage with regions := [plainRegion], queues := [{ kind := kind, unit := 0, entries := [ent] }], descs := descs }

/-- A run of the tests' session in its first step. -/
def running (im : Image) (s : State) : State :=
  { s with
    image := some im
    run := { freshRun im s.run with active := true, begun := true, sid := 9, handle := 1, steps := 2, origin := 0 }
    sessions := { s.sessions with ops := [opOf 0x0403 2 []] } }

/-- The run with that entry in flight. -/
def inFlight (kind ent : Nat) (s : State) : State := issue kind 0 0 0 ent s

/-- A tensor of shape [1, 1], or of a given shape, in a format at an address. -/
def smallDesc (fmt tid base : Nat) : Nat :=
  pack [(0, 16, 1), (16, 16, 104), (40, 8, fmt), (48, 2, 2), (56, 3, 2), (64, 32, tid), (96, 32, 0x3F800000), (128, 48, base), (320, 3, 1),
        (384, 32, 1), (416, 32, 1)]

def isOk {ε α : Type} (e : Except ε α) : Bool := e.toBool

/-! Matrix engines. -/

theorem passTile_ok (e : Env) (q : PassIn) (tile : Nat) (extra : Nat → Nat → List FV) (mt nt : Nat)
    (h : ∀ o n : Nat, o < 64 → n < 64 → isOk (passElem e q 0 [] (64 * mt + o) (64 * nt + n)) = true) :
    ∀ l : List Nat, (∀ i ∈ l, i < 4096) → ∃ r, passTile e q tile extra mt nt l = .ok r := by
  intro l
  induction l with
  | nil => exact fun _ => ⟨_, rfl⟩
  | cons i r ih =>
    intro hl
    obtain ⟨x, hx⟩ := ih (fun j hj => hl j (List.mem_cons_of_mem _ hj))
    have hi := hl i List.mem_cons_self
    have h1 := h (i / 64) (i % 64) (by omega) (by omega)
    unfold passTile
    have h2 : ∃ y, passElem e q (tile * 4096 + i) (extra (64 * mt + i / 64) (64 * nt + i % 64)) (64 * mt + i / 64) (64 * nt + i % 64) = .ok y := by
      unfold passElem at h1 ⊢
      revert h1
      cases passElem.terms e q (64 * mt + i / 64) (64 * nt + i % 64) q.chunks with
      | error c => exact fun h => Bool.noConfusion h
      | ok gs => intro _; dsimp only; split_ifs <;> exact ⟨_, rfl⟩
    obtain ⟨y, hy⟩ := h2
    rw [hy, hx]
    exact ⟨_, rfl⟩

/-- One chunk, and operands whose chunks can be read whatever the column. -/
theorem passElem_ok (e : Env) (q : PassIn) (c : Nat) (hq : q.chunks = [c])
    (ha : ∀ n o : Nat, operChunk e q.a n o c = operChunk e q.a 0 o c) (hb : ∀ n o : Nat, operChunk e q.b n o c = operChunk e q.b 0 o c)
    (h : ∀ o : Fin 64, isOk (operChunk e q.a 0 o.val c) = true ∧ isOk (operChunk e q.b 0 o.val c) = true) :
    ∀ o n : Nat, o < 64 → n < 64 → isOk (passElem e q 0 [] (64 * 0 + o) (64 * 0 + n)) = true := by
  intro o n ho hn
  have h1 := (h ⟨o, ho⟩).1
  have h2 := (h ⟨n, hn⟩).2
  dsimp only at h1 h2
  rw [Nat.mul_zero, Nat.zero_add, Nat.zero_add]
  unfold passElem
  rw [hq]
  unfold passElem.terms
  rw [ha, hb]
  revert h1 h2
  cases operChunk e q.a 0 o c with
  | error x => exact fun h => Bool.noConfusion h
  | ok a =>
    cases operChunk e q.b 0 n c with
    | error x => exact fun _ h => Bool.noConfusion h
    | ok b =>
      intro _ _
      unfold passElem.terms
      dsimp only
      split_ifs <;> rfl

theorem operChunk_plain (e : Env) (p : Opnd) (c : Nat) (h : (dKind (descOf e.im p.desc) == 1) = false ∨ (wMode (winOf e p.desc) == 1) = false) :
    ∀ n o : Nat, operChunk e p n o c = operChunk e p 0 o c := by
  intro n o
  have hi : ∀ k, operIndex e p n o k = operIndex e p 0 o k := by
    intro k
    unfold operIndex
    rcases h with h | h
    · simp [h]
    · unfold winOf at h
      simp [h]
  unfold operChunk
  simp only [hi]

/-- Operands of a pass: tensors of one element in a format, a window view of one, and a view with more taps than rows. -/
def mmDescs (f : Nat) : List Nat :=
  [smallDesc f 1 0, smallDesc f 2 256, smallDesc 1 3 512,
   pack [(0, 16, 1), (16, 16, 104), (40, 8, f), (48, 2, 2), (56, 3, 5), (64, 32, 4), (96, 32, 0x3F800000), (128, 48, 768), (320, 3, 4),
         (323, 3, 3), (326, 3, 2), (329, 3, 1), (384, 32, 1), (416, 32, 1), (448, 32, 1), (480, 32, 1), (512, 32, 1)],
   pack [(0, 16, 1), (16, 16, 104), (32, 4, 1)] + (pack [(0, 16, 1), (144, 16, 1), (160, 24, 4)] <<< 576),
   pack [(0, 16, 1), (16, 16, 104), (32, 4, 1)] + (pack [(0, 16, 1), (44, 4, 1), (144, 16, 1), (160, 24, 4)] <<< 576)]

def mmEnt (op f a : Nat) : Nat :=
  entryOf 1 [(0, 8, op), (8, 8, f), (16, 8, f), (24, 8, 1), (38, 1, 1), (39, 1, 1), (41, 1, 1), (43, 1, b2n (op == 2)), (64, 24, a), (88, 24, 2),
             (112, 24, 3)]

def mmState (op f a : Nat) : State := running (oneEntry 1 (mmEnt op f a) (mmDescs f)) up

def mmEnv (op f a : Nat) : Env := envOfImage (oneEntry 1 (mmEnt op f a) (mmDescs f)) (mmState op f a)

/-- A pass starts with its operands readable. -/
def PassMet (k : Nat) : Prop :=
  ∃ (s : State) (me qi i ent : Nat) (e : Env),
    headOfClass s 1 me 0x01 (fun x => [k].contains x) = some (qi, i, ent) ∧ envOf s = some e ∧ (meOf s me).live = none ∧
    mGate s e (tOp ent) = 0 ∧
    (let s1 := (if mLast (tOp ent) && !isFold e (tOp ent) then takeScales [outDesc e (tOp ent)] else id) (issue 1 me qi i ent s)
     let e1 := envAfter e s1
     emptyView e (tOp ent) = false ∧ (∃ m n, mainTiles e1 (uBufs e1 (tOp ent)) ent = .ok (m, n)) ∧ ∃ w n, twinTiles e1 ent = .ok (w, n))

theorem mainTiles_ok (e : Env) (us : List UBuf) (ent : Nat) (h1 : isDepthTwin e (tOp ent) = false) (h2 : mTiles (tOp ent) = [(0, 0)])
    (h3 : chunkList (tOp ent) = [0]) (h4 : mAdapt (tOp ent) = false)
    (ha : (dKind (descOf e.im (mainPass (tOp ent)).a.desc) == 1) = false ∨ (wMode (winOf e (mainPass (tOp ent)).a.desc) == 1) = false)
    (hb : (dKind (descOf e.im (mainPass (tOp ent)).b.desc) == 1) = false ∨ (wMode (winOf e (mainPass (tOp ent)).b.desc) == 1) = false)
    (h : ∀ o : Fin 64, isOk (operChunk e (mainPass (tOp ent)).a 0 o.val 0) = true ∧ isOk (operChunk e (mainPass (tOp ent)).b 0 o.val 0) = true) :
    ∃ m n, mainTiles e us ent = .ok (m, n) := by
  obtain ⟨r, hr⟩ := passTile_ok e (mainPass (tOp ent)) (tileKey (tOp ent) 0 0) (adapterTerms e us) 0 0
    (passElem_ok e (mainPass (tOp ent)) 0 h3 (operChunk_plain e _ 0 ha) (operChunk_plain e _ 0 hb) h)
    (List.range 4096) (fun i hi => List.mem_range.mp hi)
  have h5 : adapterFault e (tOp ent) = none := by simp [adapterFault, h4]
  unfold mainTiles
  simp only [h1, h2, h5, List.map, Bool.false_eq_true, if_false, hr]
  exact ⟨_, _, rfl⟩

theorem passMet_of (k f a : Nat)
    (h : headOfClass (mmState k f a) 1 0 0x01 (fun x => [k].contains x) = some (0, 0, mmEnt k f a) ∧
      envOf (mmState k f a) = some (mmEnv k f a) ∧ (meOf (mmState k f a) 0).live = none ∧
      mGate (mmState k f a) (mmEnv k f a) (tOp (mmEnt k f a)) = 0)
    (he : emptyView (mmEnv k f a) (tOp (mmEnt k f a)) = false)
    (ht : ∃ w n, twinTiles (mmEnv k f a) (mmEnt k f a) = .ok (w, n)) (hm : ∀ us, ∃ m n, mainTiles (mmEnv k f a) us (mmEnt k f a) = .ok (m, n))
    (hs : envAfter (mmEnv k f a) ((if mLast (tOp (mmEnt k f a)) && !isFold (mmEnv k f a) (tOp (mmEnt k f a)) then takeScales [outDesc (mmEnv k f a) (tOp (mmEnt k f a))] else id)
      (issue 1 0 0 0 (mmEnt k f a) (mmState k f a))) = mmEnv k f a) : PassMet k := by
  refine ⟨mmState k f a, 0, 0, 0, mmEnt k f a, mmEnv k f a, h.1, h.2.1, h.2.2.1, h.2.2.2, ?_⟩
  dsimp only
  rw [hs]
  exact ⟨he, hm _, ht⟩

theorem witness_mm : PassMet 1 :=
  passMet_of 1 2 1 (by decide +kernel) (by decide +kernel) ⟨[], [], by decide +kernel⟩
    (fun us => mainTiles_ok _ us _ (by decide +kernel) (by decide +kernel) (by decide +kernel) (by decide +kernel) (by decide +kernel) (by decide +kernel) (by decide +kernel))
    (by decide +kernel)

theorem witness_mmTwin : PassMet 2 :=
  passMet_of 2 2 1 (by decide +kernel) (by decide +kernel) ⟨[], [], by decide +kernel⟩
    (fun us => mainTiles_ok _ us _ (by decide +kernel) (by decide +kernel) (by decide +kernel) (by decide +kernel) (by decide +kernel) (by decide +kernel) (by decide +kernel))
    (by decide +kernel)

theorem witness_mmWin : PassMet 3 :=
  passMet_of 3 2 5 (by decide +kernel) (by decide +kernel) ⟨[], [], by decide +kernel⟩
    (fun us => mainTiles_ok _ us _ (by decide +kernel) (by decide +kernel) (by decide +kernel) (by decide +kernel) (by decide +kernel) (by decide +kernel) (by decide +kernel))
    (by decide +kernel)

theorem witness_mmSplit : PassMet 4 :=
  passMet_of 4 1 1 (by decide +kernel) (by decide +kernel) ⟨[], [], by decide +kernel⟩
    (fun us => mainTiles_ok _ us _ (by decide +kernel) (by decide +kernel) (by decide +kernel) (by decide +kernel) (by decide +kernel) (by decide +kernel) (by decide +kernel))
    (by decide +kernel)

/-- A pass over an empty view. -/
theorem witness_mmWin_empty :
    ∃ (s : State) (me qi i ent : Nat) (e : Env),
      headOfClass s 1 me 0x01 (fun x => [3].contains x) = some (qi, i, ent) ∧ envOf s = some e ∧ (meOf s me).live = none ∧
      emptyView e (tOp ent) = true :=
  ⟨mmState 3 2 6, 0, 0, 0, mmEnt 3 2 6, mmEnv 3 2 6, by decide +kernel⟩

/-! One unit's entry at the head of its queue, over three small tensors in FP32 and one in P40. -/

def unitDescs : List Nat := [smallDesc 1 1 0, smallDesc 1 2 256, smallDesc 1 3 512, smallDesc 12 4 768]

def unitImage (kind ent : Nat) : Image := oneEntry kind ent unitDescs

def unitState (kind ent : Nat) : State := running (unitImage kind ent) up

def unitEnv (kind ent : Nat) : Env := envOfImage (unitImage kind ent) (unitState kind ent)

def okOr {ε α : Type} (d : α) (e : Except ε α) : α :=
  match e with
  | .ok x => x
  | .error _ => d

/-- A pass in a live set. -/
def livePass : LivePass := { thread := 1, entry := mmEnt 1 2 1, set0 := [], set1 := [], sat := [] }

def drainState : State := setMe 0 { MatrixEngine.idle with live := some livePass } (inFlight 1 (mmEnt 1 2 1) (mmState 1 2 1))

/-- A chain of two elements over two input streams. -/
def chainEnt : Nat := entryOf 0x10 [(0, 8, 0x10), (16, 24, 1), (40, 24, 1), (88, 24, 1), (112, 24, 2), (160, 24, 3)]

def chainImage : Image := { unitImage 2 chainEnt with chainArea := leBytes 16 (pack [(0, 16, 1), (32, 4, 1)]) }

def chainState : State := running chainImage up

def chainEnv : Env := envOfImage chainImage chainState

def lendEnt : Nat := entryOf 0x70 [(8, 24, 5)]

def coreEnt : Nat := entryOf 0x20 [(0, 64, 4096)]

/-- A hardware thread of thread 1, with three registers. -/
def hart (a b c : Nat) : HThread := { startThread coreEnt with x := (((List.replicate 32 0).set 1 a).set 2 b).set 3 c }

/-- A core's thread runs; the second region of its image holds the counters. -/
def hartState (h : HThread) : State :=
  setHt 0 7 h (inFlight 3 coreEnt (running
    { unitImage 3 coreEnt with regions := [plainRegion, pack [(0, 48, 0x100000), (64, 32, 1), (96, 3, 3), (99, 5, 3)]] } up))

def hartEnv (h : HThread) : Env :=
  envOfImage { unitImage 3 coreEnt with regions := [plainRegion, pack [(0, 48, 0x100000), (64, 32, 1), (96, 3, 3), (99, 5, 3)]] } (hartState h)

def departed (k step ns : Nat) (s : State) : State :=
  { s with reductions := { s.reductions with departures := s.reductions.departures ++ [(k, step, ns)] } }

/-- Update words: an element pass and a factor pass. -/
def updEnt (op : Nat) : Nat := entryOf 0x40 [(0, 8, op), (32, 24, 4), (56, 24, 1), (152, 24, 3), (224, 32, 1)]

def updState (op : Nat) : State := unitState 5 (updEnt op)

def updEnv (op : Nat) : Env := unitEnv 5 (updEnt op)

/-- The pass in flight. -/
def updFlight (op : Nat) (done : Bool) : InFlight := { flight 5 0 0 (updEnt op) with done := done }

def updWaits (op : Nat) (done : Bool) : State :=
  { updState op with run := { (updState op).run with inflight := [updFlight op done] } }

/-- A step that clips in mode 2. -/
def clipState : State :=
  let s := updWaits 0x40 true
  { s with
    image := some { unitImage 5 (updEnt 0x40) with groupHead := pack [(48, 2, 2)] }
    update := { s.update with g2 := some 0, clip := 0x3F000000 } }

def stemEnt (op : Nat) : Nat :=
  entryOf 0x50 [(0, 8, op), (16, 8, 1), (24, 8, 1), (32, 8, 1), (48, 16, 1), (64, 16, 1), (80, 16, 1), (96, 48, 4096), (144, 24, 1), (168, 24, 2),
                (192, 24, 3), (216, 24, 3)]

def xferEnt (op : Nat) (f : List (Nat × Nat × Nat)) : Nat := entryOf 0x60 ((0, 8, op) :: f)

def slotIn (st : Nat) : WgbSlot := { freshSlot with st := st, done := 1, vals := [] }

def withSlot (w : WgbSlot) (s : State) : State := { s with engines := [(0, { MatrixEngine.idle with wgb := [(613, w)] })] }

/-- An entry that waits on a counter. -/
def waitEnt : Nat := entryOf 0x60 [(0, 8, 0x60)] - (0xFFFF <<< 48) + pack [(48, 16, 65534), (64, 32, 1)]

/-- A run of an image with a caravan of one departure at 1,000 ns. -/
def carState (e : Nat) (now : Nat) (s : State) : State :=
  running { emptyImage with car := { emptyImage.car with period := 2000, entries := [e + pack [(64, 48, 1000)]] } } (atNs now s)

/-- Group 0 of the multicast table is valid, to no port. -/
def withGroup (s : State) : State := { s with fabric := { s.fabric with force := { s.fabric.force with mcast := [(0, 2 ^ 17)] } } }

/-- Steps of the run. -/
def withSteps (n : Nat) (s : State) : State := { s with run := { s.run with steps := n } }

/-! Attention: a batch of one row in sequence 3 of pool 0, whose cistern is empty and which has no page. -/

def rowDesc (fmt tid base n : Nat) : Nat :=
  pack [(0, 16, 1), (16, 16, 104), (40, 8, fmt), (48, 2, 2), (56, 3, 3), (64, 32, tid), (96, 32, 0x3F800000), (128, 48, base), (320, 3, 2),
        (323, 3, 1), (384, 32, 1), (416, 32, 1), (448, 32, n)]

/-- Batch table, queries, their statistics, outputs and an auxiliary tensor. -/
def attDescs (fmt n : Nat) : List Nat :=
  [rowDesc 6 1 262144 64, rowDesc 2 2 266240 32, rowDesc 1 3 270336 4, rowDesc 2 4 274432 32, rowDesc fmt 5 278528 n]

def attEnt (op : Nat) : Nat :=
  entryOf 0x30 [(0, 8, op), (128, 32, 0x3F800000), (160, 24, 1), (184, 24, 2), (208, 24, 4), (232, 24, 5)]

def batchBytes (rows : Nat) : List Byte :=
  leBytes 16 (pack [(0, 16, 1), (32, 8, 1), (48, 16, 1)]) ++ leBytes 8 (pack [(16, 16, 1), (32, 16, 1)]) ++
    leBytes 32 (pack [(0, 12, 3), (16, 16, rows)])

def attImage (op fmt n : Nat) : Image := oneEntry 4 (attEnt op) (attDescs fmt n)

def attState (op fmt n rows : Nat) : State :=
  let s := running (attImage op fmt n) (withHbm 262144 (batchBytes rows) up)
  { s with
    run := { s.run with lends := [(1, 0, 1, 0), (2, 0, 1, 0)] }
    kv := { s.kv with pools := [(0, thePool)], seqs := [(3, { theSeq with leaves := [] })] } }

def attEnv (op fmt n rows : Nat) : Env := envOfImage (attImage op fmt n) (attState op fmt n rows)

def theBatch (rows : Nat) : Batch :=
  { seq := 3, qCount := rows, qPos0 := 0, cand := 0, parents := List.replicate 16 0, row0 := 0, first := 0, idx := 0 }

/-- A thread that appends waits for the flush of its full cistern. -/
def fullWait : KvWait := { thread := 1, seq := 3, stream := 0, rows := [], streams := [], accept := [] }

def fullState : State :=
  let s := withSeq (withHbm 82688 (leBytes 16 (pack [(0, 16, 1), (16, 16, 16), (32, 8, 128)])) up)
  { s with kv := { s.kv with waiting := [fullWait] } }

/-! Reductions: module 5 of a collective of modules 5 and 6, over one tile; engine 0 holds the tile in its slot 0. -/

/-- A topology in which module 5's ports 0 and 1 face module 6; port 0 carries fabric time. -/
def twoModules : FabTables :=
  { topo := some (topoHead, pack [(0, 2, 1), (4, 2, 1), (16, 16, 6), (32, 5, 1)] ::
      pack [(0, 2, 1), (8, 4, 1), (16, 16, 6), (32, 5, 2)] :: List.replicate 30 0), routes := [], routed := true,
    mcast := [(0, 2 ^ 17)] }

/-- The module in that topology, its port 0 up. -/
def meshed (p : Port) (s : State) : State :=
  { s with fabric := { s.fabric with force := twoModules, ports := s.fabric.ports.set 0 p } }

def upPort : Port := { Port.reset with up := true }

/-- A frame that another module sent to module 5. -/
def fromPeer (ftype : Nat) (fields : List (Nat × Nat × Nat)) (payload : List Byte) : Frame :=
  { etype := 0x88B5, good := true, lenOk := true, ftype := ftype, cls := (typeClass ftype).getD 0, sub := false, mcast := false, hops := 0,
    dst := 5, src := 6, lseq := 0, lack := 0, lackValid := false, crdVc := 0, crdCells := 0, resent := false, redo := false, flow := 0,
    tspec := pack (fields.map (fun t => (t.1 - 128, t.2.1, t.2.2))), payload := payload }

/-- A collective's word: kind, number format, whether it defers. -/
def collWord (kind q16 defers : Nat) : Nat :=
  pack [(32, 4, kind), (36, 2, q16), (39, 1, defers), (64, 24, 1), (88, 24, 2), (184, 24, 3), (240, 32, 50), (272, 24, 5)]

def collImage (kind q16 defers : Nat) : Image :=
  { unitImage 0 0 with
    descs := unitDescs ++ [rowDesc 6 5 262144 64]
    car := { emptyImage.car with period := 2000, colls := [collWord kind q16 defers], groups := [[5, 6]] }
    wgbMap := [[pack [(0, 24, 1), (24, 24, 0)]]] }

def chunkIs (n : Nat) (launched done : Bool) : ChunkRt := { newChunk 0 n 0 0 with launched := launched, done := done }

/-- A run of that image with chunks under way and the slot in a state. -/
def collState (kind q16 defers slot : Nat) (cs : List ChunkRt) : State :=
  let s := meshed upPort (running (collImage kind q16 defers) up)
  { s with
    engines := [(0, { MatrixEngine.idle with wgb := [(0, slotIn slot)] })]
    reductions := { s.reductions with chunks := cs, colls := [{ newColl 0 0 with launched := true, deadline := some 0 }] } }

def collEnv (kind q16 defers slot : Nat) (cs : List ChunkRt) : Env := envOfImage (collImage kind q16 defers) (collState kind q16 defers slot cs)

def foundChunk (chunk : Nat) (s : State) : ChunkRt := (findChunk s 0 chunk 0).getD (newChunk 9 9 9 9)

/-! Publication, checkpoints, stage links, re-cuts and the federation. -/

def meshRun (im : Image) : State := meshed upPort (running im up)

/-- One publish entry of a tensor held whole, and one checkpoint pair. -/
def pubImage : Image :=
  { unitImage 0 0 with
    mapHead := 0
    car := { emptyImage.car with pubs := [pack [(0, 24, 1), (24, 24, 1), (64, 12, 0xFFF)]], ckpts := [[pack [(0, 24, 1), (24, 24, 2)]]] } }

def pubShard : Nat := wholeShard (smallDesc 1 1 0)

def pubVer : ShardVer := { newVer 0 0 with departed := some pubShard, pver := 1 }

def pubState : State :=
  let s := meshRun pubImage
  { s with
    versions := { s.versions with shards := [pubVer] }
    ckpt := { s.ckpt with active := some (0, 0, 0, 1) } }

def pubEnv : Env := envOfImage pubImage pubState

/-- The state after a frame of the shard's stream, of version 1 and no byte. -/
def pubLanded : State := landStream 0 0 1 0 pubShard [] (modVer 0 0 (fun v =>
  { v with rxVer := 1, frames := (if v.rxVer = 1 then v.frames else []) ++ [(0, 0)],
           total := (if v.rxVer = 1 then v.total else none) }) (takeFrame (fromPeer 3 [(164, 32, 1)] []) pubState))

def donePair : State := { pubState with ckpt := { pubState.ckpt with active := some (0, 1, 0, 1) } }

/-- A stage link to module 6 and one from it, and a re-cut that moves a tile from module 6. -/
def linkImage : Image :=
  { unitImage 0 0 with
    links := [pack [(8, 16, 6), (24, 24, 1), (96, 16, 0xFFFF)], pack [(0, 1, 1), (8, 16, 6), (24, 24, 2), (48, 24, 2)]]
    recuts := [{ head := pack [(32, 1, 1)], tensors := [pack [(0, 24, 1), (24, 24, 2)]], moves := [pack [(64, 24, 1), (88, 16, 6), (104, 16, 5)]] }] }

def linkState : State := meshRun linkImage

def linkEnv : Env := envOfImage linkImage linkState

def recutState (sent : List (Nat × Nat)) (moves : List Stream) : State :=
  { linkState with mapping := { linkState.mapping with recutDep := [(0, 0)], recutSent := sent, moves := moves } }

def recutEnv : Env := envOfImage linkImage (recutState [] [])

def wholeMove : Stream := { idx := 0, step := 0, frames := [(0, 0)], total := some 0 }

/-- Two sites, this module's among them, with one range of one slice that the module owns; the lead is site 0. -/
def fedImage (site : Nat) : Image :=
  { unitImage 0 0 with
    car := { emptyImage.car with
      fedHead := pack [(32, 4, 1), (36, 4, site), (64, 32, 1)]
      fedRanges := [pack [(0, 24, 1), (24, 24, 2), (96, 32, 1), (128, 16, 5 + site), (144, 16, 0xFFFF), (160, 16, 6 - site), (176, 16, 0xFFFF)]] } }

def fedSlice : Slice :=
  { range := 0, slice := 0, departed := 0, ver := 0, deltas := [], late := [], sent := none, combined := false, done := false, resend := [] }

def fedState (site : Nat) (x : Slice) : State :=
  let s := meshRun (fedImage site)
  { s with federation := { s.federation with slices := [x], addrs := [(1 - site, 6, 7000, 9)] } }

def fedEnv (site : Nat) : Env := envOfImage (fedImage site) (fedState site fedSlice)

/-- A datagram of a site with the tag of a key. -/
def fedFrom (key ftype site len : Nat) : FedDgram :=
  let h := pack [(0, 8, 0x46), (8, 4, 1), (12, 4, ftype), (16, 4, site), (20, 6, 32), (64, 24, 1)]
  { srcIp := 9, header := h, data := 0, dataLen := len, tag := tag16 key (leBytes 32 h ++ leBytes len 0) }

theorem fedGood_of (s : State) (im : Image) (ftype site len : Nat)
    (h : (decide (ftype < 16 ∧ site < 16) && decide (site < fedSites im) && 0 == s.federation.xchg && len == (if ftype == 2 then 0 else 1280)) = true) :
    fedGood s im ftype (fedFrom s.federation.key ftype site len) = true := by
  simp only [Bool.and_eq_true, decide_eq_true_eq, beq_iff_eq] at h
  obtain ⟨⟨⟨⟨h1, h2⟩, h3⟩, h4⟩, h5⟩ := h
  have f1 : ∀ f < 16, ∀ t < 16, let w := pack [(0, 8, 0x46), (8, 4, 1), (12, 4, f), (16, 4, t), (20, 6, 32), (64, 24, 1)]
      bits w 0 8 = 0x46 ∧ bits w 8 4 = 1 ∧ bits w 12 4 = f ∧ bits w 20 6 = 32 ∧ bits w 26 6 = 0 ∧ bits w 16 4 = t ∧ bits w 32 32 = 0 := by decide +kernel
  obtain ⟨a1, a2, a3, a4, a5, a6, a7⟩ := f1 ftype h1 site h2
  unfold fedGood fedFrom
  dsimp only
  simp [a1, a2, a3, a4, a5, a6, a7, h3, ← h4, ← h5]

/-! Parts, supply, numbers of sessions and the rest. -/

/-- A command of the tests' session that asks for nothing, with a given number and its tag. -/
def pingNo (n : Nat) (fence : Bool) : Datagram :=
  let d : Datagram :=
    { port := 0, srcIp := 7, srcUdp := 5000, major := 1, minor := 0, retry := false, fence := fence, rsv := 0, sid := 9, seq := n, hostTag := 0,
      plen := 0, params := 0, tag := 0 }
  { d with tag := cmdTag 11 d 4 }

theorem pingNo_tag (n : Nat) (fence : Bool) : (pingNo n fence).tag = cmdTag 11 (pingNo n fence) 4 := by
  unfold pingNo
  rw [cmdTag_tag]

/-- Power-up inputs on which everything verifies. -/
def goodInputs (s : State) : BootInputs :=
  { idModulus := s.settings.idN, bankOk := [true, true], bankReady := [true, true], mapOk := [true, true], bistFails := [], ddrFails := [],
    training := [], locked := true }

/-- The state's operating point. -/
def withBoot (stage mv : Nat) (present : Bool) (s : State) : State :=
  { s with boot := { s.boot with stage := stage, inputMv := mv, present := present } }

def partServing (kind scope logical : Nat) : Nat := (servedBy up kind scope logical).getD 0

/-- A pass in flight on matrix engine 0. -/
def unitFlight : State := { up with run := { up.run with inflight := [flight 1 0 0 0] } }

/-! A map of which no part is substituted, as `MIRAGE_WRITE` reads it. -/

def homeMap : MapCopy := { gen := 1, subStop := false, lastFault := 0, entries := [] }

/-- Header and entries of that map. -/
def homeBytes : List Byte := leBytes 64 (mapHeader homeMap) ++ allParts.flatMap (fun k => leBytes 8 (mapEntry [] k))

theorem leBytes_length (k : Nat) : ∀ n : Nat, (leBytes k n).length = k := by
  induction k with
  | zero => intro n; rfl
  | succ k ih => intro n; simp [leBytes, ih]

theorem ofLe_leBytes8 (n : Nat) (h : n < 2 ^ 64) : ofLe (leBytes 8 n) = n := by
  simp only [leBytes, ofLe, BitVec.toNat_ofNat, Nat.shiftRight_eq_div_pow]
  omega

theorem entry_bytes (e : Nat → Nat) (l : List Nat) : ∀ (i k : Nat) (pre : List Byte), l[i]? = some k →
    ((pre ++ l.flatMap (fun k => leBytes 8 (e k))).drop (pre.length + 8 * i)).take 8 = leBytes 8 (e k) := by
  induction l with
  | nil => intro i k pre h; simp at h
  | cons x r ih =>
    intro i k pre h
    cases i with
    | zero =>
      simp at h
      subst h
      simp [leBytes_length]
    | succ i =>
      have := ih i k (pre ++ leBytes 8 (e x)) (by simpa using h)
      rw [List.flatMap_cons, ← List.append_assoc]
      rw [← this, List.length_append, leBytes_length, show pre.length + 8 * (i + 1) = pre.length + 8 + 8 * i by omega]

theorem home_entries : allParts.all (fun k =>
    decide (mapEntry [] k < 2 ^ 64) && (bits (mapEntry [] k) 32 16, bits (mapEntry [] k) 48 3) == partHome k &&
    (bits (mapEntry [] k) 0 8 == partKind k && bits (mapEntry [] k) 8 8 == partScope k && bits (mapEntry [] k) 16 16 == partPhys k &&
    bits (mapEntry [] k) 48 3 ≤ 4 && mapEntry [] k >>> 51 == 0 && (bits (mapEntry [] k) 48 3 != 4 || partKind k == 9))) = true := by
  decide +kernel

theorem home_once : mapServes [] = true := by decide +kernel

theorem test_built_map : builtMap [partKey 1 0 1, partKey 9 0 0] =
    [(partKey 1 0 1, (0xFFFF, 2)), (partKey 1 0 2, (1, 0)), (partKey 1 0 3, (2, 0)), (partKey 1 0 4, (3, 0)),
     (partKey 9 0 0, (0xFFFF, 2)), (partKey 9 0 4, (0, 0))] := by decide +kernel

theorem home_fold (l : List (Nat × Nat)) (h : ∀ p ∈ l, (bits p.2 32 16, bits p.2 48 3) = partHome p.1) :
    l.foldl (fun m p => setPart m p.1 (bits p.2 32 16, bits p.2 48 3)) [] = [] := by
  induction l with
  | nil => rfl
  | cons p r ih =>
    rw [List.foldl_cons, h p (by simp)]
    have : setPart [] p.1 (partHome p.1) = [] := by simp [setPart, spDel]
    rw [this]
    exact ih (fun q hq => h q (by simp [hq]))

theorem flat8_length (e : Nat → Nat) (l : List Nat) : (l.flatMap (fun k => leBytes 8 (e k))).length = 8 * l.length := by
  induction l with
  | nil => rfl
  | cons x r ih => simp [leBytes_length, ih]; omega

theorem map_parses (l : List Byte) (h : Nat) (ps : List Nat) (vs : List (Nat × Nat)) (hp : ps = allParts)
    (hh : ofLe (l.take 64) = h) (hv : ps.zipIdx.map (fun p => (p.1, ofLe ((l.drop (64 + 8 * p.2)).take 8))) = vs)
    (hok : vs.all (fun p => bits p.2 0 8 == partKind p.1 && bits p.2 8 8 == partScope p.1 && bits p.2 16 16 == partPhys p.1 &&
      bits p.2 48 3 ≤ 4 && p.2 >>> 51 == 0 && (bits p.2 48 3 != 4 || partKind p.1 == 9)) = true)
    (hm : vs.foldl (fun m p => setPart m p.1 (bits p.2 32 16, bits p.2 48 3)) [] = [])
    (hd : (bits h 0 16 == 1 && bits h 16 16 == 64 && bits h 64 16 == 3784) = true) (hl : 64 + 8 * 3784 ≤ l.length) :
    mapOfBytes l = some { gen := bits h 32 32, subStop := bitAt h 80, lastFault := bits h 96 32, entries := [] } := by
  subst hp
  have ho := home_once
  unfold mapOfBytes
  rw [hh, hv]
  dsimp only
  rw [hok, hm]
  simp only [Bool.and_eq_true] at hd
  simp [hd.1.1, hd.1.2, hd.2, hl]
  exact ho

theorem home_parses : mapOfBytes homeBytes = some homeMap := by
  have hv : allParts.zipIdx.map (fun p => (p.1, ofLe ((homeBytes.drop (64 + 8 * p.2)).take 8))) = allParts.map (fun k => (k, mapEntry [] k)) := by
    apply List.ext_getElem?
    intro i
    rw [List.getElem?_map, List.getElem?_map, List.getElem?_zipIdx]
    cases hk : allParts[i]? with
    | none => rfl
    | some k =>
      have he := List.all_eq_true.mp home_entries k (List.mem_of_getElem? hk)
      simp only [Bool.and_eq_true, decide_eq_true_eq] at he
      have := entry_bytes (mapEntry []) allParts i k (leBytes 64 (mapHeader homeMap)) hk
      rw [leBytes_length] at this
      simp only [Option.map_some, Nat.zero_add]
      unfold homeBytes
      rw [this, ofLe_leBytes8 _ he.1.1]
  have hh : ofLe (homeBytes.take 64) = mapHeader homeMap := by
    unfold homeBytes
    rw [List.take_append_of_le_length (by rw [leBytes_length]), List.take_of_length_le (by rw [leBytes_length])]
    decide +kernel
  have hn : allParts.length = 3784 := by decide +kernel
  have hl : 64 + 8 * 3784 ≤ homeBytes.length := by
    unfold homeBytes
    rw [List.length_append, leBytes_length, flat8_length, hn]
  have hm := home_fold (allParts.map (fun k => (k, mapEntry [] k))) (by
    intro p hp
    obtain ⟨k, hk, rfl⟩ := List.mem_map.mp hp
    have he := List.all_eq_true.mp home_entries k hk
    simp only [Bool.and_eq_true, beq_iff_eq] at he
    exact he.1.2)
  have hok : (allParts.map (fun k => (k, mapEntry [] k))).all (fun p => bits p.2 0 8 == partKind p.1 && bits p.2 8 8 == partScope p.1 &&
      bits p.2 16 16 == partPhys p.1 && bits p.2 48 3 ≤ 4 && p.2 >>> 51 == 0 && (bits p.2 48 3 != 4 || partKind p.1 == 9)) = true := by
    rw [List.all_map]
    apply List.all_eq_true.mpr
    intro k hk
    have he := List.all_eq_true.mp home_entries k hk
    rw [Bool.and_eq_true] at he
    simp only [Function.comp_apply]
    exact he.2
  exact map_parses homeBytes (mapHeader homeMap) allParts _ rfl hh hv hok hm (by decide +kernel) hl

/-! Ill-formed commands are refused, each check in turn. -/

def okDatagram : Datagram := pingNo 1 false
def okRaw : RawDatagram := raw (user 1) 4 []
def okFrame : Frame := fromPeer 5 [] []
def okFed : FedDgram := { srcIp := 9, header := 0, data := 0, dataLen := 0, tag := 0 }

theorem test_wf_datagram : ({ okDatagram with tag := 0 } : Datagram).wf = true ∧
    [{ okDatagram with port := 3, tag := 0 }, { okDatagram with srcIp := 2 ^ 128, tag := 0 }, { okDatagram with srcUdp := 2 ^ 16, tag := 0 },
     { okDatagram with major := 256, tag := 0 }, { okDatagram with minor := 256, tag := 0 }, { okDatagram with rsv := 2 ^ 29, tag := 0 },
     { okDatagram with sid := 2 ^ 32, tag := 0 }, { okDatagram with seq := 2 ^ 32, tag := 0 }, { okDatagram with hostTag := 2 ^ 64, tag := 0 },
     { okDatagram with plen := 1385, tag := 0 }, { okDatagram with params := 1, tag := 0 }, { okDatagram with tag := 2 ^ 128 }].all
      (fun d => !(Instr.sessionPing d).wf) = true := by decide +kernel

theorem test_wf_raw : [{ okRaw with d := { okRaw.d with port := 3 } }, { okRaw with opcode := 2 ^ 16 }, { okRaw with magic := 2 ^ 16 },
    { okRaw with hlen := 2 ^ 16 }, { okRaw with udpLen := 2 ^ 16 }, { okRaw with dstUdp := 2 ^ 16 }].all
      (fun r => !(Instr.ycpDatagramRefused r).wf) = true := by decide +kernel

theorem test_wf_frame : okFrame.wf = true ∧
    [{ okFrame with etype := 2 ^ 16 }, { okFrame with ftype := 16 }, { okFrame with cls := 4 }, { okFrame with hops := 256 },
     { okFrame with dst := 2 ^ 16 }, { okFrame with src := 2 ^ 16 }, { okFrame with lseq := 4096 }, { okFrame with lack := 4096 },
     { okFrame with crdVc := 8 }, { okFrame with crdCells := 4096 }, { okFrame with flow := 256 }, { okFrame with tspec := 2 ^ 128 }].all
      (fun f => !f.wf && !(Instr.deliver f).wf && !(Instr.link 0 f).wf) = true := by decide +kernel

theorem test_wf_payload : ({ okFrame with payload := List.replicate 9167 0 } : Frame).wf = false := by
  unfold Frame.wf
  rw [show decide ((List.replicate 9167 (0 : Byte)).length ≤ 9166) = false by rw [List.length_replicate]; rfl]
  simp

theorem test_wf_federation : (Instr.ack 0 okFed).wf = true ∧
    [Instr.ack 2 okFed, .ack 0 { okFed with srcIp := 2 ^ 128 }, .delta 0 { okFed with header := 2 ^ 512 }, .result 0 { okFed with dataLen := 1385 },
     .ack 0 { okFed with data := 1 }, .ack 0 { okFed with tag := 2 ^ 128 }].all (fun i => !i.wf) = true := by decide +kernel

theorem test_wf_rdma : (Instr.rdmaRead 0 (rdmaReq 0 0 [])).wf = true ∧
    [Instr.rdmaRead 2 (rdmaReq 0 0 []), .rdmaWrite 0 { rdmaReq 0 0 [] with qpn := 2 ^ 24 }, .rdmaWrite 0 { rdmaReq 0 0 [] with psn := 2 ^ 24 },
     .rdmaRead 0 { rdmaReq 0 0 [] with rkey := 2 ^ 32 }, .rdmaRead 0 { rdmaReq 0 0 [] with addr := 2 ^ 64 },
     .rdmaRead 0 { rdmaReq 0 0 [] with length := 2 ^ 32 }].all (fun i => !i.wf) = true := by decide +kernel

theorem test_wf_completions : [Instr.abortTakesEffect (2 ^ 32) 0, .runComplete 0 (2 ^ 32), .bistComplete 0 0 [3784], .bistComplete (2 ^ 32) 0 [],
    .calibrateComplete 0 (2 ^ 32) true [], .preemptionHold (2 ^ 32) 0 0 0, .preemptionRelease 0 (2 ^ 32) 0 0, .sessionIdleExpiry (2 ^ 32),
    .provisionalSessionExpiry (2 ^ 32), .tileThreadCommit (2 ^ 32)].all (fun i => !i.wf) = true := by decide +kernel

theorem test_wf_units : [Instr.mm 32, .drain 32, .wgbCopyComplete 32, .wgbDrain 32 0, .wgbDrain 0 614, .chain 16, .core 256, .ecall 256 0, .ttFence 0 8,
    .ctrWait 0 8 0 0, .ctrWait 0 0 32 0, .ctrWait 0 0 0 32, .carWait 0 0 32 0, .descXlt 0 0 32 0 0, .descXlt 0 0 0 32 0, .amoaddW 0 0 0 0 32,
    .amoaddW 256 0 0 0 0, .attFwd 8, .attCommit 8, .flush 4096 0, .flush 0 (2 ^ 16), .elementPass 4, .repeatedElementPasses 4, .stemEmbed 2, .copy 2,
    .zero 2, .lend 16 0, .lend 0 256].all (fun i => !i.wf) = true := by decide +kernel

theorem test_wf_ports : [Instr.frameForward 32 okFrame, .width 32 okFrame, .replayTimeout 32, .syncTimeout 32, .laneFailure 32 0, .laneFailure 0 9,
    .linkTraining 32 { lanes := 0, peerFec := 0, peerId := 0, peerPort := 0, peerCells := [] },
    .linkTraining 0 { lanes := 512, peerFec := 0, peerId := 0, peerPort := 0, peerCells := [] },
    .ptpMessage 32 { kind := .sync, seq := 0, rxTime := 0, carried := 0, correction := 0 }, .cnp (2 ^ 24), .roceAcknowledge (2 ^ 24) 0 0,
    .roceAcknowledge 0 (2 ^ 24) 0, .roceAcknowledge 0 0 256, .arpRequest 3 0 0 0, .arpRequest 0 (2 ^ 32) 0 0, .arpRequest 0 0 (2 ^ 32) 0,
    .arpRequest 0 0 0 (2 ^ 48), .neighbourSolicitation 3 0 0 0, .neighbourSolicitation 0 (2 ^ 128) 0 0, .neighbourSolicitation 0 0 (2 ^ 128) 0,
    .neighbourSolicitation 0 0 0 (2 ^ 48), .echoRequest 3 0 0 0 0 [], .echoRequest 0 (2 ^ 128) 0 0 0 [], .echoRequest 0 0 (2 ^ 128) 0 0 [],
    .otherHostPortFrame 3, .hostPortFailure 3, .pfcPause 2 0 0, .pfcPause 0 8 0, .pfcPause 0 0 (2 ^ 16)].all (fun i => !i.wf) = true := by decide +kernel

theorem test_wf_parts : [Instr.stragglerLeaf 4096 0 0, .stragglerLeaf 0 (2 ^ 32) 0, .stragglerLeaf 0 0 (2 ^ 16), .modulePartial 4096 0,
    .graceSubstitution 0 (2 ^ 32), .recordItemsSend 4096, .caravanDeparture 4096, .scrub 3 0 .clean, .ddr5ChannelFailure 16, .stackLoss 32,
    .pseudoChannelFailure 32 0, .pseudoChannelRebuildDone 0 72, .bankFailure 8 0, .bankRebuildComplete 0 64, .peerLossDeclared (2 ^ 16),
    .voltageSettled 2 0, .avsTimeout 2, .avsRetry 2, .pmbAlert 2 0, .shardPublication 0 (2 ^ 32), .wakeEvent 16].all (fun i => !i.wf) = true := by decide +kernel

theorem test_wf_good : [Instr.mm 31, .wgbDrain 31 613, .core 255, .ecall 255 7, .laneFailure 31 8, .bistComplete 0 0 [3783], .scrub 2 0 .corrected,
    .serviceWindowEnd, .stepBoundary, .wakeEvent 15].all (·.wf) = true := by decide +kernel

/-! Worked examples of the spec, and published values of the functions that it takes from elsewhere. -/

def dec (num den : Nat) : FV := r40 (fvDiv (fvNat num) (fvNat den))

/-- The inputs of the S4F example. -/
def s4fInputs : List FV := [dec 9 10, fvNeg (dec 35 100), dec 7 100, FV.zero, FV.zero, fvNat 30] ++ List.replicate 58 FV.zero

/-- The block of the S4F example: B6 01 00 … 7F 6F 45 00; its escape decodes to 120 before T. -/
theorem test_s4f_example :
    leBytes 36 (convBlock 8 (dec32 0x3E800000) (fun _ => .rne) s4fInputs).1 = [0xB6, 0x01] ++ List.replicate 30 0 ++ [0x7F, 0x6F, 0x45, 0x00] ∧
    fvEq (blockElem 8 (convBlock 8 (dec32 0x3E800000) (fun _ => .rne) s4fInputs).1 5) (fvNat 120) = true := by decide +kernel

/-- The scale example: T of an amax of 37.5 and of 130, with h = 1. -/
theorem test_scale_example : newScale 4 1 0x3F800000 (dec 375 10) = 0x3E800000 ∧ newScale 4 1 0x3E800000 (fvNat 130) = 0x3F800000 ∧
    excessOf 448 (fvNat 520) = 1 := by decide +kernel

/-- The example of eight partials: the canonical tree, and a split that is not aligned. -/
theorem test_tree_example : let c := [0x3F80000000, 0x2F80000000, 0, 0, 0, 0, 0, 0x2F80000000].map dec40
    enc40 (sum40all c) = 0x3F80000000 ∧ enc40 (shardTree c [(0, 1), (1, 8)]) = 0x3F80000001 ∧ enc40 (shardTree c [(0, 4), (4, 8)]) = 0x3F80000000 := by
  decide +kernel

/-- The lanes of the exponent example: at 119 the third site saturates, at 122 it does not. -/
theorem test_q16_example : laneAdd 15360 17920 = (32767, true) ∧ laneAdd 2560 3200 = (5760, false) ∧ laneAdd 1920 2240 = (4160, false) ∧
    ((toBlock 119 (fun _ => .rne) (enc40 (dec 125 10) :: List.replicate 63 0) 0).1.headD 0 = 3200) := by decide +kernel

/-- The HBM example (R252): logical stack 5, at physical stack 3; group 1, pseudo-channel 19, its byte 16,777,312. -/
theorem test_hbm_example : stackOfHbm 0x06100005A40 = 5 ∧ groupOfHbm 0x06100005A40 = 1 ∧ stackHome 5 = 3 ∧ pcOf 0x06100005A40 = 19 ∧
    pcOff 0x06100005A40 = 16777312 := by decide +kernel

/-! Words of the RISC-V base specification, and what they leave in a thread's registers. -/

/-- The registers of a thread that has run one word; the thread's registers 1 to 4 hold 5, 6, 7 and 8. -/
def afterWord (w : Nat) : HThread :=
  let h := { hart 5 6 7 with x := (hart 5 6 7).x.set 4 8 }
  match rvExec h (hartState h) w 4 with
  | .ok (t, _) => t
  | .error _ => h

theorem test_rv_addi : (afterWord 0x00500093).x.getD 1 0 = 5 ∧ (afterWord 0x00310233).x.getD 4 0 = 13 ∧ (afterWord 0x022081B3).x.getD 3 0 = 30 := by
  decide +kernel

theorem test_rv_compressed : rvExpand 0x4515 = some 0x00500513 := by decide +kernel


/-- The addressing example: element (1, 130, 250) of an S4F weight of shape [2, 200, 300]. -/
theorem test_xlt_example : let d := pack [(0, 16, 1), (16, 16, 128), (40, 8, 8), (52, 4, 1), (56, 3, 3), (60, 3, 2), (128, 48, 0x040000000000),
      (320, 3, 2), (323, 3, 1), (326, 3, 0), (384, 32, 2), (416, 32, 200), (448, 32, 300)]
    elemAddr (envOfImage emptyImage up) d 0 99250 = some 0x040000012948 := by decide +kernel

/-- The master weight of the Lion example: SR takes 1.50079345703125 to 0x3FC1, RNE to 0x3FC0. -/
theorem test_lion_example : (convIeee bf16 (.sr 0x0F000000) (dec32 0x3FC01A00)).1 = 0x3FC1 ∧ (convIeee bf16 .rne (dec32 0x3FC01A00)).1 = 0x3FC0 := by
  decide +kernel

theorem test_crc : crc32c ("123456789".toList.map (fun c => BitVec.ofNat 8 c.toNat)) = 0xE3069283 := by decide +kernel

theorem test_sha256 : sha256 ("abc".toList.map (fun c => BitVec.ofNat 8 c.toNat)) =
    beBytes 32 0xBA7816BF8F01CFEA414140DE5DAE2223B00361A396177A9CB410FF61F20015AD := by decide +kernel

/-- Philox-4x32-10 of zeros, as its authors publish it. -/
theorem test_philox : philox (0, 0, 0, 0) (0, 0) = (0x6627E8D5, 0xE169C58D, 0xBC57AC4C, 0x9B00DBD8) := by decide +kernel

/-! One step, from its queue. -/

def nextOr (s : State) (o : Host.Outcome State Fault Refusal) : State :=
  match o with
  | .next t => t
  | _ => s

def stepWith (c : Instr) (s : State) : State := nextOr s (step { s with pending := [c] })

theorem test_step_present_mate : (stepWith (.presentMate 54000) State.reset).boot.present = true := by decide +kernel
theorem test_step_overvoltage : (stepWith (.overvoltage 56001) up).boot.stage = 0 ∧ (stepWith (.overvoltage 56000) up).boot.stage = 8 := by decide +kernel
theorem test_step_undervoltage : (stepWith (.undervoltage 41999) up).boot.stage = 0 ∧ (stepWith (.undervoltage 42000) up).boot.stage = 8 := by decide +kernel
theorem test_step_present_break : (stepWith .presentBreak up).boot.present = false := by decide +kernel
theorem test_step_takes_front : (stepWith (.otherHostPortFrame 0) up).pending = [] := by decide +kernel
theorem test_step_lane : ((getPort (stepWith (.laneFailure 0 3) (meshed { upPort with lanes := 511 } up)).fabric 0).bind (·.subst)) = some 3 := by decide +kernel
theorem test_step_ack : let p := { upPort with replay := [{ f := { okFrame with lseq := 3 }, gen := none, cells := none }] }
    ((getPort (stepWith (.link 0 { fromPeer 0 [] [] with lack := 3, lackValid := true }) (meshed p up)).fabric 0).map (·.replay)) = some [] := by decide +kernel
theorem test_step_scrub : (stepWith (.scrub 0 0 .clean) up).memory = up.memory := by decide +kernel

/-! For every statement with hypotheses: states and operands that meet them together. -/

theorem witness_c :
  ∃ (c : Instr) (rest : List Instr) (s : State),
  (s.pending = c :: rest) :=
  ⟨.syncTimeout 0, [], { up with pending := [.syncTimeout 0] }, by decide +kernel⟩

theorem witness_stepRunsFrontCommand :
  ∃ (s : State),
  (s.pending = []) ∧
  (nextFenced s = none) :=
  ⟨up, rfl, rfl⟩

theorem witness_opStatus :
    ∃ (o : Op), Met 0x0010
    (fun s x d => findOp s.sessions x.sid (prm d 0 32) = some o) :=
  ⟨opOf 0x0403 4 [], met 0x0010 (withUser (user 1) (withOp (opOf 0x0403 4 []) up)) (user 1) [(0, 32, 1)] (by decide +kernel) (by decide +kernel) (by decide +kernel)⟩

theorem witness_opPartial :
    ∃ (o : Op) (k : RKey), Met 0x0011
    (fun s x d => findOp s.sessions x.sid (prm d 0 32) = some o ∧ o.part = true ∧
      hostKeyFor x (prm d 64 32) (prm d 96 64) (prm d 160 64) = some k) :=
  ⟨{ opOf 0x0403 5 [] with part := true }, { key := 4, kind := 2, r := false, w := true, addr := 0, length := 4096, qpn := 5, valid := true },
    met 0x0011 (withUser keyed (withOp { opOf 0x0403 5 [] with part := true } up)) (keyed) [(0, 32, 1), (64, 32, 4), (96, 64, 0), (160, 64, 64)] (by decide +kernel) (by decide +kernel) (by decide +kernel)⟩

theorem witness_opAbort :
    ∃ (o : Op), Met 0x0012
    (fun s x d => findOp s.sessions x.sid (prm d 0 32) = some o ∧ opFinal o.state = false) :=
  ⟨opOf 0x0403 2 [], met 0x0012 (withUser (user 1) (withOp (opOf 0x0403 2 []) up)) (user 1) [(0, 32, 1)] (by decide +kernel) (by decide +kernel) (by decide +kernel)⟩

theorem witness_cfgHostPort :
    Met 0x0200
    (fun _ _ d => prm d 0 2 < 3 ∧ (prm d 0 2 = 2 → prm d 4 1 = 0) ∧ prm d 8 8 ≤ 128 ∧ prm d 32 8 ≤ 32 ∧
      prm d 64 32 >>> 28 ≠ 0xE ∧ prm d 128 128 >>> 120 ≠ 0xFF) :=
  met 0x0200 (withUser (user 2) up) (user 2) [(0, 2, 1), (8, 8, 128), (32, 8, 32)] (by decide +kernel) (by decide +kernel) (by decide +kernel)

theorem witness_cfgYcp :
    Met 0x0201
    (fun _ _ d => 10 ≤ prm d 32 32 ∧ prm d 32 32 ≤ 86400) :=
  met 0x0201 (withUser (user 2) up) (user 2) [(32, 32, 10)] (by decide +kernel) (by decide +kernel) (by decide +kernel)

theorem witness_cfgGrade :
    Met 0x0202
    (fun s _ d => s.run.active = false ∧ gradeOk s.settings.mfgGrade (prm d 0 8) = true ∧ s.image = none) :=
  met 0x0202 (withUser (user 2) up) (user 2) [(0, 8, 3)] (by decide +kernel) (by decide +kernel) (by decide +kernel)

theorem witness_cfgRead :
    Met 0x0203
    (fun _ _ d => prm d 0 2 < 3) :=
  met 0x0203 (withUser (user 1) up) (user 1) [(0, 2, 2)] (by decide +kernel) (by decide +kernel) (by decide +kernel)

theorem witness_qpCreate :
    Met 0x0300
    (fun s x d => prm d 2 2 < 3 ∧ 8 ≤ prm d 8 5 ∧ prm d 8 5 ≤ 20 ∧ s.host.qps.length < 64 ∧
      (s.host.qps.filter (fun q => q.sid == x.sid)).length < 4) :=
  met 0x0300 (withUser (user 1) up) (user 1) [(2, 2, 2), (8, 5, 20)] (by decide +kernel) (by decide +kernel) (by decide +kernel)

theorem witness_qpDestroy :
    ∃ (q : Qp), Met 0x0301
    (fun s x d => findQp s.host (prm d 0 24) = some q ∧ q.sid = x.sid) :=
  ⟨pair, met 0x0301 (withUser (user 1) (withPair pair up)) (user 1) [(0, 24, 5)] (by decide +kernel) (by decide +kernel) (by decide +kernel)⟩

theorem witness_memRegister :
    Met 0x0302
    (fun s x d => prm d 0 1 = 1 ∧ s.image = none ∧ prm d 1 1 = 0 ∧ prm d 64 48 + prm d 128 48 ≤ 0x30000000000 ∧ x.keys.length < 256) :=
  met 0x0302 (withUser (user 1) up) (user 1) [(0, 1, 1), (64, 48, 0), (128, 48, 0x30000000000)] (by decide +kernel) (by decide +kernel) (by decide +kernel)

theorem witness_memRegister2 :
    ∃ (g : Nat), Met 0x0302
    (fun s x d => prm d 0 1 = 0 ∧ x.role ≠ 2 ∧ regionOver (regionsOf s) (prm d 64 48) (prm d 128 48) = some g ∧
      rgRights g &&& 8 ≠ 0 ∧ x.keys.length < 256) :=
  ⟨plainRegion, met 0x0302 (withUser (user 1) (withImage { emptyImage with regions := [plainRegion] } up)) (user 1) [(0, 1, 0), (64, 48, 0), (128, 48, 65536)] (by decide +kernel) (by decide +kernel) (by decide +kernel)⟩

theorem witness_memHostKey :
    ∃ (q : Qp), Met 0x0303
    (fun s x d => findQp s.host (prm d 32 24) = some q ∧ q.sid = x.sid ∧ x.keys.length < 256) :=
  ⟨pair, met 0x0303 (withUser (user 1) (withPair pair up)) (user 1) [(0, 32, 4), (32, 24, 5), (128, 64, 4096)] (by decide +kernel) (by decide +kernel) (by decide +kernel)⟩

theorem witness_memDeregister :
    ∃ (k : RKey), Met 0x0304
    (fun _ x d => x.keys.find? (fun j => j.key == prm d 0 32 && (j.kind == 2) == (prm d 32 1 == 1)) = some k) :=
  ⟨{ key := 4, kind := 2, r := false, w := true, addr := 0, length := 4096, qpn := 5, valid := true },
    met 0x0304 (withUser keyed up) (keyed) [(0, 32, 4), (32, 1, 1)] (by decide +kernel) (by decide +kernel) (by decide +kernel)⟩

theorem witness_certEnroll :
    Met 0x0A00
    (fun _ _ d => 0 < prm d 16 16 ∧ prm d 16 16 ≤ 1344 ∧ prm d 0 1 = 0 ∧ prm d 1 1 = 0) :=
  met 0x0A00 (withUser (user 2) up) (user 2) [(16, 16, 1344)] (by decide +kernel) (by decide +kernel) (by decide +kernel)

theorem witness_certEnroll2 :
    Met 0x0A00
    (fun s _ d =>
      let der := (leBytes 1344 (prm d 64 10752)).take (prm d 16 16)
      0 < prm d 16 16 ∧ prm d 16 16 ≤ 1344 ∧ prm d 0 1 = 0 ∧ prm d 1 1 = 1 ∧
      findCert s (shaNat der) = none ∧ s.security.enrol.length < 64) :=
  met 0x0A00 (withUser (user 2) up) (user 2) [(1, 1, 1), (16, 16, 1)] (by decide +kernel) (by decide +kernel) (by decide +kernel)

theorem witness_certRevoke :
    Met 0x0A01
    (fun s x d => x.fp ≠ prm d 0 256 ∧ s.security.enrol.any (fun c => c.fp == prm d 0 256) = true) :=
  met 0x0A01 (withUser (user 2) { up with security := { up.security with enrol := [{ fp := 77, role := 1, key := 0, notBefore := 0, notAfter := 0, revoked := false }] } }) (user 2) [(0, 256, 77)] (by decide +kernel) (by decide +kernel) (by decide +kernel)

theorem witness_auditRead :
    Met 0x0A03
    (fun s _ d => prm d 0 64 < s.audit.next) :=
  met 0x0A03 (withUser (user 1) up) (user 1) [] (by decide +kernel) (by decide +kernel) (by decide +kernel)

theorem witness_accountRead :
    Met 0x0703
    (fun s x d =>
      let sid := if prm d 0 32 == 0 then x.sid else prm d 0 32
      (x.role = 1 → sid = x.sid) ∧
      ((s.sessions.live.map (·.acct) ++ s.sessions.ended.reverse).find? (fun b => b.sid == sid)).isSome = true) :=
  met 0x0703 (withUser (user 1) up) (user 1) [] (by decide +kernel) (by decide +kernel) (by decide +kernel)

theorem witness_telemRead :
    Met 0x0700
    (fun s _ d => ∃ l, telemFields s (prm d 0 8) (prm d 32 32) = .ok l) :=
  met 0x0700 (withUser (user 3) up) (user 3) [(0, 8, 3), (32, 32, 1)] (by decide +kernel) ⟨_, rfl⟩ ⟨_, rfl⟩

theorem witness_fwInstall :
    Met 0x0B00
    (fun s _ d => s.image = none ∧ (match fwParse s (prm d 0 48) (prm d 64 48) with
      | .ok _ => True
      | .error c => isRefusal c = false)) :=
  met 0x0B00 (withUser (user 2) (withHbm 0 [1, 0, 0, 2] up)) (user 2) [(64, 48, 1024)] (by decide +kernel)
    (by
      refine ⟨by decide +kernel, ?_⟩
      have hk := fwParse_signed (authState (user 2) (withUser (user 2) (withHbm 0 [1, 0, 0, 2] up))) (prm (dgm (user 2) 0x0B00 [(64, 48, 1024)]) 0 48) (prm (dgm (user 2) 0x0B00 [(64, 48, 1024)]) 64 48) (by decide +kernel) (by decide +kernel) (by decide +kernel) (by decide +kernel) (by decide +kernel)
      revert hk
      generalize fwParse (authState (user 2) (withUser (user 2) (withHbm 0 [1, 0, 0, 2] up))) (prm (dgm (user 2) 0x0B00 [(64, 48, 1024)]) 0 48) (prm (dgm (user 2) 0x0B00 [(64, 48, 1024)]) 64 48) = r
      intro hk
      rcases hk with ⟨b, rfl⟩ | rfl
      · trivial
      · rfl)
    (by
      refine ⟨by decide +kernel, ?_⟩
      have hk := fwParse_signed (runState 0x0B00 (user 2) (dgm (user 2) 0x0B00 [(64, 48, 1024)]) (withUser (user 2) (withHbm 0 [1, 0, 0, 2] up))) (prm (dgm (user 2) 0x0B00 [(64, 48, 1024)]) 0 48) (prm (dgm (user 2) 0x0B00 [(64, 48, 1024)]) 64 48) (by decide +kernel) (by decide +kernel) (by decide +kernel) (by decide +kernel) (by decide +kernel)
      revert hk
      generalize fwParse (runState 0x0B00 (user 2) (dgm (user 2) 0x0B00 [(64, 48, 1024)]) (withUser (user 2) (withHbm 0 [1, 0, 0, 2] up))) (prm (dgm (user 2) 0x0B00 [(64, 48, 1024)]) 0 48) (prm (dgm (user 2) 0x0B00 [(64, 48, 1024)]) 64 48) = r
      intro hk
      rcases hk with ⟨b, rfl⟩ | rfl
      · trivial
      · rfl)

theorem witness_fwActivate :
    Met 0x0B01
    (fun s _ d =>
      let b := if prm d 0 1 = 0 then s.firmware.bankA else s.firmware.bankB
      b.valid = true ∧ b.writing = false) :=
  met 0x0B01 (withUser (user 2) up) (user 2) [] (by decide +kernel) (by decide +kernel) (by decide +kernel)

theorem witness_mfgTest :
    Met 0x8000
    (fun s _ _ => windowOpen s = true ∧ s.image = none) :=
  met 0x8000 (withUser (user 3) { up with security := { up.security with windowEnd := some 1 } }) (user 3) [] (by decide +kernel) (by decide +kernel) (by decide +kernel)

theorem witness_serviceWindow :
    Met 0x0904
    (fun _ _ d => 1 ≤ prm d 0 16 ∧ prm d 0 16 ≤ 1440) :=
  met 0x0904 (withUser (user 2) up) (user 2) [(0, 16, 1440)] (by decide +kernel) (by decide +kernel) (by decide +kernel)

theorem witness_topoWrite :
    Met 0x0502
    (fun s _ d =>
      let h := prm d 0 512
      let ps := (List.range 32).map (fun i => prm d (512 + 128 * i) 128)
      bits h 0 16 = 1 ∧ topoBad h ps = false ∧ topoAbsent s.settings.grade h ps = false) :=
  met 0x0502 (withUser (user 2) up) (user 2) [(0, 512, topoHead)] (by decide +kernel) (by decide +kernel) (by decide +kernel)

theorem witness_routeWrite :
    Met 0x0503
    (fun _ _ d => 1 ≤ prm d 16 16 ∧ prm d 16 16 ≤ 256 ∧ prm d 0 16 + prm d 16 16 ≤ 65536) :=
  met 0x0503 (withUser (user 2) up) (user 2) [(0, 16, 65535), (16, 16, 1), (32, 32, 1023)] (by decide +kernel) (by decide +kernel) (by decide +kernel)

theorem witness_mcastWrite :
    Met 0x0504
    (fun _ _ d => 1 ≤ prm d 16 16 ∧ prm d 16 16 ≤ 128 ∧ prm d 0 16 + prm d 16 16 ≤ 65536) :=
  met 0x0504 (withUser (user 2) up) (user 2) [(0, 16, 65535), (16, 16, 1), (64, 64, 2 ^ 18 - 1)] (by decide +kernel) (by decide +kernel) (by decide +kernel)

theorem witness_fabricCommit :
    Met 0x0505
    (fun s _ d => s.run.active = false ∧ prm d 0 1 = 0 ∧ prm d 1 1 = 0 ∧ prm d 2 1 = 1 ∧
      (s.fabric.force.topo = none ∨ s.fabric.force.routed = false)) :=
  met 0x0505 (withUser (user 2) up) (user 2) [(2, 1, 1)] (by decide +kernel) (by decide +kernel) (by decide +kernel)

theorem witness_fabricRead :
    Met 0x0506
    (fun _ _ d => prm d 0 2 < 3) :=
  met 0x0506 (withUser (user 1) up) (user 1) [(0, 2, 2)] (by decide +kernel) (by decide +kernel) (by decide +kernel)

theorem witness_timeSet :
    Met 0x0507
    (fun s _ _ => s.run.active = false ∧ s.time.master = false) :=
  met 0x0507 (withUser (user 2) up) (user 2) [] (by decide +kernel) (by decide +kernel) (by decide +kernel)

theorem witness_cmpInstall :
    ∃ (h set : List Byte), Met 0x0508
    (fun s _ d => vaRead s.memory (regionsOf s) 1 (prm d 0 48) 64 = .ok h ∧
      vaRead s.memory (regionsOf s) 1 (prm d 0 48) (128 + 128 * setField h 48 5) = .ok set ∧
      genSetReserved set = true ∧ setField set 0 16 = 1 ∧ genSetOk s.fabric.newest set = true ∧ genPred s.fabric s.fabric.newest = none) :=
  ⟨genBytes.take 64, genBytes, met 0x0508 (withUser (user 1) (withHbm 0 genBytes (withImage kvImage up))) (user 1) [] (by decide +kernel) (by decide +kernel) (by decide +kernel)⟩

theorem witness_fedMapSet :
    Met 0x0509
    (fun _ _ d =>
      let ip := ofBe (leBytes 16 (prm d 128 128))
      ip ≠ 0 ∧ ip >>> 120 ≠ 0xFF ∧ isMapped4 ip = false) :=
  met 0x0509 (withUser (user 2) up) (user 2) [(128, 128, 1)] (by decide +kernel) (by decide +kernel) (by decide +kernel)

theorem witness_fedKeySet :
  ∃ (s : State) (x : Session) (d : Datagram),
  (Accepted 0x050A s x d) :=
  ⟨withUser (user 2) up, user 2, dgm (user 2) 0x050A [], accepted_dgm _ _ _ _ (by decide +kernel)⟩

theorem witness_kvPoolCreate :
    ∃ (im : Image), Met 0x0600
    (fun s _ d =>
      let r := prm d 64 512
      s.image = some im ∧ bits r 0 16 ≤ 1 ∧ poolOf s (prm d 0 4) = none ∧ poolFieldsOk r = true ∧
      pGrad r ≤ im.descs.length ∧ poolGradOk im r = true ∧ rangeCode s (pPageBase r) (pPages r * pageSize r) = 0 ∧
      rangeCode s (pCisBase r) (cisSize r) = 0 ∧ rangeCode s (pTableBase r) (256 * pTableUnits r) = 0) :=
  ⟨kvImage, met 0x0600 (withUser (user 1) (withImage kvImage up)) (user 1) [(0, 4, 1), (64, 512, poolRecord)] (by decide +kernel) (by decide +kernel) (by decide +kernel)⟩

theorem witness_kvPoolDestroy :
    ∃ (p : Pool), Met 0x0601
    (fun s _ d => s.image ≠ none ∧ poolOf s (prm d 0 4) = some p ∧ s.kv.seqs.any (fun q => q.2.pool == prm d 0 4) = false) :=
  ⟨thePool, met 0x0601 (withUser (user 1) (withPool up)) (user 1) [] (by decide +kernel) (by decide +kernel) (by decide +kernel)⟩

/-- Tables for which a gap is free have a place, which states alike in what counts share. -/
theorem placed {s t : State} {n m : Nat} {p : Pool} {sizes z : List Nat} {g : Nat} (hn : n = m) (hz : sizes = z)
    (h1 : heldUnits s m p = heldUnits t m p) (h2 : s.free = t.free) (h3 : lowestGap p (heldUnits t m p) (z.foldl (· + ·) 0) = some g) :
    placeTables s n p sizes = some ((placeTables t m p z).getD []) := by
  subst hn hz
  unfold placeTables
  rw [h1, h2]
  simp only [h3]
  rfl

theorem witness_kvSeqCreate :
    ∃ (p : Pool) (us : List Nat), Met 0x0602
    (fun s _ d => s.image ≠ none ∧ poolOf (settleFrees s) (prm d 16 4) = some p ∧ prm d 20 1 = 0 ∧ s.kv.seqs.length < 4096 ∧
      seqOf s (prm d 0 12) = none ∧ (prm d 32 16 = 0 ∨ prm d 48 8 + prm d 56 8 ≤ prm d 32 16) ∧
      cisRange s p.record (prm d 0 12) = 0 ∧ dirUnits 0 ≤ unitsFree p ∧
      placeTables (settleFrees s) (prm d 16 4) p [dirUnits 0] = some us) :=
  ⟨thePool, (placeTables (settleFrees (withPool up)) 0 thePool [dirUnits 0]).getD [], met 0x0602 (withUser (user 1) (withPool up)) (user 1) [(0, 12, 1), (32, 16, 4), (48, 8, 2), (56, 8, 2)] (by decide +kernel)
    ⟨by decide +kernel, by decide +kernel, by decide +kernel, by decide +kernel, by decide +kernel, by decide +kernel, by decide +kernel, by decide +kernel, placed (t := settleFrees (withPool up)) (m := 0) (z := [dirUnits 0]) (g := 1) (by decide +kernel) rfl (by decide +kernel) (by decide +kernel) (by decide +kernel)⟩
    ⟨by decide +kernel, by decide +kernel, by decide +kernel, by decide +kernel, by decide +kernel, by decide +kernel, by decide +kernel, by decide +kernel, placed (t := settleFrees (withPool up)) (m := 0) (z := [dirUnits 0]) (g := 1) (by decide +kernel) rfl (by decide +kernel) (by decide +kernel) (by decide +kernel)⟩⟩

theorem witness_kvSeqSet :
    ∃ (q : KvSeq) (p : Pool), Met 0x0607
    (fun s _ d => editSeq s (prm d 0 12) (prm d 16 16) = .ok (q, p) ∧
      (prm d 32 16 = 0 ∨ prm d 48 8 + prm d 56 8 ≤ prm d 32 16)) :=
  ⟨theSeq, thePool, met 0x0607 (withUser (user 1) (withSeq up)) (user 1) [(0, 12, 3), (16, 16, 4)] (by decide +kernel) (by decide +kernel) (by decide +kernel)⟩

theorem witness_kvTableRead :
    ∃ (q : KvSeq), Met 0x0608
    (fun s _ d => s.image ≠ none ∧ seqOf s (prm d 0 12) = some q) :=
  ⟨theSeq, met 0x0608 (withUser (user 1) (withSeq up)) (user 1) [(0, 12, 3)] (by decide +kernel) (by decide +kernel) (by decide +kernel)⟩

theorem witness_kvPageRead :
    ∃ (p : Pool), Met 0x0609
    (fun s _ d => s.image ≠ none ∧ poolOf (settleFrees s) (prm d 0 4) = some p ∧ 1 ≤ prm d 64 8 ∧ prm d 64 8 ≤ 64 ∧
      prm d 32 32 + prm d 64 8 ≤ pPages p.record) :=
  ⟨thePool, met 0x0609 (withUser (user 1) (withSeq up)) (user 1) [(32, 32, 1), (64, 8, 1)] (by decide +kernel) (by decide +kernel) (by decide +kernel)⟩

theorem witness_kvFork :
    ∃ (q : KvSeq) (p : Pool) (us : List Nat), Met 0x0603
    (fun s _ d => editSeq (settleFrees s) (prm d 0 12) (prm d 16 16) = .ok (q, p) ∧ (settleFrees s).kv.seqs.length < 4096 ∧
      seqOf (settleFrees s) (prm d 32 12) = none ∧ cisRange (settleFrees s) p.record (prm d 32 12) = 0 ∧
      dirUnits q.leaves.length + q.leaves.length * leafUnits p.record ≤ unitsFree p ∧
      cisternsFault (settleFrees s) p.record (prm d 0 12) = none ∧
      placeTables (settleFrees s) q.pool p (dirUnits q.leaves.length :: q.leaves.map (fun _ => leafUnits p.record)) = some us) :=
  ⟨theSeq, thePool, (placeTables (settleFrees (withSeq up)) 0 thePool [dirUnits 1, leafUnits poolRecord]).getD [], met 0x0603 (withUser (user 1) (withSeq up)) (user 1) [(0, 12, 3), (16, 16, 4), (32, 12, 1)] (by decide +kernel)
    ⟨by decide +kernel, by decide +kernel, by decide +kernel, by decide +kernel, by decide +kernel, by decide +kernel, placed (t := settleFrees (withSeq up)) (m := 0) (z := [dirUnits 1, leafUnits poolRecord]) (g := 3) rfl (by decide +kernel) (by decide +kernel) (by decide +kernel) (by decide +kernel)⟩
    ⟨by decide +kernel, by decide +kernel, by decide +kernel, by decide +kernel, by decide +kernel, by decide +kernel, placed (t := settleFrees (withSeq up)) (m := 0) (z := [dirUnits 1, leafUnits poolRecord]) (g := 3) rfl (by decide +kernel) (by decide +kernel) (by decide +kernel) (by decide +kernel)⟩⟩

theorem witness_kvSeqRetire :
    ∃ (q : KvSeq) (p : Pool), Met 0x0606
    (fun s _ d => editSeq s (prm d 0 12) (prm d 16 16) = .ok (q, p)) :=
  ⟨theSeq, thePool, met 0x0606 (withUser (user 1) (withSeq up)) (user 1) [(0, 12, 3), (16, 16, 4)] (by decide +kernel) (by decide +kernel) (by decide +kernel)⟩

theorem witness_kvTruncate :
    ∃ (q : KvSeq) (p : Pool), Met 0x0605
    (fun s _ d =>
      let t := settleFrees s
      let cut := (List.range (pStreams p.record)).filter (fun st => prm d 64 32 < streamLen t p.record (prm d 0 12) q st)
      editSeq t (prm d 0 12) (prm d 16 16) = .ok (q, p) ∧ cut ≠ [] ∧
      truncateFault t p.record (prm d 0 12) q cut (prm d 64 32) = none ∧
      (publishSeq (prm d 0 12) (truncated q cut (prm d 64 32 / 128)) (truncatedDrops q cut (prm d 64 32 / 128)) t).isSome = true) :=
  ⟨theSeq, thePool, met 0x0605 (withUser (user 1) (withSeq up)) (user 1) [(0, 12, 3), (16, 16, 4), (64, 32, 5)] (by decide +kernel) (by decide +kernel) (by decide +kernel)⟩

theorem witness_kvPageWrite :
    ∃ (q : KvSeq) (p : Pool) (old pg : Nat) (src bytes : List Byte), Met 0x0604
    (fun s _ d =>
      let t := settleFrees s
      let lp := prm d 64 32 / 128
      editSeq t (prm d 0 12) (prm d 16 16) = .ok (q, p) ∧ prm d 32 16 < pStreams p.record ∧ 1 ≤ prm d 96 8 ∧
      prm d 64 32 % 128 + prm d 96 8 ≤ 128 ∧ (streamPages q (prm d 32 16))[lp]? = some old ∧ old ≠ hole ∧
      vaRead t.memory (regionsOf t) 1 (prm d 144 48) (prm d 96 8 * 4 * pD p.record) = .ok src ∧
      vaRead t.memory (regionsOf t) 0 (pageAddr p.record old) (pageSize p.record) = .ok bytes ∧ lowestFree p = some pg ∧
      (publishSeq (prm d 0 12) (q.leaves.set lp ((q.leaves.getD lp []).set (prm d 32 16) pg)) [old] t).isSome = true) :=
  ⟨theSeq, thePool, 0, 1, List.replicate 128 0, valueOr [] (vaRead up.memory [plainRegion] 0 0 8192),
    met 0x0604 (withUser (user 1) (withSeq up)) (user 1) writePs (by decide +kernel)
    (by
      have hm : (settleFrees (authState (user 1) (withUser (user 1) (withSeq up)))).memory = up.memory := by decide +kernel
      have hr : regionsOf (settleFrees (authState (user 1) (withUser (user 1) (withSeq up)))) = [plainRegion] := by decide +kernel
      refine ⟨by decide +kernel, by decide +kernel, by decide +kernel, by decide +kernel, by decide +kernel, by decide +kernel, by decide +kernel, ?_, by decide +kernel, by decide +kernel⟩
      rw [hm, hr]
      exact ok_valueOr [] (vaRead up.memory [plainRegion] 0 0 8192) (by decide +kernel))
    (by
      have hm : (settleFrees (runState 0x0604 (user 1) (dgm (user 1) 0x0604 writePs) (withUser (user 1) (withSeq up)))).memory = up.memory := by decide +kernel
      have hr : regionsOf (settleFrees (runState 0x0604 (user 1) (dgm (user 1) 0x0604 writePs) (withUser (user 1) (withSeq up)))) = [plainRegion] := by decide +kernel
      refine ⟨by decide +kernel, by decide +kernel, by decide +kernel, by decide +kernel, by decide +kernel, by decide +kernel, by decide +kernel, ?_, by decide +kernel, by decide +kernel⟩
      rw [hm, hr]
      exact ok_valueOr [] (vaRead up.memory [plainRegion] 0 0 8192) (by decide +kernel))⟩

theorem witness_pwrTolSet :
    Met 0x0800
    (fun s x d => x.role ≠ 1 ∨ (s.power.tolMin ≤ prm d 0 32 ∧ prm d 0 32 ≤ s.power.tolMax ∧ s.power.dwellMin ≤ prm d 32 32)) :=
  met 0x0800 (withUser (user 1) up) (user 1) [(0, 32, 320), (32, 32, 1)] (by decide +kernel) (by decide +kernel) (by decide +kernel)

theorem witness_pwrBoundsSet :
    Met 0x0801
    (fun _ _ d => prm d 0 32 ≤ prm d 32 32) :=
  met 0x0801 (withUser (user 2) up) (user 2) [] (by decide +kernel) (by decide +kernel) (by decide +kernel)

theorem witness_pwrCapSet :
    Met 0x0802
    (fun _ _ d => 800 ≤ prm d 0 16 ∧ prm d 0 16 ≤ 3800) :=
  met 0x0802 (withUser (user 2) up) (user 2) [(0, 16, 800)] (by decide +kernel) (by decide +kernel) (by decide +kernel)

theorem witness_pwrModeSet :
    Met 0x0803
    (fun s _ _ => s.run.active = false) :=
  met 0x0803 (withUser (user 2) up) (user 2) [(0, 1, 1)] (by decide +kernel) (by decide +kernel) (by decide +kernel)

theorem witness_pwrRead :
  ∃ (s : State) (x : Session) (d : Datagram),
  (Accepted 0x0804 s x d) :=
  ⟨withUser (user 3) up, user 3, dgm (user 3) 0x0804 [], accepted_dgm _ _ _ _ (by decide +kernel)⟩

theorem witness_tensorImport :
    ∃ (e : Env), Met 0x0305
    (fun s _ d =>
      let x := descOf e.im (prm d 0 24)
      let hf := prm d 32 8
      let n := hostBytes (dDims x) (hostAxis x hf) hf
      envOf s = some e ∧ idleOnly s = false ∧ isTensor e (prm d 0 24) = true ∧ hostFmtOk hf = true ∧
      (fmtScaled (dFmt x) = false ∨ prm d 64 32 = 0 ∨ normalT (prm d 64 32) = true) ∧
      firstCode [useCode e (prm d 0 24) 2, spansCode e 1 [(prm d 128 48, n)]] = 0 ∧
      overlap (piecesOf e [(prm d 128 48, n)]) (piecesOf e (storeSpans e (prm d 0 24))) = false) :=
  ⟨envOfImage tensorImage up, met 0x0305 (withUser (user 1) (withImage tensorImage up)) (user 1) [(0, 24, 1), (32, 8, 1), (128, 48, 65536)] (by decide +kernel) (by decide +kernel) (by decide +kernel)⟩

theorem witness_tensorExport :
    ∃ (e : Env), Met 0x0306
    (fun s x d =>
      let t := descOf e.im (prm d 0 24)
      envOf s = some e ∧ (x.role = 3 → windowOpen s = true) ∧ copyable e (prm d 0 24) = true ∧ hostFmtOk (prm d 32 8) = true ∧
      (∀ k, (dDims t).length ≤ k → k < 6 → padLo d.params k = 0 ∧ padHi d.params k = 0) ∧ useCode e (prm d 0 24) 1 = 0 ∧
      (hostKeyFor x (prm d 64 32) (prm d 128 64) (hostBytes (padDims d.params (dDims t))
        (exportAxis t (prm d 32 8) d.params) (prm d 32 8))).isSome = true ∧ s.sessions.ops = []) :=
  ⟨envOfImage tensorImage up, met 0x0306 (withUser keyed (withImage tensorImage up)) (keyed) [(0, 24, 1), (32, 8, 1), (64, 32, 4)] (by decide +kernel) (by decide +kernel) (by decide +kernel)⟩

theorem witness_memCopy :
    ∃ (e : Env), Met 0x0307
    (fun s _ d => envOf s = some e ∧ idleOnly s = false ∧ copyCode e (prm d 0 24) (prm d 24 24) (prm d 64 24) = 0) :=
  ⟨envOfImage tensorImage up, met 0x0307 (withUser (user 1) (withImage tensorImage up)) (user 1) [(0, 24, 1), (24, 24, 2)] (by decide +kernel) (by decide +kernel) (by decide +kernel)⟩

theorem witness_imageLoad :
    Met 0x0400
    (fun s x d => s.image = none ∧ prm d 0 48 % 256 = 0 ∧ prm d 0 48 + prm d 64 48 ≤ 0x30000000000 ∧
      windowOver s x.sid (prm d 0 48) (prm d 64 48) = false) :=
  met 0x0400 (withUser (user 1) up) (user 1) [(0, 48, 0), (64, 48, 0x30000000000)] (by decide +kernel) (by decide +kernel) (by decide +kernel)

theorem witness_imageUnload :
    Met 0x0401
    (fun s _ _ => s.run.active = false ∧ s.image ≠ none) :=
  met 0x0401 (withUser (user 1) (withImage emptyImage up)) (user 1) [] (by decide +kernel) (by decide +kernel) (by decide +kernel)

theorem witness_run :
    ∃ (im : Image), Met 0x0403
    (fun s _ d => s.image = some im ∧ s.run.active = false ∧ 1 ≤ prm d 208 8 ∧ prm d 208 8 ≤ 64 ∧ s.boot.retired = false ∧
      s.time.state = 2 ∧ s.time.now + 1000000 * 65536 ≤ prm d 128 64 * 65536 + prm d 192 16) :=
  ⟨emptyImage, met 0x0403 (withUser (user 1) (withImage emptyImage { up with time := { up.time with state := 2 } })) (user 1) [(64, 64, 0), (128, 64, 1000000), (208, 8, 64)] (by decide +kernel) (by decide +kernel) (by decide +kernel)⟩

theorem witness_imageState : Met 0x0402 (fun _ _ _ => True) :=
  met 0x0402 (withUser (user 1) up) (user 1) [] (by decide +kernel) trivial trivial

theorem witness_normRead : Met 0x0701 (fun s _ d => prm d 0 1 = 1 → hasCap s 2 = true) :=
  met 0x0701 (withUser (user 1) up) (user 1) [(0, 1, 1)] (by decide +kernel) (by decide +kernel) (by decide +kernel)

theorem witness_scaleHistRead :
    ∃ (im : Image) (t : Nat) (l : List Byte), Met 0x0404
    (fun s _ d => scaledDesc s (prm d 0 24) = .ok (im, t) ∧ vaRead s.memory im.regions 0 (dAux t) 80 = .ok l) :=
  ⟨tensorImage, scaledDescr 3 8192 16384, List.replicate 80 0, met 0x0404 (withUser (user 1) (withImage tensorImage up)) (user 1) [(0, 24, 3)] (by decide +kernel) (by decide +kernel) (by decide +kernel)⟩

theorem witness_scaleHistWrite :
    ∃ (im : Image) (t : Nat), Met 0x0405
    (fun s _ d => s.run.active = false ∧ scaledDesc s (prm d 0 24) = .ok (im, t) ∧ bits (prm d 64 640) 0 16 ≤ 1 ∧
      histOk (prm d 64 640) = true) :=
  ⟨tensorImage, scaledDescr 3 8192 16384, met 0x0405 (withUser (user 1) (withImage tensorImage up)) (user 1) [(0, 24, 3), (64, 640, pack [(0, 16, 1), (64, 8, 16), (80, 8, 16), (72, 8, 15), (96, 32, 0x3F800000)])] (by decide +kernel) (by decide +kernel) (by decide +kernel)⟩

theorem witness_adapterSet :
    ∃ (im : Image), Met 0x0406
    (fun s _ d =>
      let e := prm d 64 128
      s.image = some im ∧ s.settings.grade ≠ 3 ∧ bits e 0 8 ≤ 64 ∧
      bits e 32 24 ≤ im.descs.length ∧ bits e 64 24 ≤ im.descs.length ∧
      (bits e 0 8 = 0 ∨ ∀ i, i = bits e 32 24 ∨ i = bits e 64 24 → dKind (descOf im i) = 0 ∧ dFmt (descOf im i) = 2)) :=
  ⟨tensorImage, met 0x0406 (withUser (user 1) (withImage tensorImage up)) (user 1) [] (by decide +kernel)
    ⟨by decide +kernel, by decide +kernel, by decide +kernel, by decide +kernel, by decide +kernel, .inl (by decide +kernel)⟩
    ⟨by decide +kernel, by decide +kernel, by decide +kernel, by decide +kernel, by decide +kernel, .inl (by decide +kernel)⟩⟩

theorem witness_groupSet :
    ∃ (im : Image), Met 0x0407
    (fun s _ d => s.image = some im ∧ prm d 0 12 < im.groups.length ∧ (prm d 16 1 = 1 → prm d 32 2 ≠ 3) ∧
      (prm d 17 1 = 1 → posNormal32 (prm d 64 32) = true)) :=
  ⟨{ emptyImage with groups := [0] }, met 0x0407 (withUser (user 1) (withImage { emptyImage with groups := [0] } up)) (user 1) [(16, 1, 1), (32, 2, 2)] (by decide +kernel) (by decide +kernel) (by decide +kernel)⟩

theorem witness_caravanPeriod :
    ∃ (im : Image), Met 0x0500
    (fun s _ d => s.image = some im ∧ caravanOk (caravanOp (caravanNext s im) (0, 0, prm d 0 48, caravanStep s im)) (myId s.fabric) = true) :=
  ⟨caravanImage, met 0x0500 (withUser (user 1) (withImage caravanImage up)) (user 1) [(0, 48, 1000)] (by decide +kernel) (by decide +kernel) (by decide +kernel)⟩

theorem witness_caravanSet :
    ∃ (im : Image), Met 0x0501
    (fun s _ d => s.image = some im ∧
      prm d 0 12 ≤ (caravanNext s im).car.entries.length ∧
      caravanOk (caravanOp (caravanNext s im) (1, prm d 0 12, prm d 64 256, caravanStep s im)) (myId s.fabric) = true) :=
  ⟨caravanImage, met 0x0501 (withUser (user 1) (withImage caravanImage up)) (user 1) [(0, 12, 1), (64, 256, pack [(64, 48, 2000)])] (by decide +kernel) (by decide +kernel) (by decide +kernel)⟩

theorem witness_diagRead :
    Met 0x0903
    (fun _ _ d => prm d 0 8 = 4 ∧ prm d 96 16 ≤ 320 ∧ prm d 32 32 + prm d 96 16 ≤ 65535) :=
  met 0x0903 (withUser (user 1) up) (user 1) [(0, 8, 4), (32, 32, 65534), (96, 16, 1)] (by decide +kernel) (by decide +kernel) (by decide +kernel)

theorem witness_mirageRead :
    Met 0x0900
    (fun _ _ d => prm d 0 32 < 30720) :=
  met 0x0900 (withUser (user 1) up) (user 1) [(0, 32, 30719)] (by decide +kernel) (by decide +kernel) (by decide +kernel)

theorem witness_mirageWrite :
    Met 0x0901
    (fun s _ d => s.run.active = false ∧ s.repair.haboob = false ∧ s.mirage.writing = false ∧ prm d 0 32 ≠ 0 ∧
      prm d 0 32 = s.mirage.staged.length ∧ 1 ≤ prm d 32 16 ∧ prm d 32 16 ≤ 1280 ∧ prm d 48 1 = 0) :=
  met 0x0901 (withUser (user 3) { up with mirage := { up.mirage with staged := [1] } }) (user 3) [(0, 32, 1), (32, 16, 1280)] (by decide +kernel) (by decide +kernel) (by decide +kernel)

theorem witness_bistRun :
    Met 0x0902
    (fun s _ d => prm d 0 8 ≤ 2 ∧ s.image = none) :=
  met 0x0902 (withUser (user 2) up) (user 2) [(0, 8, 2)] (by decide +kernel) (by decide +kernel) (by decide +kernel)

theorem witness_calibrate :
    Met 0x0906
    (fun s _ d => windowOpen s = true ∧ prm d 0 8 ≤ 5 ∧ (prm d 0 8 = 4 → s.settings.grade = 1) ∧ s.run.active = false) :=
  met 0x0906 (withUser (user 3) { up with security := { up.security with windowEnd := some 1 } }) (user 3) [(0, 8, 4)] (by decide +kernel) (by decide +kernel) (by decide +kernel)

theorem witness_haboobClear :
    Met 0x0905
    (fun s _ d => s.repair.haboob = true ∧ prm d 0 1 = 1 ∧ s.repair.pending = []) :=
  met 0x0905 (withUser (user 2) { up with repair := { up.repair with haboob := true } }) (user 2) [(0, 1, 1)] (by decide +kernel) (by decide +kernel) (by decide +kernel)

theorem witness_moduleRetire :
  ∃ (s : State) (x : Session) (d : Datagram),
  (Accepted 0x050B s x d) ∧
  (1 ≤ prm d 0 32) ∧
  (prm d 0 32 ≤ 600000) ∧
  (s.boot.retired = false) ∧
  (s.run.active = false) :=
  ⟨withUser (user 2) up, user 2, dgm (user 2) 0x050B [(0, 32, 600000)], accepted_dgm _ _ _ _ (by decide +kernel), by decide +kernel⟩

theorem witness_tensorImportComplete :
  ∃ (s s0 : State) (sid h : Nat) (o : Op) (e : Env) (data : List Byte),
  let i := bits o.params 0 24
  let t := bits o.params 64 32
  let hf := bits o.params 32 8
  let st := importOut e i t hf data
  (engineOp s sid h 0x0305 = some (o, s0)) ∧
  (envOf s0 = some e) ∧
  (vaRead e.mem e.im.regions 1 (bits o.params 128 48)
    (hostBytes (dDims (descOf e.im i)) (hostAxis (descOf e.im i) hf) hf) = .ok data) ∧
  (st.fail = 0) :=
  ⟨withOp (opOf 0x0305 2 [(0, 24, 1), (32, 8, 1), (128, 48, 65536)]) (withImage tensorImage up), withOp (opOf 0x0305 2 [(0, 24, 1), (32, 8, 1), (128, 48, 65536)]) (withImage tensorImage up), 9, 1, opOf 0x0305 2 [(0, 24, 1), (32, 8, 1), (128, 48, 65536)], (envOfImage tensorImage up), List.replicate 256 0, by decide +kernel⟩

theorem witness_tensorExportComplete :
  ∃ (s : State) (sid h : Nat) (o : Op) (e : Env) (x : Session) (k : RKey) (l : List (List Byte × CFlag)),
  let p := o.params
  let i := bits p 0 24
  let hf := bits p 32 8
  let dims := padDims p (dDims (descOf e.im i))
  let ax := exportAxis (descOf e.im i) hf p
  (runningOp s sid h 0x0306 = some o) ∧
  (envOf s = some e) ∧
  (findSession s.sessions sid = some x) ∧
  (hostKeyFor x (bits p 64 32) (bits p 128 64) (hostBytes dims ax hf) = some k) ∧
  (readAll (fun u => match exportUnit e i hf p ax u with
    | .ok l => .ok l
    | .error c => .error c.1) (if fmtBlock hf then hostBlocks dims ax else List.range (prod dims)) = .ok l) :=
  ⟨withUser keyed (withOp (opOf 0x0306 2 [(0, 24, 1), (32, 8, 1), (64, 32, 4)]) (withImage tensorImage up)), 9, 1, opOf 0x0306 2 [(0, 24, 1), (32, 8, 1), (64, 32, 4)], (envOfImage tensorImage up), keyed, { key := 4, kind := 2, r := false, w := true, addr := 0, length := 4096, qpn := 5, valid := true }, List.replicate 64 (List.replicate 4 0, ⟨0, 0, none⟩), by decide +kernel⟩

theorem witness_memCopyComplete :
  ∃ (s s0 : State) (sid h : Nat) (o : Op) (e : Env) (st : Stored),
  let src := bits o.params 0 24
  let dst := bits o.params 24 24
  (engineOp s sid h 0x0307 = some (o, s0)) ∧
  (envOf s0 = some e) ∧
  (copyOut s0 e src dst (bits o.params 64 24) (curHalf e dst) 0 = .ok st) ∧
  (st.fail = 0) :=
  ⟨withOp (opOf 0x0307 2 [(0, 24, 1), (24, 24, 2)]) (withImage tensorImage up), withOp (opOf 0x0307 2 [(0, 24, 1), (24, 24, 2)]) (withImage tensorImage up), 9, 1, opOf 0x0307 2 [(0, 24, 1), (24, 24, 2)], (envOfImage tensorImage up), valueOr3 (copyOut (withOp (opOf 0x0307 2 [(0, 24, 1), (24, 24, 2)]) (withImage tensorImage up)) (envOfImage tensorImage up) 1 2 0 0 0), by decide +kernel⟩

theorem witness_imageLoadComplete :
  ∃ (s s0 : State) (sid h : Nat) (o : Op),
  let a := bits o.params 0 48
  let n := bits o.params 64 48
  let im := readImage (memRead s0.memory.hbm a n)
  (engineOp s sid h 0x0400 = some (o, s0)) ∧
  (s0.image = none) ∧
  (badIn s0.memory 1 a n = none) ∧
  (imageCode s0 (memRead s0.memory.hbm a n) = 0) :=
  ⟨loadState, loadState, 9, 1, loadOp, by decide +kernel, by decide +kernel, by decide +kernel, by
    have hl : testImage.length = 1424 := by decide +kernel
    have hr := memRead_cellsOf 0 testImage
    rw [hl] at hr
    have hm : loadState.memory.hbm = cellsOf 0 testImage := rfl
    have ha : bits loadOp.params 0 48 = 0 := by decide +kernel
    have hn : bits loadOp.params 64 48 = 1424 := by decide +kernel
    simp only [ha, hn, hm, hr]
    exact test_image_loads⟩

theorem witness_abortTakesEffect :
  ∃ (s : State) (sid h : Nat) (o : Op),
  (findOp s.sessions sid h = some o) ∧
  (o.aborting = true) ∧
  (opFinal o.state = false) :=
  ⟨withOp ({ opOf 0x0403 2 [] with aborting := true }) (up), 9, 1, { opOf 0x0403 2 [] with aborting := true }, by decide +kernel⟩

theorem witness_fwInstallComplete :
  ∃ (s : State) (sid h : Nat) (o : Op),
  (findOp s.sessions sid h = some o) ∧
  (o.opcode = 0x0B00) ∧
  (opFinal o.state = false) ∧
  (o.aborting = false) :=
  ⟨withOp (opOf 0x0B00 2 []) (up), 9, 1, opOf 0x0B00 2 [], by decide +kernel⟩

theorem witness_mfgTestComplete :
  ∃ (s : State) (sid h : Nat) (o : Op),
  (findOp s.sessions sid h = some o) ∧
  (o.opcode = 0x8000) ∧
  (opFinal o.state = false) ∧
  (o.aborting = false) :=
  ⟨withOp (opOf 0x8000 2 []) (up), 9, 1, opOf 0x8000 2 [], by decide +kernel⟩

theorem witness_cmpInstallComplete :
  ∃ (s : State) (sid h : Nat) (o : Op),
  (findOp s.sessions sid h = some o) ∧
  (o.opcode = 0x0508) ∧
  (o.state = 2) ∧
  (o.aborting = false) ∧
  (s.fabric.installing = some (sid, h, s.fabric.newest)) ∧
  (holders s.fabric = (portsInUse s.fabric).length) :=
  ⟨withOp (opOf 0x0508 2 []) ({ up with fabric := { up.fabric with installing := some (9, 1, 0) } }), 9, 1, opOf 0x0508 2 [], by decide +kernel⟩

theorem witness_retireDeadlineExpiry :
  ∃ (s : State) (sid h : Nat) (o : Op),
  (findOp s.sessions sid h = some o) ∧
  (o.opcode = 0x050B) ∧
  (opFinal o.state = false) ∧
  (o.queuedAt + 1000000 * bits o.params 0 32 ≤ nowNs s) :=
  ⟨atNs 1000000 (withOp (opOf 0x050B 2 [(0, 32, 1)]) (up)), 9, 1, opOf 0x050B 2 [(0, 32, 1)], by decide +kernel⟩

theorem witness_mirageWriteComplete :
  ∃ (s : State) (sid h : Nat) (o : Op) (c : MapCopy),
  (findOp s.sessions sid h = some o) ∧
  (o.opcode = 0x0901) ∧
  (o.state = 2) ∧
  (o.aborting = false) ∧
  (s.mirage.writing = true) ∧
  (mapOfBytes s.mirage.staged = some c) :=
  ⟨withOp (opOf 0x0901 2 []) ({ up with mirage := { up.mirage with writing := true, staged := homeBytes } }), 9, 1, opOf 0x0901 2 [], homeMap, by decide +kernel, rfl, rfl, rfl, rfl, home_parses⟩

theorem witness_bistComplete :
  ∃ (s : State) (sid h : Nat) (o : Op) (fails : List Nat),
  (findOp s.sessions sid h = some o) ∧
  (o.opcode = 0x0902) ∧
  (o.state = 2) ∧
  (o.aborting = false) ∧
  (bits o.params 0 8 = 1) :=
  ⟨withOp (opOf 0x0902 2 [(0, 8, 1)]) (up), 9, 1, opOf 0x0902 2 [(0, 8, 1)], [3], by decide +kernel⟩

theorem witness_calibrateComplete :
  ∃ (s : State) (sid h : Nat) (o : Op) (results : List (Nat × Nat)),
  (findOp s.sessions sid h = some o) ∧
  (o.opcode = 0x0906) ∧
  (o.state = 2) ∧
  (o.aborting = false) ∧
  (s.run.active = false) ∧
  (1 ≤ bits o.params 0 8) :=
  ⟨withOp (opOf 0x0906 2 [(0, 8, 5)]) (up), 9, 1, opOf 0x0906 2 [(0, 8, 5)], [(0, 7)], by decide +kernel⟩

theorem witness_sessionHello :
  ∃ (s : State) (d : Datagram),
  (ready s = true) ∧
  (helloCode d = 0) ∧
  (s.sessions.helloTimes.filter (fun t => decide (nowNs s < t + 1000000000))).length < 64 ∧
  (s.sessions.live.all (fun x => !(x.ip == d.srcIp && x.udp == d.srcUdp)) = true) ∧
  (s.sessions.prov.filter (fun p => decide (nowNs s < p.expires))).length < 16 :=
  ⟨up, helloDgm, by decide +kernel⟩

theorem witness_sessionOpen :
    ∃ (s : State) (d : Datagram) (p : ProvSession),
      ready s = true ∧ s.sessions.prov.find? (fun q => q.sid == d.sid && decide (nowNs s < q.expires)) = some p ∧
      p.ip = d.srcIp ∧ p.udp = d.srcUdp ∧ d.major = p.major ∧ d.minor = p.minor ∧ d.rsv = 0 ∧ d.plen = 768 ∧
      s.audit.writable = true ∧ s.sessions.live.length < 16 :=
  ⟨withProv provOf up, openDgm, provOf, by decide +kernel⟩


theorem witness_sessionIdleExpiry :
  ∃ (s : State) (sid : Nat) (x : Session),
  (findSession s.sessions sid = some x) ∧
  (x.lastAuth + s.settings.idleS * 1000000000 ≤ nowNs s) :=
  ⟨atNs 600000000000 (withUser (user 3) up), 9, user 3, by decide +kernel⟩

theorem witness_certPartTimeout :
  ∃ (s : State) (c : CertPart),
  (s.security.staged = some c) ∧
  (c.time + 10000000000 < nowNs s) :=
  ⟨atNs 10000000001 { up with security := { up.security with staged := some { sid := 9, time := 0, data := [] } } }, { sid := 9, time := 0, data := [] }, by decide +kernel⟩

theorem witness_serviceWindowEnd :
  ∃ (s : State) (e : Nat),
  (s.security.windowEnd = some e) ∧
  (e ≤ nowNs s) :=
  ⟨atNs 5 { up with security := { up.security with windowEnd := some 5 } }, 5, by decide +kernel⟩

theorem witness_endSessionRemovesIt :
  ∃ (s : State) (sid : Nat) (x : Session),
  (findSession s.sessions sid = some x) ∧
  (s.audit.writable = true) ∧
  (∀ o ∈ s.sessions.ops, o.sid = sid → opFinal o.state = true) :=
  ⟨withUser (user 3) (withOp (opOf 0x0403 4 []) up), 9, user 3, by decide +kernel, by decide +kernel, by decide +kernel⟩

theorem witness_preemptionHold :
  ∃ (s : State) (sid h unit : Nat) (p : Op),
  (findOp s.sessions sid h = some p) ∧
  (isPreemptor s p 7 unit = true) ∧
  (unitBusy s 7 unit = false) ∧
  (s.sessions.ops.any (isVictim s p unit) = true) :=
  ⟨{ up with sessions := { up.sessions with ops := [waitingExport, runningExport] } }, 9, 1, 0, waitingExport, by decide +kernel⟩

theorem witness_preemptionRelease :
  ∃ (s : State) (sid h kind unit : Nat),
  (preemptorDone s sid h = true) :=
  ⟨withOp { waitingExport with state := 4 } up, 9, 1, 7, 0, by decide +kernel⟩

theorem witness_ycpDatagramRefused :
  ∃ (s : State) (r : RawDatagram),
  (ready s = true) ∧
  (r.dstUdp = s.settings.ycpUdp) ∧
  (r.sumOk = false ∨ r.udpLen < 48 ∨ 1432 < r.udpLen ∨ r.magic ≠ 0x4359 ∨ r.hlen ≠ 32 ∨ r.resp = true ∨
    r.d.plen + 48 ≠ r.udpLen) :=
  ⟨up, { raw (user 3) 0x0004 [] with sumOk := false }, by decide +kernel⟩

theorem witness_ycpDatagramRefused2 :
  ∃ (s : State) (r : RawDatagram) (x : Session),
  (ready s = true) ∧
  (r.dstUdp = s.settings.ycpUdp) ∧
  (r.sumOk = true) ∧
  (48 ≤ r.udpLen) ∧
  (r.udpLen ≤ 1432) ∧
  (r.magic = 0x4359) ∧
  (r.hlen = 32) ∧
  (r.resp = false) ∧
  (r.d.plen + 48 = r.udpLen) ∧
  (r.opcode ≠ 0x0001) ∧
  (r.opcode ≠ 0x0002) ∧
  (findSession s.sessions r.d.sid = some x) ∧
  (r.d.tag = cmdTag x.kHm r.d r.opcode) ∧
  (r.d.major = x.major) ∧
  (r.d.minor = x.minor) ∧
  (r.d.srcIp = x.ip) ∧
  (r.d.srcUdp = x.udp) ∧
  (seqClass x r.d.seq = 1) ∧
  (formCheck x r.d r.opcode ≠ 0) :=
  ⟨withUser (user 1) up, raw (user 1) 0x0B02 [], user 1, by decide +kernel, by decide +kernel, by decide +kernel, by decide +kernel,
    by decide +kernel, by decide +kernel, by decide +kernel, by decide +kernel, by decide +kernel, by decide +kernel, by decide +kernel,
    by decide +kernel, dgm_tag _ _ _, by decide +kernel⟩

theorem witness_rdmaWrite :
  ∃ (s : State) (port : Nat) (r : RdmaReq) (q : Qp) (x : Session) (ps : List (Nat × Nat × Nat)),
  (ready s = true) ∧
  (r.icrcOk = true) ∧
  (findQp s.host r.qpn = some q) ∧
  (q.port = port) ∧
  (q.failed = false) ∧
  (r.inSubset = true) ∧
  (r.ce = false) ∧
  (r.psn = q.recvPsn) ∧
  (r.psn < 2 ^ 24) ∧
  (findSession s.sessions q.sid = some x) ∧
  (keyPieces s x r true = .ok ps) :=
  ⟨(withUser windowUser (withPair { pair with recvPsn := 2 ^ 24 - 1 } up)), 0, rdmaReq (2 ^ 24 - 1) 4 [1, 2, 3, 4], { pair with recvPsn := 2 ^ 24 - 1 }, windowUser, [(1, 4092, 4)], by decide +kernel⟩

theorem witness_rdmaRead :
  ∃ (s : State) (port : Nat) (r : RdmaReq) (q : Qp) (x : Session) (ps : List (Nat × Nat × Nat)) (data : List Byte),
  (ready s = true) ∧
  (r.icrcOk = true) ∧
  (findQp s.host r.qpn = some q) ∧
  (q.port = port) ∧
  (q.failed = false) ∧
  (r.inSubset = true) ∧
  (r.ce = false) ∧
  (r.psn = q.recvPsn) ∧
  (r.psn < 2 ^ 24) ∧
  (findSession s.sessions q.sid = some x) ∧
  (keyPieces s x r false = .ok ps) ∧
  (readPieces s.memory ps = .ok data) :=
  ⟨(withUser regionUser (withPair { pair with recvPsn := 2 ^ 24 - 1 } (withImage kvImage up))), 0, rdmaReq (2 ^ 24 - 1) 4 [], { pair with recvPsn := 2 ^ 24 - 1 }, regionUser, [(1, 4092, 4)], [0, 0, 0, 0], by decide +kernel⟩

theorem witness_roceAckTimeout :
  ∃ (s : State) (qpn : Nat) (q : Qp),
  (findQp s.host qpn = some q) ∧
  (q.inFlight ≠ []) ∧
  (q.failed = false) ∧
  (q.retries < q.retry) :=
  ⟨withPair { pair with inFlight := [(0, 4, 0, [1])] } up, 5, { pair with inFlight := [(0, 4, 0, [1])] }, by decide +kernel⟩

theorem witness_resend_held :
    ∃ (s : State) (q : Qp) (p : HostPort), s.host.ports[q.port]? = some p ∧ p.paused ≠ [] :=
  ⟨pausedPort, pair, { HostPort.reset with paused := [(3, 7)] }, by decide +kernel⟩

theorem witness_resend_sent : ∃ (s : State) (q : Qp), (s.host.ports[q.port]?.map (·.paused)).getD [] = [] := ⟨up, pair, by decide +kernel⟩

theorem witness_pfcPause : ∃ (s : State) (port priority quanta : Nat) (h : HostPort), s.host.ports[port]? = some h ∧ 1 ≤ quanta :=
  ⟨up, 1, 7, 1, HostPort.reset, by decide +kernel⟩

theorem witness_pfcResume :
    ∃ (s : State) (port priority : Nat) (h : HostPort) (t : Nat), s.host.ports[port]? = some h ∧ h.paused = [(priority, t)] :=
  ⟨pausedPort, 0, 3, { HostPort.reset with paused := [(3, 7)] }, 7, by decide +kernel⟩

theorem witness_roceAcknowledge :
  ∃ (s : State) (qpn psn syn : Nat) (q : Qp),
  (findQp s.host qpn = some q) ∧
  (syn < 0x20) :=
  ⟨withPair { pair with inFlight := [(0, 4, 0, [1])] } up, 5, 0, 0x1F, { pair with inFlight := [(0, 4, 0, [1])] }, by decide +kernel⟩

theorem witness_cnp :
  ∃ (s : State) (qpn : Nat) (q : Qp),
  (findQp s.host qpn = some q) :=
  ⟨withPair pair up, 5, pair, by decide +kernel⟩

theorem witness_arpRequest :
  ∃ (s : State) (port ip senderIp senderMac : Nat),
  (ready s = true) ∧
  (portUp s port = true) ∧
  (bitAt (portCfg s port) 3 = true) ∧
  (ip = bits (portCfg s port) 64 32) :=
  ⟨withPort up, 0, 9, 1, 2, by decide +kernel⟩

theorem witness_arpRequest2 :
    ∃ (s : State) (port ip senderIp senderMac : Nat), ready s = true ∧ portUp s port = true ∧ ip ≠ bits (portCfg s port) 64 32 :=
  ⟨withPort up, 0, 8, 1, 2, by decide +kernel⟩

theorem witness_neighbourSolicitation :
  ∃ (s : State) (port ip senderIp senderMac : Nat),
  (ready s = true) ∧
  (portUp s port = true) ∧
  (portAddrs s port).contains ip = true :=
  ⟨withPort up, 0, linkLocal (portMac up 0), 1, 2, by decide +kernel⟩

theorem witness_echoRequest :
  ∃ (s : State) (port srcIp dstIp ident seqNo : Nat) (data : List Byte),
  (ready s = true) ∧
  (portUp s port = true) ∧
  (portAddrs s port).contains dstIp = true :=
  ⟨withPort up, 0, 1, mapped4 9, 2, 3, [], by decide +kernel⟩

theorem witness_dwellExpiry :
  ∃ (s : State),
  (ready s = true) ∧
  (s.power.ps = 0) ∧
  (moduleIdle s = true) ∧
  (s.power.idleSince + 1000 * s.power.dwellUs ≤ nowNs s) ∧
  (selectState s ≠ 0) :=
  ⟨atNs 1000000 { up with power := { up.power with tolNs := 320 } }, by decide +kernel⟩

theorem witness_wakeEvent :
  ∃ (s : State) (source : Nat),
  (ready s = true) ∧
  (1 ≤ source) ∧
  (source ≤ 7) ∧
  (s.power.ps ≠ 0) :=
  ⟨{ up with power := { up.power with ps := 2 } }, 7, by decide +kernel⟩

theorem witness_caravanWakeLead :
  ∃ (s : State) (d : Nat),
  (nextDeparture s = some d) ∧
  (s.power.ps ≠ 0) ∧
  (d ≤ (nowNs s + 3264) * 65536) :=
  ⟨departing { up with power := { up.power with ps := 1 } }, 1000 * 65536, by decide +kernel⟩

theorem witness_wakeHoldExpiry :
  ∃ (s : State) (t : Nat),
  (s.power.holdEnd = some t) ∧
  (t ≤ nowNs s) :=
  ⟨atNs 4 { up with power := { up.power with holdEnd := some 4 } }, 4, by decide +kernel⟩

theorem witness_powerCapEval :
  ∃ (s : State) (r : Sensors),
  (ready s = true) ∧
  (effectiveCap s.power.capW r.inletC < r.powerW) ∧
  (r.warnAny = false) :=
  ⟨up, sensors 3501 45, by decide +kernel⟩

theorem witness_voltageSettled :
  ∃ (s : State) (die mv : Nat),
  (die < 2) ∧
  (s.power.toCompat = none) ∧
  (mv ≤ voltOf s die (dieTarget s.power die) + 5) ∧
  (voltOf s die (dieTarget s.power die) ≤ mv + 5) :=
  ⟨up, 1, voltOf up 1 (dieTarget up.power 1) + 5, by decide +kernel⟩

theorem witness_avsTimeout :
  ∃ (s : State) (die : Nat),
  (die < 2) ∧
  (s.power.compat = true) ∧
  (diePoint s.power die < dieTarget s.power die) :=
  ⟨{ up with power := { up.power with compat := true, pointE := 3 } }, 1, by decide +kernel⟩

theorem witness_avsRetry :
  ∃ (s : State) (die : Nat),
  (s.power.avsWait.contains die = true) :=
  ⟨{ up with power := { up.power with avsWait := [1] } }, 1, by decide +kernel⟩

theorem witness_pmbAlert :
  ∃ (s : State) (die status : Nat),
  (die < 2) ∧
  (s.power.compat = true) :=
  ⟨{ up with power := { up.power with compat := true } }, 0, 0xFF, by decide +kernel⟩

theorem witness_reducedCap :
  ∃ (s : State) (mv ma : Nat),
  (ready s = true) ∧
  (48000 ≤ mv) :=
  ⟨up, 48000, 0, by decide +kernel⟩

theorem witness_thermalWarning :
  ∃ (s : State) (kind index tempC : Nat),
  (ready s = true) ∧
  (warnTemp kind < tempC) :=
  ⟨up, 3, 7, 66, by decide +kernel⟩

theorem witness_thermalRelease :
  ∃ (s : State),
  (s.power.thermal = true) :=
  ⟨{ up with power := { up.power with thermal := true } }, by decide +kernel⟩

theorem witness_drain :
  ∃ (s : State) (me : Nat) (p : LivePass) (e : Env),
  (meOf s me).live = some p ∧
  (envOf s = some e) ∧
  partFault e (tOp p.entry) = none :=
  ⟨drainState, 0, livePass, mmEnv 1 2 1, by decide +kernel⟩

theorem witness_drain2 :
    ∃ (s : State) (e : Env) (us : List UBuf) (ent : Nat) (p : LivePass), let o := tOp ent
      mTiles o ≠ [] ∧ isDepthTwin e o = false ∧ mLast o = true ∧ mAmaxOnly o = false ∧ isFold e o = false :=
  ⟨drainState, mmEnv 1 2 1, [], mmEnt 1 2 1, livePass, by decide +kernel⟩

theorem witness_chain :
  ∃ (s : State) (ve qi i ent : Nat) (e : Env) (ins : List (List FV)),
  (headOfClass s 2 ve 0x10 (fun x => x == 0x10) = some (qi, i, ent)) ∧
  (envOf s = some e) ∧
  (∀ j < 3, vIn (tOp ent) j = 0 ∨ gateOf s e (vIn (tOp ent) j) (chainIdxs (tOp ent)) = 0) ∧
  let o := tOp ent
  let s1 := takeScales [vOut o, vRed o] (issue 2 ve qi i ent s)
  let e1 := envAfter e s1
  (allStreams e1 o (chainIdxs o) [0, 1, 2] = .ok ins) :=
  ⟨chainState, 0, 0, 0, chainEnt, chainEnv, okOr [] (allStreams chainEnv (tOp chainEnt) (chainIdxs (tOp chainEnt)) [0, 1, 2]), by decide +kernel⟩

theorem witness_lend :
  ∃ (s : State) (kind unit qi i ent : Nat),
  (headOfClass s kind unit 0x70 (fun _ => true) = some (qi, i, ent)) ∧
  (kind = 1 ∨ kind = 2) :=
  ⟨unitState 2 lendEnt, 2, 0, 0, 0, lendEnt, by decide +kernel⟩

theorem witness_core :
  ∃ (s : State) (gc ht qi i ent : Nat),
  (headOfClass s 3 gc 0x20 (fun _ => true) = some (qi, i, ent)) ∧
  (List.range 8).find? (fun ht => (spGet? (htKey gc ht) s.run.threads).isNone) = some ht :=
  ⟨unitState 3 coreEnt, 0, 0, 0, 0, coreEnt, by decide +kernel⟩

theorem witness_ttFence :
  ∃ (s : State) (gc ht : Nat) (h : HThread),
  (htRuns s gc ht = some h) :=
  ⟨hartState (hart 0 0 0), 0, 7, hart 0 0 0, by decide +kernel⟩

theorem witness_ctrWait :
  ∃ (s : State) (gc ht rs1 rs2 : Nat) (h : HThread),
  (htRuns s gc ht = some h) :=
  ⟨hartState (hart 65534 0 0), 0, 7, 1, 2, hart 65534 0 0, by decide +kernel⟩

theorem witness_ctrWaitEnd :
  ∃ (s : State) (gc ht c v : Nat) (h : HThread),
  (spGet? (htKey gc ht) s.run.threads = some h) ∧
  (h.waitCtr = some (c, v)) ∧
  (s.run.active = true) ∧
  (v ≤ ctrAt s c) :=
  ⟨addCtr 65534 1 (hartState { hart 0 0 0 with waitCtr := some (65534, 1) }), 0, 7, 65534, 1, { hart 0 0 0 with waitCtr := some (65534, 1) }, by decide +kernel⟩

theorem witness_carWait :
  ∃ (s : State) (gc ht rs1 rd : Nat) (h : HThread),
  (htRuns s gc ht = some h) :=
  ⟨hartState (hart 0 0 0), 0, 7, 1, 2, hart 0 0 0, by decide +kernel⟩

theorem witness_carWaitEnd :
  ∃ (s : State) (gc ht k rd t : Nat) (h : HThread),
  (spGet? (htKey gc ht) s.run.threads = some h) ∧
  (h.waitCar = some (k, rd)) ∧
  (s.run.active = true) ∧
  (departedAt s k = some t) :=
  ⟨departed 3 0 9 (hartState { hart 0 0 0 with waitCar := some (3, 2) }), 0, 7, 3, 2, 9, { hart 0 0 0 with waitCar := some (3, 2) }, by decide +kernel⟩

theorem witness_descXlt :
  ∃ (s : State) (gc ht rs1 rs2 rd : Nat) (h : HThread) (e : Env),
  (htRuns s gc ht = some h) ∧
  (envOf s = some e) :=
  ⟨hartState (hart 1 0 0), 0, 7, 1, 2, 3, hart 1 0 0, hartEnv (hart 1 0 0), by decide +kernel⟩

theorem witness_amoaddW :
  ∃ (s : State) (gc ht rs1 rs2 rd r : Nat) (h : HThread) (l : List Byte),
  (htRuns s gc ht = some h) ∧
  (regionAt (regionsOf s) (xReg h rs1) = some r) ∧
  (xReg h rs1 % 4 = 0) ∧
  (rgRights r &&& 3 = 3) ∧
  (rgTier r ≠ 3) ∧
  (vaRead s.memory (regionsOf s) 3 (xReg h rs1) 4 = .ok l) :=
  ⟨hartState (hart 1048572 1 0), 0, 7, 1, 2, 3, plainRegion, hart 1048572 1 0, [0, 0, 0, 0], by decide +kernel⟩

theorem witness_amoaddW2 :
  ∃ (s : State) (gc ht rs1 rs2 rd r c : Nat) (h : HThread),
  (htRuns s gc ht = some h) ∧
  (regionAt (regionsOf s) (xReg h rs1) = some r) ∧
  (xReg h rs1 % 4 = 0) ∧
  (rgRights r &&& 3 = 3) ∧
  (rgTier r = 3) ∧
  (c = (rgPbase r + (xReg h rs1 - rgBase r)) / 4) ∧
  (c < 65535) ∧
  ((spGet? c h.adds).isSome = true ∨ h.adds.length < 4) :=
  ⟨hartState (hart 0x10FFF8 1 0), 0, 7, 1, 2, 3, pack [(0, 48, 0x100000), (64, 32, 1), (96, 3, 3), (99, 5, 3)], 16382, hart 0x10FFF8 1 0, by decide +kernel⟩

theorem witness_ecall :
  ∃ (s : State) (gc ht : Nat) (h : HThread) (e : Env) (i : InFlight),
  (htRuns s gc ht = some h) ∧
  (envOf s = some e) ∧
  (xReg h 17 = 0) ∧
  (findFlight s h.thread = some i) :=
  ⟨hartState (hart 0 0 0), 0, 7, hart 0 0 0, hartEnv (hart 0 0 0), flight 3 0 0 coreEnt, by decide +kernel⟩

theorem witness_attFwd :
  ∃ (s : State) (as qi i ent : Nat) (e : Env) (b : Batch) (p : Pool) (q : KvSeq) (qs : Sp QRow) (w : WalkOut),
  (headOfClass s 4 as 0x30 (fun x => x == 0x30) = some (qi, i, ent)) ∧
  (envOf s = some e) ∧
  (lendsReady s as (tOp ent) (tThread ent) = true) ∧
  let o := tOp ent
  let t := tThread ent
  let s1 := takeScales [aOut o] (issue 4 as qi i ent s)
  let e1 := envAfter e s1
  (batchOf e1 o = .ok b) ∧
  (parentsBad b = false) ∧
  let vs := (validRows o b).filter ((blockRows e1 o b).contains ·)
  let r := p.record
  let st := aStream r o
  let fc := cisHead s1 r b.seq st
  let pages := streamPages q st
  (vs = []) :=
  ⟨attState 0x30 2 64 0, 0, 0, 0, attEnt 0x30, attEnv 0x30 2 64 0, theBatch 0, thePool, { theSeq with leaves := [] }, [], { rows := [], recs := [] }, by decide +kernel⟩

theorem witness_attFwd2 :
  ∃ (s : State) (as qi i ent : Nat) (e : Env) (b : Batch) (p : Pool) (q : KvSeq) (qs : Sp QRow) (w : WalkOut),
  (headOfClass s 4 as 0x30 (fun x => x == 0x30) = some (qi, i, ent)) ∧
  (envOf s = some e) ∧
  (lendsReady s as (tOp ent) (tThread ent) = true) ∧
  let o := tOp ent
  let t := tThread ent
  let s1 := takeScales [aOut o] (issue 4 as qi i ent s)
  let e1 := envAfter e s1
  (batchOf e1 o = .ok b) ∧
  (parentsBad b = false) ∧
  let vs := (validRows o b).filter ((blockRows e1 o b).contains ·)
  let r := p.record
  let st := aStream r o
  let fc := cisHead s1 r b.seq st
  let pages := streamPages q st
  (vs ≠ []) ∧
  (kvTarget s1 o b.seq = some (p, q)) ∧
  (st < pStreams r) ∧
  (lastDim (descOf e1.im (aQ o)) = pD r) ∧
  (aScore o = true → 1024 * q.leaves.length + 1024 ≤ occupied e1 (descOf e1.im (aAux o))) ∧
  (headFault s1 r b.seq [st] = none) ∧
  (readQs e1 r (aQ o) (aQHead o) b.row0 vs = .ok qs) ∧
  (walkBlocks e1 r o b.seq fc.1 pages.length b (operT e1 (aQ o)) qs (keyBlocks pages fc.1 fc.2 b.parents)
    { rows := vs.map (fun i => (i, RowState.start (pD r))), recs := [] } = .ok w) :=
  ⟨attState 0x30 2 64 1, 0, 0, 0, attEnt 0x30, attEnv 0x30 2 64 1, theBatch 1, thePool, { theSeq with leaves := [] }, okOr [] (readQs (attEnv 0x30 2 64 1) poolRecord 2 0 0 [0]), { rows := [(0, RowState.start 32)], recs := [] },
    by decide +kernel, by decide +kernel, by decide +kernel, by decide +kernel, by decide +kernel, by decide +kernel, by decide +kernel,
    by decide +kernel, by decide +kernel, by decide +kernel, by decide +kernel, by decide +kernel, rfl⟩

theorem witness_attBwd :
  ∃ (s : State) (as qi i ent : Nat) (e : Env) (b : Batch) (p : Pool) (q : KvSeq) (rows : Sp BRow) (dq : Sp (List FV))
    (ad : List (Nat × Nat)),
  (headOfClass s 4 as 0x30 (fun x => x == 0x31) = some (qi, i, ent)) ∧
  (envOf s = some e) ∧
  (lendsReady s as (tOp ent) (tThread ent) = true) ∧
  let o := tOp ent
  let t := tThread ent
  let s1 := takeScales [aOut o] (issue 4 as qi i ent s)
  let e1 := envAfter e s1
  (batchOf e1 o = .ok b) ∧
  (parentsBad b = false) ∧
  let vs := (validRows o b).filter ((blockRows e1 o b).contains ·)
  let r := p.record
  let st := aStream r o
  let fc := cisHead s1 r b.seq st
  let pages := streamPages q st
  (vs = []) :=
  ⟨attState 0x31 2 32 0, 0, 0, 0, attEnt 0x31, attEnv 0x31 2 32 0, theBatch 0, thePool, { theSeq with leaves := [] }, [], [], [], by decide +kernel⟩

theorem witness_attBwd2 :
  ∃ (s : State) (as qi i ent : Nat) (e : Env) (b : Batch) (p : Pool) (q : KvSeq) (rows : Sp BRow) (dq : Sp (List FV))
    (ad : List (Nat × Nat)),
  (headOfClass s 4 as 0x30 (fun x => x == 0x31) = some (qi, i, ent)) ∧
  (envOf s = some e) ∧
  (lendsReady s as (tOp ent) (tThread ent) = true) ∧
  let o := tOp ent
  let t := tThread ent
  let s1 := takeScales [aOut o] (issue 4 as qi i ent s)
  let e1 := envAfter e s1
  (batchOf e1 o = .ok b) ∧
  (parentsBad b = false) ∧
  let vs := (validRows o b).filter ((blockRows e1 o b).contains ·)
  let r := p.record
  let st := aStream r o
  let fc := cisHead s1 r b.seq st
  let pages := streamPages q st
  (vs ≠ []) ∧
  (kvTarget s1 o b.seq = some (p, q)) ∧
  (st < pStreams r) ∧
  (lastDim (descOf e1.im (aQ o)) = pD r) ∧
  (isS4 r = false) ∧
  (headFault s1 r b.seq [st] = none) ∧
  (readBRows e1 r o b.row0 vs = .ok rows) ∧
  (bwdWalk e1 r o (tMicro ent) b pages.length fc.1 rows (keyBlocks pages fc.1 fc.2 b.parents)
    (vs.map (fun i => (i, List.replicate (pD r) FV.zero))) [] = .ok (dq, ad)) :=
  ⟨attState 0x31 2 32 1, 0, 0, 0, attEnt 0x31, attEnv 0x31 2 32 1, theBatch 1, thePool, { theSeq with leaves := [] }, okOr [] (readBRows (attEnv 0x31 2 32 1) poolRecord (tOp (attEnt 0x31)) 0 [0]), [(0, List.replicate 32 FV.zero)], [], by decide +kernel⟩

theorem witness_attAppend :
  ∃ (s : State) (as qi i ent : Nat) (e : Env) (b : Batch) (p : Pool) (q : KvSeq) (rows : List (List Byte)),
  (headOfClass s 4 as 0x30 (fun x => x == 0x32) = some (qi, i, ent)) ∧
  (envOf s = some e) ∧
  let o := tOp ent
  let t := tThread ent
  let s1 := issue 4 as qi i ent s
  let e1 := envAfter e s1
  (batchOf e1 o = .ok b) ∧
  (parentsBad b = false) ∧
  (validRows o b ≠ []) ∧
  (kvHeadFault s1 o b false = none) ∧
  (appendCode s1 e1 o b (validRows o b).length = 0) ∧
  (kvTarget s1 o b.seq = some (p, q)) ∧
  (appendRows e1 p.record o ((validRows o b).map (b.row0 + ·)) = .ok rows) :=
  ⟨attState 0x32 2 32 1, 0, 0, 0, attEnt 0x32, attEnv 0x32 2 32 1, theBatch 1, thePool, { theSeq with leaves := [] }, okOr [] (appendRows (attEnv 0x32 2 32 1) poolRecord (tOp (attEnt 0x32)) [0]), by decide +kernel⟩

theorem witness_attCommit :
  ∃ (s : State) (as qi i ent : Nat) (e : Env) (b : Batch) (l : List (Option (Nat × Nat × Nat))),
  (headOfClass s 4 as 0x30 (fun x => x == 0x33) = some (qi, i, ent)) ∧
  (envOf s = some e) ∧
  let o := tOp ent
  let t := tThread ent
  let s1 := issue 4 as qi i ent s
  let e1 := envAfter e s1
  (batchOf e1 o = .ok b) ∧
  (readAll (rawAt e1 (aAux o)) ((List.range 17).map (17 * b.idx + ·)) = .ok l) ∧
  let v := l.map (fun x => match x with
    | some (_, _, raw) => raw % 256
    | none => 0)
  let acc := (v.drop 1).take (v.headD 0)
  (kvHeadFault s1 o b true = none) ∧
  (commitCode s1 o b (v.headD 0) acc = 0) :=
  ⟨attState 0x33 6 17 0, 0, 0, 0, attEnt 0x33, attEnv 0x33 6 17 0, theBatch 0, okOr [] (readAll (rawAt (attEnv 0x33 6 17 0) 5) (List.range 17)), by decide +kernel⟩

theorem witness_flush :
  ∃ (s t : State) (seq stream : Nat) (w : KvWait) (q : KvSeq) (p : Pool),
  let s1 := settleFrees s
  (s1.kv.waiting.find? (fun w => w.seq == seq && w.stream == stream) = some w) ∧
  (seqOf s1 seq = some q) ∧
  (poolOf s1 q.pool = some p) ∧
  (wantsFlush s1 p.record w = true) ∧
  (cisPinned s1 seq stream = false) ∧
  (flushCistern seq stream s1 = .ok t) :=
  ⟨fullState, valueOr up (flushCistern 3 0 (settleFrees fullState)), 3, 0, fullWait, theSeq, thePool,
    by decide +kernel, by decide +kernel, by decide +kernel, by decide +kernel, by decide +kernel, ok_valueOr _ _ (by decide +kernel)⟩

theorem witness_pass_waiting :
    ∀ op : Nat, op = 0x40 ∨ op = 0x41 → ∃ (s : State) (uu : Nat) (i : InFlight) (e : Env), let s0 := localSums s
      envOf s0 = some e ∧ nextPass s0 uu = some i ∧ uOp (tOp i.entry) = op ∧ passReady s0 e i.thread (tOp i.entry) = true ∧
      runGoes s0 = true ∧ unitHeld s0 5 uu = false :=
  by
  rintro op (rfl | rfl)
  · exact ⟨updWaits 0x40 false, 0, updFlight 0x40 false, updEnv 0x40, by decide +kernel⟩
  · exact ⟨updWaits 0x41 false, 0, updFlight 0x41 false, updEnv 0x41, by decide +kernel⟩

theorem no_pass (s : State) (uu : Nat) (h : nextPass s uu = none) {P : InFlight → Prop} : ∀ j, nextPass s uu = some j → P j := by
  simp [h]

theorem witness_pass_at_head :
    ∀ op : Nat, op = 0x40 ∨ op = 0x41 → ∃ (s : State) (uu qi i ent : Nat) (e : Env), let s0 := localSums s
      envOf s0 = some e ∧ (∀ j, nextPass s0 uu = some j → uOp (tOp j.entry) ≠ op ∨ passReady s0 e j.thread (tOp j.entry) = false) ∧
      headOfClass s0 5 uu 0x40 (fun x => x == op) = some (qi, i, ent) :=
  by
  rintro op (rfl | rfl)
  · exact ⟨updState 0x40, 0, 0, 0, updEnt 0x40, updEnv 0x40, by decide +kernel, no_pass _ _ (by decide +kernel), by decide +kernel⟩
  · exact ⟨updState 0x41, 0, 0, 0, updEnt 0x41, updEnv 0x41, by decide +kernel, no_pass _ _ (by decide +kernel), by decide +kernel⟩

theorem witness_repeatedElementPasses :
  ∃ (s : State) (uu : Nat) (x : InFlight) (e : Env),
  let s0 := localSums s
  (envOf s0 = some e) ∧
  (lastEntry s0 uu = some x) ∧
  (stepClips s0 e.im = true) ∧
  (s0.update.repeats.contains uu = false) ∧
  (runGoes s0 = true) ∧
  (flightOf s0 5 uu).all (·.done) = true :=
  ⟨clipState, 0, updFlight 0x40 true, envOfImage { unitImage 5 (updEnt 0x40) with groupHead := pack [(48, 2, 2)] } clipState, by decide +kernel⟩

theorem witness_updateCommandsComplete :
  ∃ (s : State) (uu t o : Nat) (e : Env) (l : List (Nat × Stored)),
  (uOp o = 0x40) ∧
  let s1 := takeScales [uPub o] s
  let e1 := envAfter e s1
  (elementPassOut s1 e1 o (passClip s1 e1.im false (uGroup o)) = .ok l) :=
  ⟨updWaits 0x40 false, 0, 1, tOp (updEnt 0x40), updEnv 0x40, okOr [] (elementPassOut (updWaits 0x40 false) (updEnv 0x40) (tOp (updEnt 0x40)) FV.one), by decide +kernel⟩

theorem witness_updateCommandsComplete2 :
  ∃ (s : State) (uu t o : Nat) (e : Env) (l : List (Nat × Stored)),
  (uOp o = 0x41) ∧
  let s1 := keepFactors e o s
  let e1 := envAfter e s1
  (factorPassOut e1 o (factorsNow e1 o) (passClip s1 e1.im false (uGroup o)) = .ok l) :=
  ⟨updWaits 0x41 false, 0, 1, tOp (updEnt 0x41), updEnv 0x41,
    okOr [] (factorPassOut (updEnv 0x41) (tOp (updEnt 0x41)) (factorsNow (updEnv 0x41) (tOp (updEnt 0x41))) FV.one), by decide +kernel⟩

theorem witness_stemEmbed :
  ∃ (s : State) (st qi i ent bad : Nat) (e : Env) (ns em bias : List FV),
  (headOfClass s 6 st 0x50 (fun x => x == 0x50) = some (qi, i, ent)) ∧
  (envOf s = some e) ∧
  (gateOf s e (sE (tOp ent)) (List.range (elemCount (descOf e.im (sE (tOp ent))))) = 0) ∧
  (sBias (tOp ent) = 0 ∨ gateOf s e (sBias (tOp ent)) (List.range (elemCount (descOf e.im (sBias (tOp ent))))) = 0) ∧
  sE (tOp ent) ≠ 0 ∧
  let o := tOp ent
  let s1 := takeScales [sY o] (issue 6 st qi i ent s)
  let e1 := envAfter e s1
  (allSamples e1 o = .ok (ns, bad)) ∧
  (readTensor e1 (sE o) = .ok em) ∧
  (sBias o = 0 ∧ bias = [] ∨ sBias o ≠ 0 ∧ readTensor e1 (sBias o) = .ok bias) :=
  ⟨unitState 6 (stemEnt 0x50), 0, 0, 0, stemEnt 0x50, 0, (unitEnv 6 (stemEnt 0x50)), (okOr ([], 0) (allSamples (unitEnv 6 (stemEnt 0x50)) (tOp (stemEnt 0x50)))).1, okOr [] (readTensor (unitEnv 6 (stemEnt 0x50)) 1), okOr [] (readTensor (unitEnv 6 (stemEnt 0x50)) 3), by decide +kernel⟩

theorem witness_stemWeightGradient :
  ∃ (s : State) (st qi i ent bad : Nat) (e : Env) (ns dy : List FV),
  (headOfClass s 6 st 0x50 (fun x => x == 0x51) = some (qi, i, ent)) ∧
  (envOf s = some e) ∧
  let o := tOp ent
  let s1 := issue 6 st qi i ent s
  let e1 := envAfter e s1
  (allSamples e1 o = .ok (ns, bad)) ∧
  (readTensor e1 (sY o) = .ok dy) :=
  ⟨unitState 6 (stemEnt 0x51), 0, 0, 0, stemEnt 0x51, 0, (unitEnv 6 (stemEnt 0x51)), (okOr ([], 0) (allSamples (unitEnv 6 (stemEnt 0x51)) (tOp (stemEnt 0x51)))).1, okOr [] (readTensor (unitEnv 6 (stemEnt 0x51)) 2), by decide +kernel⟩

theorem witness_copy :
  ∃ (s : State) (xe qi i ent : Nat) (e : Env) (st : Stored),
  (xferHead s xe 0x60 = some (qi, i, ent)) ∧
  (envOf s = some e) ∧
  let o := tOp ent
  let idxs := List.range (elemCount (descOf e.im (xSrc o)))
  (gateOf s e (xSrc o) idxs = 0) ∧
  let s1 := (if copiesBytes e (xSrc o) (xDst o) then id else takeScales [xDst o]) (issue 7 xe qi i ent s)
  let e1 := envAfter e s1
  (copyOut s1 e1 (xSrc o) (xDst o) (xStage o) (storeHalf e1 (xDst o)) (tMicro ent) = .ok st) :=
  ⟨unitState 7 (xferEnt 0x60 [(32, 24, 1), (56, 24, 2)]), 0, 0, 0, xferEnt 0x60 [(32, 24, 1), (56, 24, 2)], unitEnv 7 (xferEnt 0x60 [(32, 24, 1), (56, 24, 2)]), valueOr3 (copyOut (unitState 7 (xferEnt 0x60 [(32, 24, 1), (56, 24, 2)])) (unitEnv 7 (xferEnt 0x60 [(32, 24, 1), (56, 24, 2)])) 1 2 0 0 0), by decide +kernel⟩

theorem witness_spill :
  ∃ (s : State) (xe qi i ent : Nat) (w : WgbSlot),
  (xferHead s xe 0x61 = some (qi, i, ent)) ∧
  (slotOf s (xMe (tOp ent)) (xSlot (tOp ent)) = some w) ∧
  (w.st = 1) :=
  ⟨withSlot (slotIn 1) (unitState 7 (xferEnt 0x61 [(133, 10, 613), (144, 48, 65536)])), 0, 0, 0, xferEnt 0x61 [(133, 10, 613), (144, 48, 65536)], slotIn 1, by decide +kernel⟩

theorem witness_fill :
  ∃ (s : State) (xe qi i ent : Nat) (e : Env) (w : WgbSlot) (l : List Byte),
  (xferHead s xe 0x62 = some (qi, i, ent)) ∧
  (envOf s = some e) ∧
  (slotOf s (xMe (tOp ent)) (xSlot (tOp ent)) = some w) ∧
  (w.st = 5) ∧
  (vaRead e.mem e.im.regions 1 (xSpill (tOp ent)) 20488 = .ok l) :=
  ⟨withSlot (slotIn 5) (unitState 7 (xferEnt 0x62 [(133, 10, 613), (144, 48, 65536)])), 0, 0, 0, xferEnt 0x62 [(133, 10, 613), (144, 48, 65536)], unitEnv 7 (xferEnt 0x62 [(133, 10, 613), (144, 48, 65536)]), slotIn 5,
    valueOr [] (vaRead (unitEnv 7 (xferEnt 0x62 [(133, 10, 613), (144, 48, 65536)])).mem (unitEnv 7 (xferEnt 0x62 [(133, 10, 613), (144, 48, 65536)])).im.regions 1 (xSpill (tOp (xferEnt 0x62 [(133, 10, 613), (144, 48, 65536)]))) 20488),
    by decide +kernel, by decide +kernel, by decide +kernel, by decide +kernel, ok_valueOr _ _ (by decide +kernel)⟩

theorem witness_zero :
  ∃ (s : State) (xe qi i ent : Nat) (e : Env) (ws : List Write),
  (xferHead s xe 0x63 = some (qi, i, ent)) ∧
  (envOf s = some e) ∧
  (scatterTwice e (xDst (tOp ent)) = false) ∧
  (zeroOut e (xDst (tOp ent)) (storeHalf e (xDst (tOp ent))) = .ok ws) :=
  ⟨unitState 7 (xferEnt 0x63 [(56, 24, 2)]), 0, 0, 0, xferEnt 0x63 [(56, 24, 2)], unitEnv 7 (xferEnt 0x63 [(56, 24, 2)]), okOr [] (zeroOut (unitEnv 7 (xferEnt 0x63 [(56, 24, 2)])) 2 0), by decide +kernel⟩

theorem witness_tileThreadCommit :
  ∃ (s : State) (thread : Nat) (e : Env) (i : InFlight),
  let s0 := localSums s
  (envOf s0 = some e) ∧
  (findFlight s0 thread = some i) ∧
  (mayCommit s0 e.im i = true) ∧
  (i.fail = 0) ∧
  let s1 := if i.kind = 4 then landCistern i e s0 else s0
  (s1.run.active = true) ∧
  (s1.kv.waiting.all (fun w => w.thread != i.thread) = true) ∧
  (i.wgb.all (fun a => wgbMeets s1 e.im a == 0) = true) :=
  ⟨updWaits 0x40 true, 1, updEnv 0x40, updFlight 0x40 true, by decide +kernel⟩

theorem witness_deadlockDetected :
  ∃ (s : State) (e : Env),
  (envOf s = some e) ∧
  (runGoes s = true) ∧
  (s.run.inflight = []) ∧
  (openQueues s e.im ≠ []) ∧
  (∀ q ∈ openQueues s e.im, ∃ ent, q.2 = some ent ∧ waitsMet s q.1.kind ent = false) ∧
  (s.reductions.past = []) ∧
  (∀ k < e.im.car.entries.length, hasDeparted s k s.run.step = true) ∧
  (receptionDue s e = false) :=
  ⟨unitState 7 waitEnt, unitEnv 7 waitEnt, by decide +kernel, by decide +kernel, by decide +kernel, by decide +kernel,
    by
      have h : openQueues (unitState 7 waitEnt) (unitEnv 7 waitEnt).im = [({ kind := 7, unit := 0, entries := [waitEnt] }, some waitEnt)] := by
        decide +kernel
      rw [h]
      intro q hq
      rw [List.mem_singleton.mp hq]
      exact ⟨waitEnt, rfl, by decide +kernel⟩,
    by decide +kernel⟩

theorem witness_runStartTime :
  ∃ (s : State) (sid h : Nat) (o : Op),
  (findOp s.sessions sid h = some o) ∧
  (o.opcode = 0x0403) ∧
  (o.state = 0) ∧
  (s.run.active = true) ∧
  (s.run.begun = false) ∧
  (s.run.sid = sid) ∧
  (s.run.handle = h) ∧
  (s.run.origin ≤ s.time.now) :=
  ⟨{ carState 0 1000 up with sessions := { up.sessions with ops := [opOf 0x0403 0 []] }, run := { (carState 0 1000 up).run with begun := false, origin := 1000 * 65536 } }, 9, 1, opOf 0x0403 0 [], by decide +kernel⟩

theorem witness_caravanDeparture :
  ∃ (s : State) (k st count origin : Nat) (im : Image) (es : List Nat),
  (s.image = some im) ∧
  (s.run.active = true) ∧
  (s.run.begun = true) ∧
  (carSteps s im).find? (fun c => decide (k < c.2.2.2.length) && !hasDeparted s k c.1) = some (st, count, origin, es) ∧
  let e := es.getD k 0
  let d := origin + carOffset e
  (∀ x ∈ es.zipIdx, (carOffset x.1 < carOffset e ∨ carOffset x.1 = carOffset e ∧ x.2 < k) → hasDeparted s x.2 st = true) ∧
  (d ≤ s.time.now) ∧
  (st ≠ (s.run.step + 2) % 2 ^ 32) ∧
  let w := wakeUp (some 4) s
  let s1 := prunePast { w with reductions := { w.reductions with departures := w.reductions.departures ++ [(k, st, d >>> 16)] } }
  (firesOn s count e = false) :=
  ⟨withSteps 0 (carState (pack [(0, 4, 6)]) 1000 up), 0, 0, 0, 0, ((withSteps 0 (carState (pack [(0, 4, 6)]) 1000 up)).image.getD emptyImage), ((withSteps 0 (carState (pack [(0, 4, 6)]) 1000 up)).image.getD emptyImage).car.entries, by decide +kernel⟩

theorem witness_caravanDeparture2 :
  ∃ (s : State) (k st count origin : Nat) (im : Image) (es : List Nat),
  (s.image = some im) ∧
  (s.run.active = true) ∧
  (s.run.begun = true) ∧
  (carSteps s im).find? (fun c => decide (k < c.2.2.2.length) && !hasDeparted s k c.1) = some (st, count, origin, es) ∧
  let e := es.getD k 0
  let d := origin + carOffset e
  (∀ x ∈ es.zipIdx, (carOffset x.1 < carOffset e ∨ carOffset x.1 = carOffset e ∧ x.2 < k) → hasDeparted s x.2 st = true) ∧
  (d ≤ s.time.now) ∧
  (st ≠ (s.run.step + 2) % 2 ^ 32) ∧
  let w := wakeUp (some 4) s
  let s1 := prunePast { w with reductions := { w.reductions with departures := w.reductions.departures ++ [(k, st, d >>> 16)] } }
  (firesOn s count e = true) ∧
  (st = (s.run.step + 1) % 2 ^ 32) :=
  ⟨departed 0 0 1000 (withSteps 0 (carState (0) 3000 up)), 0, 1, 1, 2000 * 65536, ((departed 0 0 1000 (withSteps 0 (carState (0) 3000 up))).image.getD emptyImage), ((departed 0 0 1000 (withSteps 0 (carState (0) 3000 up))).image.getD emptyImage).car.entries, by decide +kernel⟩

theorem witness_caravanDeparture3 :
  ∃ (s : State) (k st count origin : Nat) (im : Image) (es : List Nat),
  (s.image = some im) ∧
  (s.run.active = true) ∧
  (s.run.begun = true) ∧
  (carSteps s im).find? (fun c => decide (k < c.2.2.2.length) && !hasDeparted s k c.1) = some (st, count, origin, es) ∧
  let e := es.getD k 0
  let d := origin + carOffset e
  (∀ x ∈ es.zipIdx, (carOffset x.1 < carOffset e ∨ carOffset x.1 = carOffset e ∧ x.2 < k) → hasDeparted s x.2 st = true) ∧
  (d ≤ s.time.now) ∧
  (st ≠ (s.run.step + 2) % 2 ^ 32) ∧
  let w := wakeUp (some 4) s
  let s1 := prunePast { w with reductions := { w.reductions with departures := w.reductions.departures ++ [(k, st, d >>> 16)] } }
  (firesOn s count e = true) ∧
  (st ≠ (s.run.step + 1) % 2 ^ 32) :=
  ⟨withSteps 0 (carState (0) 1000 up), 0, 0, 0, 0, ((withSteps 0 (carState (0) 1000 up)).image.getD emptyImage), ((withSteps 0 (carState (0) 1000 up)).image.getD emptyImage).car.entries, by decide +kernel⟩

theorem witness_stepBoundary :
  ∃ (s : State) (e : Env),
  (envOf s = some e) ∧
  (boundaryDue s = true) ∧
  (shortSlots s e.im = []) ∧
  let s1 := kvBoundary s
  let s2 := sendBwdAck s1
  let s3 := recordStep (if reducesStep s2 = true ∧ hasRecordColl e.im = false then exchangeLocal s2 else s2)
  (s1.run.active = true) ∧
  (s2.run.active = true) ∧
  (s3.run.active = true) ∧
  (retiresNow s3 = true) :=
  ⟨{ departed 0 0 1000 (withGroup (withSteps 2 (carState 0 2000 up))) with sessions := { up.sessions with ops := [opOf 0x0403 2 [], { opOf 0x050B 2 [] with handle := 2 }] } }, (envOf ({ departed 0 0 1000 (withGroup (withSteps 2 (carState 0 2000 up))) with sessions := { up.sessions with ops := [opOf 0x0403 2 [], { opOf 0x050B 2 [] with handle := 2 }] } })).getD (unitEnv 0 0), by decide +kernel⟩

theorem witness_stepBoundary2 :
  ∃ (s : State) (e : Env),
  (envOf s = some e) ∧
  (boundaryDue s = true) ∧
  (shortSlots s e.im = []) ∧
  let s1 := kvBoundary s
  let s2 := sendBwdAck s1
  let s3 := recordStep (if reducesStep s2 = true ∧ hasRecordColl e.im = false then exchangeLocal s2 else s2)
  (s1.run.active = true) ∧
  (s2.run.active = true) ∧
  (s3.run.active = true) ∧
  (retiresNow s3 = false) ∧
  (wasLast s3 = true) :=
  ⟨withGroup (withSteps 1 (carState 0 2000 up)), (envOf (withGroup (withSteps 1 (carState 0 2000 up)))).getD (unitEnv 0 0), by decide +kernel⟩

theorem witness_stepBoundary3 :
  ∃ (s : State) (e : Env),
  (envOf s = some e) ∧
  (boundaryDue s = true) ∧
  (shortSlots s e.im = []) ∧
  let s1 := kvBoundary s
  let s2 := sendBwdAck s1
  let s3 := recordStep (if reducesStep s2 = true ∧ hasRecordColl e.im = false then exchangeLocal s2 else s2)
  (s1.run.active = true) ∧
  (s2.run.active = true) ∧
  (s3.run.active = true) ∧
  (retiresNow s3 = false) ∧
  (wasLast s3 = false) :=
  ⟨withGroup (withSteps 2 (carState 0 2000 up)), (envOf (withGroup (withSteps 2 (carState 0 2000 up)))).getD (unitEnv 0 0), by decide +kernel⟩

theorem witness_runComplete :
  ∃ (s : State) (sid h : Nat),
  (s.run.active = true) ∧
  (s.run.finishing = true) ∧
  (s.run.sid = sid) ∧
  (s.run.handle = h) ∧
  (s.run.retireAt = none) ∧
  (stepSettled s = true) :=
  ⟨{ departed 0 0 1000 (carState 0 2000 up) with run := { (carState 0 2000 up).run with finishing := true } }, 9, 1, by decide +kernel⟩

theorem witness_wgbDrain :
  ∃ (s : State) (me slot coll tile : Nat) (im : Image) (w : WgbSlot) (a b : ChunkRt),
  (s.image = some im) ∧
  (slotOf s me slot = some w) ∧
  (slotTile im me slot = some (coll, tile)) ∧
  (w.st = 2) ∧
  let st := leafStep s coll (2 * tile) me
  (leafStep s coll (2 * tile + 1) me = st) ∧
  (findChunk s coll (2 * tile) st = some a) ∧
  (findChunk s coll (2 * tile + 1) st = some b) ∧
  (a.launched = true) ∧
  (a.done = false) ∧
  (b.launched = true) ∧
  (b.done = false) :=
  ⟨collState 0 0 0 2 [chunkIs 0 true false, chunkIs 1 true false], 0, 0, 0, 0, collImage 0 0 0, slotIn 2, chunkIs 0 true false, chunkIs 1 true false, by decide +kernel⟩

theorem witness_stragglerLeaf :
  ∃ (s : State) (coll chunk leaf : Nat) (e : Env) (ch : ChunkRt),
  (envOf s = some e) ∧
  let st := leafStep s coll chunk leaf
  (findChunk s coll chunk st = some ch) ∧
  (ch.done = true) ∧
  (ch.used.contains leaf = false) ∧
  (ch.late.contains leaf = false) ∧
  (leavesOf e coll chunk).contains leaf = true ∧
  (leafReady s e coll chunk st leaf = true) ∧
  (coKind (collOf e.im coll) ≠ 0) ∧
  leafFault e coll chunk leaf = none ∧
  (coDefers (collOf e.im coll) = true → ch.carry = none ∨ ch.acked = true) :=
  ⟨collState 1 0 0 2 [chunkIs 0 true true, chunkIs 1 true false], 0, 0, 0, collEnv 1 0 0 2 [chunkIs 0 true true, chunkIs 1 true false], chunkIs 0 true true, by decide +kernel⟩

theorem witness_stragglerLeaf2 :
  ∃ (s : State) (coll chunk leaf sl : Nat) (e : Env) (ch : ChunkRt) (w : WgbSlot),
  (envOf s = some e) ∧
  let st := leafStep s coll chunk leaf
  (findChunk s coll chunk st = some ch) ∧
  (ch.done = true) ∧
  (ch.used.contains leaf = false) ∧
  (ch.late.contains leaf = false) ∧
  (leavesOf e coll chunk).contains leaf = true ∧
  (leafReady s e coll chunk st leaf = true) ∧
  (coKind (collOf e.im coll) = 0) ∧
  (coDefers (collOf e.im coll) = true → ch.carry = none ∨ ch.acked = true) ∧
  (leafSlot e.im coll chunk leaf = some sl) ∧
  (slotOf s leaf sl = some w) :=
  ⟨collState 0 0 0 2 [chunkIs 0 true true, chunkIs 1 true false], 0, 0, 0, 0, collEnv 0 0 0 2 [chunkIs 0 true true, chunkIs 1 true false], chunkIs 0 true true, slotIn 2, by decide +kernel⟩

theorem witness_modulePartial :
  ∃ (s : State) (coll chunk : Nat) (e : Env) (ch : ChunkRt),
  (envOf s = some e) ∧
  let st := chunkFor s coll chunk (fun c => c.launched && !c.done)
  (findChunk s coll chunk st = some ch) ∧
  (ch.launched = true) ∧
  (ch.done = false) ∧
  let ls := if coKind (collOf e.im coll) = 0 then ch.leaves else readyLeaves s e ch
  (∀ l ∈ leavesOf e coll chunk, ls.contains l = true) :=
  ⟨collState 0 0 0 2 [{ chunkIs 0 true false with leaves := [0] }], 0, 0, collEnv 0 0 0 2 [{ chunkIs 0 true false with leaves := [0] }], { chunkIs 0 true false with leaves := [0] }, by decide +kernel⟩

theorem witness_graceSubstitution :
  ∃ (s : State) (coll chunk d : Nat) (im : Image) (ch : ChunkRt),
  (s.image = some im) ∧
  let st := chunkFor s coll chunk (fun c => c.done && !c.formed)
  (findChunk s coll chunk st = some ch) ∧
  (findColl s coll st).bind (·.deadline) = some d ∧
  (ch.formed = false) ∧
  (ch.done = true) ∧
  (d + 65536 * coGrace (collOf im coll) ≤ s.time.now) :=
  ⟨atNs 100 (collState 0 0 0 2 [chunkIs 0 true true, chunkIs 1 true false]), 0, 0, 0, collImage 0 0 0, chunkIs 0 true true, by decide +kernel⟩

theorem witness_reduceFrame :
  ∃ (s : State) (f : Frame) (im : Image) (src : Nat) (ch : ChunkRt),
  (f.ftype = 1) ∧
  (s.image = some im) ∧
  (s.run.active = true) ∧
  let coll := tsp f 128 12
  let chunk := tsp f 140 24
  let step := stepOf2 s (tsp f 166 2)
  let k := tsp f 168 5
  let lo := nodeLo src k
  (posOf (membersOf im coll) f.src = some src) ∧
  (frameOver s coll chunk step = false) ∧
  let s0 := ensureChunk coll chunk step s
  let s1 := if f.redo = true then redoChunk coll chunk step s0 else s0
  (findChunk s1 coll chunk step = some ch) ∧
  (ch.redo = true → f.redo = true) ∧
  (ch.acked = false) ∧
  (ch.landed = false) ∧
  let s2 := takeFrame f s1
  (coQ16 (collOf im coll) = true) ∧
  (tsp f 165 1 = 0) ∧
  (ch.formed = false) ∧
  (partAt ch.parts lo k = none) :=
  ⟨collState 0 1 0 2 [], (fromPeer 1 [(165, 1, 0)] []), collImage 0 1 0, 1, foundChunk 0 (ensureChunk 0 0 0 (collState 0 1 0 2 [])), by decide +kernel⟩

theorem witness_reduceFrame2 :
  ∃ (s : State) (f : Frame) (im : Image) (src : Nat) (ch : ChunkRt),
  (f.ftype = 1) ∧
  (s.image = some im) ∧
  (s.run.active = true) ∧
  let coll := tsp f 128 12
  let chunk := tsp f 140 24
  let step := stepOf2 s (tsp f 166 2)
  let k := tsp f 168 5
  let lo := nodeLo src k
  (posOf (membersOf im coll) f.src = some src) ∧
  (frameOver s coll chunk step = false) ∧
  let s0 := ensureChunk coll chunk step s
  let s1 := if f.redo = true then redoChunk coll chunk step s0 else s0
  (findChunk s1 coll chunk step = some ch) ∧
  (ch.redo = true → f.redo = true) ∧
  (ch.acked = false) ∧
  (ch.landed = false) ∧
  let s2 := takeFrame f s1
  (coQ16 (collOf im coll) = true) ∧
  (tsp f 165 1 = 1) ∧
  (ch.rplFormed = false) ∧
  (partAt ch.rplParts lo k = none) :=
  ⟨collState 0 1 0 2 [], (fromPeer 1 [(165, 1, 1)] []), collImage 0 1 0, 1, foundChunk 0 (ensureChunk 0 0 0 (collState 0 1 0 2 [])), by decide +kernel⟩

theorem witness_reduceFrame3 :
  ∃ (s : State) (f : Frame) (im : Image) (src : Nat) (ch : ChunkRt),
  (f.ftype = 1) ∧
  (s.image = some im) ∧
  (s.run.active = true) ∧
  let coll := tsp f 128 12
  let chunk := tsp f 140 24
  let step := stepOf2 s (tsp f 166 2)
  let k := tsp f 168 5
  let lo := nodeLo src k
  (posOf (membersOf im coll) f.src = some src) ∧
  (frameOver s coll chunk step = false) ∧
  let s0 := ensureChunk coll chunk step s
  let s1 := if f.redo = true then redoChunk coll chunk step s0 else s0
  (findChunk s1 coll chunk step = some ch) ∧
  (ch.redo = true → f.redo = true) ∧
  (ch.acked = false) ∧
  (ch.landed = false) ∧
  let s2 := takeFrame f s1
  (coQ16 (collOf im coll) = false) ∧
  (tsp f 165 1 = 0) ∧
  (ch.formed = false) ∧
  (partAt ch.parts lo k = none) ∧
  let part := tsp f 164 1
  let vals := cutNats 5 1024 f.payload
  (ch.halves.find? (fun x => x.1 == lo && x.2.1 == k) = none) :=
  ⟨collState 0 0 0 2 [], (fromPeer 1 [(165, 1, 0)] []), collImage 0 0 0, 1, foundChunk 0 (ensureChunk 0 0 0 (collState 0 0 0 2 [])), by decide +kernel⟩

theorem witness_reduceFrame4 :
  ∃ (s : State) (f : Frame) (im : Image) (src : Nat) (ch : ChunkRt),
  (f.ftype = 1) ∧
  (s.image = some im) ∧
  (s.run.active = true) ∧
  let coll := tsp f 128 12
  let chunk := tsp f 140 24
  let step := stepOf2 s (tsp f 166 2)
  let k := tsp f 168 5
  let lo := nodeLo src k
  (posOf (membersOf im coll) f.src = some src) ∧
  (frameOver s coll chunk step = false) ∧
  let s0 := ensureChunk coll chunk step s
  let s1 := if f.redo = true then redoChunk coll chunk step s0 else s0
  (findChunk s1 coll chunk step = some ch) ∧
  (ch.redo = true → f.redo = true) ∧
  (ch.acked = false) ∧
  (ch.landed = false) ∧
  let s2 := takeFrame f s1
  (coQ16 (collOf im coll) = false) ∧
  (tsp f 165 1 = 0) ∧
  (ch.formed = false) ∧
  (partAt ch.parts lo k = none) ∧
  let part := tsp f 164 1
  let vals := cutNats 5 1024 f.payload
  ∃ x,
  (ch.halves.find? (fun x => x.1 == lo && x.2.1 == k) = some x) ∧
  (x.2.2.1 ≠ part) :=
  ⟨collState 0 0 0 2 [{ chunkIs 0 true true with halves := [(1, 0, 1, [])] }], fromPeer 1 [] [], collImage 0 0 0, 1, foundChunk 0 (collState 0 0 0 2 [{ chunkIs 0 true true with halves := [(1, 0, 1, [])] }]), by decide +kernel, by decide +kernel, by decide +kernel, by decide +kernel, by decide +kernel, by decide +kernel, by decide +kernel, by decide +kernel, by decide +kernel, by decide +kernel, by decide +kernel, by decide +kernel, by decide +kernel, (1, 0, 1, []), by decide +kernel⟩

theorem witness_replayReq :
  ∃ (s : State) (f : Frame),
  (f.ftype = 4) ∧
  let coll := tsp f 128 12
  let chunk := tsp f 140 24
  let step := stepOf2 s (tsp f 164 2)
  let s1 := redoFrame f coll chunk step s
  (oldFrame f coll chunk step s1 = false) :=
  ⟨collState 0 1 0 2 [], fromPeer 4 [] [], by decide +kernel⟩

theorem witness_deliver :
  ∃ (s : State) (f : Frame) (ch : ChunkRt),
  (f.ftype = 2) ∧
  (s.image.isSome = true) ∧
  let coll := tsp f 128 12
  let chunk := tsp f 140 24
  let step := stepOf2 s (tsp f 165 2)
  let part := tsp f 164 1
  (frameOver s coll chunk step = false) ∧
  let s1 := redoFrame f coll chunk step (ensureChunk coll chunk step s)
  (oldFrame f coll chunk step s1 = false) ∧
  (findChunk s1 coll chunk step = some ch) ∧
  (ch.landed = false) ∧
  (spGet? part ch.delivered = none) :=
  ⟨collState 0 1 0 2 [], fromPeer 2 [] [], foundChunk 0 (ensureChunk 0 0 0 (collState 0 1 0 2 [])), by decide +kernel⟩

theorem witness_chunkAck :
  ∃ (s : State) (f : Frame),
  (f.ftype = 5) :=
  ⟨collState 0 1 0 2 [], fromPeer 5 [(166, 16, 1)] [], by decide +kernel⟩

theorem witness_recordItemsSend :
  ∃ (s : State) (coll : Nat) (e : Env) (c : CollRt),
  (envOf s = some e) ∧
  (s.reductions.colls.find? (fun c => c.coll == coll && c.launched && !c.itemsSent) = some c) ∧
  (coKind (collOf e.im coll) = 2) ∧
  (s.run.active = true) ∧
  (sumsReady s e c.step = true) ∧
  (stepOver s c.step = true ∨ amaxReady s e.im = true) ∧
  (sumsFault s e = none) ∧
  (historyFault e (managedTensors e.im) = none) :=
  ⟨{ meshRun (collImage 2 0 0) with reductions := { (meshRun (collImage 2 0 0)).reductions with colls := [{ newColl 0 0 with launched := true }] } }, 0, envOfImage (collImage 2 0 0) ({ meshRun (collImage 2 0 0) with reductions := { (meshRun (collImage 2 0 0)).reductions with colls := [{ newColl 0 0 with launched := true }] } }), { newColl 0 0 with launched := true }, by decide +kernel⟩

theorem witness_normRec :
  ∃ (s : State) (f : Frame) (im : Image) (c : CollRt),
  (f.ftype = 7) ∧
  (bits f.tspec 0 8 = 1) ∧
  (s.image = some im) ∧
  (s.run.active = true) ∧
  let coll := tsp f 136 12
  let step := stepOf2 s (tsp f 148 2)
  (coKind (collOf im coll) = 2) ∧
  (membersOf im coll).contains f.src = true ∧
  let s1 := ensureColl coll step s
  (findColl s1 coll step = some c) ∧
  (c.frames.any (fun x => x.1 == f.src && x.2.1 == tsp f 151 16) = false) ∧
  let good := (frameItems f).filter (fun x => bits x 0 8 == 1 || bits x 0 8 == 2)
  (good.length = (frameItems f).length) :=
  ⟨{ meshRun (collImage 2 0 0) with reductions := { (meshRun (collImage 2 0 0)).reductions with colls := [{ newColl 0 0 with launched := true }] } }, fromPeer 7 [(128, 8, 1)] [], collImage 2 0 0, { newColl 0 0 with launched := true }, by decide +kernel⟩

theorem witness_shardPublication :
  ∃ (s : State) (pub shard sh : Nat) (e : Env) (v : ShardVer),
  (envOf s = some e) ∧
  (findVer s pub shard = some v) ∧
  (v.departed = some sh) ∧
  (publishable s e v = true) ∧
  (∀ u ∈ s.versions.shards, u.pub = pub → u.shard < shard → publishable s e u = false) ∧
  (pubFault e pub (v.pver % 2) sh = none) :=
  ⟨pubState, 0, 0, pubShard, pubEnv, pubVer, by decide +kernel⟩

theorem witness_publish :
  ∃ (s : State) (f : Frame) (e : Env) (v : ShardVer) (sh : Nat),
  (f.ftype = 3) ∧
  (envOf s = some e) ∧
  let pub := tsp f 128 12
  let shard := tsp f 140 24
  let pver := tsp f 164 32
  let off := tsp f 196 32
  (findVer s pub shard = some v) ∧
  (pubShards e pub)[shard]? = some sh ∧
  (0 < (pver + 2 ^ 32 - v.cur) % 2 ^ 32) ∧
  (pver + 2 ^ 32 - v.cur) % 2 ^ 32 < 2 ^ 31 ∧
  (v.rxVer = pver → v.frames.all (fun x => x.1 != off) = true) ∧
  let s1 := modVer pub shard (fun v =>
    { v with rxVer := pver, frames := (if v.rxVer = pver then v.frames else []) ++ [(off, f.payload.length)],
             total := if tsp f 228 1 = 1 then some (256 * off + f.payload.length) else (if v.rxVer = pver then v.total else none) })
    (takeFrame f s)
  let s2 := landStream pub shard pver (256 * off) sh f.payload s1
  ∃ (u : ShardVer),
  (findVer s2 pub shard = some u) :=
  ⟨pubState, fromPeer 3 [(164, 32, 1)] [], pubEnv, pubVer, pubShard, by decide +kernel, by decide +kernel, by decide +kernel, by decide +kernel, by decide +kernel, by decide +kernel, by decide +kernel, (findVer pubLanded 0 0).getD pubVer, by decide +kernel⟩

theorem witness_bwdAckSend :
  ∃ (s : State) (im : Image),
  (s.image = some im) ∧
  (s.run.active = true) ∧
  (s.run.begun = true) ∧
  (bwdCtr im ≠ 0xFFFF) ∧
  (waitMet s (bwdCtr im) (bwdValue im) = true) ∧
  (s.versions.ackSent = false) :=
  ⟨pubState, pubImage, by decide +kernel⟩

theorem witness_bwdAck :
  ∃ (s : State) (f : Frame),
  (f.ftype = 7) ∧
  (bits f.tspec 0 8 = 2) :=
  ⟨pubState, fromPeer 7 [(128, 8, 2)] [], by decide +kernel⟩

theorem witness_checkpointCopy :
  ∃ (s : State) (pair l st v x : Nat) (e : Env) (ws : List Write),
  (envOf s = some e) ∧
  (s.ckpt.active = some (l, pair, st, v)) ∧
  (e.im.car.ckpts.getD l [])[pair]? = some x ∧
  (sourceReady s e.im (bits x 0 24) st = true) ∧
  (copyPair e s.reductions.ring (bits x 0 24) (bits x 24 24) v = .ok ws) :=
  ⟨pubState, 0, 0, 0, 1, pack [(0, 24, 1), (24, 24, 2)], pubEnv, okOr [] (copyPair pubEnv pubState.reductions.ring 1 2 1), by decide +kernel, by decide +kernel, by decide +kernel, by decide +kernel, by decide +kernel⟩

theorem witness_checkpointComplete :
  ∃ (s : State) (l p st v : Nat) (im : Image),
  (s.image = some im) ∧
  (s.ckpt.active = some (l, p, st, v)) ∧
  (im.car.ckpts.getD l []).length ≤ p :=
  ⟨donePair, 0, 1, 0, 1, pubImage, by decide +kernel⟩

theorem witness_stageLinkSend :
  ∃ (s : State) (link l : Nat) (e : Env) (bs : List Byte),
  (envOf s = some e) ∧
  (e.im.links[link]? = some l) ∧
  (liRecv l = false) ∧
  (s.run.active = true) ∧
  (s.run.begun = true) ∧
  (s.mapping.linkSent.contains (link, s.run.step) = false) ∧
  (waitMet s (liCtr l) (liValue l) = true) ∧
  let d := descOf e.im (liLocal l)
  (vaRead s.memory e.im.regions 0 (dBase d + halfOff e d (curHalf e (liLocal l))) (occupied e d) = .ok bs) ∧
  (rangesFault s.memory e.im.regions (scaleRanges d) = none) :=
  ⟨linkState, 0, pack [(8, 16, 6), (24, 24, 1), (96, 16, 0xFFFF)], linkEnv, okOr [] (vaRead linkState.memory linkImage.regions 0 0 4), by decide +kernel⟩

theorem witness_stageLinkFrame :
  ∃ (s : State) (f : Frame) (e : Env) (i l : Nat),
  (f.ftype = 6) ∧
  (bits f.tspec 0 4 = 0) ∧
  (envOf s = some e) ∧
  (s.run.active = true) ∧
  (linkEntryFor e.im f = some (i, l)) ∧
  let step := tsp f 224 32
  let off := tsp f 160 40
  (step = s.run.step ∨ step = (s.run.step + 1) % 2 ^ 32) ∧
  (streamHas s.mapping.links i step off = false) ∧
  let d := descOf e.im (if step % 2 = 0 then liLocal l else liOdd l)
  (fmtScaled (dFmt d) = true → badOffsets (windowOf (256 * off) f.payload 256 (256 + tileCount d)) = false) ∧
  rangeFault e 18 (linkRanges e d (256 * off) f.payload) = none :=
  ⟨linkState, fromPeer 6 [(136, 24, 2)] [], linkEnv, 1, pack [(0, 1, 1), (8, 16, 6), (24, 24, 2), (48, 24, 2)], by decide +kernel⟩

theorem witness_recutMovesSend :
  ∃ (s : State) (list st : Nat) (im : Image),
  (s.image = some im) ∧
  (firstStep s.mapping.recutDep s.mapping.recutSent list = some st) ∧
  (s.run.active = true) ∧
  (stepOver s st = true ∨ st = s.run.step ∧ s.run.begun = true ∧ (rcPhase (recutOf im list).head = 1 ∨
    waitMet s (rcDoneCtr (recutOf im list).head) (rcDoneValue (recutOf im list).head) = true)) ∧
  (moveLost s im (recutOf im list) = false) :=
  ⟨recutState [] [], 0, 0, linkImage, by decide +kernel⟩

theorem witness_recutMoveFrame :
  ∃ (s : State) (f : Frame) (e : Env) (list m i before tilesBefore : Nat),
  (f.ftype = 6) ∧
  (bits f.tspec 0 4 = 2) ∧
  (envOf s = some e) ∧
  (s.run.active = true) ∧
  let step := tsp f 224 32
  let off := tsp f 160 40
  (step = s.run.step ∨ step = (s.run.step + 1) % 2 ^ 32) ∧
  (moveFor s e.im f = some (list, m, i, before, tilesBefore)) ∧
  (streamHas s.mapping.moves (moveKey list i) step off = false) ∧
  let r := recutOf e.im list
  let n := mvTiles m * tileBytes (rtDescs e.im (r.tensors.getD (mvTensor m) 0)).2
  let st := rcStage r.head step
  let w1 := windowOf (256 * off) f.payload 0 n
  let w2 := windowOf (256 * off) f.payload n (n + mvTiles m)
  badOffsets w2 = false ∧
  rangeFault e 18 (windowRange (st + before) w1 ++ windowRange (st + incomingBytes e.im e.id r + tilesBefore) w2) = none :=
  ⟨recutState [] [], fromPeer 6 [(128, 4, 2), (136, 24, 2), (200, 24, 0x800000)] [], recutEnv, 0, pack [(64, 24, 1), (88, 16, 6), (104, 16, 5)], 0, 0, 0, by decide +kernel⟩

theorem witness_recutStageCopy :
  ∃ (s : State) (list st : Nat) (e : Env),
  (envOf s = some e) ∧
  (firstStep s.mapping.recutSent s.mapping.recutDone list = some st) ∧
  (s.run.active = true) ∧
  let r := recutOf e.im list
  let ins := incoming e.im e.id r
  (ins.all (fun m => streamWhole s.mapping.moves (moveKey list m.2.1) st) = true) ∧
  stagedFault e r (rcStage r.head st) ins = none :=
  ⟨recutState [(0, 0)] [wholeMove], 0, 0, recutEnv, by decide +kernel⟩

theorem witness_federationDeltaSend :
  ∃ (s : State) (r f : Nat) (e : Env) (x : Slice),
  (envOf s = some e) ∧
  (findSlice s r f = some x) ∧
  let rg := rangeOf e.im r
  let site := fedSite e.im
  let lead := leadOf e.im f
  let v := deltaVals e rg f x.ver
  (s.run.active = true) ∧
  (x.done = false) ∧
  (x.combined = false) ∧
  (x.sent = none) ∧
  (x.deltas.any (fun d => d.1 == site) = false) ∧
  (frOwner0 rg site = e.id) ∧
  (sliceWritten s e.im rg f x.ver = true) ∧
  (sliceFault e rg f x.ver = none) :=
  ⟨fedState 0 fedSlice, 0, 0, fedEnv 0, fedSlice, by decide +kernel⟩

theorem witness_delta :
  ∃ (s : State) (port : Nat) (g : FedDgram) (im : Image) (r : Nat) (x : Slice),
  (s.image = some im) ∧
  (fedGood s im 0 g = true) ∧
  (fedRange im g = some r) ∧
  let s1 := fedClock im g s
  let f := bits g.header 88 40
  let site := bits g.header 16 4
  let rg := rangeOf im r
  (findSlice s1 r f = some x) ∧
  (leadOf im f = fedSite im) ∧
  (frOwner0 rg (fedSite im) = myId s.fabric) ∧
  (x.deltas.any (fun d => d.1 == site) = false) ∧
  (x.combined = false) ∧
  (x.done = false) ∧
  (s.time.now < x.departed + fedWait im) :=
  ⟨fedState 0 fedSlice, 0, fedFrom (fedState 0 fedSlice).federation.key 0 1 1280, fedImage 0, 0, fedSlice, by decide +kernel, fedGood_of _ _ _ _ _ (by decide +kernel), by decide +kernel, by decide +kernel, by decide +kernel, by decide +kernel, by decide +kernel, by decide +kernel, by decide +kernel, by decide +kernel⟩

theorem witness_federationCombine :
  ∃ (s : State) (r f : Nat) (e : Env) (x : Slice),
  (envOf s = some e) ∧
  (findSlice s r f = some x) ∧
  let rg := rangeOf e.im r
  let site := fedSite e.im
  let vals := combineVals e rg f x
  let dests := ((List.range (fedSites e.im)).flatMap (fun j => (if j = site then [] else [(j, frOwner0 rg j)]) ++ [(j, frOwner1 rg j)])).filter
    (fun d => d.2 != 0xFFFF)
  (s.run.active = true) ∧
  (x.done = false) ∧
  (x.combined = false) ∧
  (leadOf e.im f = site) ∧
  (frOwner0 rg site = e.id) ∧
  (x.deltas.any (fun d => d.1 == site) = true) ∧
  ((∀ j < fedSites e.im, frOwner0 rg j ≠ 0xFFFF → x.deltas.any (fun d => d.1 == j) = true) ∨ x.departed + fedWait e.im ≤ s.time.now) ∧
  (sliceFault e rg f x.ver = none) :=
  ⟨fedState 0 { fedSlice with deltas := [(0, []), (1, [])] }, 0, 0, fedEnv 0, { fedSlice with deltas := [(0, []), (1, [])] }, by decide +kernel⟩

theorem witness_result :
  ∃ (s : State) (port : Nat) (g : FedDgram) (e : Env) (r : Nat) (x : Slice),
  (envOf s = some e) ∧
  (fedGood s e.im 1 g = true) ∧
  (fedRange e.im g = some r) ∧
  let s1 := fedClock e.im g s
  let f := bits g.header 88 40
  let site := bits g.header 16 4
  let rg := rangeOf e.im r
  (findSlice s1 r f = some x) ∧
  (site = leadOf e.im f) ∧
  (¬ (leadOf e.im f = fedSite e.im ∧ frOwner0 rg site = e.id)) ∧
  (x.combined = false) ∧
  (x.done = false) ∧
  (sliceWritten s e.im rg f x.ver = true) :=
  ⟨fedState 1 fedSlice, 0, fedFrom (fedState 1 fedSlice).federation.key 1 0 1280, fedEnv 1, 0, fedSlice, by decide +kernel, fedGood_of _ _ _ _ _ (by decide +kernel), by decide +kernel, by decide +kernel, by decide +kernel, by decide +kernel, by decide +kernel, by decide +kernel, by decide +kernel⟩

theorem witness_federationResultTimeout :
  ∃ (s : State) (r f : Nat) (im : Image) (x : Slice),
  (s.image = some im) ∧
  (findSlice s r f = some x) ∧
  (x.done = false) ∧
  (s.run.active = true) ∧
  (x.departed + 2 * fedWait im ≤ s.time.now) :=
  ⟨atNs 2000000 (fedState 0 fedSlice), 0, 0, fedImage 0, fedSlice, by decide +kernel⟩

theorem witness_federationResendTimer :
  ∃ (s : State) (r f : Nat) (im : Image) (x : Slice),
  (s.image = some im) ∧
  (findSlice s r f = some x) ∧
  (s.time.now < x.departed + 2 * fedWait im) :=
  ⟨fedState 0 fedSlice, 0, 0, fedImage 0, fedSlice, by decide +kernel⟩

theorem witness_ack :
  ∃ (s : State) (port : Nat) (g : FedDgram) (im : Image) (r : Nat) (a : Nat × Nat × Nat × Nat),
  (s.image = some im) ∧
  (fedGood s im 2 g = true) ∧
  (fedRange im g = some r) ∧
  (s.federation.addrs.find? (fun a => a.1 == bits g.header 16 4 && a.2.2.2 == g.srcIp) = some a) :=
  ⟨fedState 0 fedSlice, 0, fedFrom (fedState 0 fedSlice).federation.key 2 1 0, fedImage 0, 0, (1, 6, 7000, 9), by decide +kernel, fedGood_of _ _ _ _ _ (by decide +kernel), by decide +kernel, by decide +kernel⟩

theorem witness_frameForward :
  ∃ (s : State) (port : Nat) (f : Frame) (p : Port),
  (getPort s.fabric port = some p) ∧
  (linkUp s port = true) ∧
  (f.good = true) ∧
  (f.etype = gftEtype s.fabric) ∧
  (f.etype ≠ 0x88F7) ∧
  (f.ftype ≠ 0) ∧
  (f.lseq = p.rxSeq) ∧
  (p.rxSeq < 4096) :=
  ⟨meshed (upPort) up, 0, fromPeer 5 [] [], upPort, by decide +kernel⟩

theorem witness_frameForward2 :
  ∃ (s : State) (port : Nat) (f : Frame) (p : Port),
  (getPort s.fabric port = some p) ∧
  (linkUp s port = true) ∧
  (f.good = true) ∧
  (f.etype = gftEtype s.fabric) ∧
  (f.etype ≠ 0x88F7) ∧
  (f.ftype ≠ 0) ∧
  (0 < (p.rxSeq + 4096 - f.lseq) % 4096) ∧
  (p.rxSeq + 4096 - f.lseq) % 4096 ≤ 2047 ∧
  (p.rxAny = true) :=
  ⟨meshed ({ upPort with rxAny := true }) up, 0, { fromPeer 5 [] [] with lseq := 4095 }, { upPort with rxAny := true }, by decide +kernel⟩

theorem witness_frameForward3 :
  ∃ (s : State) (port : Nat) (f : Frame) (p : Port),
  (getPort s.fabric port = some p) ∧
  (linkUp s port = true) ∧
  (f.good = true) ∧
  (f.etype = gftEtype s.fabric) ∧
  (f.etype ≠ 0x88F7) ∧
  (f.ftype ≠ 0) ∧
  (2047 < (p.rxSeq + 4096 - f.lseq) % 4096) :=
  ⟨meshed (upPort) up, 0, { fromPeer 5 [] [] with lseq := 1 }, upPort, by decide +kernel⟩

theorem witness_link :
  ∃ (s : State) (port : Nat) (f : Frame),
  (linkUp s port = true) ∧
  (f.ftype = 0) ∧
  (f.lenOk = true) ∧
  (f.payload = []) ∧
  (newerFrame f = false) ∧
  (tsp f 128 8 = 0 ∨ 6 < tsp f 128 8) :=
  ⟨meshed (upPort) up, 0, fromPeer 0 [] [], by decide +kernel⟩

theorem witness_retryRequest :
  ∃ (s : State) (port : Nat) (f : Frame) (p : Port),
  (linkFor s port f 1 = true) ∧
  let s1 := onPort port (applyLink f) s
  (getPort s1.fabric port = some p) ∧
  (p.replay.any (fun x => x.f.lseq == tsp f 136 12) = true) ∧
  (p.resends < 8) :=
  ⟨meshed ({ upPort with replay := [{ f := { fromPeer 5 [] [] with lseq := 3 }, gen := none, cells := none }] }) up, 0, fromPeer 0 ((128, 8, 1) :: [(136, 12, 3)]) [], (getPort (onPort 0 (applyLink (fromPeer 0 ((128, 8, 1) :: [(136, 12, 3)]) [])) (meshed ({ upPort with replay := [{ f := { fromPeer 5 [] [] with lseq := 3 }, gen := none, cells := none }] }) up)).fabric 0).getD upPort, by decide +kernel⟩

theorem witness_replayTimeout :
  ∃ (s : State) (port : Nat) (p : Port) (h : Held) (r : List Held),
  (linkUp s port = true) ∧
  (getPort s.fabric port = some p) ∧
  (p.replay = h :: r) ∧
  (p.resends < 8) :=
  ⟨meshed ({ upPort with replay := [{ f := { fromPeer 5 [] [] with lseq := 3 }, gen := none, cells := none }] }) up, 0, { upPort with replay := [{ f := { fromPeer 5 [] [] with lseq := 3 }, gen := none, cells := none }] }, { f := { fromPeer 5 [] [] with lseq := 3 }, gen := none, cells := none }, [], by decide +kernel⟩

theorem witness_lackReportTimer :
  ∃ (s : State) (port : Nat) (p : Port),
  (linkUp s port = true) ∧
  (getPort s.fabric port = some p) ∧
  (p.lackDue = true) :=
  ⟨meshed ({ upPort with lackDue := true }) up, 0, { upPort with lackDue := true }, by decide +kernel⟩

theorem witness_creditReturnTimer :
  ∃ (s : State) (port : Nat) (p : Port),
  (linkUp s port = true) ∧
  (getPort s.fabric port = some p) ∧
  (creditDue p).isSome = true :=
  ⟨meshed ({ upPort with owed := List.replicate 8 40 }) up, 0, { upPort with owed := List.replicate 8 40 }, by decide +kernel⟩

theorem witness_slotReportTimer :
  ∃ (s : State) (port : Nat) (p : Port),
  (linkUp s port = true) ∧
  (getPort s.fabric port = some p) ∧
  (transitioning s.fabric p = true) :=
  ⟨meshed ({ upPort with sendGen := none }) up, 0, { upPort with sendGen := none }, by decide +kernel⟩

theorem witness_releaseTimer :
  ∃ (s : State) (port : Nat) (p : Port),
  ∃ g,
  (linkUp s port = true) ∧
  (getPort s.fabric port = some p) ∧
  (p.releasing = some g) :=
  ⟨meshed ({ upPort with releasing := some 3 }) up, 0, { upPort with releasing := some 3 }, 3, by decide +kernel⟩

theorem witness_wakeBurst :
  ∃ (s : State) (port : Nat) (p : Port),
  (linkUp s port = true) ∧
  (getPort s.fabric port = some p) ∧
  (p.quiet = true) :=
  ⟨meshed ({ upPort with quiet := true }) up, 0, { upPort with quiet := true }, by decide +kernel⟩

theorem witness_slotReport :
  ∃ (s : State) (port : Nat) (f : Frame),
  (linkFor s port f 3 = true) :=
  ⟨meshed (upPort) up, 0, fromPeer 0 [(128, 8, 3)] [], by decide +kernel⟩

theorem witness_release :
  ∃ (s : State) (port : Nat) (f : Frame),
  (linkFor s port f 4 = true) :=
  ⟨meshed (upPort) up, 0, fromPeer 0 [(128, 8, 4)] [], by decide +kernel⟩

theorem witness_width :
  ∃ (s : State) (port : Nat) (f : Frame) (p : Port),
  (linkFor s port f 5 = true) ∧
  let s1 := onPort port (applyLink f) s
  let w := tsp f 136 4
  (getPort s1.fabric port = some p) ∧
  (w = 1 ∨ w = 4 ∨ w = 8) ∧
  (w ≤ fullWidth p) :=
  ⟨meshed ({ upPort with lanes := 511 }) up, 0, fromPeer 0 ((128, 8, 5) :: [(136, 4, 1)]) [], (getPort (onPort 0 (applyLink (fromPeer 0 ((128, 8, 5) :: [(136, 4, 1)]) [])) (meshed ({ upPort with lanes := 511 }) up)).fabric 0).getD upPort, by decide +kernel⟩

theorem witness_quiet :
  ∃ (s : State) (port : Nat) (f : Frame) (p : Port),
  (linkFor s port f 6 = true) ∧
  let s1 := onPort port (applyLink f) s
  (getPort s1.fabric port = some p) ∧
  (p.wantQuiet = true) :=
  ⟨meshed ({ upPort with wantQuiet := true }) up, 0, fromPeer 0 ((128, 8, 6) :: []) [], (getPort (onPort 0 (applyLink (fromPeer 0 ((128, 8, 6) :: []) [])) (meshed ({ upPort with wantQuiet := true }) up)).fabric 0).getD upPort, by decide +kernel⟩

theorem witness_quiet2 :
  ∃ (s : State) (port : Nat) (f : Frame) (p : Port),
  (linkFor s port f 6 = true) ∧
  let s1 := onPort port (applyLink f) s
  (getPort s1.fabric port = some p) ∧
  (p.wantQuiet = false) ∧
  (peTime (portEntry s.fabric port) = 0) ∧
  (p.queue = []) ∧
  (p.again = []) :=
  ⟨{ up with fabric := { up.fabric with force := twoModules, ports := up.fabric.ports.set 1 upPort } }, 1, fromPeer 0 [(128, 8, 6)] [], (getPort (onPort 1 (applyLink (fromPeer 0 [(128, 8, 6)] [])) ({ up with fabric := { up.fabric with force := twoModules, ports := up.fabric.ports.set 1 upPort } })).fabric 1).getD upPort, by decide +kernel⟩

theorem witness_linkTraining :
  ∃ (s : State) (port : Nat) (t : Training) (p : Port),
  (inUse s.fabric port = true) ∧
  (getPort s.fabric port = some p) ∧
  (p.training = true) ∧
  (trainReason s port t = 0) :=
  ⟨meshed ({ upPort with training := true }) up, 0, { lanes := 511, peerFec := 0, peerId := 6, peerPort := 1, peerCells := List.replicate 8 64 }, { upPort with training := true }, by decide +kernel⟩

theorem witness_linkTraining2 :
  ∃ (s : State) (port : Nat) (t : Training) (p : Port),
  (inUse s.fabric port = true) ∧
  (getPort s.fabric port = some p) ∧
  (p.training = true) ∧
  (trainReason s port t ≠ 0) :=
  ⟨meshed ({ upPort with training := true }) up, 0, { lanes := 511, peerFec := 0, peerId := 7, peerPort := 1, peerCells := List.replicate 8 64 }, { upPort with training := true }, by decide +kernel⟩

theorem witness_trainingRetryTimer :
  ∃ (s : State) (port : Nat) (p : Port),
  (inUse s.fabric port = true) ∧
  (0 < s.boot.stage) ∧
  (getPort s.fabric port = some p) ∧
  (p.up = false) :=
  ⟨meshed (Port.reset) up, 0, Port.reset, by decide +kernel⟩

theorem witness_laneFailure :
  ∃ (s : State) (port lane : Nat) (p : Port),
  (getPort s.fabric port = some p) ∧
  (linkUp s port = true) ∧
  (bitAt p.lanes lane = true) ∧
  (lane < 8) ∧
  (p.subst = none) ∧
  (bitAt p.lanes 8 = true) :=
  ⟨meshed ({ upPort with lanes := 511 }) up, 0, 7, { upPort with lanes := 511 }, by decide +kernel⟩

theorem witness_laneSubstitution :
  ∃ (s : State) (port : Nat) (f : Frame) (p : Port),
  (linkFor s port f 2 = true) ∧
  let s1 := onPort port (applyLink f) s
  (getPort s1.fabric port = some p) ∧
  (tsp f 148 4 < 8) ∧
  (p.subst = none) ∧
  (bitAt p.lanes (tsp f 148 4) = true) ∧
  (bitAt p.lanes 8 = true) :=
  ⟨meshed ({ upPort with lanes := 511 }) up, 0, fromPeer 0 ((128, 8, 2) :: [(148, 4, 7)]) [], (getPort (onPort 0 (applyLink (fromPeer 0 ((128, 8, 2) :: [(148, 4, 7)]) [])) (meshed ({ upPort with lanes := 511 }) up)).fabric 0).getD upPort, by decide +kernel⟩

theorem witness_ptpMessage :
  ∃ (s : State) (port : Nat) (m : PtpMsg),
  (linkUp s port = true) ∧
  (peTime (portEntry s.fabric port) ≠ 0) ∧
  (m.domain = 0) ∧
  (m.kind = .pdelayReq) :=
  ⟨meshed (upPort) up, 0, { kind := .pdelayReq, seq := 1, rxTime := 5, carried := 0, correction := 0 }, by decide +kernel⟩

theorem witness_ptpMessage2 :
  ∃ (s : State) (port : Nat) (m : PtpMsg),
  ∃ (t1 a b : Nat),
  (linkUp s port = true) ∧
  (peTime (portEntry s.fabric port) ≠ 0) ∧
  (m.domain = 0) ∧
  (m.kind = .pdelayResp) ∧
  (spGet? port s.time.pd = some (m.seq, t1, a, b)) :=
  ⟨{ meshed upPort up with time := { up.time with pd := [(0, 1, 2, 0, 0)] } }, 0, { kind := .pdelayResp, seq := 1, rxTime := 5, carried := 3, correction := 0 }, 2, 0, 0, by decide +kernel⟩

theorem witness_ptpMessage3 :
  ∃ (s : State) (port : Nat) (m : PtpMsg),
  ∃ (t1 t2 t4 : Nat),
  (linkUp s port = true) ∧
  (peTime (portEntry s.fabric port) ≠ 0) ∧
  (m.domain = 0) ∧
  (m.kind = .pdelayRespFollowUp) ∧
  (spGet? port s.time.pd = some (m.seq, t1, t2, t4)) ∧
  (t4 ≠ 0) :=
  ⟨{ meshed upPort up with time := { up.time with pd := [(0, 1, 2, 3, 8)] } }, 0, { kind := .pdelayRespFollowUp, seq := 1, rxTime := 5, carried := 4, correction := 0 }, 2, 3, 8, by decide +kernel⟩

theorem witness_ptpMessage4 :
  ∃ (s : State) (port : Nat) (m : PtpMsg),
  (linkUp s port = true) ∧
  (peTime (portEntry s.fabric port) ≠ 0) ∧
  (m.domain = 0) ∧
  (m.kind = .sync) ∧
  (peTime (portEntry s.fabric port) ≠ 3) ∧
  (s.time.master = false) :=
  ⟨meshed (upPort) up, 0, { kind := .sync, seq := 1, rxTime := 5, carried := 0, correction := 0 }, by decide +kernel⟩

theorem witness_ptpMessage5 :
  ∃ (s : State) (port : Nat) (m : PtpMsg),
  (linkUp s port = true) ∧
  (peTime (portEntry s.fabric port) ≠ 0) ∧
  (m.domain = 0) ∧
  (m.kind = .followUp) ∧
  (peTime (portEntry s.fabric port) ≠ 3) ∧
  (s.time.master = false) :=
  ⟨meshed (upPort) up, 0, { kind := .followUp, seq := 1, rxTime := 5, carried := 0, correction := 0 }, by decide +kernel⟩

theorem witness_syncTimeout :
  ∃ (s : State) (port : Nat),
  (inUse s.fabric port = true) ∧
  (peTime (portEntry s.fabric port) ≠ 0) ∧
  (peTime (portEntry s.fabric port) ≠ 3) ∧
  (s.time.master = false) ∧
  let v := peTime (portEntry s.fabric port)
  let s1 := { s with time := { s.time with
    syncMiss := spSet port (spGet 0 port s.time.syncMiss + 1) s.time.syncMiss
    syncRun := spSet port 0 s.time.syncRun
    good := if v = parentTime s then 0 else s.time.good } }
  (∃ m, missedFrom s1 1 = some m ∧ m < 16) :=
  ⟨meshed upPort up, 0, by decide +kernel, by decide +kernel, by decide +kernel, by decide +kernel, ⟨1, by decide +kernel, by decide +kernel⟩⟩

theorem witness_unitFaultDetected :
  ∃ (s : State) (kind scope phys sp : Nat),
  (ready s = true) ∧
  (1 ≤ kind) ∧
  (kind ≤ 7) ∧
  (scope < kindScopes kind) ∧
  (phys < (kindCount kind scope).2) ∧
  let k := partKey kind scope phys
  (partKind k = kind) ∧
  ((partIn s k).2 = 0 ∨ (partIn s k).2 = 4) ∧
  (s.repair.haboob = false) ∧
  (countFault s).repair.faultTimes.length < 5 ∧
  (subStopped s = false) ∧
  (if kind = 7 then (scopeParts 7 0).find? (fun j => j != k && (partIn s j).2 == 0) else spareFor s.mirage.entries k) = some sp :=
  ⟨up, 1, 0, 0, (spareFor up.mirage.entries (partKey 1 0 0)).getD 0, by decide +kernel⟩

theorem witness_haboobRises :
  ∃ (s : State) (kind scope phys : Nat),
  (ready s = true) ∧
  (1 ≤ kind) ∧
  (kind ≤ 7) ∧
  (scope < kindScopes kind) ∧
  (phys < (kindCount kind scope).2) ∧
  (s.repair.haboob = false) ∧
  let k := partKey kind scope phys
  (partKind k = kind) ∧
  ((partIn s k).2 = 0 ∨ (partIn s k).2 = 4) ∧
  (5 ≤ (countFault s).repair.faultTimes.length) :=
  ⟨{ up with repair := { up.repair with faultTimes := List.replicate 4 (0, 1) } }, 7, 0, 0, by decide +kernel⟩

theorem witness_noProgressTimeout :
  ∃ (s : State) (kind scope phys sp : Nat),
  (ready s = true) ∧
  (1 ≤ kind) ∧
  (kind ≤ 7) ∧
  (scope < kindScopes kind) ∧
  (phys < (kindCount kind scope).2) ∧
  let k := partKey kind scope phys
  (partKind k = kind) ∧
  ((partIn s k).2 = 0 ∨ (partIn s k).2 = 4) ∧
  (s.repair.haboob = false) ∧
  (countFault s).repair.faultTimes.length < 5 ∧
  (subStopped s = false) ∧
  (if kind = 7 then (scopeParts 7 0).find? (fun j => j != k && (partIn s j).2 == 0) else spareFor s.mirage.entries k) = some sp ∧
  (flightOf s kind (logicalOf s k) ≠ []) :=
  ⟨unitFlight, 1, 0, 0, (spareFor up.mirage.entries (partKey 1 0 0)).getD 0, by decide +kernel⟩

theorem witness_regulatorPhaseFault :
  ∃ (s : State) (rail phase sp : Nat),
  (ready s = true) ∧
  (rail < 6) ∧
  (phase < (railPhases rail).2) ∧
  let k := partKey 12 rail phase
  (partIn s k).2 = 0 ∧
  (freeSpare s.mirage.entries k = some sp) ∧
  (countFault s).repair.faultTimes.length < 5 :=
  ⟨up, 0, 0, (freeSpare up.mirage.entries (partKey 12 0 0)).getD 0, by decide +kernel⟩

theorem witness_mirageMapFlashWrite :
  ∃ (s : State),
  (s.mirage.dirty = true) :=
  ⟨{ up with mirage := { up.mirage with dirty := true } }, by decide +kernel⟩

theorem witness_bankFailure :
  ∃ (s : State) (field bank k sp : Nat),
  (servedBy s 8 field bank = some k) ∧
  (ready s = true) ∧
  (s.repair.bankRebuild.contains (field, bank) = false) ∧
  (s.repair.bankRebuild.all (fun b => !(b.1 == field && b.2 / 16 == bank / 16)) = true) ∧
  (spareFor s.mirage.entries k = some sp) ∧
  (countFault s).repair.faultTimes.length < 5 ∧
  (repairStopped s = false) :=
  ⟨up, 0, 0, partServing 8 0 0, (spareFor up.mirage.entries (partServing 8 0 0)).getD 0, by decide +kernel⟩

theorem witness_bankRebuildComplete :
  ∃ (s : State) (field bank k sp : Nat),
  (s.repair.bankRebuild.contains (field, bank) = true) ∧
  (subStopped s = false) ∧
  (servedBy s 8 field bank = some k) ∧
  (spareFor s.mirage.entries k = some sp) :=
  ⟨{ up with repair := { up.repair with bankRebuild := [(0, 0)] } }, 0, 0, partServing 8 0 0, (spareFor up.mirage.entries (partServing 8 0 0)).getD 0, by decide +kernel⟩

theorem witness_pseudoChannelFailure :
  ∃ (s : State) (stack pc p k j : Nat),
  (physStack s stack = some p) ∧
  (servedBy s 10 p pc = some k) ∧
  (ready s = true) ∧
  (s.repair.degraded.contains (stack, pc) = false) ∧
  (s.repair.degraded.all (fun d => !(d.1 == stack && d.2 / 17 == pc / 17)) = true) ∧
  (scopeParts 10 p).find? (fun j => (partIn s j).2 == 1 && !s.repair.rebuilding.any (fun r => r.1 == stack && r.2.2 == partPhys j)) = some j ∧
  (countFault s).repair.faultTimes.length < 5 ∧
  (repairStopped s = false) :=
  ⟨up, 0, 0, (physStack up 0).getD 0, partServing 10 0 0, ((scopeParts 10 0).find? (fun j => (partIn up j).2 == 1)).getD 0, by decide +kernel⟩

theorem witness_pseudoChannelRebuildDone :
  ∃ (s : State) (stack pc p k : Nat) (r : Nat × Nat × Nat),
  (subStopped s = false) ∧
  (s.repair.rebuilding.find? (fun r => r.1 == stack && r.2.1 == pc) = some r) ∧
  (physStack s stack = some p) ∧
  (servedBy s 10 p pc = some k) :=
  ⟨{ up with repair := { up.repair with rebuilding := [(0, 0, 68)] } }, 0, 0, (physStack up 0).getD 0, partServing 10 0 0, (0, 0, 68), by decide +kernel⟩

theorem witness_stackMigrationStart :
  ∃ (s : State) (stack k sp : Nat),
  (servedBy s 9 0 stack = some k) ∧
  (ready s = true) ∧
  (subStopped s = false) ∧
  (s.repair.migrating.all (fun m => m.1 != stack) = true) ∧
  (dueToMigrate s stack = true) ∧
  (freeSpare s.mirage.entries k = some sp) :=
  ⟨{ up with repair := { up.repair with corrRecent := [(0, [(0, 20000)])] } }, 0, partServing 9 0 0, (freeSpare up.mirage.entries (partServing 9 0 0)).getD 0, by decide +kernel⟩

theorem witness_stackMigrationComplete :
  ∃ (s : State) (stack k : Nat) (m : Nat × Nat),
  (s.repair.migrating.find? (fun m => m.1 == stack) = some m) ∧
  (servedBy s 9 0 stack = some k) ∧
  (subStopped s = false) :=
  ⟨{ up with repair := { up.repair with migrating := [(0, 16)] } }, 0, partServing 9 0 0, (0, 16), by decide +kernel⟩

theorem witness_stackLoss :
  ∃ (s : State) (stack k sp : Nat),
  (servedBy s 9 0 stack = some k) ∧
  (ready s = true) ∧
  (subStopped s = false) ∧
  (freeSpare s.mirage.entries k = some sp) :=
  ⟨up, 0, partServing 9 0 0, (freeSpare up.mirage.entries (partServing 9 0 0)).getD 0, by decide +kernel⟩

theorem witness_ddr5ChannelFailure :
  ∃ (s : State) (channel : Nat),
  (ready s = true) ∧
  (channel < 16) ∧
  (s.settings.grade = 1) :=
  ⟨up, 0, by decide +kernel⟩

theorem witness_scrub :
  ∃ (s : State) (tier addr : Nat),
  (ready s = true) ∧
  (s.power.ps ≠ 2) ∧
  (tier ≤ 2) ∧
  (tier = 2 → s.settings.grade = 1) ∧
  (addr < tierSize tier) :=
  ⟨up, 0, 0, by decide +kernel⟩

theorem witness_scrub2 :
  ∃ (s : State) (tier addr : Nat),
  (ready s = true) ∧
  (s.power.ps ≠ 2) ∧
  (tier ≤ 2) ∧
  (tier = 2 → s.settings.grade = 1) ∧
  (addr < tierSize tier) :=
  ⟨up, 1, 0, by decide +kernel⟩

theorem witness_scrub3 :
  ∃ (s : State) (tier addr : Nat),
  (ready s = true) ∧
  (s.power.ps ≠ 2) ∧
  (tier ≤ 2) ∧
  (tier = 2 → s.settings.grade = 1) ∧
  (addr < tierSize tier) :=
  ⟨up, 2, 0, by decide +kernel⟩

theorem witness_spareBist :
  ∃ (s : State) (fails : List Nat),
  (ready s = true) ∧
  (s.power.ps ≠ 2) :=
  ⟨up, [], by decide +kernel⟩

theorem witness_fullMemoryTest :
  ∃ (s : State) (fails : List Nat),
  (ready s = true) ∧
  (s.power.ps ≠ 2) ∧
  (s.boot.memTest = false) :=
  ⟨up, [], by decide +kernel⟩

theorem witness_peerLossDeclared :
  ∃ (s : State) (m : Nat),
  (portsToward s.fabric m ≠ []) ∧
  (portsToward s.fabric m).all (fun p => !portServes s.fabric p) = true ∧
  (knownAbsent s m = false) :=
  ⟨meshed Port.reset (meshed Port.reset up), 6, by decide +kernel⟩

theorem witness_loss :
  ∃ (s : State) (f : Frame),
  (f.ftype = 7) ∧
  (bits f.tspec 0 8 = 16) ∧
  (knownAbsent s (tsp f 136 16) = false) ∧
  (tsp f 136 16 ≠ myId s.fabric) :=
  ⟨meshed upPort up, fromPeer 7 [(128, 8, 16), (136, 16, 6)] [], by decide +kernel⟩

theorem witness_retire :
  ∃ (s : State) (f : Frame),
  (f.ftype = 7) ∧
  (bits f.tspec 0 8 = 17) ∧
  let m := tsp f 136 16
  (knownAbsent s m = false) ∧
  (m ≠ myId s.fabric) :=
  ⟨meshed upPort up, fromPeer 7 [(128, 8, 17), (136, 16, 6)] [], by decide +kernel⟩

theorem witness_retireAck :
  ∃ (s : State) (f : Frame) (o : Op),
  (f.ftype = 7) ∧
  (bits f.tspec 0 8 = 18) ∧
  (tsp f 136 16 = myId s.fabric) ∧
  (s.run.retireAt ≠ none) ∧
  (retireOp s = some o) :=
  ⟨meshed upPort { withOp (opOf 0x050B 2 []) up with run := { up.run with retireAt := some 0 } }, fromPeer 7 [(128, 8, 18), (136, 16, 5)] [], opOf 0x050B 2 [], by decide +kernel⟩

theorem witness_powerGood :
  ∃ (s : State) (b : BootInputs) (i : Nat) (fb : Bool),
  (s.boot.stage = 0) ∧
  (powerIsGood s = true) ∧
  (s.boot.critical = false) ∧
  (b.idModulus = s.settings.idN) ∧
  (pickBank b s.firmware = some (i, fb)) :=
  ⟨withBoot 0 54000 true up, goodInputs up, 0, false, by decide +kernel⟩

theorem witness_bootWatchdog :
  ∃ (s : State),
  (0 < s.boot.stage) ∧
  (s.boot.stage < 8) :=
  ⟨withBoot 3 54000 true up, by decide +kernel⟩

theorem witness_rstNRise :
  ∃ (s : State) (lowNs : Nat) (b : BootInputs),
  (s.boot.present = true) ∧
  (42000 ≤ s.boot.inputMv) ∧
  (lowNs < 1000000) ∧
  (s.boot.stage ≠ 0) ∧
  (s.boot.critical = false) :=
  ⟨up, 500, goodInputs up, by decide +kernel⟩

theorem witness_rstNRise2 :
  ∃ (s : State) (lowNs : Nat) (b : BootInputs),
  (s.boot.present = true) ∧
  (42000 ≤ s.boot.inputMv) ∧
  (1000000 ≤ lowNs) ∧
  (lowNs < 1000000000) ∧
  (ready s = true) :=
  ⟨up, 1000000, goodInputs up, by decide +kernel⟩

theorem witness_rstNRise3 :
  ∃ (s : State) (lowNs : Nat) (b : BootInputs),
  (s.boot.present = true) ∧
  (42000 ≤ s.boot.inputMv) ∧
  (1000000000 ≤ lowNs) :=
  ⟨up, 1000000000, goodInputs up, by decide +kernel⟩

theorem witness_presentMate :
  ∃ (s : State) (mv : Nat),
  (s.boot.present = false) :=
  ⟨State.reset, 54000, by decide +kernel⟩

theorem witness_presentBreak :
  ∃ (s : State),
  (s.boot.present = true) :=
  ⟨up, by decide +kernel⟩

theorem witness_undervoltage :
  ∃ (s : State) (mv : Nat),
  (mv < 42000) :=
  ⟨up, 41999, by decide +kernel⟩

theorem witness_overvoltage :
  ∃ (s : State) (mv : Nat),
  (56000 < mv) :=
  ⟨up, 56001, by decide +kernel⟩

theorem witness_overcurrentTrip :
  ∃ (s : State) (ma : Nat),
  (96000 < ma) ∧
  (s.boot.stage ≠ 0) :=
  ⟨up, 96001, by decide +kernel⟩

theorem witness_thermalCritical :
  ∃ (s : State) (kind index tempC : Nat),
  (s.boot.stage ≠ 0) ∧
  (criticalTemp kind ≤ tempC) :=
  ⟨up, 1, 0, 100, by decide +kernel⟩

theorem witness_c2 :
  ∃ (opc : Nat) (c : Datagram → Instr) (part : Part),
  ∃ (s : State) (x : Session) (d : Datagram),
  (∀ d s, exec (c d) s = .next (ycp opc (c d) part d s)) ∧
  (ready s = true) ∧
  (findSession s.sessions d.sid = some x) ∧
  (s.sessions.resuming = false) ∧
  (d.tag = cmdTag x.kHm d opc) ∧
  (d.major = x.major) ∧
  (d.minor = x.minor) ∧
  (d.srcIp = x.ip) ∧
  (d.srcUdp = x.udp) ∧
  (x.hi < 2 ^ 32) ∧
  (0 < d.seq) ∧
  (d.seq < 2 ^ 32) ∧
  let ahead := (d.seq + 2 ^ 32 - x.hi) % 2 ^ 32
  let behind := (x.hi + 2 ^ 32 - d.seq) % 2 ^ 32
  (64 < ahead) ∧
  (127 < behind) :=
  ⟨4, .sessionPing, _, withUser (user 1) up, (user 1), pingNo 100 false, fun _ _ => rfl, by decide +kernel, by decide +kernel, by decide +kernel, pingNo_tag _ _, by decide +kernel⟩

theorem witness_c3 :
  ∃ (opc : Nat) (c : Datagram → Instr) (part : Part),
  ∃ (s : State) (x : Session) (d : Datagram),
  (∀ d s, exec (c d) s = .next (ycp opc (c d) part d s)) ∧
  (ready s = true) ∧
  (findSession s.sessions d.sid = some x) ∧
  (s.sessions.resuming = false) ∧
  (d.tag = cmdTag x.kHm d opc) ∧
  (d.major = x.major) ∧
  (d.minor = x.minor) ∧
  (d.srcIp = x.ip) ∧
  (d.srcUdp = x.udp) ∧
  (x.hi < 2 ^ 32) ∧
  (0 < d.seq) ∧
  (d.seq < 2 ^ 32) ∧
  let ahead := (d.seq + 2 ^ 32 - x.hi) % 2 ^ 32
  let behind := (x.hi + 2 ^ 32 - d.seq) % 2 ^ 32
  ∃ (r : SeqRec),
  (behind ≤ 127) ∧
  (x.recs.find? (fun r => r.seq == d.seq) = some r) :=
  ⟨4, .sessionPing, _, withUser { user 1 with hi := 1, recs := [{ seq := 1, opcode := 4, hostTag := 0, reply := none }] } up, { user 1 with hi := 1, recs := [{ seq := 1, opcode := 4, hostTag := 0, reply := none }] }, pingNo 1 false, fun _ _ => rfl, by decide +kernel, by decide +kernel, by decide +kernel, pingNo_tag _ _, by decide +kernel, by decide +kernel, by decide +kernel, by decide +kernel, by decide +kernel, by decide +kernel, by decide +kernel, { seq := 1, opcode := 4, hostTag := 0, reply := none }, by decide +kernel, by decide +kernel⟩

theorem witness_c4 :
  ∃ (opc : Nat) (c : Datagram → Instr) (part : Part),
  ∃ (s : State) (x : Session) (d : Datagram),
  (∀ d s, exec (c d) s = .next (ycp opc (c d) part d s)) ∧
  (ready s = true) ∧
  (findSession s.sessions d.sid = some x) ∧
  (s.sessions.resuming = false) ∧
  (d.tag = cmdTag x.kHm d opc) ∧
  (d.major = x.major) ∧
  (d.minor = x.minor) ∧
  (d.srcIp = x.ip) ∧
  (d.srcUdp = x.udp) ∧
  (x.hi < 2 ^ 32) ∧
  (0 < d.seq) ∧
  (d.seq < 2 ^ 32) ∧
  let ahead := (d.seq + 2 ^ 32 - x.hi) % 2 ^ 32
  let behind := (x.hi + 2 ^ 32 - d.seq) % 2 ^ 32
  (1 ≤ ahead ∧ ahead ≤ 64 ∨ behind ≤ 127 ∧ x.recs.all (fun r => r.seq != d.seq) = true) ∧
  (formCheck x d opc = 0) ∧
  (isRefusal (part (authState x s) x d).code = false) ∧
  (64 ≤ x.slots) :=
  ⟨4, .sessionPing, _, withUser { user 1 with slots := 64 } up, { user 1 with slots := 64 }, pingNo 1 false, fun _ _ => rfl, by decide +kernel, by decide +kernel, by decide +kernel, pingNo_tag _ _, by decide +kernel⟩

theorem witness_c5 :
  ∃ (opc : Nat) (c : Datagram → Instr) (part : Part),
  ∃ (s : State) (x : Session) (d : Datagram),
  (∀ d s, exec (c d) s = .next (ycp opc (c d) part d s)) ∧
  (ready s = true) ∧
  (findSession s.sessions d.sid = some x) ∧
  (s.sessions.resuming = false) ∧
  (d.tag = cmdTag x.kHm d opc) ∧
  (d.major = x.major) ∧
  (d.minor = x.minor) ∧
  (d.srcIp = x.ip) ∧
  (d.srcUdp = x.udp) ∧
  (x.hi < 2 ^ 32) ∧
  (0 < d.seq) ∧
  (d.seq < 2 ^ 32) ∧
  let ahead := (d.seq + 2 ^ 32 - x.hi) % 2 ^ 32
  let behind := (x.hi + 2 ^ 32 - d.seq) % 2 ^ 32
  (1 ≤ ahead ∧ ahead ≤ 64 ∨ behind ≤ 127 ∧ x.recs.all (fun r => r.seq != d.seq) = true) ∧
  (formCheck x d opc = 0) ∧
  (isRefusal (part (authState x s) x d).code = false) ∧
  (x.slots < 64) ∧
  (mustWait (acceptedSession opc x d) d.seq d.fence = true) :=
  ⟨4, .sessionPing, _, withUser (user 1) up, (user 1), pingNo 2 true, fun _ _ => rfl, by decide +kernel, by decide +kernel, by decide +kernel, pingNo_tag _ _, by decide +kernel⟩

theorem witness_nanBlocks :
  ∃ (fmt : Nat),
  (fmt = 8 ∨ fmt = 9 ∨ fmt = 10) :=
  ⟨8, .inl rfl⟩

theorem witness_floatFinite :
    ∃ f ∈ [fp32, bf16, fp16, e5m2], ∃ w < 2 ^ (1 + f.eb + f.fb), fvIsNan (decodeFlt f w) = false :=
  ⟨fp32, by decide +kernel, 0, by decide +kernel, by decide +kernel⟩

theorem witness_e4m3Finite : ∃ w < 256, w % 128 ≠ 127 := ⟨0, by decide⟩

theorem witness_compressedPayloadDecodes :
  ∃ (g : GenSet) (gen fmt n k x0 cur : Nat) (slots : List (Bool × Nat × GenSet)) (bs : List Byte),
  (g = none ∧ gen = 0 ∨ ∃ l, g = some l ∧ genSetOk cur l = true) ∧
  (slots[gen % 2]? = some (true, gen, g)) ∧
  (fmt < 32) ∧
  (bs.length ≤ 4096 * n) ∧
  (n ≤ k) :=
  ⟨none, 0, 0, 0, 0, 0, 0, [(true, 0, none)], [], .inl ⟨rfl, rfl⟩, rfl, by decide, by decide, by decide⟩

theorem witness_auditLogChains :
  ∃ (a : Audit) (last opc code time sid role event cert arg : Nat),
  (a.entries.getLast? = some last) ∧
  (last >>> 576 = a.chain) ∧
  (opc < 2 ^ 16) ∧
  (code < 2 ^ 16) ∧
  (a.next < 2 ^ 64) ∧
  (time < 2 ^ 64) ∧
  (sid < 2 ^ 32) ∧
  (role < 4) ∧
  (event < 2 ^ 8) ∧
  (cert < 2 ^ 64) ∧
  (arg < 2 ^ 256) :=
  ⟨up.audit, up.audit.entries.getLast?.getD 0, 1, 0, 0, 0, 0, 0, 0, 0, by decide +kernel⟩

theorem witness_wakeHoldKeepsPs0 :
  ∃ (s : State) (e step ns : Nat),
  (caAction e = 4) :=
  ⟨up, 4, 0, 0, by decide +kernel⟩

theorem witness_dwellExpiry2 :
  ∃ (s : State) (t : Nat),
  (s.power.holdEnd = some t) ∧
  (nowNs s < t) :=
  ⟨{ up with power := { up.power with holdEnd := some 1 } }, 1, by decide +kernel⟩

theorem witness_memoryWritesReadBack :
  ∃ (m : Memory) (tier a : Nat) (bs : List Byte),
  (memoryWf m = true) ∧
  (tier < 3) :=
  ⟨up.memory, 0, 0, [1], by decide +kernel⟩

theorem witness_memoryWritesReadBack2 :
  ∃ (m n : Mem),
  (memWf m = true) ∧
  (memWf n = true) ∧
  (∀ a, memGet m a = memGet n a) :=
  ⟨[], [], rfl, rfl, fun _ => rfl⟩

theorem witness_stepsKeepMemoryCanonical :
  ∃ (s t : State),
  (MemInv s) ∧
  (step s = .next t) :=
  ⟨up, idle up, rfl, rfl⟩

end Sys2Proof.Tests
end

section
/-! PROOFS. Identity, capability and configuration: a row whose part answers code 0 completes, and what each configuration
command's part answers once its checks pass (chapter 16, R419, R420). -/

namespace Sys2Proof.Proofs

open Sys2Proof.Machine Sys2Proof.Safety Sys2Proof.Laws

/-! Answers. -/

@[simp] theorem ansCode_code (s : State) (c : Nat) : (ansCode s c).code = c := rfl
@[simp] theorem ansOk_code (s : State) : (ansOk s).code = 0 := rfl
@[simp] theorem ansBody_code (s : State) (body blen : Nat) : (ansBody s body blen).code = 0 := rfl

/-- Code 0 is no refusal, so a row whose part answers it completes with that answer. -/
theorem completes_of_code_zero {opc : Nat} {c : Datagram → Instr} {part : Part} {P : State → Session → Datagram → Prop}
    {ans : State → Session → Datagram → Answer} (hx : ∀ s d, exec (c d) s = .next (ycp opc (c d) part d s)) (hne : opc ≠ 0x0804)
    (hp : ∀ s x d, P s x d → part s x d = ans s x d) (hc : ∀ s x d, (ans s x d).code = 0) : Completes opc c P ans :=
  completes_of hx hne hp (fun s x d _ => by rw [hc]; rfl)

/-- A row whose part checks nothing completes with what the part answers. -/
theorem completes_of_unconditional {opc : Nat} {c : Datagram → Instr} {part : Part}
    (hx : ∀ s d, exec (c d) s = .next (ycp opc (c d) part d s)) (hne : opc ≠ 0x0804) (hc : ∀ s x d, (part s x d).code = 0) :
    Completes opc c (fun _ _ _ => True) part :=
  completes_of_code_zero hx hne (fun _ _ _ _ => rfl) hc

/-! The configuration commands past their checks (Table 16.3, R4). -/

/-- `CFG_HOST_PORT` whose operands lie in their ranges stores its 32 bytes and ends the sessions of a removed
address. -/
theorem cfgHostPortPart_accepts (s : State) (x : Session) (d : Datagram) (hport : prm d 0 2 < 3)
    (hvlan : prm d 0 2 = 2 → prm d 4 1 = 0) (hlen6 : prm d 8 8 ≤ 128) (hlen4 : prm d 32 8 ≤ 32)
    (hv4 : prm d 64 32 >>> 28 ≠ 0xE) (hv6 : prm d 128 128 >>> 120 ≠ 0xFF) :
    cfgHostPortPart s x d =
      { ansOk { s with settings := { s.settings with hostPorts := s.settings.hostPorts.set (prm d 0 2) d.params } } with
        ends := lostSessions s (prm d 0 2) (portCfg s (prm d 0 2)) d.params } := by
  have hvlan' : ¬ (prm d 0 2 = 2 ∧ prm d 4 1 = 1) := fun ⟨h2, h1⟩ => by have := hvlan h2; omega
  simp [cfgHostPortPart, hport.ne, hvlan', hlen6.not_gt, hlen4.not_gt, hv4, hv6]

/-- Port 0 keeps the YCP port, and so does its own number: only another number moves it and ends every session. -/
theorem cfgYcpPart_accepts (s : State) (x : Session) (d : Datagram) (hlo : 10 ≤ prm d 32 32) (hhi : prm d 32 32 ≤ 86400) :
    cfgYcpPart s x d =
      if prm d 0 16 = 0 ∨ prm d 0 16 = s.settings.ycpUdp then
        ansOk { s with settings := { s.settings with idleS := prm d 32 32 } }
      else { ansOk { s with settings := { s.settings with ycpUdp := prm d 0 16, idleS := prm d 32 32 } } with
        ends := s.sessions.live.map (·.sid) } := by
  by_cases h0 : prm d 0 16 = 0
  · simp [cfgYcpPart, hlo.not_gt, hhi.not_gt, h0, ansOk, ansCode]
  · by_cases hsame : prm d 0 16 = s.settings.ycpUdp
    · simp [cfgYcpPart, hlo.not_gt, hhi.not_gt, hsame, ansOk, ansCode]
    · simp [cfgYcpPart, hlo.not_gt, hhi.not_gt, h0, hsame]

/-- `CFG_GRADE` between runs, with no model resident, presents any grade not above the manufactured one. -/
theorem cfgGradePart_accepts (s : State) (x : Session) (d : Datagram) (hidle : s.run.active = false)
    (hgrade : gradeOk s.settings.mfgGrade (prm d 0 8) = true) (himage : s.image = none) :
    cfgGradePart s x d = ansOk (presentPorts { s with settings := { s.settings with grade := prm d 0 8 } }) := by
  simp [cfgGradePart, hidle, hgrade, himage]

/-- `CFG_READ` of one of the three ports reads its configuration back. -/
theorem cfgReadPart_accepts (s : State) (x : Session) (d : Datagram) (hport : prm d 0 2 < 3) :
    cfgReadPart s x d =
      ansBody s (pack [(0, 256, portCfg s (prm d 0 2)), (256, 16, s.settings.ycpUdp), (288, 32, s.settings.idleS),
        (320, 8, s.settings.grade)]) 72 := by
  simp [cfgReadPart, hport.ne]

/-- Settles O3: the reads answer unconditionally; each configuration command answers code 0 past its checks. -/
theorem identityAndConfigurationComplete : Obligations.IdentityAndConfigurationComplete := by
  unfold Obligations.IdentityAndConfigurationComplete
  refine ⟨?capRead, ?identRead, ?attest, ?cfgHostPort, ?cfgYcp, ?cfgGrade, ?cfgRead⟩
  case capRead => exact completes_of_unconditional (fun _ _ => rfl) (by decide) (fun _ _ _ => rfl)
  case identRead => exact completes_of_unconditional (fun _ _ => rfl) (by decide) (fun _ _ _ => rfl)
  case attest => exact completes_of_unconditional (part := attestPart) (fun _ _ => rfl) (by decide) (fun _ _ _ => rfl)
  case cfgHostPort =>
    refine completes_of_code_zero (fun _ _ => rfl) (by decide) ?_ (fun _ _ _ => rfl)
    rintro s x d ⟨hport, hvlan, hlen6, hlen4, hv4, hv6⟩
    exact cfgHostPortPart_accepts s x d hport hvlan hlen6 hlen4 hv4 hv6
  case cfgYcp =>
    refine completes_of_code_zero (fun _ _ => rfl) (by decide) ?_ ?_
    · rintro s x d ⟨hlo, hhi⟩
      exact cfgYcpPart_accepts s x d hlo hhi
    · intro s x d
      split <;> rfl
  case cfgGrade =>
    refine completes_of_code_zero (fun _ _ => rfl) (by decide) ?_ (fun _ _ _ => rfl)
    rintro s x d ⟨hidle, hgrade, himage⟩
    exact cfgGradePart_accepts s x d hidle hgrade himage
  case cfgRead =>
    exact completes_of_code_zero (fun _ _ => rfl) (by decide) (fun s x d hport => cfgReadPart_accepts s x d hport) (fun _ _ _ => rfl)

end Sys2Proof.Proofs
end

section
/-! PROOFS. Number formats and the completion points of transfers: floating encodings round trip, alone and through P40 (R34 to
R37); the NaN block (R44, R53); the completion points of transfers and of an image's load (R404, R422, R423). -/

namespace Sys2Proof.Proofs

open Sys2Proof.Machine Sys2Proof.Safety Sys2Proof.Laws

/-! A floating word by its three fields. -/

/-- The word with a sign bit, an exponent field and a fraction field. -/
def floatWord (f : Flt) (n : Bool) (ex fr : Nat) : Nat := (b2n n <<< (f.eb + f.fb)) + ((ex <<< f.fb) + fr)

/-- The significand that the fields give: with its leading bit, unless the exponent field is 0. -/
def fieldSig (f : Flt) (ex fr : Nat) : Nat := if ex = 0 then fr else 2 ^ f.fb + fr

/-- The exponent of the last place; the exponent fields 0 and 1 share theirs. -/
def fieldExp (f : Flt) (ex : Nat) : Int := (max 1 ex : Nat) - (f.bias : Int) - f.fb

/-- The number that the fields of a finite encoding stand for (R34). -/
def fieldValue (f : Flt) (n : Bool) (ex fr : Nat) : FV := .num n (fieldSig f ex fr) (fieldExp f ex)

theorem b2n_mod_two_beq_one {x : Nat} (h : x < 2) : b2n (x % 2 == 1) = x := by
  have hx : x = 0 ∨ x = 1 := by omega
  rcases hx with rfl | rfl <;> rfl

theorem bits_lt (n lo w : Nat) : bits n lo w < 2 ^ w := Nat.mod_lt _ (Nat.two_pow_pos w)

/-- A word of the format is put together again from its own fields. -/
theorem floatWord_bits (f : Flt) {w : Nat} (hw : w < 2 ^ (1 + f.eb + f.fb)) :
    floatWord f (bitAt w (f.eb + f.fb)) (bits w f.fb f.eb) (bits w 0 f.fb) = w := by
  have htop : w / 2 ^ f.fb / 2 ^ f.eb < 2 := by
    rw [Nat.div_div_eq_div_mul, Nat.div_lt_iff_lt_mul (by positivity)]
    calc w < 2 ^ (1 + f.eb + f.fb) := hw
      _ = 2 * (2 ^ f.fb * 2 ^ f.eb) := by ring
  have hsign : b2n (bitAt w (f.eb + f.fb)) = w / 2 ^ f.fb / 2 ^ f.eb := by
    rw [← b2n_mod_two_beq_one htop, Nat.div_div_eq_div_mul, ← pow_add, Nat.add_comm f.fb]
    simp only [bitAt, Nat.shiftRight_eq_div_pow]
  have hlow := Nat.div_add_mod w (2 ^ f.fb)
  have hmid := Nat.div_add_mod (w / 2 ^ f.fb) (2 ^ f.eb)
  calc floatWord f (bitAt w (f.eb + f.fb)) (bits w f.fb f.eb) (bits w 0 f.fb)
      = 2 ^ f.fb * (2 ^ f.eb * (w / 2 ^ f.fb / 2 ^ f.eb) + w / 2 ^ f.fb % 2 ^ f.eb) + w % 2 ^ f.fb := by
        simp only [floatWord, hsign, bits, Nat.shiftLeft_eq, Nat.shiftRight_eq_div_pow, pow_zero, Nat.div_one]
        ring
    _ = w := by rw [hmid, hlow]

/-- The fraction field lies below the place 2 ^ `fb`, the other two fields above it. -/
theorem floatWord_eq (f : Flt) (n : Bool) (ex fr : Nat) : floatWord f n ex fr = fr + 2 ^ f.fb * (b2n n * 2 ^ f.eb + ex) := by
  simp only [floatWord, Nat.shiftLeft_eq]
  ring

theorem bits_floatWord_fraction (f : Flt) (n : Bool) (ex : Nat) {fr : Nat} (hfr : fr < 2 ^ f.fb) :
    bits (floatWord f n ex fr) 0 f.fb = fr := by
  rw [floatWord_eq, bits, Nat.shiftRight_zero, Nat.add_mul_mod_self_left, Nat.mod_eq_of_lt hfr]

theorem floatWord_shiftRight_fraction (f : Flt) (n : Bool) (ex : Nat) {fr : Nat} (hfr : fr < 2 ^ f.fb) :
    floatWord f n ex fr >>> f.fb = b2n n * 2 ^ f.eb + ex := by
  rw [floatWord_eq, Nat.shiftRight_eq_div_pow, Nat.add_mul_div_left _ _ (Nat.two_pow_pos _), Nat.div_eq_of_lt hfr, Nat.zero_add]

theorem bits_floatWord_exponent (f : Flt) (n : Bool) {ex fr : Nat} (hex : ex < 2 ^ f.eb) (hfr : fr < 2 ^ f.fb) :
    bits (floatWord f n ex fr) f.fb f.eb = ex := by
  rw [bits, floatWord_shiftRight_fraction f n ex hfr, Nat.add_comm, Nat.mul_comm, Nat.add_mul_mod_self_left, Nat.mod_eq_of_lt hex]

theorem bitAt_floatWord_sign (f : Flt) (n : Bool) {ex fr : Nat} (hex : ex < 2 ^ f.eb) (hfr : fr < 2 ^ f.fb) :
    bitAt (floatWord f n ex fr) (f.eb + f.fb) = n := by
  have h : floatWord f n ex fr >>> (f.eb + f.fb) = b2n n := by
    rw [Nat.add_comm f.eb, Nat.shiftRight_add, floatWord_shiftRight_fraction f n ex hfr, Nat.shiftRight_eq_div_pow, Nat.add_comm,
      Nat.add_mul_div_right _ _ (Nat.two_pow_pos _), Nat.div_eq_of_lt hex, Nat.zero_add]
  rw [bitAt, h]
  cases n <;> rfl

/-! What a word decodes to. -/

/-- A word whose exponent field is not all ones is the number of its fields. -/
theorem decodeFlt_of_finite (f : Flt) {w : Nat} (hex : bits w f.fb f.eb ≠ 2 ^ f.eb - 1) :
    decodeFlt f w = fieldValue f (bitAt w (f.eb + f.fb)) (bits w f.fb f.eb) (bits w 0 f.fb) := by
  by_cases h0 : bits w f.fb f.eb = 0
  · rw [h0] at hex
    simp [decodeFlt, fieldValue, fieldSig, fieldExp, minExp, h0, hex]
  · have hmax : max 1 (bits w f.fb f.eb) = bits w f.fb f.eb := by omega
    simp [decodeFlt, fieldValue, fieldSig, fieldExp, h0, hex, hmax]

/-- A word whose exponent field is all ones is an infinity or a NaN (R35, R36). -/
theorem decodeFlt_of_special (f : Flt) {w : Nat} (hex : bits w f.fb f.eb = 2 ^ f.eb - 1) :
    decodeFlt f w = if bits w 0 f.fb = 0 then .inf (bitAt w (f.eb + f.fb)) else .nan := by
  simp [decodeFlt, hex]

/-- A finite word reads as the number of the fields that it was put together from. -/
theorem decodeFlt_floatWord (f : Flt) (n : Bool) {ex fr : Nat} (hex : ex < 2 ^ f.eb - 1) (hfr : fr < 2 ^ f.fb) :
    decodeFlt f (floatWord f n ex fr) = fieldValue f n ex fr := by
  have hex' : ex < 2 ^ f.eb := by omega
  have hb := bits_floatWord_exponent f n hex' hfr
  rw [decodeFlt_of_finite f (by rw [hb]; exact hex.ne), hb, bits_floatWord_fraction f n ex hfr, bitAt_floatWord_sign f n hex' hfr]

/-! The place of a significand in a format. -/

/-- The same number with s more bits below its last place. -/
def padBelow (s : Nat) : FV → FV
  | .num n m e => .num n (m <<< s) (e - s)
  | v => v

@[simp] theorem padBelow_zero (v : FV) : padBelow 0 v = v := by
  cases v <;> simp [padBelow]

theorem log2_shiftLeft {m : Nat} (hm : m ≠ 0) (s : Nat) : (m <<< s).log2 = m.log2 + s := by
  have hms : m <<< s ≠ 0 := by simpa [Nat.shiftLeft_eq] using hm
  have hlo : 2 ^ m.log2 ≤ m := (Nat.le_log2 hm).1 le_rfl
  have hhi : m < 2 ^ (m.log2 + 1) := (Nat.log2_lt hm).1 (Nat.lt_succ_self _)
  have hge : m.log2 + s ≤ (m <<< s).log2 := (Nat.le_log2 hms).2 (by
    rw [Nat.shiftLeft_eq, pow_add]; exact Nat.mul_le_mul_right _ hlo)
  have hlt : (m <<< s).log2 < m.log2 + s + 1 := (Nat.log2_lt hms).2 (by
    rw [Nat.shiftLeft_eq, Nat.add_right_comm, pow_add]; exact Nat.mul_lt_mul_of_pos_right hhi (Nat.two_pow_pos s))
  omega

/-- More bits below the last place do not move the leading bit. -/
theorem leadExp_padBelow {m : Nat} (hm : m ≠ 0) (e : Int) (s : Nat) : leadExp (m <<< s) (e - s) = leadExp m e := by
  simp only [leadExp, log2_shiftLeft hm]
  push_cast
  ring

/-- Rounding away bits that are all zero gives the significand back. -/
theorem roundQ_padBelow (n : Bool) (m : Nat) (e : Int) (s : Nat) : roundQ .rne n (m <<< s) (e - s) e = m := by
  rcases Nat.eq_zero_or_pos s with rfl | hs
  · simp [roundQ]
  · have hq : ¬ e ≤ e - s := by omega
    have hrem : m <<< s % 2 ^ s = 0 := by rw [Nat.shiftLeft_eq, Nat.mul_mod_left]
    have hlo : m <<< s >>> s = m := Nat.shiftLeft_shiftRight m s
    simp [roundQ, hq, hrem, hlo, (Nat.two_pow_pos s).ne]

/-- The leading bit of a nonzero significand, or the least exponent under it, stands `fb` places above its last one. -/
theorem leadExp_field (f : Flt) {ex fr : Nat} (hfr : fr < 2 ^ f.fb) (hm : fieldSig f ex fr ≠ 0) :
    max (leadExp (fieldSig f ex fr) (fieldExp f ex)) (minExp f) = fieldExp f ex + f.fb := by
  by_cases h0 : ex = 0
  · have hsig : fieldSig f ex fr = fr := by simp [fieldSig, h0]
    rw [hsig] at hm ⊢
    have hlog : fr.log2 < f.fb := (Nat.log2_lt hm).2 hfr
    have hexp : fieldExp f ex = 1 - f.bias - f.fb := by simp [fieldExp, h0]
    rw [hexp, leadExp, minExp]
    omega
  · have hsig : fieldSig f ex fr = 2 ^ f.fb + fr := by simp [fieldSig, h0]
    rw [hsig] at hm ⊢
    have hge : f.fb ≤ (2 ^ f.fb + fr).log2 := (Nat.le_log2 hm).2 (Nat.le_add_right _ _)
    have hlt : (2 ^ f.fb + fr).log2 < f.fb + 1 := (Nat.log2_lt hm).2 (by rw [pow_succ]; omega)
    have hexp : fieldExp f ex = ex - f.bias - f.fb := by rw [fieldExp, show max 1 ex = ex by omega]
    rw [hexp, leadExp, minExp]
    omega

/-- The body that an encoder writes for a number's place and significand is that of its fields. -/
theorem field_body (f : Flt) {ex fr : Nat} (hfr : fr < 2 ^ f.fb) :
    (if fieldSig f ex fr < 2 ^ f.fb then fieldSig f ex fr
      else ((fieldExp f ex + f.fb + f.bias).toNat <<< f.fb) + (fieldSig f ex fr - 2 ^ f.fb)) = (ex <<< f.fb) + fr := by
  by_cases h0 : ex = 0
  · simp [fieldSig, h0, hfr]
  · have hexp : (fieldExp f ex + f.fb + f.bias).toNat = ex := by
      rw [fieldExp]
      omega
    simp [fieldSig, h0, hexp]

/-- The encoding of a number of the format is the word of its fields, however many zero bits stand below its last place. -/
theorem encodeFlt_padBelow_fieldValue (f : Flt) (n : Bool) (ex s : Nat) {fr : Nat} (hfr : fr < 2 ^ f.fb) :
    encodeFlt f (padBelow s (fieldValue f n ex fr)) = floatWord f n ex fr := by
  by_cases hm : fieldSig f ex fr = 0
  · have hbody := field_body f (ex := ex) hfr
    rw [hm, if_pos (Nat.two_pow_pos _)] at hbody
    simp [fieldValue, padBelow, encodeFlt, floatWord, hm, ← hbody]
  · have hms : ¬ fieldSig f ex fr <<< s = 0 := by simpa [Nat.shiftLeft_eq] using hm
    simp only [fieldValue, padBelow, encodeFlt, floatWord, beq_iff_eq, hms, if_false, leadExp_padBelow hm, leadExp_field f hfr hm,
      add_sub_cancel_right, roundQ_padBelow, field_body f hfr]

theorem encodeFlt_fieldValue (f : Flt) (n : Bool) (ex : Nat) {fr : Nat} (hfr : fr < 2 ^ f.fb) :
    encodeFlt f (fieldValue f n ex fr) = floatWord f n ex fr := by
  simpa using encodeFlt_padBelow_fieldValue f n ex 0 hfr

/-- A finite encoding stands at or under the largest exponent of a format that has normal numbers. -/
theorem fieldExp_le_maxExp (f : Flt) {ex : Nat} (hf : minExp f ≤ maxExp f) (hex : ex < 2 ^ f.eb - 1) :
    fieldExp f ex + f.fb ≤ maxExp f := by
  simp only [fieldExp, minExp, maxExp] at hf ⊢
  omega

/-- Rounding a nonzero number of the format to the format drops the zero bits below its last place. -/
theorem roundTo_padBelow_fieldValue (f : Flt) (n : Bool) (s : Nat) {ex fr : Nat} (hf : minExp f ≤ maxExp f) (hex : ex < 2 ^ f.eb - 1)
    (hfr : fr < 2 ^ f.fb) (hm : fieldSig f ex fr ≠ 0) :
    roundTo f .rne (padBelow s (fieldValue f n ex fr)) = fieldValue f n ex fr := by
  have hms : ¬ fieldSig f ex fr <<< s = 0 := by simpa [Nat.shiftLeft_eq] using hm
  have hlead := leadExp_field f hfr hm
  have htop : ¬ maxExp f < leadExp (fieldSig f ex fr) (fieldExp f ex) := by
    have := fieldExp_le_maxExp f hf hex
    omega
  simp only [fieldValue, padBelow, roundTo, beq_iff_eq, hms, hm, htop, if_false, leadExp_padBelow hm, hlead, add_sub_cancel_right,
    roundQ_padBelow]

/-- Rounding a number of the format to the format does not change its encoding. -/
theorem encodeFlt_roundTo_padBelow_fieldValue (f : Flt) (n : Bool) (s : Nat) {ex fr : Nat} (hf : minExp f ≤ maxExp f)
    (hex : ex < 2 ^ f.eb - 1) (hfr : fr < 2 ^ f.fb) :
    encodeFlt f (roundTo f .rne (padBelow s (fieldValue f n ex fr))) = floatWord f n ex fr := by
  rw [← encodeFlt_fieldValue f n ex hfr]
  by_cases hm : fieldSig f ex fr = 0
  · simp [fieldValue, padBelow, roundTo, encodeFlt, hm]
  · rw [roundTo_padBelow_fieldValue f n s hf hex hfr hm]

/-! Through a wider format. -/

/-- A significand and an exponent that fill a place of the format are those of some fields. -/
theorem exists_fields (f : Flt) {m : Nat} {e : Int} (hlt : m < 2 ^ (f.fb + 1)) (hlo : minExp f ≤ e + f.fb)
    (hhi : e + f.fb ≤ maxExp f) (hfull : 2 ^ f.fb ≤ m ∨ e + f.fb = minExp f) :
    ∃ ex fr, ex < 2 ^ f.eb - 1 ∧ fr < 2 ^ f.fb ∧ m = fieldSig f ex fr ∧ e = fieldExp f ex := by
  rw [pow_succ] at hlt
  simp only [minExp, maxExp] at hlo hhi hfull
  by_cases hm : m < 2 ^ f.fb
  · exact ⟨0, m, by omega, hm, rfl, by simp only [fieldExp]; omega⟩
  · have hex : (e + f.fb + f.bias).toNat ≠ 0 := by omega
    exact ⟨(e + f.fb + f.bias).toNat, m - 2 ^ f.fb, by omega, by omega, by simp only [fieldSig, hex, if_false]; omega,
      by simp only [fieldExp]; omega⟩

/-- A nonzero number that fits above the last place of a format is kept exactly by rounding to it and by its encoding. -/
theorem decodeFlt_encodeFlt_roundTo (f : Flt) (n : Bool) {m : Nat} {e : Int} (hf : minExp f ≤ maxExp f) (hm : m ≠ 0)
    (hfit : max (leadExp m e) (minExp f) ≤ e + f.fb) (htop : leadExp m e ≤ maxExp f) :
    ∃ s, decodeFlt f (encodeFlt f (roundTo f .rne (.num n m e))) = padBelow s (.num n m e) := by
  obtain ⟨s, hs⟩ : ∃ s : Nat, max (leadExp m e) (minExp f) - f.fb = e - s :=
    ⟨(e + f.fb - max (leadExp m e) (minExp f)).toNat, by omega⟩
  refine ⟨s, ?_⟩
  have hms : m <<< s ≠ 0 := by simpa [Nat.shiftLeft_eq] using hm
  have hlog : (leadExp m e : Int) = (m <<< s).log2 + (e - s) := (leadExp_padBelow hm e s).symm
  have hround : roundTo f .rne (.num n m e) = .num n (m <<< s) (e - s) := by
    have hq : e - s ≤ e := by omega
    have hsub : (e - (e - (s : Int))).toNat = s := by omega
    simp only [roundTo, beq_iff_eq, hm, if_false, hs, roundQ, hq, if_true, hsub, hms, leadExp_padBelow hm, not_lt.2 htop]
  have hlt : m <<< s < 2 ^ (f.fb + 1) := (Nat.log2_lt hms).1 (by omega)
  have hfull : 2 ^ f.fb ≤ m <<< s ∨ e - s + f.fb = minExp f := by
    rcases le_total (leadExp m e) (minExp f) with h | h
    · right; omega
    · left; exact (Nat.le_log2 hms).1 (by omega)
  obtain ⟨ex, fr, hex, hfr, hsig, hexp⟩ := exists_fields f (e := e - s) hlt (by omega) (by omega) hfull
  rw [hround, padBelow, hsig, hexp]
  exact (congrArg (decodeFlt f) (encodeFlt_fieldValue f n ex hfr)).trans (decodeFlt_floatWord f n hex hfr)

/-- P40 keeps every number of a format that is no finer and no wider than it (R36). -/
theorem dec40_enc40_fieldValue (f : Flt) (n : Bool) {ex fr : Nat} (hfb : f.fb ≤ 31) (hfine : -157 ≤ fieldExp f ex)
    (hwide : fieldExp f ex + f.fb ≤ 127) (hfr : fr < 2 ^ f.fb) :
    ∃ s, dec40 (enc40 (fieldValue f n ex fr)) = padBelow s (fieldValue f n ex fr) := by
  by_cases hm : fieldSig f ex fr = 0
  · refine ⟨(fieldExp f ex + 157).toNat, ?_⟩
    have hround : r40 (.num n 0 (fieldExp f ex)) = .num n 0 0 := rfl
    have hzero : dec40 (encodeFlt p40 (.num n 0 0)) = .num n 0 (-157) := by cases n <;> rfl
    rw [fieldValue, hm, enc40, hround, hzero, padBelow, Nat.zero_shiftLeft]
    congr 1
    omega
  · have hlead : leadExp (fieldSig f ex fr) (fieldExp f ex) ≤ fieldExp f ex + f.fb := by
      have := leadExp_field f hfr hm
      omega
    have hmin : minExp p40 = -126 := rfl
    have hmax : maxExp p40 = 127 := rfl
    have hwidth : p40.fb = 31 := rfl
    exact decodeFlt_encodeFlt_roundTo p40 n (by omega) hm (by omega) (by omega)

/-- An infinity passes through P40 (R36). -/
theorem dec40_enc40_inf (n : Bool) : dec40 (enc40 (.inf n)) = .inf n := by
  cases n <;> rfl

/-! FP8-E4M3 (R35). -/

theorem e4m3_special_iff (w : Nat) : bits w 3 4 = 15 ∧ bits w 0 3 = 7 ↔ w % 128 = 127 := by
  simp only [bits, Nat.shiftRight_eq_div_pow]
  omega

theorem decodeE4m3_of_special {w : Nat} (h : w % 128 = 127) : decodeE4m3 w = .nan := by
  obtain ⟨hex, hfr⟩ := (e4m3_special_iff w).2 h
  simp [decodeE4m3, hex, hfr]

/-- Every other word of FP8-E4M3 is the number of its fields, the exponent field of all ones too. -/
theorem decodeE4m3_of_finite {w : Nat} (h : w % 128 ≠ 127) :
    decodeE4m3 w = fieldValue e4m3 (bitAt w 7) (bits w 3 4) (bits w 0 3) := by
  have hspecial := mt (e4m3_special_iff w).1 h
  by_cases h0 : bits w 3 4 = 0
  · simp [decodeE4m3, fieldValue, fieldSig, fieldExp, e4m3, h0]
  · have hmax : max 1 (bits w 3 4) = bits w 3 4 := by omega
    have hexp : (bits w 3 4 : Int) - 10 = bits w 3 4 - 7 - 3 := by ring
    simp [decodeE4m3, fieldValue, fieldSig, fieldExp, e4m3, h0, hmax, hexp, hspecial]

/-- FP8-E4M3 encodes a number as an IEEE-shaped format of its widths does. -/
theorem encodeE4m3_num (n : Bool) (m : Nat) (e : Int) : encodeE4m3 (.num n m e) = encodeFlt e4m3 (.num n m e) := rfl

/-- A number of FP8-E4M3 is encoded as the word that it was read from, however many zero bits stand below its last place. -/
theorem encodeE4m3_padBelow_decodeE4m3 {w : Nat} (hw : w < 256) (h : w % 128 ≠ 127) (s : Nat) :
    encodeE4m3 (padBelow s (decodeE4m3 w)) = w := by
  rw [decodeE4m3_of_finite h, fieldValue, padBelow, encodeE4m3_num]
  exact (encodeFlt_padBelow_fieldValue e4m3 _ _ s (bits_lt w 0 3)).trans (floatWord_bits e4m3 hw)

/-! Encodings round trip. -/

/-- A floating encoding that is no NaN is the encoding of its value; a NaN is written as the canonical one (R37). -/
theorem encodeFlt_decodeFlt (f : Flt) {w : Nat} (hw : w < 2 ^ (1 + f.eb + f.fb)) : encodeFlt f (decodeFlt f w) =
    if fvIsNan (decodeFlt f w) = true then ((2 ^ f.eb - 1) <<< f.fb) + 2 ^ (f.fb - 1) else w := by
  by_cases hex : bits w f.fb f.eb = 2 ^ f.eb - 1
  · rw [decodeFlt_of_special f hex]
    by_cases hfr : bits w 0 f.fb = 0
    · have hw' := floatWord_bits f hw
      rw [hfr, hex] at hw'
      simpa [hfr, fvIsNan, encodeFlt, floatWord] using hw'
    · simp [hfr, fvIsNan, encodeFlt]
  · rw [decodeFlt_of_finite f hex, encodeFlt_fieldValue f _ _ (bits_lt w 0 f.fb), floatWord_bits f hw]
    rfl

/-- A value of a format that P40 holds comes back from P40 as its own encoding. -/
theorem encodeFlt_roundTo_dec40_enc40 (f : Flt) {w : Nat} (hf : minExp f ≤ maxExp f) (hfb : f.fb ≤ 31)
    (hfine : -157 ≤ minExp f - f.fb) (hwide : maxExp f ≤ 127) (hw : w < 2 ^ (1 + f.eb + f.fb))
    (hnan : fvIsNan (decodeFlt f w) = false) : encodeFlt f (roundTo f .rne (dec40 (enc40 (decodeFlt f w)))) = w := by
  by_cases hex : bits w f.fb f.eb = 2 ^ f.eb - 1
  · have hback := encodeFlt_decodeFlt f hw
    rw [decodeFlt_of_special f hex] at hnan hback ⊢
    by_cases hfr : bits w 0 f.fb = 0
    · simpa [hfr, dec40_enc40_inf, roundTo, fvIsNan] using hback
    · simp [hfr, fvIsNan] at hnan
  · have hlt : bits w f.fb f.eb < 2 ^ f.eb - 1 := by
      have := bits_lt w f.fb f.eb
      omega
    have hfr := bits_lt w 0 f.fb
    have hlow : -157 ≤ fieldExp f (bits w f.fb f.eb) := by
      simp only [fieldExp, minExp] at hfine ⊢
      omega
    have htop := fieldExp_le_maxExp f hf hlt
    rw [decodeFlt_of_finite f hex]
    obtain ⟨s, hs⟩ := dec40_enc40_fieldValue f (bitAt w (f.eb + f.fb)) hfb hlow (by omega) hfr
    rw [hs, encodeFlt_roundTo_padBelow_fieldValue f _ s hf hlt hfr, floatWord_bits f hw]

/-- FP32, BF16, FP16 and FP8-E5M2 are no finer and no wider than P40 (Table 2.2). -/
theorem p40_covers {f : Flt} (h : f ∈ [fp32, bf16, fp16, e5m2]) :
    minExp f ≤ maxExp f ∧ f.fb ≤ 31 ∧ -157 ≤ minExp f - f.fb ∧ maxExp f ≤ 127 := by
  revert f
  decide

/-- Settles O54: a word is the word of its fields, and both encoders and P40 keep the fields of a number of the format. -/
theorem floatEncodingsRoundTrip : Obligations.FloatEncodingsRoundTrip := by
  unfold Obligations.FloatEncodingsRoundTrip
  refine ⟨fun f _ w hw => encodeFlt_decodeFlt f hw, ?e4m3, ?p40, ?e4m3P40⟩
  case e4m3 =>
    intro w hw
    by_cases h : w % 128 = 127
    · rw [decodeE4m3_of_special h, if_pos h]
      rfl
    · rw [if_neg h]
      simpa using encodeE4m3_padBelow_decodeE4m3 hw h 0
  case p40 =>
    intro f hmem w hw hnan
    obtain ⟨hf, hfb, hfine, hwide⟩ := p40_covers hmem
    exact encodeFlt_roundTo_dec40_enc40 f hf hfb hfine hwide hw hnan
  case e4m3P40 =>
    intro w hw h
    have hex : bits w 3 4 < 16 := bits_lt w 3 4
    have hlow : -157 ≤ fieldExp e4m3 (bits w 3 4) := by simp only [fieldExp, e4m3]; omega
    have htop : fieldExp e4m3 (bits w 3 4) + e4m3.fb ≤ 127 := by simp only [fieldExp, e4m3]; omega
    obtain ⟨s, hs⟩ := dec40_enc40_fieldValue e4m3 (bitAt w 7) (by decide) hlow htop (bits_lt w 0 3)
    rw [← decodeE4m3_of_finite h] at hs
    rw [hs, encodeE4m3_padBelow_decodeE4m3 hw h s]

/-! The NaN block (R44, R53). -/

/-- What is nonfinite stays so under a product (R102). -/
theorem fvFinite_fvMul_left {x : FV} (h : fvFinite x = false) (y : FV) : fvFinite (fvMul x y) = false := by
  cases x with
  | nan => rfl
  | inf a =>
    cases y with
    | nan => rfl
    | inf b => rfl
    | num n m e => by_cases hm : m = 0 <;> simp [fvMul, fvFinite, hm]
  | num n m e => cases h

theorem roundTo_of_nonfinite (f : Flt) (rm : Rm) {v : FV} (h : fvFinite v = false) : roundTo f rm v = v := by
  cases v with
  | nan => rfl
  | inf n => rfl
  | num n m e => cases h

/-- Scaling makes no nonfinite input finite. -/
theorem fvFinite_scaleIn (t : FV) {x : FV} (h : fvFinite x = false) : fvFinite (scaleIn t x) = false := by
  have hmul := fvFinite_fvMul_left h (r32 (fvDiv FV.one t))
  rw [scaleIn, r40, roundTo_of_nonfinite p40 .rne hmul, hmul]

/-- One nonfinite input makes the converter write the NaN block. -/
theorem convBlock_of_nonfinite (fmt : Nat) (t : FV) (rm : Nat → Rm) {xs : List FV} (h : xs.any (fun x => !fvFinite x) = true) :
    (convBlock fmt t rm xs).1 = packBlock fmt [] 255 0 := by
  obtain ⟨x, hmem, hx⟩ := List.any_eq_true.1 h
  have hys : (xs.map (scaleIn t)).any (fun y => !fvFinite y) = true :=
    List.any_eq_true.2 ⟨scaleIn t x, List.mem_map_of_mem hmem, by simpa using fvFinite_scaleIn t (by simpa using hx)⟩
  simp only [convBlock, hys, if_true]

/-- A field below a shifted number is zero. -/
theorem bits_shiftLeft_below (x : Nat) {k lo w : Nat} (h : lo + w ≤ k) : bits (x <<< k) lo w = 0 := by
  obtain ⟨j, rfl⟩ := Nat.exists_eq_add_of_le h
  have hsplit : x <<< (lo + w + j) = (x * 2 ^ j * 2 ^ w) <<< lo := by
    simp only [Nat.shiftLeft_eq]
    ring
  rw [bits, hsplit, Nat.shiftLeft_shiftRight, Nat.mul_mod_left]

/-- The codes of the NaN block are zero: it holds nothing below its scale byte. -/
theorem blockCode_packBlock_nil (fmt b i : Nat) (hi : i < 64) : blockCode fmt (packBlock fmt [] b 0) i = 0 := by
  by_cases h : fmt = 10
  · have hpack : packBlock fmt [] b 0 = b <<< 128 := by simp [packBlock, h]
    rw [hpack]
    simpa [blockCode, h] using bits_shiftLeft_below b (by omega)
  · have hpack : packBlock fmt [] b 0 = b <<< 256 := by simp [packBlock, h]
    rw [hpack]
    simpa [blockCode, h] using bits_shiftLeft_below b (by omega)

/-- Settles O53: the scale byte alone decides NaN, and a nonfinite input brings the converter to the NaN block. -/
theorem nanBlocks : Obligations.NanBlocks := by
  unfold Obligations.NanBlocks
  intro fmt hfmt
  refine ⟨fun blk i _ hscale => by simp [blockElem, hscale], fun t rm xs h => ?_⟩
  rw [convBlock_of_nonfinite fmt t rm h]
  refine ⟨?scale, ?escape, fun i hi => blockCode_packBlock_nil fmt 255 i hi⟩
  case scale => rcases hfmt with rfl | rfl | rfl <;> rfl
  case escape => rcases hfmt with rfl | rfl | rfl <;> rfl

/-! The completion points of transfers and of an image's load. -/

/-- An operation that may reach its completion point is the running one of its handle. -/
theorem runningOp_eq_some {s : State} {sid h opc : Nat} {o : Op} (hrun : runningOp s sid h opc = some o) :
    findOp s.sessions sid h = some o ∧ o.state = 2 := by
  unfold runningOp at hrun
  cases hfind : findOp s.sessions sid h with
  | none => simp [hfind] at hrun
  | some p =>
    rw [hfind] at hrun
    simp only [Option.ite_none_right_eq_some, Bool.and_eq_true, beq_iff_eq, Option.some.injEq] at hrun
    obtain ⟨⟨⟨⟨-, hstate⟩, -⟩, -⟩, rfl⟩ := hrun
    exact ⟨rfl, hstate⟩

/-- Settles O18: past its checks each completion point takes its last branch. The operation of `TENSOR_EXPORT` is already running,
so that it does not begin again. -/
theorem transferOperationsEnd : Obligations.TransferOperationsEnd := by
  unfold Obligations.TransferOperationsEnd
  refine ⟨?importCase, ?exportCase, ?copyCase, ?loadCase⟩
  case importCase =>
    intro s s0 sid h o e data
    dsimp only
    intro hop henv hread hfail
    show Host.Outcome.next (importDone sid h s) = _
    simp [importDone, hop, henv, hread, hfail]
  case exportCase =>
    intro s sid h o e x k l
    dsimp only
    intro hrun henv hsession hkey hread
    obtain ⟨hfind, hstate⟩ := runningOp_eq_some hrun
    show Host.Outcome.next (exportDone sid h s) = _
    simp only [exportDone, hfind, hstate, hrun, henv, hsession, hkey, Nat.reduceBEq, Bool.and_false, Bool.false_and,
      Bool.false_eq_true, if_false]
    split
    next c u hbad => cases hread.symm.trans hbad
    next l' hok =>
      obtain rfl : l = l' := Except.ok.inj (hread.symm.trans hok)
      rfl
  case copyCase =>
    intro s s0 sid h o e st
    dsimp only
    intro hop henv hcopy hfail
    show Host.Outcome.next (memCopyDone sid h s) = _
    simp [memCopyDone, hop, henv, hcopy, hfail]
  case loadCase =>
    intro s s0 sid h o
    dsimp only
    intro hop himage hbad hcode
    show Host.Outcome.next (imageLoadDone sid h s) = _
    simp [imageLoadDone, hop, himage, hbad, hcode]

end Sys2Proof.Proofs
end

section
/-! PROOFS. Scale histories, adapters, groups and the caravan table: what each command's part answers once its checks pass, a change
that must not fall inside a step being put at the end of those that wait for the boundary or the next origin (R66, R109, R210, R429,
R431). -/

namespace Sys2Proof.Proofs

open Sys2Proof.Machine Sys2Proof.Safety Sys2Proof.Laws

/-! Scale histories (R66, Table 3.3). -/

@[simp] theorem ansBytes_code (s : State) (l : List Byte) : (ansBytes s l).code = 0 := rfl

/-- With no run, a T that waits for the next conversion stands in `SCALE` in place of the record's own (log entry 98). -/
theorem scaleHistReadPart_shows_waiting {s : State} (x : Session) {d : Datagram} {im : Image} {t u : Nat} {l : List Byte}
    (hdesc : scaledDesc s (prm d 0 24) = .ok (im, t)) (hread : vaRead s.memory im.regions 0 (dAux t) 80 = .ok l)
    (hidle : s.run.active = false) (hwait : spGet? (pairKey im (prm d 0 24)) s.scales.nextScale = some u) :
    scaleHistReadPart s x d = ansBytes s (l.take 12 ++ leBytes 4 u ++ l.drop 16) := by
  simp [scaleHistReadPart, hdesc, hread, hidle, hwait]

/-- In a run the record reads as it is stored. -/
theorem scaleHistReadPart_in_run {s : State} (x : Session) {d : Datagram} {im : Image} {t : Nat} {l : List Byte}
    (hdesc : scaledDesc s (prm d 0 24) = .ok (im, t)) (hread : vaRead s.memory im.regions 0 (dAux t) 80 = .ok l)
    (hrun : s.run.active = true) : scaleHistReadPart s x d = ansBytes s l := by
  simp [scaleHistReadPart, hdesc, hread, hrun]

/-- With no T waiting the record reads as it is stored. -/
theorem scaleHistReadPart_none_waiting {s : State} (x : Session) {d : Datagram} {im : Image} {t : Nat} {l : List Byte}
    (hdesc : scaledDesc s (prm d 0 24) = .ok (im, t)) (hread : vaRead s.memory im.regions 0 (dAux t) 80 = .ok l)
    (hnone : spGet? (pairKey im (prm d 0 24)) s.scales.nextScale = none) : scaleHistReadPart s x d = ansBytes s l := by
  simp [scaleHistReadPart, hdesc, hread, hnone]

/-- `SCALE_HIST_WRITE` between runs stores a record that keeps R66, drops the T that waits (log entry 59) and, with `EXCHANGED` 0,
lets scouting start again (log entry 93). -/
theorem scaleHistWritePart_accepts {s : State} (x : Session) {d : Datagram} {im : Image} {t : Nat} (hidle : s.run.active = false)
    (hdesc : scaledDesc s (prm d 0 24) = .ok (im, t)) (hversion : bits (prm d 64 640) 0 16 ≤ 1)
    (hrec : histOk (prm d 64 640) = true) :
    scaleHistWritePart s x d = ansOk (syncScale (prm d 0 24) { s with
      memory := putHist im t (prm d 64 640) s.memory
      scales := { s.scales with
        nextScale := spDel (pairKey im (prm d 0 24)) s.scales.nextScale
        exchanged := if bits (prm d 64 640) 80 8 == 0 then s.scales.exchanged.filter (· != pairKey im (prm d 0 24))
          else s.scales.exchanged } }) := by
  simp only [scaleHistWritePart, hversion.not_gt, hrec, hidle, hdesc, Bool.not_true, Bool.false_eq_true, if_false]

/-! Adapters and groups (R109, R210, R429). -/

/-- `ADAPTER_SET` of an empty slot, or of one whose A and B are plain BF16 tensors of the image, waits for the boundary. -/
theorem adapterSetPart_accepts {s : State} (x : Session) {d : Datagram} {im : Image} (himage : s.image = some im)
    (hgrade : s.settings.grade ≠ 3) (hrank : bits (prm d 64 128) 0 8 ≤ 64)
    (hA : bits (prm d 64 128) 32 24 ≤ im.descs.length) (hB : bits (prm d 64 128) 64 24 ≤ im.descs.length)
    (hplain : bits (prm d 64 128) 0 8 = 0 ∨ ∀ i, i = bits (prm d 64 128) 32 24 ∨ i = bits (prm d 64 128) 64 24 →
      dKind (descOf im i) = 0 ∧ dFmt (descOf im i) = 2) :
    adapterSetPart s x d =
      ansOk { s with changes := { s.changes with adapterSets := s.changes.adapterSets ++ [d.params] } } := by
  rcases hplain with hempty | hplain
  · simp [adapterSetPart, himage, hgrade, hA.not_gt, hB.not_gt, hempty]
  · obtain ⟨hkindA, hfmtA⟩ := hplain _ (.inl rfl)
    obtain ⟨hkindB, hfmtB⟩ := hplain _ (.inr rfl)
    simp [adapterSetPart, himage, hgrade, hrank.not_gt, hA.not_gt, hB.not_gt, hkindA, hfmtA, hkindB, hfmtB]

/-- `GROUP_SET` of a group of the image, its named fields in range, waits for the boundary. -/
theorem groupSetPart_accepts {s : State} (x : Session) {d : Datagram} {im : Image} (himage : s.image = some im)
    (hgroup : prm d 0 12 < im.groups.length) (hclip : prm d 16 1 = 1 → prm d 32 2 ≠ 3)
    (hnorm : prm d 17 1 = 1 → posNormal32 (prm d 64 32) = true) :
    groupSetPart s x d = ansOk { s with changes := { s.changes with groupSets := s.changes.groupSets ++ [d.params] } } := by
  have hclip' : ¬ (prm d 16 1 = 1 ∧ prm d 32 2 = 3) := fun ⟨hset, hmode⟩ => hclip hset hmode
  have hnorm' : ¬ (prm d 17 1 = 1 ∧ posNormal32 (prm d 64 32) = false) := fun ⟨hset, hbad⟩ => by simp [hnorm hset] at hbad
  simp [groupSetPart, himage, hgroup.not_ge, hclip', hnorm']

/-! The caravan table (R313, R431). -/

/-- A change whose result keeps R313 waits for the next origin, behind those accepted before it. -/
theorem caravanChange_accepts {s : State} {im : Image} (kind index entry : Nat) (himage : s.image = some im)
    (hok : caravanOk (caravanOp (caravanNext s im) (kind, index, entry, caravanStep s im)) (myId s.fabric) = true) :
    caravanChange kind index entry s = ansOk { s with changes := { s.changes with
      caravanOps := s.changes.caravanOps ++ [(kind, index, entry, caravanStep s im)] } } := by
  simp only [caravanChange, himage, hok, if_true]

/-- `CARAVAN_SET` of an `INDEX` up to `ENTRIES`, as it will stand, is a change of the table. -/
theorem caravanSetPart_of_index_le {s : State} (x : Session) {d : Datagram} {im : Image} (himage : s.image = some im)
    (hindex : prm d 0 12 ≤ (caravanNext s im).car.entries.length) :
    caravanSetPart s x d = caravanChange 1 (prm d 0 12) (prm d 64 256) s := by
  simp only [caravanSetPart, himage, hindex.not_gt, if_false]

/-- Settles O16: past its checks each part answers code 0; `SCALE_HIST_READ` answers by whether a run is in progress and whether a
T waits. -/
theorem runSettingCommandsComplete : Obligations.RunSettingCommandsComplete := by
  unfold Obligations.RunSettingCommandsComplete
  refine ⟨?scaleHistRead, ?scaleHistWrite, ?adapterSet, ?groupSet, ?caravanPeriod, ?caravanSet⟩
  case scaleHistRead =>
    intro im t l
    refine completes_of_code_zero (part := scaleHistReadPart) (fun _ _ => rfl) (by decide) ?_ (fun _ _ _ => rfl)
    rintro s x d ⟨hdesc, hread⟩
    cases hactive : s.run.active with
    | true => exact scaleHistReadPart_in_run x hdesc hread hactive
    | false =>
      cases hwait : spGet? (pairKey im (prm d 0 24)) s.scales.nextScale with
      | some u => exact scaleHistReadPart_shows_waiting x hdesc hread hactive hwait
      | none => exact scaleHistReadPart_none_waiting x hdesc hread hwait
  case scaleHistWrite =>
    intro im t
    refine completes_of_code_zero (fun _ _ => rfl) (by decide) ?_ (fun _ _ _ => rfl)
    rintro s x d ⟨hidle, hdesc, hversion, hrec⟩
    exact scaleHistWritePart_accepts x hidle hdesc hversion hrec
  case adapterSet =>
    intro im
    refine completes_of_code_zero (fun _ _ => rfl) (by decide) ?_ (fun _ _ _ => rfl)
    rintro s x d ⟨himage, hgrade, hrank, hA, hB, hplain⟩
    exact adapterSetPart_accepts x himage hgrade hrank hA hB hplain
  case groupSet =>
    intro im
    refine completes_of_code_zero (fun _ _ => rfl) (by decide) ?_ (fun _ _ _ => rfl)
    rintro s x d ⟨himage, hgroup, hclip, hnorm⟩
    exact groupSetPart_accepts x himage hgroup hclip hnorm
  case caravanPeriod =>
    intro im
    refine completes_of_code_zero (part := caravanPeriodPart) (fun _ _ => rfl) (by decide) ?_ (fun _ _ _ => rfl)
    rintro s x d ⟨himage, hok⟩
    exact caravanChange_accepts 0 0 (prm d 0 48) himage hok
  case caravanSet =>
    intro im
    refine completes_of_code_zero (fun _ _ => rfl) (by decide) ?_ (fun _ _ _ => rfl)
    rintro s x d ⟨himage, hindex, hok⟩
    exact (caravanSetPart_of_index_le x himage hindex).trans (caravanChange_accepts 1 (prm d 0 12) (prm d 64 256) himage hok)

end Sys2Proof.Proofs
end

section
/-! PROOFS. Matrix passes and their drain: what a pass does with the entry at the head of its engine's queue, and what a drain hands to
the pass's thread (R87, R91, R95, R96, R103 to R107, R150). -/

namespace Sys2Proof.Proofs

open Sys2Proof.Machine Sys2Proof.Safety Sys2Proof.Laws

/-! A pass on a free engine (R91, R103, R150). -/

/-- The state in which a pass reads its operands: its entry has issued, and the output's pending scale is taken with `LAST` where the
output is converted. -/
def passIssued (s : State) (e : Env) (me qi i ent : Nat) : State :=
  (if mLast (tOp ent) && !isFold e (tOp ent) then takeScales [outDesc e (tOp ent)] else id) (issue 1 me qi i ent s)

section
variable {s : State} {me qi i ent : Nat} {e : Env} {ops : List Nat}

/-- A pass over an empty view issues and is over at once. -/
theorem runPass_of_emptyView (hhead : headOfClass s 1 me 0x01 (fun x => ops.contains x) = some (qi, i, ent)) (henv : envOf s = some e)
    (hfree : (meOf s me).live = none) (hempty : emptyView e (tOp ent) = true) :
    runPass me ops s = emptyPass (tThread ent) (issue 1 me qi i ent s) := by
  simp only [runPass, hhead, henv, hfree, hempty, Option.isSome_none, Bool.false_eq_true, if_false, if_true]

/-- A pass whose wait terms are met and whose tiles can be formed leaves them in its engine. -/
theorem runPass_fills {m w : List (List Nat)} {n n2 : List Nat}
    (hhead : headOfClass s 1 me 0x01 (fun x => ops.contains x) = some (qi, i, ent)) (henv : envOf s = some e)
    (hfree : (meOf s me).live = none) (hview : emptyView e (tOp ent) = false) (hgate : mGate s e (tOp ent) = 0) {e1 : Env}
    (he1 : e1 = envAfter e (passIssued s e me qi i ent)) (hmain : mainTiles e1 (uBufs e1 (tOp ent)) ent = .ok (m, n))
    (htwin : twinTiles e1 ent = .ok (w, n2)) :
    runPass me ops s = setMe me (enterLive e1 (uBufs e1 (tOp ent)) ent m w (n ++ n2) (meOf s me))
      (countFormat (passFormatErrors e1 (tOp ent)) (passIssued s e me qi i ent)) := by
  subst he1
  rw [passIssued] at hmain htwin ⊢
  simp only [runPass, hhead, henv, hfree, hview, hgate, hmain, htwin, Option.isSome_none, Bool.false_eq_true, if_false, beq_iff_eq,
    Nat.zero_ne_one, bne_self_eq_false]

end

/-- The engine after a pass, its tests read as equations. -/
theorem enterLive_eq (e : Env) (us : List UBuf) (ent : Nat) (m w : List (List Nat)) (sat : List Nat) (x : MatrixEngine) :
    enterLive e us ent m w sat x =
      { x with
        live := some { thread := tThread ent, entry := ent, set0 := m.headD [],
                       set1 := if mOp (tOp ent) = 2 then w else m.drop 1, sat := sat }
        ubufs := if us = [] then x.ubufs else (us ++ x.ubufs).take 2
        front := frontAfter e (tOp ent) x.front } := by
  simp only [enterLive, beq_iff_eq, List.isEmpty_iff]

/-- Every command that runs the passes of opcode `k` starts them as the manual gives it. -/
theorem passStarts_of_runPass {c : Nat → Instr} {k : Nat} (hx : ∀ s me, exec (c me) s = .next (runPass me [k] s)) : PassStarts c k := by
  intro s me qi i ent e hhead henv hfree
  refine ⟨fun hempty => ?emptyView, fun hview hgate => ?filled⟩
  case emptyView => rw [hx, runPass_of_emptyView hhead henv hfree hempty]
  case filled =>
    intro s1 e1 us m w n n2 hmain htwin
    rw [hx, runPass_fills hhead henv hfree hview hgate rfl hmain htwin, enterLive_eq]
    rfl

/-! The drain (R95, R96, R103 to R107). -/

/-- A drain whose running partial can be read empties the live set into the shadow set and hands the pass to its thread. -/
theorem drainSt_of_readable {s : State} {me : Nat} {p : LivePass} {e : Env} (hlive : (meOf s me).live = some p) (henv : envOf s = some e)
    (hpart : partFault e (tOp p.entry) = none) :
    let out := drainOut s e (meOf s me).ubufs p.entry p
    drainSt me s = setMe me { meOf s me with live := none, shadow := some p }
      (modFlight p.thread (drainInto e me p out) (countEvents out.1 out.2.1 s)) := by
  simp only [drainSt, hlive, henv, hpart]

/-- What the last pass of a tile stores: its merged elements, after R96's factor, where the output holds them. -/
theorem drainOut_last (s : State) {e : Env} (us : List UBuf) {ent : Nat} (p : LivePass) (htiles : mTiles (tOp ent) ≠ [])
    (hdepth : isDepthTwin e (tOp ent) = false) (hlast : mLast (tOp ent) = true) (hamax : mAmaxOnly (tOp ent) = false)
    (hfold : isFold e (tOp ent) = false) :
    let o := tOp ent
    let els := mergedElems e o (if mOp o = 2 then [p.set0] else p.set0 :: p.set1)
    drainOut s e us ent p = (baseIdx e (outDesc e o), storeOut s e (outDesc e o) (tMicro ent)
      ((finalVals e us o els).filterMap (fun v => (targetOf e o v.1 v.2.1).map (fun x => (x, v.2.2)))), []) := by
  simp only [drainOut, beq_iff_eq, htiles, hdepth, hlast, hamax, hfold, Bool.false_eq_true, if_false, if_true]

/-- Settles O32: the four commands run one pass by their own opcode; a drain with a readable partial hands it on, and the last pass of
a tile stores its merged elements. -/
theorem matrixCommandsComplete : Obligations.MatrixCommandsComplete := by
  unfold Obligations.MatrixCommandsComplete
  refine ⟨?mm, ?mmTwin, ?mmWin, ?mmSplit, ?drain, ?lastPass⟩
  case mm => exact passStarts_of_runPass (fun _ _ => rfl)
  case mmTwin => exact passStarts_of_runPass (fun _ _ => rfl)
  case mmWin => exact passStarts_of_runPass (fun _ _ => rfl)
  case mmSplit => exact passStarts_of_runPass (fun _ _ => rfl)
  case drain =>
    intro s me p e hlive henv hpart
    exact congrArg Host.Outcome.next (drainSt_of_readable hlive henv hpart)
  case lastPass =>
    intro s e us ent p
    exact drainOut_last s us p

end Sys2Proof.Proofs
end

section
/-! PROOFS. Vector engines and general cores: `CHAIN` whose streams can be read runs its recipe to the stores, `LEND` hands its engine
over (R122, R124 to R131), and what each instruction of a general core does to its hardware thread (R137 to R143). -/

namespace Sys2Proof.Proofs

open Sys2Proof.Machine Sys2Proof.Safety Sys2Proof.Laws

/-! `CHAIN` (R124 to R131). -/

/-- Where no stream that a word names holds it back, neither does the worst of the three. -/
theorem worstGate_eq_zero {s : State} {e : Env} {o : Nat} (hgate : ∀ j < 3, vIn o j = 0 ∨ gateOf s e (vIn o j) (chainIdxs o) = 0) :
    ((List.range 3).map (fun j => if vIn o j == 0 then 0 else gateOf s e (vIn o j) (chainIdxs o))).foldl max 0 = 0 := by
  have hopen : ∀ j ∈ List.range 3, (if vIn o j == 0 then 0 else gateOf s e (vIn o j) (chainIdxs o)) = 0 := by
    intro j hj
    rcases hgate j (List.mem_range.1 hj) with hunnamed | hready
    · simp [hunnamed]
    · simp [hready]
  rw [List.map_congr_left hopen]
  rfl

/-- A chain entry at the head of its queue, with its streams open, runs. -/
theorem chainSt_of_gates_open {s : State} {ve qi i ent : Nat} {e : Env}
    (hhead : headOfClass s 2 ve 0x10 (fun x => x == 0x10) = some (qi, i, ent)) (henv : envOf s = some e)
    (hgate : ∀ j < 3, vIn (tOp ent) j = 0 ∨ gateOf s e (vIn (tOp ent) j) (chainIdxs (tOp ent)) = 0) :
    chainSt ve s = chainRun ve qi i ent e s := by
  simp only [chainSt, hhead, henv, worstGate_eq_zero hgate, bne_self_eq_false, Nat.reduceBEq, Bool.false_eq_true, if_false]

/-! `LEND` (R122). -/

/-- `LEND` on a matrix or vector engine issues and lends the engine to the thread that it names. -/
theorem lendSt_of_engine {s : State} {kind unit qi i ent : Nat} (hhead : headOfClass s kind unit 0x70 (fun _ => true) = some (qi, i, ent))
    (hkind : kind = 1 ∨ kind = 2) :
    lendSt kind unit s = { issue kind unit qi i ent s with
      run := { (issue kind unit qi i ent s).run with
        lends := (issue kind unit qi i ent s).run.lends ++ [(kind, unit, lendThread (tOp ent), lendAs (tOp ent))] } } := by
  have hengine : (kind != 1 && kind != 2) = false := by rcases hkind with rfl | rfl <;> rfl
  simp only [lendSt, hhead, hengine, Bool.false_eq_true, if_false]

/-- Settles O33: with its gates open and its streams read `CHAIN` runs to its stores; `LEND` lends a matrix or vector engine. -/
theorem vectorAndLendCommandsComplete : Obligations.VectorAndLendCommandsComplete := by
  unfold Obligations.VectorAndLendCommandsComplete
  refine ⟨?chain, ?lend⟩
  case chain =>
    intro s ve qi i ent e ins hhead henv hgate
    dsimp only
    intro hstreams
    show Host.Outcome.next (chainSt ve s) = _
    rw [chainSt_of_gates_open hhead henv hgate]
    simp only [chainRun, hstreams, beq_iff_eq]
  case lend =>
    intro s kind unit qi i ent hhead hkind
    exact congrArg Host.Outcome.next (lendSt_of_engine hhead hkind)

/-! Threads and their waits (R138 to R140). -/

section
variable {s : State} {gc ht : Nat} {h : HThread}

/-- `CORE` starts its thread on the lowest hardware thread that is free. -/
theorem coreSt_starts_thread {qi i ent : Nat} (hhead : headOfClass s 3 gc 0x20 (fun _ => true) = some (qi, i, ent))
    (hfree : (List.range 8).find? (fun ht => (spGet? (htKey gc ht) s.run.threads).isNone) = some ht) :
    coreSt gc s = setHt gc ht (startThread ent) (issue 3 gc qi i ent s) := by
  simp only [coreSt, hhead, hfree]

theorem fenceSt_of_running (hruns : htRuns s gc ht = some h) : fenceSt gc ht s = setHt gc ht (retireIns h) (issued gc ht s) := by
  simp only [fenceSt, hruns]

/-- `CTR.WAIT` retires on a counter that is there already; otherwise its thread waits. -/
theorem ctrWaitSt_of_running (rs1 rs2 : Nat) (hruns : htRuns s gc ht = some h) :
    ctrWaitSt gc ht rs1 rs2 s = setHt gc ht
      (if xReg h rs2 % 2 ^ 32 ≤ ctrAt s (xReg h rs1) then retireIns h
       else { h with waitCtr := some (xReg h rs1, xReg h rs2 % 2 ^ 32) }) (issued gc ht s) := by
  simp only [ctrWaitSt, hruns]
  split <;> rfl

theorem ctrWaitEndSt_of_reached {c v : Nat} (hthread : spGet? (htKey gc ht) s.run.threads = some h) (hwaits : h.waitCtr = some (c, v))
    (hactive : s.run.active = true) (hreached : v ≤ ctrAt s c) :
    ctrWaitEndSt gc ht s = setHt gc ht (retireIns { h with waitCtr := none }) s := by
  simp only [ctrWaitEndSt, hthread, hwaits, hactive, hreached, decide_true, Bool.and_true, if_true]

/-- `CAR.WAIT` of an entry that has departed retires with its time. -/
theorem carWaitSt_of_departed {rs1 t : Nat} (rd : Nat) (hruns : htRuns s gc ht = some h) (hgone : departedAt s (xReg h rs1) = some t) :
    carWaitSt gc ht rs1 rd s = setHt gc ht (retireIns (setX h rd t)) (issued gc ht s) := by
  simp only [carWaitSt, hruns, hgone]

/-- `CAR.WAIT` of an entry that has still to depart waits for it. -/
theorem carWaitSt_of_pending {rs1 : Nat} (rd : Nat) (hruns : htRuns s gc ht = some h) (hpending : departedAt s (xReg h rs1) = none) :
    carWaitSt gc ht rs1 rd s = setHt gc ht { h with waitCar := some (xReg h rs1, rd) } (issued gc ht s) := by
  simp only [carWaitSt, hruns, hpending]

theorem carWaitEndSt_of_departed {k rd t : Nat} (hthread : spGet? (htKey gc ht) s.run.threads = some h) (hwaits : h.waitCar = some (k, rd))
    (hactive : s.run.active = true) (hgone : departedAt s k = some t) :
    carWaitEndSt gc ht s = setHt gc ht (retireIns (setX { h with waitCar := none } rd t)) s := by
  simp only [carWaitEndSt, hthread, hwaits, hactive, hgone]

theorem descXltSt_of_running {e : Env} (rs1 rs2 rd : Nat) (hruns : htRuns s gc ht = some h) (henv : envOf s = some e) :
    descXltSt gc ht rs1 rs2 rd s =
      setHt gc ht (retireIns (setX h rd ((xltAddr e (xReg h rs1) (xReg h rs2)).getD (2 ^ 64 - 1)))) (issued gc ht s) := by
  simp only [descXltSt, hruns, henv]

/-! `AMOADD.W` (R142, R143). That a core issues an instruction changes neither memory nor what the thread has counted. -/

@[simp] theorem issued_memory (gc ht : Nat) (s : State) : (issued gc ht s).memory = s.memory := rfl
@[simp] theorem regionsOf_issued (gc ht : Nat) (s : State) : regionsOf (issued gc ht s) = regionsOf s := rfl
@[simp] theorem recordedTotal_issued (gc ht : Nat) (s : State) (thread c : Nat) :
    recordedTotal (issued gc ht s) thread c = recordedTotal s thread c := rfl

/-- A counter that the thread has added to, or one of at most four, takes what goes beyond the recorded total. -/
theorem coreCount_of_room {c : Nat} (v rd : Nat) (hroom : (spGet? c h.adds).isSome = true ∨ h.adds.length < 4) :
    coreCount gc ht h c v rd s =
      let mine := spGet 0 c h.adds + v
      let before := recordedTotal s h.thread c
      let s1 := setHt gc ht (retireIns (setX { h with adds := spSet c mine h.adds } rd 0)) s
      addCtr c (mine - before)
        { s1 with run := { s1.run with
            totals := spSet h.thread (spSet c (max mine before) (spGet [] h.thread s.run.totals)) s.run.totals } } := by
  have hfits : ((spGet? c h.adds).isNone && decide (4 ≤ h.adds.length)) = false := by
    rcases hroom with hknown | hfew
    · simp [Option.isNone_eq_false_iff.2 hknown]
    · simp [hfew]
  simp only [coreCount, hfits, Bool.false_eq_true, if_false]

/-- On an aligned word of the counter window, `AMOADD.W` counts. -/
theorem amoaddSt_of_counter {rs1 r : Nat} (rs2 rd : Nat) (hruns : htRuns s gc ht = some h)
    (hregion : regionAt (regionsOf s) (xReg h rs1) = some r) (halign : xReg h rs1 % 4 = 0) (hrights : rgRights r &&& 3 = 3)
    (htier : rgTier r = 3) (hcounter : (rgPbase r + (xReg h rs1 - rgBase r)) / 4 < 65535) :
    amoaddSt gc ht rs1 rs2 rd s =
      coreCount gc ht h ((rgPbase r + (xReg h rs1 - rgBase r)) / 4) (xReg h rs2 % 2 ^ 32) rd (issued gc ht s) := by
  simp only [amoaddSt, hruns, regionsOf_issued, hregion, halign, hrights, htier, bne_self_eq_false, beq_self_eq_true, hcounter.not_ge,
    Bool.false_eq_true, if_false, if_true]

/-- On an aligned word of memory that can be read, `AMOADD.W` puts the sum in its place and breaks the reservations over it. -/
theorem amoaddSt_of_word {rs1 r : Nat} {l : List Byte} (rs2 rd : Nat) (hruns : htRuns s gc ht = some h)
    (hregion : regionAt (regionsOf s) (xReg h rs1) = some r) (halign : xReg h rs1 % 4 = 0) (hrights : rgRights r &&& 3 = 3)
    (htier : rgTier r ≠ 3) (hread : vaRead s.memory (regionsOf s) 3 (xReg h rs1) 4 = .ok l) :
    amoaddSt gc ht rs1 rs2 rd s = breakResv (xReg h rs1) 4
      (setHt gc ht (retireIns (setX h rd (ofSigned 64 (toSigned 32 (ofLe l)))))
        { issued gc ht s with memory := vaPut s.memory (regionsOf s) (xReg h rs1) (leBytes 4 (ofLe l + xReg h rs2 % 2 ^ 32)) }) := by
  simp only [amoaddSt, hruns, regionsOf_issued, issued_memory, hregion, halign, hrights, htier, hread, bne_self_eq_false, beq_iff_eq,
    Bool.false_eq_true, if_false]

/-! `ECALL` (R140). -/

/-- `ECALL` with `a7` = 0 offers its thread's commit. -/
theorem ecallSt_of_exit {e : Env} {i : InFlight} (hruns : htRuns s gc ht = some h) (henv : envOf s = some e) (hexit : xReg h 17 = 0)
    (hflight : findFlight s h.thread = some i) : ecallSt gc ht s = commitFlight e { i with done := true } (issued gc ht s) := by
  have hflight' : findFlight (issued gc ht s) h.thread = some i := hflight
  simp only [ecallSt, hruns, henv, hexit, hflight', bne_self_eq_false, Bool.false_eq_true, if_false]

end

/-- Settles O34: each command's meaning under its clause's conditions; `CAR.WAIT` by whether the entry has departed. -/
theorem coreCommandsComplete : Obligations.CoreCommandsComplete := by
  unfold Obligations.CoreCommandsComplete
  refine ⟨?core, ?fence, ?ctrWait, ?ctrWaitEnd, ?carWait, ?carWaitEnd, ?descXlt, ?addWord, ?addCounter, ?ecall⟩
  case core =>
    intro s gc ht qi i ent hhead hfree
    exact congrArg Host.Outcome.next (coreSt_starts_thread hhead hfree)
  case fence =>
    intro s gc ht h hruns
    exact congrArg Host.Outcome.next (fenceSt_of_running hruns)
  case ctrWait =>
    intro s gc ht rs1 rs2 h hruns
    exact congrArg Host.Outcome.next (ctrWaitSt_of_running rs1 rs2 hruns)
  case ctrWaitEnd =>
    intro s gc ht c v h hthread hwaits hactive hreached
    exact congrArg Host.Outcome.next (ctrWaitEndSt_of_reached hthread hwaits hactive hreached)
  case carWait =>
    intro s gc ht rs1 rd h hruns
    cases hgone : departedAt s (xReg h rs1) with
    | some t => exact congrArg Host.Outcome.next (carWaitSt_of_departed rd hruns hgone)
    | none => exact congrArg Host.Outcome.next (carWaitSt_of_pending rd hruns hgone)
  case carWaitEnd =>
    intro s gc ht k rd t h hthread hwaits hactive hgone
    exact congrArg Host.Outcome.next (carWaitEndSt_of_departed hthread hwaits hactive hgone)
  case descXlt =>
    intro s gc ht rs1 rs2 rd h e hruns henv
    exact congrArg Host.Outcome.next (descXltSt_of_running rs1 rs2 rd hruns henv)
  case addWord =>
    intro s gc ht rs1 rs2 rd r h l hruns hregion halign hrights htier hread
    exact congrArg Host.Outcome.next (amoaddSt_of_word rs2 rd hruns hregion halign hrights htier hread)
  case addCounter =>
    rintro s gc ht rs1 rs2 rd r c h hruns hregion halign hrights htier rfl hcounter hroom
    exact congrArg Host.Outcome.next
      ((amoaddSt_of_counter rs2 rd hruns hregion halign hrights htier hcounter).trans (coreCount_of_room _ rd hroom))
  case ecall =>
    intro s gc ht h e i hruns henv hexit hflight
    exact congrArg Host.Outcome.next (ecallSt_of_exit hruns henv hexit hflight)

end Sys2Proof.Proofs
end

section
/-! PROOFS. The run: a commit with nothing in its way lands its thread (R119), a run whose queues can never go on fails (R123), and the
run's start, departures, boundaries and end (R121, R311, R314, R315, R427). -/

namespace Sys2Proof.Proofs

open Sys2Proof.Machine Sys2Proof.Safety Sys2Proof.Laws

/-! The commit (R119). -/

/-- Among read-modify-writes that may all go on, none meets a wait, a breach or a spilled slot. -/
theorem find_wgbMeets_eq_none {s : State} {im : Image} {l : List WgbAdd} (hmeets : l.all (fun a => wgbMeets s im a == 0) = true) {k : Nat}
    (hk : k ≠ 0) : (l.map (fun a => (wgbMeets s im a, a))).find? (fun m => m.1 == k) = none := by
  rw [List.find?_eq_none]
  intro m hm
  obtain ⟨a, ha, rfl⟩ := List.mem_map.1 hm
  have hfree : wgbMeets s im a = 0 := by simpa using List.all_eq_true.1 hmeets a ha
  simpa [hfree] using hk.symm

/-- A thread that has not failed, waits for no flush and meets free slots lands. -/
theorem commitFlight_lands {s : State} {e : Env} {i : InFlight} (hfail : i.fail = 0) :
    let s1 := if i.kind = 4 then landCistern i e s else s
    s1.run.active = true → s1.kv.waiting.all (fun w => w.thread != i.thread) = true →
    i.wgb.all (fun a => wgbMeets s1 e.im a == 0) = true → commitFlight e i s = landThread (envAfter e s1) i s1 := by
  intro s1 hactive hwaiting hmeets
  have hs1 : (if i.kind == 4 then landCistern i e s else s) = s1 := by simp only [beq_iff_eq, s1]
  have hunheld : s1.kv.waiting.any (fun w => w.thread == i.thread) = false := by
    simpa using hwaiting
  have hnoWait : (i.wgb.map (fun a => (wgbMeets s1 e.im a, a))).any (fun m => m.1 == 1) = false := by
    simpa using List.find?_eq_none.1 (find_wgbMeets_eq_none hmeets one_ne_zero)
  simp only [commitFlight, hfail, hs1, hactive, hunheld, hnoWait, find_wgbMeets_eq_none hmeets (k := 3) (by decide),
    find_wgbMeets_eq_none hmeets (k := 2) (by decide), bne_self_eq_false, Bool.not_true, Bool.or_self, Bool.false_eq_true, if_false]

/-- `TILE_THREAD_COMMIT` of a thread that may commit commits it. -/
theorem commitSt_of_mayCommit {s : State} {thread : Nat} {e : Env} {i : InFlight} (henv : envOf s = some e)
    (hflight : findFlight s thread = some i) (hmay : mayCommit s e.im i = true) : commitSt thread s = commitFlight e i s := by
  simp only [commitSt, henv, hflight, hmay, if_true]

/-! The deadlock (R123). -/

/-- The fault of a queue whose next entry waits on a counter. -/
def logUnmetWait (s t : State) (q : Queue × Option Nat) : State :=
  match q.2 with
  | none => t
  | some ent => addThreadFault q.1.kind q.1.unit (tThread ent) 0x0403 1 (unmetCtr s ent) 0 t

/-- A run with nothing in flight and nothing due, each of whose open queues waits on a counter, fails with 0x0403. -/
theorem deadlockSt_of_all_waiting {s : State} {e : Env} (henv : envOf s = some e) (hgoes : runGoes s = true)
    (hflight : s.run.inflight = []) (hopen : openQueues s e.im ≠ [])
    (hwait : ∀ q ∈ openQueues s e.im, ∃ ent, q.2 = some ent ∧ waitsMet s q.1.kind ent = false) (hpast : s.reductions.past = [])
    (hdeparted : ∀ k < e.im.car.entries.length, hasDeparted s k s.run.step = true) (hdue : receptionDue s e = false) :
    deadlockSt s = failRun 0x0403 ((openQueues s e.im).foldl (logUnmetWait s) s) := by
  simp only [deadlockSt, henv]
  rw [if_neg]
  · rfl
  · simp only [hgoes, hflight, hpast, hdue, List.isEmpty_nil, Bool.not_true, Bool.true_and, Bool.or_false, Bool.false_or, Bool.or_eq_true,
      Bool.not_eq_true', List.isEmpty_iff, hopen, false_or, not_or, Bool.not_eq_false, List.all_eq_true, List.mem_range]
    refine ⟨fun q hq => ?_, hdeparted⟩
    obtain ⟨ent, hent, hunmet⟩ := hwait q hq
    simp only [hent, hunmet, Bool.not_false]

/-- Settles O39: a thread that may commit lands; a run whose queues all wait on what nothing due can meet fails. -/
theorem commitAndDeadlockComplete : Obligations.CommitAndDeadlockComplete := by
  unfold Obligations.CommitAndDeadlockComplete
  refine ⟨?commit, ?deadlock⟩
  case commit =>
    intro s thread e i
    dsimp only
    intro henv hflight hmay hfail hactive hwaiting hmeets
    exact congrArg Host.Outcome.next
      ((commitSt_of_mayCommit henv hflight hmay).trans (commitFlight_lands hfail hactive hwaiting hmeets))
  case deadlock =>
    intro s e henv hgoes hflight hopen hwait hpast hdeparted hdue
    exact congrArg Host.Outcome.next (deadlockSt_of_all_waiting henv hgoes hflight hopen hwait hpast hdeparted hdue)

/-! Start and end (R426, R427). -/

/-- A queued run whose first origin has come begins its first step. -/
theorem runStartSt_at_origin {s : State} {sid h : Nat} {o : Op} (hfind : findOp s.sessions sid h = some o) (hopcode : o.opcode = 0x0403)
    (hqueued : o.state = 0) (hactive : s.run.active = true) (hbegun : s.run.begun = false) (hsid : s.run.sid = sid)
    (hhandle : s.run.handle = h) (horigin : s.run.origin ≤ s.time.now) :
    runStartSt sid h s =
      let s0 := { s with
        sessions := modOp s.sessions sid h (fun o => { o with queuedAwake := awakeNs s - (nowNs s - s.run.origin >>> 16) }) }
      signalLinks (leaveNow (applyCaravanOps { beginOp sid h s0 with run := { s.run with begun := true, lastBegun := s.run.step } })) := by
  simp [runStartSt, hfind, hopcode, hqueued, hactive, hbegun, hsid, hhandle, horigin.not_gt]

/-- A run that is past its last boundary and has settled is done. -/
theorem runCompleteSt_of_settled {s : State} {sid h : Nat} (hactive : s.run.active = true) (hfinishing : s.run.finishing = true)
    (hsid : s.run.sid = sid) (hhandle : s.run.handle = h) (hretire : s.run.retireAt = none) (hsettled : stepSettled s = true) :
    runCompleteSt sid h s = doneRun (if reducesStep s = true then nextVersions s else s) := by
  simp [runCompleteSt, hactive, hfinishing, hsid, hhandle, hretire, hsettled]

/-! Departures (R311, R314, R315). -/

/-- A departure of entry `k` for step `st` at `ns`: it wakes the module and is recorded, whether or not the entry fires. -/
def noteDeparture (k st ns : Nat) (s : State) : State :=
  let w := wakeUp (some 4) s
  prunePast { w with reductions := { w.reductions with departures := w.reductions.departures ++ [(k, st, ns)] } }

/-- An entry whose turn and time have come departs. One that fires acts at once, or, where it belongs to the next step, at its
boundary. -/
theorem departSt_of_due {s : State} {k st count origin : Nat} {im : Image} {es : List Nat} (himage : s.image = some im)
    (hactive : s.run.active = true) (hbegun : s.run.begun = true)
    (hstep : (carSteps s im).find? (fun c => decide (k < c.2.2.2.length) && !hasDeparted s k c.1) = some (st, count, origin, es))
    (hbefore : ∀ x ∈ es.zipIdx, (carOffset x.1 < carOffset (es.getD k 0) ∨ carOffset x.1 = carOffset (es.getD k 0) ∧ x.2 < k) →
      hasDeparted s x.2 st = true)
    (htime : origin + carOffset (es.getD k 0) ≤ s.time.now) (hnear : st ≠ (s.run.step + 2) % 2 ^ 32) :
    departSt k s =
      let s1 := noteDeparture k st ((origin + carOffset (es.getD k 0)) >>> 16) s
      if firesOn s count (es.getD k 0) = true then
        if st = (s.run.step + 1) % 2 ^ 32 then { s1 with reductions := { s1.reductions with early := s1.reductions.early ++ [k] } }
        else carAction (es.getD k 0) st ((origin + carOffset (es.getD k 0)) >>> 16) s1
      else s1 := by
  have hturn : es.zipIdx.any (fun x => (carOffset x.1 < carOffset (es.getD k 0) ||
      (carOffset x.1 == carOffset (es.getD k 0) && x.2 < k)) && !hasDeparted s x.2 st) = false := by
    rw [List.any_eq_false]
    intro x hx
    simpa using hbefore x hx
  simp only [departSt, himage, hactive, hbegun, hstep, hturn, htime.not_gt, beq_iff_eq, hnear, Bool.not_true, Bool.or_self,
    Bool.false_eq_true, decide_false, if_false]
  cases firesOn s count (es.getD k 0) with
  | true => rfl
  | false => rfl

/-! The boundary (R121, R197). -/

/-- The step's end as recorded: the KV part of the boundary, the backward acknowledgement, and the sums that a module exchanges with
itself alone. -/
def recordedBoundary (e : Env) (s : State) : State :=
  let s2 := sendBwdAck (kvBoundary s)
  recordStep (if reducesStep s2 = true ∧ hasRecordColl e.im = false then exchangeLocal s2 else s2)

/-- A boundary that is due, with no period cut short, records its step and goes on to a retirement, the run's end or the next step. -/
theorem boundarySt_of_due {s : State} {e : Env} (henv : envOf s = some e) (hdue : boundaryDue s = true) (hshort : shortSlots s e.im = [])
    (hkv : (kvBoundary s).run.active = true) (hack : (sendBwdAck (kvBoundary s)).run.active = true)
    (hrecord : (recordedBoundary e s).run.active = true) :
    boundarySt s =
      if retiresNow (recordedBoundary e s) = true then
        retireNotice (applySets { recordedBoundary e s with run := freshRun e.im (recordedBoundary e s).run })
      else if wasLast (recordedBoundary e s) = true then lastStep e (retireUnsent (recordedBoundary e s))
      else nextStep e (retireUnsent (recordedBoundary e s)) := by
  have hs3 : recordStep (if (reducesStep (sendBwdAck (kvBoundary s)) && !hasRecordColl e.im) = true then
      exchangeLocal (sendBwdAck (kvBoundary s)) else sendBwdAck (kvBoundary s)) = recordedBoundary e s := by
    simp only [recordedBoundary, Bool.and_eq_true, Bool.not_eq_true']
  simp only [boundarySt, henv, hdue, hshort, hkv, hack, hs3, hrecord, List.isEmpty_nil, Bool.not_true, Bool.false_eq_true, if_false]

/-- Settles O40: the start, a departure by whether its entry fires and for which step, the boundary by what follows it, and the end. -/
theorem runProgressComplete : Obligations.RunProgressComplete := by
  unfold Obligations.RunProgressComplete
  refine ⟨?start, ?departure, ?boundary, ?complete⟩
  case start =>
    intro s sid h o hfind hopcode hqueued hactive hbegun hsid hhandle horigin
    exact congrArg Host.Outcome.next (runStartSt_at_origin hfind hopcode hqueued hactive hbegun hsid hhandle horigin)
  case departure =>
    intro s k st count origin im es himage hactive hbegun hstep
    dsimp only
    intro hbefore htime hnear
    have hdeparts : exec (.caravanDeparture k) s = .next _ := congrArg Host.Outcome.next
      (departSt_of_due himage hactive hbegun hstep hbefore htime hnear)
    refine ⟨fun hsilent => ?_, fun hfires hnext => ?_, fun hfires hnow => ?_⟩
    · exact hdeparts.trans (congrArg _ (if_neg (Bool.eq_false_iff.1 hsilent)))
    · exact hdeparts.trans (congrArg _ ((if_pos hfires).trans (if_pos hnext)))
    · exact hdeparts.trans (congrArg _ ((if_pos hfires).trans (if_neg hnow)))
  case boundary =>
    intro s e henv hdue hshort s1 s2 s3 hkv hack hrecord
    have hs3 : s3 = recordedBoundary e s := rfl
    clear_value s3
    subst hs3
    have hends : exec .stepBoundary s = .next _ := congrArg Host.Outcome.next
      (boundarySt_of_due henv hdue hshort hkv hack hrecord)
    refine ⟨fun hretires => ?_, fun hstays hlast => ?_, fun hstays hgoes => ?_⟩
    · rw [hends, if_pos hretires]
    · rw [hends, if_neg (Bool.eq_false_iff.1 hstays), if_pos hlast]
      rfl
    · rw [hends, if_neg (Bool.eq_false_iff.1 hstays), if_neg (Bool.eq_false_iff.1 hgoes)]
  case complete =>
    intro s sid h hactive hfinishing hsid hhandle hretire hsettled
    exact congrArg Host.Outcome.next (runCompleteSt_of_settled hactive hfinishing hsid hhandle hretire hsettled)

end Sys2Proof.Proofs
end

section
/-! PROOFS. The stem engines: an entry with its gates open and its samples read runs its operation (R163, R165), and what an embedding and
a weight gradient leave with their thread (R166, R167). -/

namespace Sys2Proof.Proofs

open Sys2Proof.Machine Sys2Proof.Safety Sys2Proof.Laws

/-! Issue and samples (R163, R165). -/

section
variable {s : State} {st qi i ent bad : Nat} {e : Env} {ns : List FV}

/-- An embedding that neither of its two inputs holds back runs on the samples read after its issue. Index 0 names no tensor, and so
nothing to wait for. -/
theorem stemRun_embed_of_gates_open (g : State → Env → Nat → List FV → State)
    (hhead : headOfClass s 6 st 0x50 (fun x => x == 0x50) = some (qi, i, ent)) (henv : envOf s = some e)
    (hgateE : gateOf s e (sE (tOp ent)) (List.range (elemCount (descOf e.im (sE (tOp ent))))) = 0)
    (hgateBias : sBias (tOp ent) = 0 ∨
      gateOf s e (sBias (tOp ent)) (List.range (elemCount (descOf e.im (sBias (tOp ent))))) = 0) :
    let s1 := takeScales [sY (tOp ent)] (issue 6 st qi i ent s)
    allSamples (envAfter e s1) (tOp ent) = .ok (ns, bad) →
    stemRun st 0x50 g s = g (countFormat bad s1) (envAfter e s1) ent ns := by
  intro s1 hsamples
  have hbias : (if sBias (tOp ent) ≠ 0 then
      gateOf s e (sBias (tOp ent)) (List.range (elemCount (descOf e.im (sBias (tOp ent))))) else 0) = 0 := by
    rcases hgateBias with hunnamed | hready
    · simp [hunnamed]
    · simp [hready]
  have hs1 : takeScales [sY (tOp ent)] (issue 6 st qi i ent s) = s1 := rfl
  simp [stemRun, hhead, henv, hgateE, hbias, hs1, hsamples]

/-- A weight gradient waits for no input: it runs on the samples read after its issue. -/
theorem stemRun_weightGradient (g : State → Env → Nat → List FV → State)
    (hhead : headOfClass s 6 st 0x50 (fun x => x == 0x51) = some (qi, i, ent)) (henv : envOf s = some e)
    (hsamples : allSamples (envAfter e (issue 6 st qi i ent s)) (tOp ent) = .ok (ns, bad)) :
    stemRun st 0x51 g s = g (countFormat bad (issue 6 st qi i ent s)) (envAfter e (issue 6 st qi i ent s)) ent ns := by
  simp [stemRun, hhead, henv, hsamples]

end

/-- The bias that an embedding adds: none where the word names none (log entry 97), else the tensor read. -/
theorem readBias_eq_ok {e : Env} {o : Nat} {bias : List FV}
    (hbias : sBias o = 0 ∧ bias = [] ∨ sBias o ≠ 0 ∧ readTensor e (sBias o) = .ok bias) :
    (if sBias o = 0 then .ok [] else readTensor e (sBias o)) = .ok bias := by
  rcases hbias with ⟨hunnamed, rfl⟩ | ⟨hnamed, hread⟩
  · rw [if_pos hunnamed]
  · rw [if_neg hnamed, hread]

/-- Settles O37: past its gates and reads an embedding runs to its store, and a weight gradient to its P40 additions. That index 0 of
`DESC_BIAS` adds no bias and forms no bias gradient is the choice of log entry 97. -/
theorem stemCommandsComplete : Obligations.StemCommandsComplete := by
  unfold Obligations.StemCommandsComplete
  refine ⟨?embed, ?weightGradient⟩
  case embed =>
    intro s st qi i ent bad e ns em bias hhead henv hgateE hgateBias _
    dsimp only
    intro hsamples hem hbias
    show Host.Outcome.next (stemRun st 0x50 (embedRun st) s) = _
    rw [stemRun_embed_of_gates_open (embedRun st) hhead henv hgateE hgateBias hsamples]
    simp only [embedRun, hem, beq_iff_eq, readBias_eq_ok hbias]
  case weightGradient =>
    intro s st qi i ent bad e ns dy hhead henv
    dsimp only
    intro hsamples hdy
    show Host.Outcome.next (stemRun st 0x51 (stemGradRun st) s) = _
    rw [stemRun_weightGradient (stemGradRun st) hhead henv hsamples]
    simp only [stemGradRun, hdy, beq_iff_eq]

end Sys2Proof.Proofs
end

section
/-! PROOFS. KV pools, sequences and edits: what each command's part answers once its checks pass, and that an edit whose part answers
carries its table areas with it (R183, R184, R186, R188, R192, R193, R433). -/

namespace Sys2Proof.Proofs

open Sys2Proof.Machine Sys2Proof.Safety Sys2Proof.Laws

/-! What the commands share. -/

/-- A row whose edits reach the table areas completes with what its part answers, the areas brought up to that answer's state. -/
theorem completes_of_tabled {opc : Nat} {c : Datagram → Instr} {part ans : Part} {P : State → Session → Datagram → Prop}
    (hx : ∀ s d, exec (c d) s = .next (ycp opc (c d) (tabled part) d s)) (hne : opc ≠ 0x0804)
    (hp : ∀ s x d, P s x d → part s x d = ans s x d) (hc : ∀ s x d, (ans s x d).code = 0) : Completes opc c P (tabled ans) :=
  completes_of_code_zero hx hne (fun s x d h => by simp only [tabled, hp s x d h]) hc

/-- An eviction budget is admitted where it is 0, for none, or covers the sink and the recent pages. -/
theorem budget_admitted {budget sink recent : Nat} (h : budget = 0 ∨ sink + recent ≤ budget) :
    (budget != 0 && decide (budget < sink + recent)) = false := by
  rcases h with hnone | hcovers
  · simp [hnone]
  · simp [hcovers.not_gt]

/-! Pools (R183, Table 7.10). -/

/-- `KV_POOL_CREATE` of an unused number, with a record that keeps its rules and ranges that the module may use, sets up an empty pool. -/
theorem kvPoolCreatePart_accepts {s : State} (x : Session) {d : Datagram} {im : Image} (himage : s.image = some im)
    (hversion : bits (prm d 64 512) 0 16 ≤ 1) (hunused : poolOf s (prm d 0 4) = none) (hfields : poolFieldsOk (prm d 64 512) = true)
    (hgrad : pGrad (prm d 64 512) ≤ im.descs.length) (hgradOk : poolGradOk im (prm d 64 512) = true)
    (hpages : rangeCode s (pPageBase (prm d 64 512)) (pPages (prm d 64 512) * pageSize (prm d 64 512)) = 0)
    (hcisterns : rangeCode s (pCisBase (prm d 64 512)) (cisSize (prm d 64 512)) = 0)
    (htables : rangeCode s (pTableBase (prm d 64 512)) (256 * pTableUnits (prm d 64 512)) = 0) :
    kvPoolCreatePart s x d =
      ansOk (setPool (prm d 0 4) { record := prm d 64 512, pages := [], units := 0, deferred := [] } s) := by
  simp [kvPoolCreatePart, himage, hversion.not_gt, hunused, hfields, hgrad.not_gt, hgradOk, hpages, hcisterns, htables, firstCode]

/-- `KV_POOL_DESTROY` of a pool without sequences removes it. -/
theorem kvPoolDestroyPart_accepts {s : State} (x : Session) {d : Datagram} {p : Pool} (himage : s.image ≠ none)
    (hpool : poolOf s (prm d 0 4) = some p) (hunused : s.kv.seqs.any (fun q => q.2.pool == prm d 0 4) = false) :
    kvPoolDestroyPart s x d = ansOk { s with kv := { s.kv with pools := spDel (prm d 0 4) s.kv.pools } } := by
  simp only [kvPoolDestroyPart, Option.isNone_eq_false_iff.2 (Option.isSome_iff_ne_none.2 himage), hpool, hunused, Option.isNone_some,
    Bool.false_eq_true, if_false]

/-- Table areas are memory alone: bringing them up to date, and with that the completion of deferred frees, leaves the image. -/
@[simp] theorem putPages_image (old : Option Pool) (p : Pool) (s : State) : (putPages old p s).image = s.image := by
  unfold putPages
  cases old with
  | none => rfl
  | some p0 => exact List.foldlRecOn (motive := fun t : State => t.image = s.image) _ _ rfl (fun _ ih _ _ => ih)

@[simp] theorem syncPages_image (s t : State) : (syncPages s t).image = t.image :=
  List.foldlRecOn (motive := fun u : State => u.image = t.image) _ _ rfl
    (fun u ih x _ => (putPages_image (poolOf s x.1) x.2 u).trans ih)

@[simp] theorem settleFrees_image (s : State) : (settleFrees s).image = s.image := syncPages_image s _

/-- `KV_PAGE_READ` of 1 to 64 pages of a pool answers their entries, deferred frees that are due having completed. -/
theorem kvPageReadPart_accepts {s : State} (x : Session) {d : Datagram} {p : Pool} (himage : s.image ≠ none)
    (hpool : poolOf (settleFrees s) (prm d 0 4) = some p) (hsome : 1 ≤ prm d 64 8) (hmost : prm d 64 8 ≤ 64)
    (hrange : prm d 32 32 + prm d 64 8 ≤ pPages p.record) :
    kvPageReadPart s x d = ansBytes (settleFrees s)
      ((List.range (prm d 64 8)).flatMap (fun i => pageBytes (pageOf p (prm d 32 32 + i)))) := by
  simp [kvPageReadPart, himage, hpool, Nat.ne_of_gt hsome, hmost.not_gt, hrange.not_gt]

/-! Sequences (R184, R186, R188). -/

/-- `KV_SEQ_CREATE` of an unused number, with room for its directory, gives a sequence of no pages whose cisterns are empty, in the next
epoch (log entries 24 and 50). -/
theorem kvSeqCreatePart_accepts {s : State} (x : Session) {d : Datagram} {p : Pool} {us : List Nat} (himage : s.image ≠ none)
    (hpool : poolOf (settleFrees s) (prm d 16 4) = some p) (hown : prm d 20 1 = 0) (hfew : s.kv.seqs.length < 4096)
    (hunused : seqOf s (prm d 0 12) = none) (hbudget : prm d 32 16 = 0 ∨ prm d 48 8 + prm d 56 8 ≤ prm d 32 16)
    (hcisterns : cisRange s p.record (prm d 0 12) = 0) (hroom : dirUnits 0 ≤ unitsFree p)
    (hplace : placeTables (settleFrees s) (prm d 16 4) p [dirUnits 0] = some us) :
    kvSeqCreatePart s x d =
      (let q : KvSeq := { pool := prm d 16 4, gen := 0, hostTag := prm d 64 32, budget := prm d 32 16, sink := prm d 48 8,
                          recent := prm d 56 8, dir := unitAddr p.record (us.headD 0), leaves := [], leafAt := [] }
      let s1 := setSeq (prm d 0 12) q
        (setPool (prm d 16 4) { p with units := p.units + dirUnits 0 } { settleFrees s with free := s.free + 1 })
      ansOk (emptyCisterns p.record (prm d 0 12) { s1 with kv := { s1.kv with epoch := (s1.kv.epoch + 1) % 2 ^ 64 } })) := by
  simp only [kvSeqCreatePart, Option.isNone_eq_false_iff.2 (Option.isSome_iff_ne_none.2 himage), hpool, hown, hfew.not_ge, hunused,
    budget_admitted hbudget, hcisterns, hroom.not_gt, hplace, Option.isSome_none, bne_self_eq_false, Nat.reduceBEq, Bool.false_eq_true,
    if_false]

/-- `KV_SEQ_SET` with an admitted budget replaces the eviction settings and the tag. -/
theorem kvSeqSetPart_accepts {s : State} (x : Session) {d : Datagram} {q : KvSeq} {p : Pool}
    (hedit : editSeq s (prm d 0 12) (prm d 16 16) = .ok (q, p))
    (hbudget : prm d 32 16 = 0 ∨ prm d 48 8 + prm d 56 8 ≤ prm d 32 16) :
    kvSeqSetPart s x d = ansOk (setSeq (prm d 0 12)
      { q with budget := prm d 32 16, sink := prm d 48 8, recent := prm d 56 8, hostTag := prm d 64 32 } s) := by
  simp only [kvSeqSetPart, hedit, budget_admitted hbudget, Bool.false_eq_true, if_false]

/-- `KV_TABLE_READ` of a live sequence answers its record. -/
theorem kvTableReadPart_accepts {s : State} (x : Session) {d : Datagram} {q : KvSeq} (himage : s.image ≠ none)
    (hseq : seqOf s (prm d 0 12) = some q) : kvTableReadPart s x d = ansBody s (seqRecord (prm d 0 12) q) 64 := by
  simp only [kvTableReadPart, Option.isNone_eq_false_iff.2 (Option.isSome_iff_ne_none.2 himage), hseq, Bool.false_eq_true, if_false]

/-- Settles O11: past its checks each part answers code 0. Where a new directory lies, and that a creation begins a new epoch, are the
choices of log entries 24 and 50. -/
theorem kvPoolAndSequenceCommandsComplete : Obligations.KvPoolAndSequenceCommandsComplete := by
  unfold Obligations.KvPoolAndSequenceCommandsComplete
  refine ⟨?poolCreate, ?poolDestroy, ?seqCreate, ?seqSet, ?tableRead, ?pageRead⟩
  case poolCreate =>
    intro im
    refine completes_of_tabled (fun _ _ => rfl) (by decide) ?_ (fun _ _ _ => rfl)
    rintro s x d ⟨himage, hversion, hunused, hfields, hgrad, hgradOk, hpages, hcisterns, htables⟩
    exact kvPoolCreatePart_accepts x himage hversion hunused hfields hgrad hgradOk hpages hcisterns htables
  case poolDestroy =>
    intro p
    refine completes_of_code_zero (fun _ _ => rfl) (by decide) ?_ (fun _ _ _ => rfl)
    rintro s x d ⟨himage, hpool, hunused⟩
    exact kvPoolDestroyPart_accepts x himage hpool hunused
  case seqCreate =>
    intro p us
    refine completes_of_tabled (fun _ _ => rfl) (by decide) ?_ (fun _ _ _ => rfl)
    rintro s x d ⟨himage, hpool, hown, hfew, hunused, hbudget, hcisterns, hroom, hplace⟩
    exact kvSeqCreatePart_accepts x himage hpool hown hfew hunused hbudget hcisterns hroom hplace
  case seqSet =>
    intro q p
    refine completes_of_code_zero (fun _ _ => rfl) (by decide) ?_ (fun _ _ _ => rfl)
    rintro s x d ⟨hedit, hbudget⟩
    exact kvSeqSetPart_accepts x hedit hbudget
  case tableRead =>
    intro q
    refine completes_of_code_zero (fun _ _ => rfl) (by decide) ?_ (fun _ _ _ => rfl)
    rintro s x d ⟨himage, hseq⟩
    exact kvTableReadPart_accepts x himage hseq
  case pageRead =>
    intro p
    refine completes_of_code_zero (fun _ _ => rfl) (by decide) ?_ (fun _ _ _ => rfl)
    rintro s x d ⟨himage, hpool, hsome, hmost, hrange⟩
    exact kvPageReadPart_accepts x himage hpool hsome hmost hrange

/-! Edits that name a generation (R188, R192, R433). Each reads and writes the state in which the deferred frees that are due have
completed. -/

/-- `KV_FORK` to an unused number, with room for its tables, gives a copy of the sequence that shares its pages, in the next epoch
(log entries 24 and 50). -/
theorem kvForkPart_accepts {s : State} (x : Session) {d : Datagram} {q : KvSeq} {p : Pool} {us : List Nat}
    (hedit : editSeq (settleFrees s) (prm d 0 12) (prm d 16 16) = .ok (q, p)) (hfew : (settleFrees s).kv.seqs.length < 4096)
    (hunused : seqOf (settleFrees s) (prm d 32 12) = none) (hcisterns : cisRange (settleFrees s) p.record (prm d 32 12) = 0)
    (hroom : dirUnits q.leaves.length + q.leaves.length * leafUnits p.record ≤ unitsFree p)
    (hread : cisternsFault (settleFrees s) p.record (prm d 0 12) = none)
    (hplace : placeTables (settleFrees s) q.pool p (dirUnits q.leaves.length :: q.leaves.map (fun _ => leafUnits p.record)) = some us) :
    kvForkPart s x d =
      (let t := settleFrees s
      let p1 := (livePages q.leaves).foldl (fun p n => sharePage n p)
        { p with units := p.units + (dirUnits q.leaves.length + q.leaves.length * leafUnits p.record) }
      let s1 := setSeq (prm d 32 12) { q with gen := 0, hostTag := prm d 64 32, dir := unitAddr p.record (us.headD 0), leafAt := us.tail }
        (setPool q.pool p1 { t with free := t.free + 1 })
      ansBody (copyCisterns p.record (prm d 0 12) (prm d 32 12)
        { s1 with kv := { s1.kv with epoch := (s1.kv.epoch + 1) % 2 ^ 64 } }) 0 2) := by
  simp only [kvForkPart, hedit, hfew.not_ge, hunused, hcisterns, hroom.not_gt, hread, hplace, Option.isSome_none, bne_self_eq_false,
    Bool.false_eq_true, if_false]

/-- `KV_SEQ_RETIRE` of a sequence at its generation drops its pages and defers its tables, and the frees that no pin holds complete. -/
theorem kvSeqRetirePart_accepts {s : State} (x : Session) {d : Datagram} {q : KvSeq} {p : Pool}
    (hedit : editSeq s (prm d 0 12) (prm d 16 16) = .ok (q, p)) :
    kvSeqRetirePart s x d =
      (let old := dirUnits q.leaves.length + q.leaves.length * leafUnits p.record
      let p1 := (livePages q.leaves).foldl (fun p n => dropPage s.kv.epoch n p)
        { p with units := p.units - old, deferred := p.deferred ++ (staleUnits p.record q []).map (s.kv.epoch, ·) }
      let s1 := setPool q.pool p1 s
      ansOk (settleFrees { s1 with kv := { s1.kv with
        seqs := spDel (prm d 0 12) s1.kv.seqs, epoch := (s.kv.epoch + 1) % 2 ^ 64 } })) := by
  simp only [kvSeqRetirePart, hedit]

/-- The cisterns of the streams that a truncation to a position shortens: each takes the rows of the page that the position falls in, and
counts them. -/
def reopenCisterns (r id : Nat) (q : KvSeq) (cut : List Nat) (pos : Nat) (s : State) : State :=
  cut.foldl (fun t st => putHead r id st (pos % 128) 0 (match (streamPages q st)[pos / 128]? with
    | some page => decodeInto r id st page (pos % 128) t
    | none => t)) s

/-- `KV_TRUNCATE` that shortens some streams and can read and publish what it needs answers the next generation, its cisterns reopened. -/
theorem kvTruncatePart_accepts {s s1 : State} (x : Session) {d : Datagram} {q : KvSeq} {p : Pool} {cut : List Nat}
    (hcut : (List.range (pStreams p.record)).filter
      (fun st => prm d 64 32 < streamLen (settleFrees s) p.record (prm d 0 12) q st) = cut)
    (hedit : editSeq (settleFrees s) (prm d 0 12) (prm d 16 16) = .ok (q, p)) (hshortens : cut ≠ [])
    (hread : truncateFault (settleFrees s) p.record (prm d 0 12) q cut (prm d 64 32) = none)
    (hpublish : publishSeq (prm d 0 12) (truncated q cut (prm d 64 32 / 128)) (truncatedDrops q cut (prm d 64 32 / 128))
      (settleFrees s) = some s1) :
    kvTruncatePart s x d = ansBody (reopenCisterns p.record (prm d 0 12) q cut (prm d 64 32) s1) ((q.gen + 1) % 65536) 2 := by
  simp only [truncated, truncatedDrops] at hpublish
  simp only [kvTruncatePart, hedit, hcut, hread, List.isEmpty_eq_false_iff.2 hshortens, hpublish, Bool.false_eq_true, if_false]
  rfl

/-- The rows that a write of n rows at position pos of a page puts into half h, by their position there, K and V one after the other in
the source. -/
def rowsInHalf (r : Nat) (src : List Byte) (pos n h : Nat) : Sp (List FV × List FV) :=
  ((List.range n).filter (fun i => (pos + i) / 64 == h)).foldl (fun m i => spSet ((pos + i) % 64)
    (bfRow ((src.drop (i * 4 * pD r)).take (2 * pD r)), bfRow ((src.drop (i * 4 * pD r + 2 * pD r)).take (2 * pD r))) m) []

/-- A page's bytes after that write: each half merged with its new rows, the K parts before the V parts (Table 7.14). -/
def pageAfterWrite (r : Nat) (src bytes : List Byte) (pos n : Nat) : List Byte :=
  let a := mergeHalf r (bytes.take (kPart r)) ((bytes.drop (2 * kPart r)).take (vPart r)) (rowsInHalf r src pos n 0)
  let b := mergeHalf r ((bytes.drop (kPart r)).take (kPart r)) (bytes.drop (2 * kPart r + vPart r)) (rowsInHalf r src pos n 1)
  a.1 ++ b.1 ++ a.2 ++ b.2

/-- `KV_PAGE_WRITE` into a page that the stream has writes the merged rows to a free page, which takes the old one's place in the next
generation. -/
theorem kvPageWritePart_accepts {s s1 : State} (x : Session) {d : Datagram} {q : KvSeq} {p : Pool} {old pg : Nat} {src bytes : List Byte}
    (hedit : editSeq (settleFrees s) (prm d 0 12) (prm d 16 16) = .ok (q, p)) (hstream : prm d 32 16 < pStreams p.record)
    (hsome : 1 ≤ prm d 96 8) (hinPage : prm d 64 32 % 128 + prm d 96 8 ≤ 128)
    (hpage : (streamPages q (prm d 32 16))[prm d 64 32 / 128]? = some old) (hnotHole : old ≠ hole)
    (hsrc : vaRead (settleFrees s).memory (regionsOf (settleFrees s)) 1 (prm d 144 48) (prm d 96 8 * 4 * pD p.record) = .ok src)
    (hold : vaRead (settleFrees s).memory (regionsOf (settleFrees s)) 0 (pageAddr p.record old) (pageSize p.record) = .ok bytes)
    (hfree : lowestFree p = some pg)
    (hpublish : publishSeq (prm d 0 12)
      (q.leaves.set (prm d 64 32 / 128) ((q.leaves.getD (prm d 64 32 / 128) []).set (prm d 32 16) pg)) [old] (settleFrees s) = some s1) :
    kvPageWritePart s x d =
      ansBody (kvPut (pageAddr p.record pg) (pageAfterWrite p.record src bytes (prm d 64 32 % 128) (prm d 96 8))
        (setPool q.pool (takePage pg ((poolOf s1 q.pool).getD p)) s1)) ((q.gen + 1) % 65536) 2 := by
  have hargs : (decide (pStreams p.record ≤ prm d 32 16) || prm d 96 8 == 0 || decide (128 < prm d 96 8) ||
      decide (128 < prm d 64 32 % 128 + prm d 96 8)) = false := by
    simp [hstream.not_ge, Nat.ne_of_gt hsome, (Nat.le_of_add_left_le hinPage).not_gt, hinPage.not_gt]
  simp only [kvPageWritePart, hedit, hargs, hpage, beq_false_of_ne hnotHole, hsrc, hold, hfree, hpublish, Bool.false_eq_true, if_false]
  rfl

/-- Settles O12: past its checks each part answers code 0; a truncation and a page write go on from the generation that they publish.
Where new tables lie, what a fork copies, and the epoch that it begins are the choices of log entries 24 and 50. -/
theorem kvEditCommandsComplete : Obligations.KvEditCommandsComplete := by
  unfold Obligations.KvEditCommandsComplete
  refine ⟨?fork, ?retire, ?truncate, ?pageWrite⟩
  case fork =>
    intro q p us
    refine completes_of_tabled (fun _ _ => rfl) (by decide) ?_ (fun _ _ _ => rfl)
    rintro s x d ⟨hedit, hfew, hunused, hcisterns, hroom, hread, hplace⟩
    exact kvForkPart_accepts x hedit hfew hunused hcisterns hroom hread hplace
  case retire =>
    intro q p
    exact completes_of_tabled (fun _ _ => rfl) (by decide) (fun s x d hedit => kvSeqRetirePart_accepts x hedit) (fun _ _ _ => rfl)
  case truncate =>
    intro q p
    refine completes_of_tabled (fun _ _ => rfl) (by decide) ?_ (fun s x d => ?_)
    · rintro s x d ⟨hedit, hshortens, hread, hpublishes⟩
      obtain ⟨s1, hpublish⟩ := Option.isSome_iff_exists.1 hpublishes
      rw [kvTruncatePart_accepts x rfl hedit hshortens hread hpublish]
      simp only [hpublish]
      rfl
    · dsimp only
      split <;> rfl
  case pageWrite =>
    intro q p old pg src bytes
    refine completes_of_tabled (fun _ _ => rfl) (by decide) ?_ (fun s x d => ?_)
    · rintro s x d ⟨hedit, hstream, hsome, hinPage, hpage, hnotHole, hsrc, hold, hfree, hpublishes⟩
      obtain ⟨s1, hpublish⟩ := Option.isSome_iff_exists.1 hpublishes
      rw [kvPageWritePart_accepts x hedit hstream hsome hinPage hpage hnotHole hsrc hold hfree hpublish]
      simp only [hpublish]
      rfl
    · dsimp only
      split <;> rfl

end Sys2Proof.Proofs
end

section
/-! PROOFS. Attention: what `ATT_FWD`, `ATT_BWD`, `ATT_APPEND` and `ATT_COMMIT` bring to their commit once their operands read, and the
flush of a full cistern (R172, R175, R176, R180, R182, R189, R190, R192, R195). -/

namespace Sys2Proof.Proofs

open Sys2Proof.Machine Sys2Proof.Safety Sys2Proof.Laws

/-! Issue (R122, log entry 97). -/

section
variable {s : State} {as op qi i ent : Nat} {e : Env}

/-- A pass, whose engines have issued their `LEND` entries, issues and takes the output's pending scale. -/
theorem attRun_of_lent (g : Nat → Env → State → State) (hhead : headOfClass s 4 as 0x30 (fun x => x == op) = some (qi, i, ent))
    (henv : envOf s = some e) (hlent : lendsReady s as (tOp ent) (tThread ent) = true) (hpass : op ≤ 0x31) :
    let s1 := takeScales [aOut (tOp ent)] (issue 4 as qi i ent s)
    attRun as op g s = g ent (envAfter e s1) s1 := by
  simp only [attRun, hhead, henv, hlent, hpass, Bool.not_true, Bool.and_false, Bool.false_eq_true, if_false, if_true]

/-- An append and a commit wait for no `LEND` entry and convert nothing. -/
theorem attRun_of_engineless (g : Nat → Env → State → State) (hhead : headOfClass s 4 as 0x30 (fun x => x == op) = some (qi, i, ent))
    (henv : envOf s = some e) (hengineless : 0x31 < op) :
    let s1 := issue 4 as qi i ent s
    attRun as op g s = g ent (envAfter e s1) s1 := by
  have hnoPass : (op == 0x30 || op == 0x31) = false := by
    rw [Bool.or_eq_false_iff, beq_eq_false_iff_ne, beq_eq_false_iff_ne]
    omega
  simp only [attRun, hhead, henv, hnoPass, hengineless.not_ge, Bool.false_and, Bool.false_eq_true, if_false, id_eq]

end

/-! Passes over a block of rows (R175, R176, R182, R195), from the state in which they have issued. -/

section
variable {s : State} {as ent f c : Nat} {e : Env} {b : Batch} {p : Pool} {q : KvSeq} {vs : List Nat}

/-- What a forward thread leaves after its walk `w`: its outputs, a pin on its stream and, with `SCORE`, the mass records and the masses of
the pages that it walked. Each page takes a free value, for a mass that its rows give no number (log entry 3). -/
def fwdWalked (t micro st : Nat) (e : Env) (o : Nat) (b : Batch) (r : Nat) (w : WalkOut) (s : State) : State :=
  let pgs := walkedPages w
  let masses := if aScore o = true then pgs.zipIdx.map (fun x =>
    (aPool o, x.1.2, massOf w.rows ((w.recs.filter (fun y => y.1 == x.1.1)).map (·.2.2.2)) (s.free + x.2))) else []
  let s1 := modFlight t (fun i => { i with
    writes := i.writes ++ (if aScore o = true then massWrites (dBase (descOf e.im (aAux o))) w else [])
    masses := masses }) (addPin t b.seq st (landFwd t micro e o b (pD r) w.rows s))
  doneFlight t { s1 with free := s1.free + pgs.length }

/-- A forward thread none of whose rows is valid walks nothing: each of its rows gets the output of a row that sees no key (R180). -/
theorem fwdRun_of_no_row (hbatch : batchOf e (tOp ent) = .ok b) (hparents : parentsBad b = false)
    (hrows : (validRows (tOp ent) b).filter ((blockRows e (tOp ent) b).contains ·) = []) :
    fwdRun as ent e s = doneFlight (tThread ent)
      (landFwd (tThread ent) (tMicro ent) e (tOp ent) b (lastDim (descOf e.im (aOut (tOp ent)))) [] s) := by
  simp only [fwdRun, hbatch, hparents, hrows, List.isEmpty_nil, Bool.false_eq_true, if_false, if_true]

/-- A forward thread whose queries and key blocks can be read walks the stream's key blocks. -/
theorem fwdRun_of_walk {qs : Sp QRow} {w : WalkOut} (hbatch : batchOf e (tOp ent) = .ok b) (hparents : parentsBad b = false)
    (hvs : (validRows (tOp ent) b).filter ((blockRows e (tOp ent) b).contains ·) = vs) (hrows : vs ≠ [])
    (htarget : kvTarget s (tOp ent) b.seq = some (p, q)) (hcis : cisHead s p.record b.seq (aStream p.record (tOp ent)) = (f, c))
    (hstream : aStream p.record (tOp ent) < pStreams p.record) (hdim : lastDim (descOf e.im (aQ (tOp ent))) = pD p.record)
    (hscratch : aScore (tOp ent) = true → 1024 * q.leaves.length + 1024 ≤ occupied e (descOf e.im (aAux (tOp ent))))
    (hhead : headFault s p.record b.seq [aStream p.record (tOp ent)] = none)
    (hqs : readQs e p.record (aQ (tOp ent)) (aQHead (tOp ent)) b.row0 vs = .ok qs)
    (hwalk : walkBlocks e p.record (tOp ent) b.seq f (streamPages q (aStream p.record (tOp ent))).length b (operT e (aQ (tOp ent))) qs
      (keyBlocks (streamPages q (aStream p.record (tOp ent))) f c b.parents)
      { rows := vs.map (fun i => (i, RowState.start (pD p.record))), recs := [] } = .ok w) :
    fwdRun as ent e s =
      fwdWalked (tThread ent) (tMicro ent) (aStream p.record (tOp ent)) e (tOp ent) b p.record w s := by
  have hscratchFits : (aScore (tOp ent) &&
      decide (occupied e (descOf e.im (aAux (tOp ent))) < 1024 * q.leaves.length + 1024)) = false := by
    cases hscore : aScore (tOp ent) with
    | false => rfl
    | true => simp [(hscratch hscore).not_gt]
  have hargs : (decide (pStreams p.record ≤ aStream p.record (tOp ent)) || lastDim (descOf e.im (aQ (tOp ent))) != pD p.record ||
      (aScore (tOp ent) && decide (occupied e (descOf e.im (aAux (tOp ent))) < 1024 * q.leaves.length + 1024))) = false := by
    simp only [hscratchFits, hdim, hstream.not_ge, decide_false, bne_self_eq_false, Bool.or_false]
  simp only [fwdRun, hbatch, hparents, hvs, List.isEmpty_eq_false_iff.2 hrows, htarget, hcis, hargs, hhead, hqs, hwalk,
    Option.isSome_none, Bool.false_eq_true, if_false]
  rfl

/-- A backward thread none of whose rows is valid walks nothing and lands zero gradients (R180). -/
theorem bwdRun_of_no_row (hbatch : batchOf e (tOp ent) = .ok b) (hparents : parentsBad b = false)
    (hrows : (validRows (tOp ent) b).filter ((blockRows e (tOp ent) b).contains ·) = []) :
    bwdRun as ent e s = doneFlight (tThread ent) (landBwd (tThread ent) (tMicro ent) e (tOp ent) b [] s) := by
  simp only [bwdRun, hbatch, hparents, hrows, List.isEmpty_nil, Bool.false_eq_true, if_false, if_true]

/-- A backward thread on an FP8 pool whose rows and key blocks can be read lands dQ, pins its stream, and brings the additions into the
pool's gradient area. -/
theorem bwdRun_of_walk {rows : Sp BRow} {dq : Sp (List FV)} {ad : List (Nat × Nat)} (hbatch : batchOf e (tOp ent) = .ok b)
    (hparents : parentsBad b = false) (hvs : (validRows (tOp ent) b).filter ((blockRows e (tOp ent) b).contains ·) = vs) (hrows : vs ≠ [])
    (htarget : kvTarget s (tOp ent) b.seq = some (p, q)) (hcis : cisHead s p.record b.seq (aStream p.record (tOp ent)) = (f, c))
    (hstream : aStream p.record (tOp ent) < pStreams p.record) (hdim : lastDim (descOf e.im (aQ (tOp ent))) = pD p.record)
    (hfp8 : isS4 p.record = false) (hhead : headFault s p.record b.seq [aStream p.record (tOp ent)] = none)
    (hread : readBRows e p.record (tOp ent) b.row0 vs = .ok rows)
    (hwalk : bwdWalk e p.record (tOp ent) (tMicro ent) b (streamPages q (aStream p.record (tOp ent))).length f rows
      (keyBlocks (streamPages q (aStream p.record (tOp ent))) f c b.parents)
      (vs.map (fun i => (i, List.replicate (pD p.record) FV.zero))) [] = .ok (dq, ad)) :
    bwdRun as ent e s = doneFlight (tThread ent) (modFlight (tThread ent) (fun i => { i with adds := i.adds ++ ad })
      (addPin (tThread ent) b.seq (aStream p.record (tOp ent))
        (landBwd (tThread ent) (tMicro ent) e (tOp ent) b dq s))) := by
  simp only [bwdRun, hbatch, hparents, hvs, List.isEmpty_eq_false_iff.2 hrows, htarget, hcis, hfp8, hstream.not_ge, hdim, hhead, hread,
    hwalk, Option.isSome_none, decide_false, bne_self_eq_false, Bool.or_false, Bool.false_eq_true, if_false]

/-! Edits of cisterns (R189, R192). -/

/-- An append without valid rows is over at once (R180). -/
theorem appendRun_of_no_row (hbatch : batchOf e (tOp ent) = .ok b) (hparents : parentsBad b = false)
    (hrows : validRows (tOp ent) b = []) : appendRun as ent e s = doneFlight (tThread ent) s := by
  simp only [appendRun, hbatch, hparents, hrows, List.isEmpty_nil, Bool.false_eq_true, if_false, if_true]

/-- An append that may go on and whose rows can be read brings them to its commit. -/
theorem appendRun_of_rows {rows : List (List Byte)} (hbatch : batchOf e (tOp ent) = .ok b) (hparents : parentsBad b = false)
    (hrows : validRows (tOp ent) b ≠ []) (hhead : kvHeadFault s (tOp ent) b false = none)
    (hcode : appendCode s e (tOp ent) b (validRows (tOp ent) b).length = 0) (htarget : kvTarget s (tOp ent) b.seq = some (p, q))
    (hread : appendRows e p.record (tOp ent) ((validRows (tOp ent) b).map (b.row0 + ·)) = .ok rows) :
    appendRun as ent e s = doneFlight (tThread ent) (modFlight (tThread ent) (fun i => { i with rows := rows }) s) := by
  simp only [appendRun, hbatch, hparents, List.isEmpty_eq_false_iff.2 hrows, hhead, hcode, htarget, hread, Option.isSome_none,
    bne_self_eq_false, Bool.false_eq_true, if_false]

/-- The bytes of an accept list as read; an element that lies nowhere is 0. -/
def acceptBytes (l : List (Option (Nat × Nat × Nat))) : List Nat :=
  l.map (fun x => match x with
    | some (_, _, raw) => raw % 256
    | none => 0)

/-- The candidates that an accept list names: as many as its first byte says. -/
def acceptedCandidates (l : List (Option (Nat × Nat × Nat))) : List Nat := ((acceptBytes l).drop 1).take ((acceptBytes l).headD 0)

/-- A commit whose accept list can be read and may be accepted brings the accepted candidates to its commit. -/
theorem commitRun_of_path {l : List (Option (Nat × Nat × Nat))} (hbatch : batchOf e (tOp ent) = .ok b)
    (hread : readAll (rawAt e (aAux (tOp ent))) ((List.range 17).map (17 * b.idx + ·)) = .ok l)
    (hhead : kvHeadFault s (tOp ent) b true = none)
    (hcode : commitCode s (tOp ent) b ((acceptBytes l).headD 0) (acceptedCandidates l) = 0) :
    commitRun as ent e s =
      doneFlight (tThread ent) (modFlight (tThread ent) (fun i => { i with accept := acceptedCandidates l }) s) := by
  have hgoes : ¬ (commitCode s (tOp ent) b ((acceptBytes l).headD 0) (acceptedCandidates l) != 0) = true := by
    simp only [hcode, bne_self_eq_false, Bool.false_eq_true, not_false_eq_true]
  simp only [commitRun, hbatch, hread, hhead, Option.isSome_none, Bool.false_eq_true, if_false]
  exact if_neg hgoes

end

/-! The flush (R190). -/

/-- A full cistern that a committing thread waits on, and that no pin holds, becomes a page whose tables reach the table area. -/
theorem flushSt_of_full {s t : State} {seq stream : Nat} {w : KvWait} {q : KvSeq} {p : Pool}
    (hwait : (settleFrees s).kv.waiting.find? (fun w => w.seq == seq && w.stream == stream) = some w)
    (hseq : seqOf (settleFrees s) seq = some q) (hpool : poolOf (settleFrees s) q.pool = some p)
    (hfull : wantsFlush (settleFrees s) p.record w = true) (hunpinned : cisPinned (settleFrees s) seq stream = false)
    (hflush : flushCistern seq stream (settleFrees s) = .ok t) : flushSt seq stream s = syncTables (settleFrees s) t := by
  simp only [flushSt, hwait, hseq, hpool, hfull, hunpinned, hflush, Bool.not_true, Bool.or_self, Bool.false_eq_true, if_false]

/-- Settles O35: past its reads a pass lands its walk, an append and a commit bring their rows or candidates, and a full cistern is
flushed. That appends and commits wait for no `LEND` entry is the choice of log entry 97. -/
theorem attentionCommandsComplete : Obligations.AttentionCommandsComplete := by
  unfold Obligations.AttentionCommandsComplete
  refine ⟨?forward, ?backward, ?append, ?commit, ?flush⟩
  case forward =>
    intro s as qi i ent e b p q qs w hhead henv hlent
    dsimp only
    intro hbatch hparents
    have hruns : exec (.attFwd as) s = .next _ :=
      congrArg Host.Outcome.next (attRun_of_lent (fwdRun as) hhead henv hlent (by decide))
    refine ⟨fun hrows => ?_, fun hrows htarget hstream hdim hscratch hheader hqs hwalk => ?_⟩
    · rw [hruns, fwdRun_of_no_row hbatch hparents hrows]
    · rw [hruns, fwdRun_of_walk hbatch hparents rfl hrows htarget rfl hstream hdim hscratch hheader hqs hwalk]
      rfl
  case backward =>
    intro s as qi i ent e b p q rows dq ad hhead henv hlent
    dsimp only
    intro hbatch hparents
    have hruns : exec (.attBwd as) s = .next _ :=
      congrArg Host.Outcome.next (attRun_of_lent (bwdRun as) hhead henv hlent (by decide))
    refine ⟨fun hrows => ?_, fun hrows htarget hstream hdim hfp8 hheader hread hwalk => ?_⟩
    · rw [hruns, bwdRun_of_no_row hbatch hparents hrows]
    · rw [hruns, bwdRun_of_walk hbatch hparents rfl hrows htarget rfl hstream hdim hfp8 hheader hread hwalk]
  case append =>
    intro s as qi i ent e b p q rows hhead henv
    dsimp only
    intro hbatch hparents
    have hruns : exec (.attAppend as) s = .next _ :=
      congrArg Host.Outcome.next (attRun_of_engineless (appendRun as) hhead henv (by decide))
    refine ⟨fun hrows => ?_, fun hrows hheader hcode htarget hread => ?_⟩
    · rw [hruns, appendRun_of_no_row hbatch hparents hrows]
    · rw [hruns, appendRun_of_rows hbatch hparents hrows hheader hcode htarget hread]
  case commit =>
    intro s as qi i ent e b l hhead henv
    dsimp only
    intro hbatch hread hheader hcode
    have hruns : exec (.attCommit as) s = .next _ :=
      congrArg Host.Outcome.next (attRun_of_engineless (commitRun as) hhead henv (by decide))
    rw [hruns, commitRun_of_path hbatch hread hheader hcode]
    rfl
  case flush =>
    intro s t seq stream w q p
    dsimp only
    intro hwait hseq hpool hfull hunpinned hflush
    exact congrArg Host.Outcome.next (flushSt_of_full hwait hseq hpool hfull hunpinned hflush)

end Sys2Proof.Proofs
end

section
/-! PROOFS. Diagnostics and repair: what the norm and diagnostic reads, the mirage map, self-test, calibration and the end of a haboob
condition answer once their checks pass, and a retirement asked for between runs (R223, R436, R477, R480, R494, R499, R502, R530). -/

namespace Sys2Proof.Proofs

open Sys2Proof.Machine Sys2Proof.Safety Sys2Proof.Laws

@[simp] theorem ansLong_code (s : State) (state : Nat) : (ansLong s state).code = 0 := rfl

/-! Norms and diagnostics (R223, Table 16.9). -/

/-- `NORM_READ` of the noise table needs its capability, and of the norm table none. -/
theorem normReadPart_accepts {s : State} (x : Session) {d : Datagram} (hcap : prm d 0 1 = 1 → hasCap s 2 = true) :
    normReadPart s x d = ansBytes s (leBytes 32 (normHeader s.update) ++
      (((if prm d 0 1 == 1 then s.update.noise.map noiseBytes else s.update.norms.map normBytes).drop (prm d 32 16)).take 40).flatten) := by
  have hgranted : (prm d 0 1 == 1 && !hasCap s 2) = false := by
    by_cases hnoise : prm d 0 1 = 1
    · simp [hcap hnoise]
    · simp [hnoise]
  simp only [normReadPart, hgranted, Bool.false_eq_true, if_false]

/-- `DIAG_READ` of at most 320 counters, all below 65,535, gives their values. -/
theorem diagReadPart_counters (s : State) (x : Session) {d : Datagram} (hobj : prm d 0 8 = 4) (hcount : prm d 96 16 ≤ 320)
    (hlast : prm d 32 32 + prm d 96 16 ≤ 65535) :
    diagReadPart s x d =
      ansBytes s ((List.range (prm d 96 16)).flatMap (fun i => leBytes 4 (ctrAt s (prm d 32 32 + i)))) := by
  simp only [diagReadPart, hobj, someStates, hcount.not_gt, hlast.not_gt, decide_false, Bool.or_self, Bool.false_eq_true, if_false]

/-! The mirage map (R436, R477, log entry 75). -/

/-- `MIRAGE_READ` at an offset within the map gives up to 1,280 bytes of the stored one. -/
theorem mirageReadPart_accepts (s : State) (x : Session) {d : Datagram} (hoffset : prm d 0 32 < 30720) :
    mirageReadPart s x d = ansBytes s (leBytes 4 30720 ++ ((mapBytes s (storedMap s)).drop (prm d 0 32)).take 1280) := by
  simp only [mirageReadPart, mapTotal, hoffset.not_ge, if_false]

/-- A `MIRAGE_WRITE` part that follows the staged ones and is not the last joins them. -/
theorem mirageWritePart_stages {s : State} (x : Session) {d : Datagram} (hidle : s.run.active = false)
    (hcalm : s.repair.haboob = false) (hfree : s.mirage.writing = false) (hlater : prm d 0 32 ≠ 0)
    (hnext : prm d 0 32 = s.mirage.staged.length) (hsome : 1 ≤ prm d 32 16) (hmost : prm d 32 16 ≤ 1280) (hmore : prm d 48 1 = 0) :
    mirageWritePart s x d = ansOk { s with mirage := { s.mirage with
      staged := s.mirage.staged ++ leBytes (prm d 32 16) (prm d 64 (8 * prm d 32 16)) } } := by
  have hlater' : (prm d 0 32 == 0) = false := beq_false_of_ne hlater
  have hinOrder : (prm d 0 32 != s.mirage.staged.length) = false := by simp [hnext]
  have hnonempty : (prm d 32 16 == 0) = false := beq_false_of_ne (Nat.ne_of_gt hsome)
  simp only [mirageWritePart, hidle, hcalm, hfree, hlater', hinOrder, hnonempty, hmost.not_gt, hmore, decide_false, Bool.or_false,
    Bool.false_eq_true, beq_self_eq_true, if_false, if_true]

/-! Self-test, calibration and the end of a haboob condition (R494, R499, R502). -/

/-- `BIST_RUN` of a set, with no image resident, starts at once and tells the number that its first fault would take. -/
theorem bistRunPart_accepts {s : State} (x : Session) {d : Datagram} (hset : prm d 0 8 ≤ 2) (himage : s.image = none) :
    bistRunPart s x d = { ansLong s 2 with body := pack [(32, 32, s.faultLog.next + 1)], blen := 16 } := by
  simp only [bistRunPart, hset.not_gt, himage, Option.isSome_none, Bool.false_eq_true, if_false]

/-- `CALIBRATE` between runs in an open service window starts at once; only grade A has what target 4 calibrates. -/
theorem calibratePart_accepts {s : State} (x : Session) {d : Datagram} (hwindow : windowOpen s = true) (htarget : prm d 0 8 ≤ 5)
    (hgrade : prm d 0 8 = 4 → s.settings.grade = 1) (hidle : s.run.active = false) : calibratePart s x d = ansLong s 2 := by
  have hpresent : (prm d 0 8 == 4 && s.settings.grade != 1) = false := by
    by_cases hddr : prm d 0 8 = 4
    · simp [hgrade hddr]
    · simp [hddr]
  simp only [calibratePart, hwindow, htarget.not_gt, hpresent, hidle, Bool.not_true, Bool.false_eq_true, if_false]

/-- `HABOOB_CLEAR` with `RESUME` = 1 and no substitution pending ends the condition, and `SUB_STOP`, that of
an earlier command too, is cleared (log entry 100). -/
theorem haboobClearPart_resumes {s : State} (x : Session) {d : Datagram} (hhaboob : s.repair.haboob = true)
    (hresume : prm d 0 1 = 1) (hpending : s.repair.pending = []) :
    haboobClearPart s x d =
      (let s1 := addEvent 10 1 8 { s with repair := { s.repair with haboob := false, pending := [] } }
      { ansOk { s1 with
          mirage := { s1.mirage with
            subStop := false, dirty := true, written := s1.mirage.written.map (fun w => { w with subStop := false }) }
          repair := { s1.repair with faultTimes := [] }
          sessions := resumeOps s1.sessions } with events := [(9, 0)] }) := by
  simp only [haboobClearPart, hhaboob, hresume, hpending, resolvePending, beq_self_eq_true, Bool.not_true, Bool.false_and,
    Bool.false_eq_true, if_true, if_false]

/-! Retirement (R530, Table 21.5). -/

/-- `MODULE_RETIRE` of a module in service and without a run, with a deadline in its range, starts at once. -/
theorem moduleRetirePart_idle {s : State} (x : Session) {d : Datagram} (hsome : 1 ≤ prm d 0 32) (hmost : prm d 0 32 ≤ 600000)
    (hserves : s.boot.retired = false) (hidle : s.run.active = false) : moduleRetirePart s x d = ansLong s 2 := by
  have hdeadline : (prm d 0 32 == 0 || decide (600000 < prm d 0 32)) = false := by
    simp [Nat.ne_of_gt hsome, hmost]
  simp only [moduleRetirePart, hdeadline, hserves, hidle, Bool.false_eq_true, if_false]

/-- A part that answers code 0 both at the checks and awake has its answer concluded. -/
theorem ycp_concludes {opc : Nat} {c : Instr} {part : Part} {d : Datagram} {s : State} {x : Session} (hacc : Accepted opc s x d)
    (hne : opc ≠ 0x0804) (hcode : (part (authState x s) x d).code = 0) :
    ycp opc c part d s = conclude (acceptedSession opc x d) d opc
      (part (runState opc x d s) (acceptedSession opc x d) d) (runState opc x d s) := by
  have haudit : (acceptedState opc x d s).audit.writable = true := hacc.audit
  rw [ycp_accepted hacc (by rw [hcode]; rfl), carryOut_awake _ _ _ _ _ hne haudit]
  rfl

/-- Settles O17: past its checks each part answers code 0. That a read shows the stored map in force, and that `RESUME` = 1 clears
`SUB_STOP`, are the choices of log entries 75 and 100. -/
theorem repairCommandsComplete : Obligations.RepairCommandsComplete := by
  unfold Obligations.RepairCommandsComplete
  refine ⟨?normRead, ?diagRead, ?mirageRead, ?mirageWrite, ?bistRun, ?calibrate, ?haboobClear, ?moduleRetire⟩
  case normRead =>
    exact completes_of_code_zero (fun _ _ => rfl) (by decide) (fun s x d hcap => normReadPart_accepts x hcap) (fun _ _ _ => rfl)
  case diagRead =>
    refine completes_of_code_zero (fun _ _ => rfl) (by decide) ?_ (fun _ _ _ => rfl)
    rintro s x d ⟨hobj, hcount, hlast⟩
    exact diagReadPart_counters s x hobj hcount hlast
  case mirageRead =>
    exact completes_of_code_zero (fun _ _ => rfl) (by decide) (fun s x d hoffset => mirageReadPart_accepts s x hoffset) (fun _ _ _ => rfl)
  case mirageWrite =>
    refine completes_of_code_zero (fun _ _ => rfl) (by decide) ?_ (fun _ _ _ => rfl)
    rintro s x d ⟨hidle, hcalm, hfree, hlater, hnext, hsome, hmost, hmore⟩
    exact mirageWritePart_stages x hidle hcalm hfree hlater hnext hsome hmost hmore
  case bistRun =>
    refine completes_of_code_zero (fun _ _ => rfl) (by decide) ?_ (fun _ _ _ => rfl)
    rintro s x d ⟨hset, himage⟩
    exact bistRunPart_accepts x hset himage
  case calibrate =>
    refine completes_of_code_zero (fun _ _ => rfl) (by decide) ?_ (fun _ _ _ => rfl)
    rintro s x d ⟨hwindow, htarget, hgrade, hidle⟩
    exact calibratePart_accepts x hwindow htarget hgrade hidle
  case haboobClear =>
    refine completes_of_code_zero (fun _ _ => rfl) (by decide) ?_ (fun _ _ _ => rfl)
    rintro s x d ⟨hhaboob, hresume, hpending⟩
    exact haboobClearPart_resumes x hhaboob hresume hpending
  case moduleRetire =>
    intro s x d hacc hsome hmost hserves hidle
    have hchecked : moduleRetirePart (authState x s) x d = ansLong (authState x s) 2 :=
      moduleRetirePart_idle x hsome hmost hserves hidle
    have hrun : moduleRetirePart (runState 0x050B x d s) (acceptedSession 0x050B x d) d = ansLong (runState 0x050B x d s) 2 :=
      moduleRetirePart_idle _ hsome hmost (by rw [runState_boot, hserves]) (by rw [runState_run, hidle])
    show Host.Outcome.next (retireIdle (ycp 0x050B (.moduleRetire d) moduleRetirePart d s)) = _
    rw [ycp_concludes hacc (by decide) (by rw [hchecked, ansLong_code]), hrun]

end Sys2Proof.Proofs
end

section
/-! PROOFS. Update units: which pass an element or factor command runs, what a pass leaves with its thread, and the repeats of a step
that clips (R209, R214, R215, R219, R220, R222). -/

namespace Sys2Proof.Proofs

open Sys2Proof.Machine Sys2Proof.Safety Sys2Proof.Laws

/-! Element and factor passes (R119, R222, R382). -/

/-- An issued entry of the command's operation, ready and on a unit that nothing holds, runs its pass. -/
theorem updSt_of_waiting {s : State} {op uu : Nat} {e : Env} {i : InFlight} (henv : envOf s = some e) (hnext : nextPass s uu = some i)
    (hop : uOp (tOp i.entry) = op) (hready : passReady s e i.thread (tOp i.entry) = true) (hgoes : runGoes s = true)
    (hheld : unitHeld s 5 uu = false) : updSt op uu s = runUpd uu e i.thread (tOp i.entry) s := by
  have hruns : (nextPass s uu).filter (fun i => uOp (tOp i.entry) == op && passReady s e i.thread (tOp i.entry)) = some i := by
    simp [hnext, Option.filter, hop, hready]
  simp only [updSt, henv, hruns, hgoes, hheld, Bool.not_false, Bool.and_self, if_true]

/-- With no issued entry of that operation ready, the one at the head of the queue issues. A step that reduces nothing is done with it;
in another it runs when no entry is before it and it is ready, and else waits in flight. -/
theorem updSt_of_head {s : State} {op uu qi i ent : Nat} {e : Env} (henv : envOf s = some e)
    (hnone : ∀ j, nextPass s uu = some j → uOp (tOp j.entry) ≠ op ∨ passReady s e j.thread (tOp j.entry) = false)
    (hhead : headOfClass s 5 uu 0x40 (fun x => x == op) = some (qi, i, ent)) :
    updSt op uu s =
      (let s1 := issue 5 uu qi i ent s
      let s2 := countGroup (uGroup (tOp ent)) s1
      if reducesStep s = false then doneFlight (tThread ent) s1
      else if (nextPass s uu).isNone = true ∧ passReady s2 e (tThread ent) (tOp ent) = true then
        runUpd uu e (tThread ent) (tOp ent) s2
      else s2) := by
  have hwaits : (nextPass s uu).filter (fun i => uOp (tOp i.entry) == op && passReady s e i.thread (tOp i.entry)) = none := by
    refine Option.filter_eq_none_iff.2 (fun j hj => ?_)
    rcases hnone j hj with hother | hunready
    · simp [hother]
    · simp [hunready]
  simp only [updSt, henv, hwaits, hhead, Bool.not_eq_true', Bool.and_eq_true]

/-! What a pass leaves with its thread (R214, R215). -/

/-- An element pass, its published copy's pending scale taken, lands what it writes in its thread. -/
theorem runUpd_element (uu t : Nat) {s : State} {o : Nat} {e e1 : Env} {l : List (Nat × Stored)} (hop : uOp o = 0x40)
    (he1 : envAfter e (takeScales [uPub o] s) = e1)
    (hout : elementPassOut (takeScales [uPub o] s) e1 o (passClip (takeScales [uPub o] s) e1.im false (uGroup o)) = .ok l) :
    runUpd uu e t o s = doneFlight t (landAll e1 t l (takeScales [uPub o] s)) := by
  simp only [runUpd, hop, beq_self_eq_true, if_true, Nat.reduceBEq, Bool.false_eq_true, if_false, he1, hout]

/-- A factor pass, the factors before it kept for its repetition, lands what it writes in its thread. -/
theorem runUpd_factor (uu t : Nat) {s : State} {o : Nat} {e e1 : Env} {l : List (Nat × Stored)} (hop : uOp o = 0x41)
    (he1 : envAfter e (keepFactors e o s) = e1)
    (hout : factorPassOut e1 o (factorsNow e1 o) (passClip (keepFactors e o s) e1.im false (uGroup o)) = .ok l) :
    runUpd uu e t o s = doneFlight t (landAll e1 t l (keepFactors e o s)) := by
  simp only [runUpd, hop, beq_self_eq_true, if_true, Nat.reduceBEq, Bool.false_eq_true, if_false, he1, hout]

/-! Repeats (R220). -/

/-- A unit whose last entry has run its pass, in a step that clips, runs its passes of the step again, once and together. -/
theorem repeatSt_of_clip {s : State} {uu : Nat} {x : InFlight} {e : Env} (henv : envOf s = some e) (hlast : lastEntry s uu = some x)
    (hclips : stepClips s e.im = true) (hfirst : s.update.repeats.contains uu = false) (hgoes : runGoes s = true)
    (hdone : (flightOf s 5 uu).all (·.done) = true) :
    repeatSt uu s =
      (let s1 := (passesRun s uu).foldl (fun t ent => repeatPass uu ent e t) s
      { s1 with update := { s1.update with
          repeats := s1.update.repeats ++ [uu]
          redone := if s1.update.repeats.isEmpty then (s1.update.redone + 1) % 2 ^ 32 else s1.update.redone } }) := by
  have hidle : (flightOf s 5 uu).any (fun i => !i.done) = false := by
    rw [← List.not_all_eq_any_not, hdone]
    rfl
  simp only [repeatSt, henv, hlast, hclips, hfirst, hgoes, hidle, Bool.not_true, Bool.or_self, Bool.false_eq_true, if_false]

/-- Settles O36: an element and a factor command run a ready pass that waits, or issue the head; a pass whose operands read lands its
writes; and a step that clips repeats its passes. -/
theorem updateCommandsComplete : Obligations.UpdateCommandsComplete := by
  unfold Obligations.UpdateCommandsComplete
  refine ⟨?passes, ?repeats, ?element, ?factor⟩
  case passes =>
    intro c op hc
    have hexec : ∀ (uu : Nat) (s : State), exec (c uu) s = .next (updSt op uu (localSums s)) := by
      rcases hc with ⟨rfl, rfl⟩ | ⟨rfl, rfl⟩
      · exact fun _ _ => rfl
      · exact fun _ _ => rfl
    refine ⟨fun s uu i e => ?waiting, fun s uu qi i ent e => ?head⟩
    case waiting =>
      intro s0 henv hnext hop hready hgoes hheld
      rw [hexec, updSt_of_waiting henv hnext hop hready hgoes hheld]
    case head =>
      intro s0 henv hnone hhead
      rw [hexec, updSt_of_head henv hnone hhead]
  case repeats =>
    intro s uu x e s0 henv hlast hclips hfirst hgoes hdone
    exact congrArg Host.Outcome.next (repeatSt_of_clip henv hlast hclips hfirst hgoes hdone)
  case element =>
    intro s uu t o e l hop s1 e1 hout
    exact runUpd_element uu t hop rfl hout
  case factor =>
    intro s uu t o e l hop s1 e1 hout
    exact runUpd_factor uu t hop rfl hout

end Sys2Proof.Proofs
end

section
/-! PROOFS. Reductions across modules: the drain of a leaf's slot, a module's partial, a leaf that comes too late, what stands in at the
grace, and what each frame of a reduction brings to its chunk (R207, R318, R320, R323, R326, R327, R330 to R334). -/

namespace Sys2Proof.Proofs

open Sys2Proof.Machine Sys2Proof.Safety Sys2Proof.Laws

/-! Leaves and the module's partial (R207, R318). -/

/-- A ready slot whose tile's two chunks have departed in one step, with no partial of either yet, drains for both. -/
theorem wgbDrainSt_of_open {s : State} {me slot coll tile : Nat} {im : Image} {w : WgbSlot} {a b : ChunkRt} (himage : s.image = some im)
    (hslot : slotOf s me slot = some w) (htile : slotTile im me slot = some (coll, tile)) (hready : w.st = 2)
    (hsame : leafStep s coll (2 * tile + 1) me = leafStep s coll (2 * tile) me)
    (hfindA : findChunk s coll (2 * tile) (leafStep s coll (2 * tile) me) = some a)
    (hfindB : findChunk s coll (2 * tile + 1) (leafStep s coll (2 * tile) me) = some b) (hlaunchedA : a.launched = true)
    (hopenA : a.done = false) (hlaunchedB : b.launched = true) (hopenB : b.done = false) :
    wgbDrainSt me slot s = drainLeaf coll tile (leafStep s coll (2 * tile) me) me slot s := by
  simp only [wgbDrainSt, himage, hslot, htile, hready, hsame, hfindA, hfindB, hlaunchedA, hopenA, hlaunchedB, hopenB, bne_self_eq_false,
    Bool.not_false, Bool.and_self, Bool.not_true, Bool.or_self, Bool.false_eq_true, if_false]

/-- The partial of a launched chunk leaves once every leaf is in: those that have drained, or the memory sources that are ready. -/
theorem modulePartialSt_of_leaves {s : State} {coll chunk : Nat} {e : Env} {ch : ChunkRt} {ls : List Nat} (henv : envOf s = some e)
    (hfind : findChunk s coll chunk (chunkFor s coll chunk (fun c => c.launched && !c.done)) = some ch) (hlaunched : ch.launched = true)
    (hopen : ch.done = false) (hls : (if coKind (collOf e.im coll) = 0 then ch.leaves else readyLeaves s e ch) = ls)
    (hall : ∀ l ∈ leavesOf e coll chunk, ls.contains l = true) :
    modulePartialSt coll chunk s = sendPartial coll chunk (chunkFor s coll chunk (fun c => c.launched && !c.done)) ls s := by
  have hin : (leavesOf e coll chunk).any (fun l => !ls.contains l) = false :=
    List.any_eq_false.2 (fun l hl => by simp only [hall l hl, Bool.not_true, Bool.false_eq_true, not_false_iff])
  simp only [modulePartialSt, henv, hfind, hlaunched, hopen, beq_iff_eq, hls, hin, Bool.not_true, Bool.or_self, Bool.false_eq_true,
    if_false]

/-! Stragglers and grace (R333, R334). -/

/-- What becomes of a late leaf with these values: its collective defers it, or it is dropped with a warning. -/
def leaveOut (e : Env) (coll chunk leaf : Nat) (v : List Nat × Nat) (s : State) : State :=
  if coDefers (collOf e.im coll) = true then putDefer coll chunk (deferLeaf coll chunk leaf v s) else warnRun 0x0501 s

section
variable {s : State} {coll chunk leaf : Nat} {e : Env} {ch : ChunkRt} (henv : envOf s = some e)
  (hfind : findChunk s coll chunk (leafStep s coll chunk leaf) = some ch) (hdone : ch.done = true)
  (hunused : ch.used.contains leaf = false) (hfirst : ch.late.contains leaf = false)
  (hleaf : (leavesOf e coll chunk).contains leaf = true)
  (hready : leafReady s e coll chunk (leafStep s coll chunk leaf) leaf = true)
  (hfree : coDefers (collOf e.im coll) = true → ch.carry = none ∨ ch.acked = true)

include hdone hunused hfirst hleaf hready hfree in
/-- A leaf that is ready for the first time after its module's partial left is a straggler, and waits for no earlier deferral (log entry
46). -/
theorem straggler_goes : (!ch.done || ch.used.contains leaf || ch.late.contains leaf || !(leavesOf e coll chunk).contains leaf ||
    !leafReady s e coll chunk (leafStep s coll chunk leaf) leaf || (coDefers (collOf e.im coll) && ch.carry.isSome && !ch.acked)) =
    false := by
  have hheld : (coDefers (collOf e.im coll) && ch.carry.isSome && !ch.acked) = false := by
    cases hdefers : coDefers (collOf e.im coll) with
    | false => rfl
    | true =>
      rcases hfree hdefers with hnone | hacked
      · simp [hnone]
      · simp [hacked]
  simp only [hdone, hunused, hfirst, hleaf, hready, hheld, Bool.not_true, Bool.or_self]

include henv hfind hdone hunused hfirst hleaf hready hfree

/-- A straggler from a memory source holds no slot. -/
theorem stragglerSt_of_source (hkind : coKind (collOf e.im coll) ≠ 0) (hreads : leafFault e coll chunk leaf = none) :
    stragglerSt coll chunk leaf s = leaveOut e coll chunk leaf (leafVals s e coll chunk leaf)
      (modChunk coll chunk (leafStep s coll chunk leaf) (fun h => { h with late := h.late ++ [leaf] }) s) := by
  have hsource : (coKind (collOf e.im coll) == 0) = false := beq_false_of_ne hkind
  simp only [stragglerSt, henv, hfind, straggler_goes hdone hunused hfirst hleaf hready hfree, hsource, hreads, Bool.false_and,
    Bool.false_eq_true, if_false]
  cases leafSlot e.im coll chunk leaf <;> rfl

/-- A straggler in a slot drains if it has not, and its slot is settled for the chunk. -/
theorem stragglerSt_of_slot {sl : Nat} {w : WgbSlot} (hkind : coKind (collOf e.im coll) = 0)
    (hleafSlot : leafSlot e.im coll chunk leaf = some sl) (hslot : slotOf s leaf sl = some w) {s0 : State}
    (hs0 : (if w.st = 2 then drainLeaf coll (chunk / 2) (leafStep s coll chunk leaf) leaf sl s else s) = s0) :
    stragglerSt coll chunk leaf s = leaveOut e coll chunk leaf (leafVals s0 e coll chunk leaf)
      (settleSlot e.im coll chunk leaf
        (modChunk coll chunk (leafStep s coll chunk leaf) (fun h => { h with late := h.late ++ [leaf] }) s0)) := by
  have hreads : leafFault e coll chunk leaf = none := by simp [leafFault, hkind]
  simp only [stragglerSt, henv, hfind, straggler_goes hdone hunused hfirst hleaf hready hfree, hkind, hreads, hleafSlot, hslot,
    Option.map_some, Option.getD_some, beq_self_eq_true, beq_iff_eq, Bool.true_and, Bool.false_eq_true, if_false, if_true, hs0, leaveOut]

end

/-- Past its deadline and grace, a chunk whose node has not formed takes stand-ins for the nodes that have not come. -/
theorem graceSt_of_expired {s : State} {coll chunk d : Nat} {im : Image} {ch : ChunkRt} (himage : s.image = some im)
    (hfind : findChunk s coll chunk (chunkFor s coll chunk (fun c => c.done && !c.formed)) = some ch)
    (hdeadline : (findColl s coll (chunkFor s coll chunk (fun c => c.done && !c.formed))).bind (·.deadline) = some d)
    (hunformed : ch.formed = false) (hdone : ch.done = true) (hexpired : d + 65536 * coGrace (collOf im coll) ≤ s.time.now) :
    graceSt coll chunk s =
      substitute coll chunk (chunkFor s coll chunk (fun c => c.done && !c.formed)) (missingNodes s im ch) s := by
  simp only [graceSt, himage, hfind, hdeadline, hunformed, hdone, hexpired.not_gt, decide_false, Bool.not_true, Bool.or_self,
    Bool.false_eq_true, if_false]

/-! `REDUCE` frames (R320, R323, R326, R327). -/

/-- A frame row acts on a frame of its own type. -/
theorem ofType_of_ftype {f : Frame} {ty : Nat} (t s : State) (htype : f.ftype = ty) : ofType f ty none t s = t := by
  simp [ofType, htype]

/-- The node of a P40 `REDUCE` frame, once both its halves have come. -/
def frameP40 (f : Frame) (vals : List Nat) : Partial :=
  { q16 := false, vals := vals, exps := [], flags := [], maxe := tsp f 173 8, ssq := tsp f 181 40, ncont := tsp f 221 21,
    nstale := tsp f 242 14 }

/-- What a `REDUCE` frame of a node not yet held does to its chunk, `ch` being the chunk's record and `s1` the state in which the
frame's `REDO` has been followed. -/
def takeNode (q16 : Bool) (coll chunk step lo k : Nat) (f : Frame) (ch : ChunkRt) (s1 : State) : State :=
  let s2 := takeFrame f s1
  if q16 then
    if tsp f 165 1 = 1 then advanceReplay coll chunk step (modChunk coll chunk step
      (fun h => { h with rplParts := h.rplParts ++ [(lo, k, frameQ16 f)] }) s2)
    else advance coll chunk step (modChunk coll chunk step (fun h => { h with parts := h.parts ++ [(lo, k, frameQ16 f)] }) s2)
  else
    let part := tsp f 164 1
    let vals := cutNats 5 1024 f.payload
    match ch.halves.find? (fun x => x.1 == lo && x.2.1 == k) with
    | none => modChunk coll chunk step (fun h => { h with halves := h.halves ++ [(lo, k, part, vals)] }) s2
    | some x =>
      if x.2.2.1 = part then duplicate f s1
      else advance coll chunk step (modChunk coll chunk step (fun h =>
        { h with
          parts := h.parts ++ [(lo, k, frameP40 f (if part = 1 then x.2.2.2 ++ vals else vals ++ x.2.2.2))]
          halves := h.halves.filter (fun y => !(y.1 == lo && y.2.1 == k)) }) s2)

/-- A `REDUCE` frame from a member, of a chunk in progress and a node that its site neither holds nor has formed past, is taken in. -/
theorem reduceFrameSt_of_new {s : State} {f : Frame} {im : Image} {coll chunk step k src : Nat} {ch : ChunkRt} (htype : f.ftype = 1)
    (himage : s.image = some im) (hactive : s.run.active = true) (hcoll : tsp f 128 12 = coll) (hchunk : tsp f 140 24 = chunk)
    (hstep : stepOf2 s (tsp f 166 2) = step) (hk : tsp f 168 5 = k) (hsrc : posOf (membersOf im coll) f.src = some src)
    (hinTime : frameOver s coll chunk step = false)
    (hfind : findChunk (redoFrame f coll chunk step (ensureChunk coll chunk step s)) coll chunk step = some ch)
    (hcurrent : ch.redo = true → f.redo = true) (hunacked : ch.acked = false) (hunlanded : ch.landed = false)
    (hnew : partAt (if tsp f 165 1 = 1 then ch.rplParts else ch.parts) (nodeLo src k) k = none)
    (hforming : (if tsp f 165 1 = 1 then ch.rplFormed else ch.formed) = false) :
    reduceFrameSt f s = takeNode (coQ16 (collOf im coll)) coll chunk step (nodeLo src k) k f ch
      (redoFrame f coll chunk step (ensureChunk coll chunk step s)) := by
  have hnotOld : (ch.redo && !f.redo) = false := by
    cases hredo : ch.redo with
    | false => rfl
    | true => simp [hcurrent hredo]
  rw [redoFrame] at hfind ⊢
  simp only [reduceFrameSt, himage, hcoll, hchunk, hstep, hk, hsrc, htype, hactive, hinTime, hfind, hnotOld, hunacked, hunlanded,
    beq_iff_eq, hnew, hforming, bne_self_eq_false, Bool.not_true, Bool.or_self, Option.isSome_none, Bool.false_and, Bool.false_eq_true,
    if_false]
  rfl

section
variable {coll chunk step lo k : Nat} {f : Frame} {ch : ChunkRt} {s1 : State}

/-- A node in Q16 joins the parts of its chunk, and the site goes on. -/
theorem takeNode_q16 (hfirst : tsp f 165 1 = 0) :
    takeNode true coll chunk step lo k f ch s1 = advance coll chunk step (modChunk coll chunk step
      (fun h => { h with parts := h.parts ++ [(lo, k, frameQ16 f)] }) (takeFrame f s1)) := by
  simp [takeNode, hfirst]

/-- A replayed node joins the parts of the replay. -/
theorem takeNode_replayed (hreplay : tsp f 165 1 = 1) :
    takeNode true coll chunk step lo k f ch s1 = advanceReplay coll chunk step (modChunk coll chunk step
      (fun h => { h with rplParts := h.rplParts ++ [(lo, k, frameQ16 f)] }) (takeFrame f s1)) := by
  simp [takeNode, hreplay]

/-- The first half of a node in P40 is kept. -/
theorem takeNode_firstHalf (hnone : ch.halves.find? (fun x => x.1 == lo && x.2.1 == k) = none) :
    takeNode false coll chunk step lo k f ch s1 = modChunk coll chunk step
      (fun h => { h with halves := h.halves ++ [(lo, k, tsp f 164 1, cutNats 5 1024 f.payload)] }) (takeFrame f s1) := by
  simp only [takeNode, hnone, Bool.false_eq_true, if_false]

/-- The other half makes the node whole, in order of `PART`, and the site goes on. -/
theorem takeNode_secondHalf {x : Nat × Nat × Nat × List Nat}
    (hheld : ch.halves.find? (fun x => x.1 == lo && x.2.1 == k) = some x) (hother : x.2.2.1 ≠ tsp f 164 1) :
    takeNode false coll chunk step lo k f ch s1 = advance coll chunk step (modChunk coll chunk step (fun h =>
      { h with
        parts := h.parts ++ [(lo, k, frameP40 f (if tsp f 164 1 = 1 then x.2.2.2 ++ cutNats 5 1024 f.payload
          else cutNats 5 1024 f.payload ++ x.2.2.2))]
        halves := h.halves.filter (fun y => !(y.1 == lo && y.2.1 == k)) }) (takeFrame f s1)) := by
  simp only [takeNode, hheld, hother, Bool.false_eq_true, if_false]

end

/-! `REPLAY_REQ` and `DELIVER` frames (R327, R330, log entry 88). -/

/-- A request for the reduction under way is answered. -/
theorem replayReqSt_of_current {s : State} {f : Frame} {coll chunk step : Nat} (htype : f.ftype = 4) (hcoll : tsp f 128 12 = coll)
    (hchunk : tsp f 140 24 = chunk) (hstep : stepOf2 s (tsp f 164 2) = step)
    (hcurrent : oldFrame f coll chunk step (redoFrame f coll chunk step s) = false) :
    replayReqSt f s =
      answerReplay coll chunk step (tsp f 166 8) (tsp f 174 32) (takeFrame f (redoFrame f coll chunk step s)) := by
  simp only [replayReqSt, htype, hcoll, hchunk, hstep, hcurrent, bne_self_eq_false, Bool.false_eq_true, if_false]

/-- An owner lands a chunk of which both parts have come. -/
def landDelivered (coll chunk step : Nat) (d : Sp (List Byte)) (s : State) : State :=
  match spGet? 0 d, spGet? 1 d with
  | some a, some b => landChunk 18 coll chunk step (cutNats 5 1024 a ++ cutNats 5 1024 b) (ofLe (b.drop 5120)) s
  | _, _ => s

/-- A part that has not come before, of a chunk that has not landed, is kept, and the second lands the chunk. -/
theorem deliverSt_of_new {s : State} {f : Frame} {coll chunk step : Nat} {ch : ChunkRt} (htype : f.ftype = 2)
    (himage : s.image.isSome = true) (hcoll : tsp f 128 12 = coll) (hchunk : tsp f 140 24 = chunk)
    (hstep : stepOf2 s (tsp f 165 2) = step) (hinTime : frameOver s coll chunk step = false)
    (hcurrent : oldFrame f coll chunk step (redoFrame f coll chunk step (ensureChunk coll chunk step s)) = false)
    (hfind : findChunk (redoFrame f coll chunk step (ensureChunk coll chunk step s)) coll chunk step = some ch)
    (hunlanded : ch.landed = false) (hnew : spGet? (tsp f 164 1) ch.delivered = none) :
    deliverSt f s = landDelivered coll chunk step (spSet (tsp f 164 1) f.payload ch.delivered)
      (modChunk coll chunk step (fun h => { h with delivered := spSet (tsp f 164 1) f.payload ch.delivered })
        (takeFrame f (redoFrame f coll chunk step (ensureChunk coll chunk step s)))) := by
  have hloaded : s.image.isNone = false := by rw [← Option.not_isSome, himage]; rfl
  simp only [deliverSt, htype, hloaded, hcoll, hchunk, hstep, hinTime, hcurrent, hfind, hunlanded, hnew, bne_self_eq_false,
    Bool.or_self, Option.isSome_none, Bool.false_eq_true, if_false]
  rfl

/-! `CHUNK_ACK` frames (R331). -/

/-- An acknowledgement settles its consecutive chunks, one after another. -/
theorem chunkAckSt_of_ftype (s : State) {f : Frame} (htype : f.ftype = 5) :
    chunkAckSt f s = (List.range (tsp f 166 16)).foldl
      (fun t i => ackOne f (tsp f 128 12) (tsp f 140 24 + i) (stepOf2 s (tsp f 164 2)) t) (takeFrame f s) := by
  simp only [chunkAckSt, htype, bne_self_eq_false, Bool.false_eq_true, if_false]

/-- Settles O41: each row past its conditions takes its last branch. A deferral that waits for an earlier one, a leaf's step as the
oldest that has not had it, and what `REDO` makes of an old frame are the choices of log entries 46, 65 and 88. -/
theorem reductionCommandsComplete : Obligations.ReductionCommandsComplete := by
  unfold Obligations.ReductionCommandsComplete
  refine ⟨?drain, ?source, ?slot, ?modulePartial, ?grace, ?reduce, ?replay, ?deliver, ?ack⟩
  case drain =>
    intro s me slot coll tile im w a b himage hslot htile hready st hsame hfindA hfindB hlaunchedA hopenA hlaunchedB hopenB
    exact congrArg Host.Outcome.next
      (wgbDrainSt_of_open himage hslot htile hready hsame hfindA hfindB hlaunchedA hopenA hlaunchedB hopenB)
  case source =>
    intro s coll chunk leaf e ch henv st hfind hdone hunused hfirst hleaf hready hkind hreads hfree
    exact congrArg Host.Outcome.next (stragglerSt_of_source henv hfind hdone hunused hfirst hleaf hready hfree hkind hreads)
  case slot =>
    intro s coll chunk leaf sl e ch w henv st hfind hdone hunused hfirst hleaf hready hkind hfree hleafSlot hslot
    exact congrArg Host.Outcome.next
      (stragglerSt_of_slot henv hfind hdone hunused hfirst hleaf hready hfree hkind hleafSlot hslot rfl)
  case modulePartial =>
    intro s coll chunk e ch henv st hfind hlaunched hopen ls hall
    exact congrArg Host.Outcome.next (modulePartialSt_of_leaves henv hfind hlaunched hopen rfl hall)
  case grace =>
    intro s coll chunk d im ch himage st hfind hdeadline hunformed hdone hexpired
    exact congrArg Host.Outcome.next (graceSt_of_expired himage hfind hdeadline hunformed hdone hexpired)
  case reduce =>
    intro s f im src ch htype himage hactive coll chunk step k lo hsrc hinTime s0 s1 hfind hcurrent hunacked hunlanded s2
    have htaken (hnew : partAt (if tsp f 165 1 = 1 then ch.rplParts else ch.parts) lo k = none)
        (hforming : (if tsp f 165 1 = 1 then ch.rplFormed else ch.formed) = false) :
        exec (.reduceFrame f) s = .next (takeNode (coQ16 (collOf im coll)) coll chunk step lo k f ch s1) :=
      congrArg Host.Outcome.next ((ofType_of_ftype _ s htype).trans (reduceFrameSt_of_new htype himage hactive rfl rfl rfl rfl hsrc
        hinTime hfind hcurrent hunacked hunlanded hnew hforming))
    refine ⟨fun hq16 hfirst hforming hnew => ?_, fun hq16 hreplay hforming hnew => ?_, fun hp40 hfirst hforming hnew => ?_⟩
    · rw [htaken (by simpa [hfirst] using hnew) (by simpa [hfirst] using hforming), hq16, takeNode_q16 hfirst]
    · rw [htaken (by simpa [hreplay] using hnew) (by simpa [hreplay] using hforming), hq16, takeNode_replayed hreplay]
    · rw [htaken (by simpa [hfirst] using hnew) (by simpa [hfirst] using hforming), hp40]
      exact ⟨fun hnone => congrArg _ (takeNode_firstHalf hnone), fun x hheld hother => congrArg _ (takeNode_secondHalf hheld hother)⟩
  case replay =>
    intro s f htype coll chunk step s1 hcurrent
    exact congrArg Host.Outcome.next ((ofType_of_ftype _ s htype).trans (replayReqSt_of_current htype rfl rfl rfl hcurrent))
  case deliver =>
    intro s f ch htype himage coll chunk step part hinTime s1 hcurrent hfind hunlanded hnew d s2
    exact congrArg Host.Outcome.next ((ofType_of_ftype _ s htype).trans
      (deliverSt_of_new htype himage rfl rfl rfl hinTime hcurrent hfind hunlanded hnew))
  case ack =>
    intro s f htype
    exact congrArg Host.Outcome.next ((ofType_of_ftype _ s htype).trans (chunkAckSt_of_ftype s htype))

end Sys2Proof.Proofs
end

section
/-! PROOFS. Tensor commands: `TENSOR_IMPORT`, `TENSOR_EXPORT` and `MEM_COPY` whose checks pass open a long operation, which runs at
once or waits for the transfer engines (R247, R402, R422, R423). -/

namespace Sys2Proof.Proofs

open Sys2Proof.Machine Sys2Proof.Safety Sys2Proof.Laws

/-! Import (R59, R422). -/

/-- The T of an import is admitted where the tensor has no scale, or is 0, for none, or a positive normal number. -/
theorem importT_admitted {fmt t : Nat} (h : fmtScaled fmt = false ∨ t = 0 ∨ normalT t = true) :
    (fmtScaled fmt && t != 0 && !normalT t) = false := by
  rcases h with hplain | hnone | hnormal
  · simp [hplain]
  · simp [hnone]
  · simp [hnormal]

/-- `TENSOR_IMPORT` between runs, into a tensor that may be written and from readable bytes apart from it, opens its operation. -/
theorem tensorImportPart_opens {s : State} (x : Session) {d : Datagram} {e : Env} {n : Nat} (henv : envOf s = some e)
    (hidle : idleOnly s = false) (htensor : isTensor e (prm d 0 24) = true) (hfmt : hostFmtOk (prm d 32 8) = true)
    (hscale : fmtScaled (dFmt (descOf e.im (prm d 0 24))) = false ∨ prm d 64 32 = 0 ∨ normalT (prm d 64 32) = true)
    (hn : hostBytes (dDims (descOf e.im (prm d 0 24))) (hostAxis (descOf e.im (prm d 0 24)) (prm d 32 8)) (prm d 32 8) = n)
    (hrights : firstCode [useCode e (prm d 0 24) 2, spansCode e 1 [(prm d 128 48, n)]] = 0)
    (hapart : overlap (piecesOf e [(prm d 128 48, n)]) (piecesOf e (storeSpans e (prm d 0 24))) = false) :
    tensorImportPart s x d = ansLong s (engineState s) := by
  simp only [tensorImportPart, henv, hidle, htensor, hfmt, importT_admitted hscale, hn, hrights, hapart, Bool.not_true,
    Bool.or_self, bne_self_eq_false, Bool.false_eq_true, if_false]

/-! Export (R60, R246, R422). -/

/-- The axes that a tensor lacks have no padding. -/
theorem extraPadding_none {p rank : Nat} (h : ∀ k, rank ≤ k → k < 6 → padLo p k = 0 ∧ padHi p k = 0) :
    (List.range 6).any (fun k => decide (rank ≤ k) && (padLo p k != 0 || padHi p k != 0)) = false := by
  rw [List.any_eq_false]
  intro k hk
  by_cases hbeyond : rank ≤ k
  · obtain ⟨hlo, hhi⟩ := h k hbeyond (List.mem_range.mp hk)
    simp [hlo, hhi]
  · simp [hbeyond]

/-- `TENSOR_EXPORT` of a readable tensor or view to a host range that a key covers has, with no other operation live, no victim to wait
for: its operation runs at once. -/
theorem tensorExportPart_opens {s : State} {x : Session} {d : Datagram} {e : Env} (henv : envOf s = some e)
    (hservice : x.role = 3 → windowOpen s = true) (hsource : copyable e (prm d 0 24) = true) (hfmt : hostFmtOk (prm d 32 8) = true)
    (hpad : ∀ k, (dDims (descOf e.im (prm d 0 24))).length ≤ k → k < 6 → padLo d.params k = 0 ∧ padHi d.params k = 0)
    (hrights : useCode e (prm d 0 24) 1 = 0)
    (hkey : (hostKeyFor x (prm d 64 32) (prm d 128 64) (hostBytes (padDims d.params (dDims (descOf e.im (prm d 0 24))))
      (exportAxis (descOf e.im (prm d 0 24)) (prm d 32 8) d.params) (prm d 32 8))).isSome = true)
    (halone : s.sessions.ops = []) : tensorExportPart s x d = ansLong s 2 := by
  have hrole : (x.role == 3 && !windowOpen s) = false := by
    by_cases hthree : x.role = 3
    · simp [hservice hthree]
    · simp [hthree]
  have hkey' := Option.isNone_eq_false_iff.mpr hkey
  simp only [tensorExportPart, henv, hrole, hsource, hfmt, extraPadding_none hpad, hrights, hkey', halone, List.any_nil, Bool.not_true,
    Bool.or_self, bne_self_eq_false, Bool.false_eq_true, if_false]

/-! Copy by command (R423). -/

/-- `MEM_COPY` between runs whose static checks pass opens its operation. -/
theorem memCopyPart_opens {s : State} (x : Session) {d : Datagram} {e : Env} (henv : envOf s = some e) (hidle : idleOnly s = false)
    (hchecks : copyCode e (prm d 0 24) (prm d 24 24) (prm d 64 24) = 0) : memCopyPart s x d = ansLong s (engineState s) := by
  simp only [memCopyPart, henv, hidle, hchecks, bne_self_eq_false, Bool.false_eq_true, if_false]

/-- Settles O14: past its checks each part answers a long operation. An import or a copy waits behind another holder of both engines; an
export alone has no victim to pre-empt. -/
theorem tensorCommandsOpenOperations : Obligations.TensorCommandsOpenOperations := by
  unfold Obligations.TensorCommandsOpenOperations
  refine ⟨?tensorImport, ?tensorExport, ?memCopy⟩
  case tensorImport =>
    intro e
    refine completes_of_code_zero (fun _ _ => rfl) (by decide) ?_ (fun _ _ _ => rfl)
    rintro s x d ⟨henv, hidle, htensor, hfmt, hscale, hrights, hapart⟩
    exact tensorImportPart_opens x henv hidle htensor hfmt hscale rfl hrights hapart
  case tensorExport =>
    intro e
    refine completes_of_code_zero (fun _ _ => rfl) (by decide) ?_ (fun _ _ _ => rfl)
    rintro s x d ⟨henv, hservice, hsource, hfmt, hpad, hrights, hkey, halone⟩
    exact tensorExportPart_opens henv hservice hsource hfmt hpad hrights hkey halone
  case memCopy =>
    intro e
    refine completes_of_code_zero (fun _ _ => rfl) (by decide) ?_ (fun _ _ _ => rfl)
    rintro s x d ⟨henv, hidle, hchecks⟩
    exact memCopyPart_opens x henv hidle hchecks

end Sys2Proof.Proofs
end

section
/-! PROOFS. What leaves memory alone: the answers of commands, operations, the host ports and sessions. -/

namespace Sys2Proof.Proofs
open Sys2Proof.Machine Sys2Proof.Safety Sys2Proof.Laws

/-- A branch leaves memory alone where both its sides do. -/
@[simp] theorem memory_ite {c : Prop} [Decidable c] (a b : State) : (if c then a else b).memory = if c then a.memory else b.memory :=
  apply_ite State.memory c a b

/-- The state of an answer that a branch gives. -/
@[simp] theorem answer_st_ite {c : Prop} [Decidable c] (a b : Answer) : (if c then a else b).st = if c then a.st else b.st :=
  apply_ite Answer.st c a b

/-- A fold leaves memory alone where each of its steps does. -/
@[simp] theorem foldl_memory {α : Type} (g : State → α → State) (l : List α) (s : State)
    (hg : ∀ t x, (g t x).memory = t.memory) : (l.foldl g s).memory = s.memory := by
  induction l generalizing s with
  | nil => rfl
  | cons x r ih => rw [List.foldl_cons, ih, hg]

@[simp] theorem ycpDiscard_memory (p : Nat) (s : State) : (ycpDiscard p s).memory = s.memory := rfl
@[simp] theorem ansCode_st_memory (s : State) (c : Nat) : (ansCode s c).st.memory = s.memory := rfl
@[simp] theorem ansOk_st_memory (s : State) : (ansOk s).st.memory = s.memory := rfl
@[simp] theorem ansBody_st_memory (s : State) (body blen : Nat) : (ansBody s body blen).st.memory = s.memory := rfl
@[simp] theorem ansLong_st_memory (s : State) (state : Nat) : (ansLong s state).st.memory = s.memory := rfl
@[simp] theorem ansBytes_st_memory (s : State) (l : List Byte) : (ansBytes s l).st.memory = s.memory := rfl
@[simp] theorem refuse_memory (x : Session) (d : Datagram) (opc code : Nat) (s : State) : (refuse x d opc code s).memory = s.memory := by
  simp [refuse]

@[simp] theorem answerRepeat_memory (x : Session) (d : Datagram) (s : State) : (answerRepeat x d s).memory = s.memory := by
  unfold answerRepeat
  split
  · rfl
  · split <;> simp

@[simp] theorem roceOut_memory (port : Nat) (es : List Emission) (s : State) : (roceOut port es s).memory = s.memory := by
  simp [roceOut]
@[simp] theorem resumePort_memory (now port : Nat) (s : State) : (resumePort now port s).memory = s.memory := by
  unfold resumePort; split <;> simp
@[simp] theorem rdmaSend_memory (qpn rkey addr : Nat) (data : List Byte) (s : State) :
    (rdmaSend qpn rkey addr data s).memory = s.memory := by unfold rdmaSend; split <;> simp
@[simp] theorem qpCreatePart_st_memory (s : State) (x : Session) (d : Datagram) : (qpCreatePart s x d).st.memory = s.memory := by
  simp [qpCreatePart]
@[simp] theorem qpDestroyPart_st_memory (s : State) (x : Session) (d : Datagram) : (qpDestroyPart s x d).st.memory = s.memory := by
  unfold qpDestroyPart; split <;> simp
@[simp] theorem memRegisterPart_st_memory (s : State) (x : Session) (d : Datagram) : (memRegisterPart s x d).st.memory = s.memory := by
  simp [memRegisterPart]
@[simp] theorem memHostKeyPart_st_memory (s : State) (x : Session) (d : Datagram) : (memHostKeyPart s x d).st.memory = s.memory := by
  unfold memHostKeyPart; split <;> simp
@[simp] theorem memDeregisterPart_st_memory (s : State) (x : Session) (d : Datagram) : (memDeregisterPart s x d).st.memory = s.memory := by
  fun_cases memDeregisterPart <;> simp
@[simp] theorem addMemError_memory (tier k thread : Nat) (s : State) : (addMemError tier k thread s).memory = s.memory := by
  simp [addMemError]

@[simp] theorem ansFault_st_memory (s : State) (c a n : Nat) : (ansFault s c a n).st.memory = s.memory := by
  unfold ansFault
  split
  · split <;> simp
  · simp

@[simp] theorem sendNak_memory (port : Nat) (q : Qp) (psn syn : Nat) (s : State) : (sendNak port q psn syn s).memory = s.memory := by
  simp [sendNak]
@[simp] theorem maybeCnp_memory (port : Nat) (q : Qp) (ce : Bool) (s : State) : (maybeCnp port q ce s).memory = s.memory := by
  simp [maybeCnp]
@[simp] theorem otherFrame_memory (port : Nat) (s : State) : (otherFrame port s).memory = s.memory := rfl
@[simp] theorem resendQp_memory (q : Qp) (s : State) : (resendQp q s).memory = s.memory := by simp [resendQp]
@[simp] theorem ackTimeout_memory (qpn : Nat) (s : State) : (ackTimeout qpn s).memory = s.memory := by unfold ackTimeout; split <;> simp
@[simp] theorem roceAckSt_memory (qpn psn syn : Nat) (s : State) : (roceAckSt qpn psn syn s).memory = s.memory := by
  unfold roceAckSt; split <;> simp
@[simp] theorem cnpSt_memory (qpn : Nat) (s : State) : (cnpSt qpn s).memory = s.memory := by unfold cnpSt; split <;> rfl
@[simp] theorem rateUp_memory (qpn : Nat) (s : State) : (rateUp qpn s).memory = s.memory := rfl
@[simp] theorem arpSt_memory (port ip senderIp senderMac : Nat) (s : State) : (arpSt port ip senderIp senderMac s).memory = s.memory := by
  simp [arpSt]
@[simp] theorem neighbourSt_memory (port ip senderIp senderMac : Nat) (s : State) :
    (neighbourSt port ip senderIp senderMac s).memory = s.memory := by simp [neighbourSt]
@[simp] theorem echoSt_memory (port srcIp dstIp ident seqNo : Nat) (data : List Byte) (s : State) :
    (echoSt port srcIp dstIp ident seqNo data s).memory = s.memory := by simp [echoSt]
@[simp] theorem pfcSt_memory (port priority quanta : Nat) (s : State) : (pfcSt port priority quanta s).memory = s.memory := by
  simp [pfcSt]
@[simp] theorem hostPortDown_memory (port : Nat) (s : State) : (hostPortDown port s).memory = s.memory := by simp [hostPortDown]
@[simp] theorem helloSt_memory (d : Datagram) (s : State) : (helloSt d s).memory = s.memory := by simp [helloSt]
@[simp] theorem dropProv_memory (sid : Nat) (s : State) : (dropProv sid s).memory = s.memory := rfl

@[simp] theorem openSt_memory (d : Datagram) (s : State) : (openSt d s).memory = s.memory := by
  fun_cases openSt <;> simp +zetaDelta
  split <;> simp

@[simp] theorem sessionClosePart_st_memory (s : State) (x : Session) (d : Datagram) : (sessionClosePart s x d).st.memory = s.memory := rfl
@[simp] theorem sessionPingPart_st_memory (s : State) (x : Session) (d : Datagram) : (sessionPingPart s x d).st.memory = s.memory := rfl
@[simp] theorem opStatusPart_st_memory (s : State) (x : Session) (d : Datagram) : (opStatusPart s x d).st.memory = s.memory := by
  fun_cases opStatusPart <;> rfl
@[simp] theorem opPartialPart_st_memory (s : State) (x : Session) (d : Datagram) : (opPartialPart s x d).st.memory = s.memory := by
  fun_cases opPartialPart <;> simp
@[simp] theorem opAbortPart_st_memory (s : State) (x : Session) (d : Datagram) : (opAbortPart s x d).st.memory = s.memory := by
  unfold opAbortPart; split <;> simp
@[simp] theorem abortEffect_memory (sid h : Nat) (s : State) : (abortEffect sid h s).memory = s.memory := by
  unfold abortEffect; split <;> simp
@[simp] theorem idleExpiry_memory (sid : Nat) (s : State) : (idleExpiry sid s).memory = s.memory := by unfold idleExpiry; split <;> simp
@[simp] theorem provExpiry_memory (sid : Nat) (s : State) : (provExpiry sid s).memory = s.memory := rfl
@[simp] theorem refusedSt_memory (r : RawDatagram) (s : State) : (refusedSt r s).memory = s.memory := by
  fun_cases refusedSt <;> simp +zetaDelta
@[simp] theorem holdSt_memory (sid h kind unit : Nat) (s : State) : (holdSt sid h kind unit s).memory = s.memory := by
  unfold holdSt; split <;> simp
@[simp] theorem releaseSt_memory (sid h kind unit : Nat) (s : State) : (releaseSt sid h kind unit s).memory = s.memory := by
  simp [releaseSt]
@[simp] theorem noteLimit_memory (x : InFlight) (s : State) : (noteLimit x s).memory = s.memory := by fun_cases noteLimit <;> simp
@[simp] theorem failThread_memory (kind unit thread code cause ctr addr : Nat) (s : State) :
    (failThread kind unit thread code cause ctr addr s).memory = s.memory := by unfold failThread; split <;> split <;> simp

@[simp] theorem failAccess_memory (thread c a n : Nat) (s : State) : (failAccess thread c a n s).memory = s.memory := by
  unfold failAccess
  split
  · split <;> simp
  · simp

@[simp] theorem failBytes_memory (c a n : Nat) (s : State) : (failBytes c a n s).memory = s.memory := by simp [failBytes]

end Sys2Proof.Proofs

end

section
/-! PROOFS. What leaves memory alone: power, administration, the fault log, repair and the fabric's tables. -/

namespace Sys2Proof.Proofs
open Sys2Proof.Machine Sys2Proof.Safety Sys2Proof.Laws

@[simp] theorem pwrCapSetPart_st_memory (s : State) (x : Session) (d : Datagram) : (pwrCapSetPart s x d).st.memory = s.memory := by
  simp [pwrCapSetPart]
@[simp] theorem movePoint_memory (die v : Nat) (s : State) : (movePoint die v s).memory = s.memory := by simp [movePoint]
@[simp] theorem pwrModeSetPart_st_memory (avs : Bool) (s : State) (x : Session) (d : Datagram) :
    (pwrModeSetPart avs s x d).st.memory = s.memory := by simp [pwrModeSetPart]
@[simp] theorem pwrReadPart_st_memory (s : State) (x : Session) (d : Datagram) : (pwrReadPart s x d).st.memory = s.memory := rfl
@[simp] theorem enterLow_memory (ps : Nat) (s : State) : (enterLow ps s).memory = s.memory := by simp [enterLow]
@[simp] theorem dwellSt_memory (s : State) : (dwellSt s).memory = s.memory := by simp [dwellSt]
@[simp] theorem setTol_memory (tol : Nat) (s : State) : (setTol tol s).memory = s.memory := by simp [setTol]
@[simp] theorem pwrTolSetPart_st_memory (s : State) (x : Session) (d : Datagram) : (pwrTolSetPart s x d).st.memory = s.memory := by
  simp [pwrTolSetPart]
@[simp] theorem pwrBoundsSetPart_st_memory (s : State) (x : Session) (d : Datagram) : (pwrBoundsSetPart s x d).st.memory = s.memory := by
  simp [pwrBoundsSetPart]
@[simp] theorem wakeEventSt_memory (source : Nat) (s : State) : (wakeEventSt source s).memory = s.memory := by simp [wakeEventSt]
@[simp] theorem wakeLeadSt_memory (s : State) : (wakeLeadSt s).memory = s.memory := by unfold wakeLeadSt; split <;> simp
@[simp] theorem holdExpirySt_memory (s : State) : (holdExpirySt s).memory = s.memory := by unfold holdExpirySt; split <;> simp
@[simp] theorem applyPoints_memory (s : State) : (applyPoints s).memory = s.memory := by simp [applyPoints]
@[simp] theorem capEvalSt_memory (r : Sensors) (s : State) : (capEvalSt r s).memory = s.memory := by simp [capEvalSt]
@[simp] theorem settledSt_memory (die milliV : Nat) (s : State) : (settledSt die milliV s).memory = s.memory := by
  fun_cases settledSt <;> simp
@[simp] theorem avsTimeoutSt_memory (die : Nat) (s : State) : (avsTimeoutSt die s).memory = s.memory := by simp [avsTimeoutSt]
@[simp] theorem avsRetrySt_memory (die : Nat) (s : State) : (avsRetrySt die s).memory = s.memory := by simp [avsRetrySt]
@[simp] theorem pmbAlertSt_memory (die : Nat) (s : State) : (pmbAlertSt die s).memory = s.memory := by simp [pmbAlertSt]
@[simp] theorem addOpenEvent_memory (kind scope phys logical : Nat) (s : State) :
    (addOpenEvent kind scope phys logical s).memory = s.memory := by simp [addOpenEvent]
@[simp] theorem thermalWarnSt_memory (kind index tempC : Nat) (s : State) : (thermalWarnSt kind index tempC s).memory = s.memory := by
  simp [thermalWarnSt]
@[simp] theorem thermalReleaseSt_memory (s : State) : (thermalReleaseSt s).memory = s.memory := by simp [thermalReleaseSt]
@[simp] theorem reducedCapSt_memory (inputMv inputMa : Nat) (s : State) : (reducedCapSt inputMv inputMa s).memory = s.memory := by
  simp [reducedCapSt]
@[simp] theorem capReadPart_st_memory (s : State) (x : Session) (d : Datagram) : (capReadPart s x d).st.memory = s.memory := rfl
@[simp] theorem identReadPart_st_memory (s : State) (x : Session) (d : Datagram) : (identReadPart s x d).st.memory = s.memory := rfl
@[simp] theorem attestPart_st_memory (s : State) (x : Session) (d : Datagram) : (attestPart s x d).st.memory = s.memory := rfl
@[simp] theorem cfgHostPortPart_st_memory (s : State) (x : Session) (d : Datagram) : (cfgHostPortPart s x d).st.memory = s.memory := by
  simp [cfgHostPortPart]
@[simp] theorem cfgYcpPart_st_memory (s : State) (x : Session) (d : Datagram) : (cfgYcpPart s x d).st.memory = s.memory := by
  simp [cfgYcpPart]
@[simp] theorem presentPorts_memory (s : State) : (presentPorts s).memory = s.memory := by simp [presentPorts]
@[simp] theorem cfgGradePart_st_memory (s : State) (x : Session) (d : Datagram) : (cfgGradePart s x d).st.memory = s.memory := by
  simp [cfgGradePart]
@[simp] theorem cfgReadPart_st_memory (s : State) (x : Session) (d : Datagram) : (cfgReadPart s x d).st.memory = s.memory := by
  simp [cfgReadPart]
@[simp] theorem certEnrollPart_st_memory (s : State) (x : Session) (d : Datagram) : (certEnrollPart s x d).st.memory = s.memory := by
  fun_cases certEnrollPart <;> simp +zetaDelta
@[simp] theorem partTimeout_memory (s : State) : (partTimeout s).memory = s.memory := by unfold partTimeout; split <;> simp
@[simp] theorem certRevokePart_st_memory (s : State) (x : Session) (d : Datagram) : (certRevokePart s x d).st.memory = s.memory := by
  simp [certRevokePart]
@[simp] theorem certListPart_st_memory (s : State) (x : Session) (d : Datagram) : (certListPart s x d).st.memory = s.memory := rfl
@[simp] theorem auditReadPart_st_memory (s : State) (x : Session) (d : Datagram) : (auditReadPart s x d).st.memory = s.memory := by
  simp [auditReadPart]
@[simp] theorem auditHeadPart_st_memory (s : State) (x : Session) (d : Datagram) : (auditHeadPart s x d).st.memory = s.memory := rfl
@[simp] theorem faultReadPart_st_memory (s : State) (x : Session) (d : Datagram) : (faultReadPart s x d).st.memory = s.memory := rfl
@[simp] theorem accountReadPart_st_memory (s : State) (x : Session) (d : Datagram) : (accountReadPart s x d).st.memory = s.memory := by
  fun_cases accountReadPart <;> simp
@[simp] theorem closeWindow_memory (s : State) : (closeWindow s).memory = s.memory := by simp [closeWindow]
@[simp] theorem serviceWindowPart_st_memory (s : State) (x : Session) (d : Datagram) : (serviceWindowPart s x d).st.memory = s.memory := by
  unfold serviceWindowPart; split <;> simp
@[simp] theorem windowEndSt_memory (s : State) : (windowEndSt s).memory = s.memory := by unfold windowEndSt; split <;> simp

@[simp] theorem fwInstallPart_st_memory (s : State) (x : Session) (d : Datagram) : (fwInstallPart s x d).st.memory = s.memory := by
  unfold fwInstallPart
  split
  · rfl
  · split <;> simp

@[simp] theorem fwInstallDone_memory (sid h : Nat) (s : State) : (fwInstallDone sid h s).memory = s.memory := by
  fun_cases fwInstallDone <;> simp
@[simp] theorem fwActivatePart_st_memory (s : State) (x : Session) (d : Datagram) : (fwActivatePart s x d).st.memory = s.memory := by
  simp [fwActivatePart]
@[simp] theorem fwReadPart_st_memory (s : State) (x : Session) (d : Datagram) : (fwReadPart s x d).st.memory = s.memory := rfl
@[simp] theorem mfgTestPart_st_memory (s : State) (x : Session) (d : Datagram) : (mfgTestPart s x d).st.memory = s.memory := by
  simp [mfgTestPart]
@[simp] theorem mfgTestDone_memory (sid h : Nat) (s : State) : (mfgTestDone sid h s).memory = s.memory := by
  unfold mfgTestDone; split <;> simp
@[simp] theorem telemReadPart_st_memory (s : State) (x : Session) (d : Datagram) : (telemReadPart s x d).st.memory = s.memory := by
  unfold telemReadPart; split <;> rfl
@[simp] theorem replayUnit_memory (kind unit : Nat) (s : State) : (replayUnit kind unit s).memory = s.memory := by
  unfold replayUnit; split <;> rfl
@[simp] theorem unreplaced_memory (k : Nat) (s : State) : (unreplaced k s).memory = s.memory := by simp [unreplaced]
@[simp] theorem countFault_memory (s : State) : (countFault s).memory = s.memory := rfl
@[simp] theorem raiseHaboob_memory (s : State) : (raiseHaboob s).memory = s.memory := by simp [raiseHaboob]

@[simp] theorem countedFault_memory (act : State → State) (s : State) (h : ∀ t, (act t).memory = t.memory) :
    (countedFault act s).memory = s.memory := by
  simp [countedFault, h]

@[simp] theorem wgbCopied_memory (me : Nat) (s : State) : (wgbCopied me s).memory = s.memory := rfl
@[simp] theorem bankFails_memory (field bank : Nat) (s : State) : (bankFails field bank s).memory = s.memory := by
  unfold bankFails; split <;> simp
@[simp] theorem doneEntry_memory (k l : Nat) (s : State) : (doneEntry k l s).memory = s.memory := by simp [doneEntry]
@[simp] theorem bankRebuilt_memory (field bank : Nat) (s : State) : (bankRebuilt field bank s).memory = s.memory := by
  fun_cases bankRebuilt <;> simp +zetaDelta
@[simp] theorem channelRebuilt_memory (stack pc : Nat) (s : State) : (channelRebuilt stack pc s).memory = s.memory := by
  fun_cases channelRebuilt <;> simp +zetaDelta
@[simp] theorem migrateStart_memory (stack : Nat) (s : State) : (migrateStart stack s).memory = s.memory := by
  fun_cases migrateStart <;> simp +zetaDelta
@[simp] theorem migrateDone_memory (stack : Nat) (s : State) : (migrateDone stack s).memory = s.memory := by
  unfold migrateDone; split <;> simp

@[simp] theorem failOps_memory (code : Nat) (a : List Op) (s : State) : (failOps code a s).memory = s.memory := by
  induction a generalizing s with
  | nil => rfl
  | cons o r ih => simp [failOps, ih]

@[simp] theorem phaseOff_memory (rail phase : Nat) (s : State) : (phaseOff rail phase s).memory = s.memory := by
  fun_cases phaseOff <;> simp +zetaDelta
@[simp] theorem phaseFails_memory (rail phase : Nat) (s : State) : (phaseFails rail phase s).memory = s.memory := by simp [phaseFails]
@[simp] theorem bistRunPart_st_memory (s : State) (x : Session) (d : Datagram) : (bistRunPart s x d).st.memory = s.memory := by
  simp [bistRunPart]
@[simp] theorem retrainPorts_memory (s : State) : (retrainPorts s).memory = s.memory := rfl
@[simp] theorem calibratePart_st_memory (s : State) (x : Session) (d : Datagram) : (calibratePart s x d).st.memory = s.memory := by
  simp [calibratePart]
@[simp] theorem calibrateDone_memory (sid handle : Nat) (ok : Bool) (results : List (Nat × Nat)) (s : State) :
    (calibrateDone sid handle ok results s).memory = s.memory := by unfold calibrateDone; split <;> simp
@[simp] theorem mirageReadPart_st_memory (s : State) (x : Session) (d : Datagram) : (mirageReadPart s x d).st.memory = s.memory := by
  simp [mirageReadPart]
@[simp] theorem mirageWritePart_st_memory (s : State) (x : Session) (d : Datagram) : (mirageWritePart s x d).st.memory = s.memory := by
  simp [mirageWritePart]
@[simp] theorem mirageWritten_memory (sid handle : Nat) (s : State) : (mirageWritten sid handle s).memory = s.memory := by
  unfold mirageWritten; split <;> simp
@[simp] theorem flashWrite_memory (s : State) : (flashWrite s).memory = s.memory := by simp [flashWrite]
@[simp] theorem topoWritePart_st_memory (s : State) (x : Session) (d : Datagram) : (topoWritePart s x d).st.memory = s.memory := by
  simp [topoWritePart]
@[simp] theorem routeWritePart_st_memory (s : State) (x : Session) (d : Datagram) : (routeWritePart s x d).st.memory = s.memory := by
  simp [routeWritePart]
@[simp] theorem mcastWritePart_st_memory (s : State) (x : Session) (d : Datagram) : (mcastWritePart s x d).st.memory = s.memory := by
  simp [mcastWritePart]
@[simp] theorem setTimeState_memory (st : Nat) (s : State) : (setTimeState st s).memory = s.memory := by simp [setTimeState]
@[simp] theorem becomeMaster_memory (s : State) : (becomeMaster s).memory = s.memory := by simp [becomeMaster]
@[simp] theorem applyRole_memory (s : State) : (applyRole s).memory = s.memory := by simp [applyRole]
@[simp] theorem fabricCommitPart_st_memory (s : State) (x : Session) (d : Datagram) : (fabricCommitPart s x d).st.memory = s.memory := by
  simp [fabricCommitPart]
@[simp] theorem fabricReadPart_st_memory (s : State) (x : Session) (d : Datagram) : (fabricReadPart s x d).st.memory = s.memory := by
  simp [fabricReadPart]
@[simp] theorem timeSetPart_st_memory (s : State) (x : Session) (d : Datagram) : (timeSetPart s x d).st.memory = s.memory := by
  simp [timeSetPart]
@[simp] theorem cmpInstallPart_st_memory (s : State) (x : Session) (d : Datagram) : (cmpInstallPart s x d).st.memory = s.memory := by
  fun_cases cmpInstallPart <;> simp
@[simp] theorem installDone_memory (sid handle : Nat) (s : State) : (installDone sid handle s).memory = s.memory := by
  unfold installDone; split <;> simp
@[simp] theorem fedMapSetPart_st_memory (s : State) (x : Session) (d : Datagram) : (fedMapSetPart s x d).st.memory = s.memory := by
  simp [fedMapSetPart]
@[simp] theorem fedKeySetPart_st_memory (s : State) (x : Session) (d : Datagram) : (fedKeySetPart s x d).st.memory = s.memory := by
  unfold fedKeySetPart; split <;> simp

end Sys2Proof.Proofs

end

section
/-! PROOFS. What leaves memory alone: links, frames, the precise time and the bookkeeping of reductions. -/

namespace Sys2Proof.Proofs
open Sys2Proof.Machine Sys2Proof.Safety Sys2Proof.Laws

@[simp] theorem pumpSt_memory (port : Nat) (s : State) : (pumpSt port s).memory = s.memory := rfl

@[simp] theorem tryRelease_memory (port : Nat) (s : State) : (tryRelease port s).memory = s.memory := by
  unfold tryRelease
  split
  · rfl
  · split <;> simp

@[simp] theorem afterReceipt_memory (port : Nat) (s : State) : (afterReceipt port s).memory = s.memory := by simp [afterReceipt]
@[simp] theorem oweFor_memory (port : Nat) (f : Frame) (s : State) : (oweFor port f s).memory = s.memory := rfl
@[simp] theorem linkEvent_memory (port reason : Nat) (s : State) : (linkEvent port reason s).memory = s.memory := by simp [linkEvent]
@[simp] theorem portFails_memory (port : Nat) (s : State) : (portFails port s).memory = s.memory := by unfold portFails; split <;> simp

@[simp] theorem resendFrom_memory (port : Nat) (seq : Option Nat) (s : State) : (resendFrom port seq s).memory = s.memory := by
  unfold resendFrom
  split
  · rfl
  · split <;> simp

@[simp] theorem retryRequestSt_memory (port : Nat) (f : Frame) (s : State) : (retryRequestSt port f s).memory = s.memory := by
  simp [retryRequestSt]
@[simp] theorem replayTimeoutSt_memory (port : Nat) (s : State) : (replayTimeoutSt port s).memory = s.memory := by
  simp [replayTimeoutSt]
@[simp] theorem lackReportSt_memory (port : Nat) (s : State) : (lackReportSt port s).memory = s.memory := by simp [lackReportSt]
@[simp] theorem creditTimerSt_memory (port : Nat) (s : State) : (creditTimerSt port s).memory = s.memory := by simp [creditTimerSt]
@[simp] theorem routesReturn_memory (port : Nat) (s : State) : (routesReturn port s).memory = s.memory := rfl
@[simp] theorem trainPort_memory (port : Nat) (t : Training) (s : State) : (trainPort port t s).memory = s.memory := by simp [trainPort]
@[simp] theorem retryTraining_memory (port : Nat) (s : State) : (retryTraining port s).memory = s.memory := by simp [retryTraining]
@[simp] theorem substLane_memory (port lane : Nat) (s : State) : (substLane port lane s).memory = s.memory := rfl
@[simp] theorem afterCount_memory (s : State) : (afterCount s).memory = s.memory := by simp [afterCount]
@[simp] theorem laneFails_memory (port lane : Nat) (s : State) : (laneFails port lane s).memory = s.memory := by
  unfold laneFails; split <;> simp
@[simp] theorem laneSubstSt_memory (port : Nat) (f : Frame) (s : State) : (laneSubstSt port f s).memory = s.memory := by
  fun_cases laneSubstSt <;> simp +zetaDelta
@[simp] theorem slotReportSt_memory (port : Nat) (f : Frame) (s : State) : (slotReportSt port f s).memory = s.memory := by
  simp [slotReportSt]
@[simp] theorem slotTimerSt_memory (port : Nat) (s : State) : (slotTimerSt port s).memory = s.memory := by simp [slotTimerSt]
@[simp] theorem releaseFrameSt_memory (port : Nat) (f : Frame) (s : State) : (releaseFrameSt port f s).memory = s.memory := by
  simp [releaseFrameSt]
@[simp] theorem releaseTimerSt_memory (port : Nat) (s : State) : (releaseTimerSt port s).memory = s.memory := by
  unfold releaseTimerSt; split <;> simp
@[simp] theorem widthSt_memory (port : Nat) (f : Frame) (s : State) : (widthSt port f s).memory = s.memory := by
  fun_cases widthSt <;> simp +zetaDelta
@[simp] theorem widthTimeoutSt_memory (port : Nat) (s : State) : (widthTimeoutSt port s).memory = s.memory := rfl
@[simp] theorem quietSt_memory (port : Nat) (f : Frame) (s : State) : (quietSt port f s).memory = s.memory := by
  fun_cases quietSt <;> simp +zetaDelta
@[simp] theorem burstSt_memory (port : Nat) (s : State) : (burstSt port s).memory = s.memory := by simp [burstSt]
@[simp] theorem linkFrame_memory (port : Nat) (f : Frame) (s : State) : (linkFrame port f s).memory = s.memory := by
  fun_cases linkFrame <;> simp
@[simp] theorem badFrame_memory (port : Nat) (bad : Bool) (f : Frame) (s : State) : (badFrame port bad f s).memory = s.memory := by
  fun_cases badFrame <;> simp +zetaDelta
@[simp] theorem decodeFails_memory (port : Nat) (f : Frame) (s : State) : (decodeFails port f s).memory = s.memory := by
  simp [decodeFails]
@[simp] theorem deliverHere_memory (port : Nat) (f : Frame) (s : State) : (deliverHere port f s).memory = s.memory := by
  unfold deliverHere; split <;> simp
@[simp] theorem forwardCopies_memory (port : Nat) (f : Frame) (s : State) : (forwardCopies port f s).memory = s.memory := rfl
@[simp] theorem switchFrame_memory (port : Nat) (f : Frame) (s : State) : (switchFrame port f s).memory = s.memory := by
  simp [switchFrame]

@[simp] theorem stompCopies_memory (slots : List (Bool × Nat × GenSet)) (ingress : Nat) (f : Frame) (a : List Nat) (s : State) :
    (stompCopies slots ingress f a s).memory = s.memory := by
  induction a generalizing s with
  | nil => rfl
  | cons n r ih => simp [stompCopies, ih]

@[simp] theorem stompSt_memory (port : Nat) (f : Frame) (s : State) : (stompSt port f s).memory = s.memory := by simp [stompSt]
@[simp] theorem receiveFrame_memory (port : Nat) (f : Frame) (s : State) : (receiveFrame port f s).memory = s.memory := by
  unfold receiveFrame; split <;> simp
@[simp] theorem syncSt_memory (port : Nat) (m : PtpMsg) (s : State) : (syncSt port m s).memory = s.memory := by simp [syncSt]
@[simp] theorem offsetSt_memory (off : Int) (s : State) : (offsetSt off s).memory = s.memory := by simp [offsetSt]
@[simp] theorem followUpSt_memory (port : Nat) (m : PtpMsg) (s : State) : (followUpSt port m s).memory = s.memory := by
  unfold followUpSt; split <;> simp
@[simp] theorem respSt_memory (port : Nat) (m : PtpMsg) (s : State) : (respSt port m s).memory = s.memory := by
  unfold respSt; split <;> simp
@[simp] theorem respFollowSt_memory (port : Nat) (m : PtpMsg) (s : State) : (respFollowSt port m s).memory = s.memory := by
  unfold respFollowSt; split <;> simp
@[simp] theorem ptpSt_memory (port : Nat) (m : PtpMsg) (s : State) : (ptpSt port m s).memory = s.memory := by fun_cases ptpSt <;> simp
@[simp] theorem syncTimeoutSt_memory (port : Nat) (s : State) : (syncTimeoutSt port s).memory = s.memory := by simp [syncTimeoutSt]
@[simp] theorem modChunk_memory (coll chunk step : Nat) (f : ChunkRt → ChunkRt) (s : State) :
    (modChunk coll chunk step f s).memory = s.memory := rfl
@[simp] theorem modColl_memory (coll step : Nat) (f : CollRt → CollRt) (s : State) : (modColl coll step f s).memory = s.memory := rfl
@[simp] theorem ensureChunk_memory (coll chunk step : Nat) (s : State) : (ensureChunk coll chunk step s).memory = s.memory := by
  simp [ensureChunk]
@[simp] theorem ensureColl_memory (coll step : Nat) (s : State) : (ensureColl coll step s).memory = s.memory := by simp [ensureColl]

@[simp] theorem modSlot_memory (me slot : Nat) (f : WgbSlot → WgbSlot) (s : State) : (modSlot me slot f s).memory = s.memory := by
  unfold modSlot
  split
  · rfl
  · split <;> simp

@[simp] theorem sendOrFail_memory (fs : List (Option Nat × Frame)) (s : State) : (sendOrFail fs s).memory = s.memory := by
  simp [sendOrFail]
@[simp] theorem ackCounter_memory (coll step : Nat) (s : State) : (ackCounter coll step s).memory = s.memory := by
  unfold ackCounter; split <;> simp
@[simp] theorem settleSlot_memory (im : Image) (coll chunk leaf : Nat) (s : State) :
    (settleSlot im coll chunk leaf s).memory = s.memory := by unfold settleSlot; split <;> simp
@[simp] theorem ackChunk_memory (coll chunk step : Nat) (s : State) : (ackChunk coll chunk step s).memory = s.memory := by
  unfold ackChunk; split <;> simp
@[simp] theorem takeCarry_memory (coll chunk : Nat) (s : State) : (takeCarry coll chunk s).2.memory = s.memory := by
  unfold takeCarry; split <;> rfl
@[simp] theorem dropOver_memory (e : Env) (coll st : Nat) (s : State) : (dropOver e coll st s).memory = s.memory := rfl
@[simp] theorem drainSlot_memory (me slot : Nat) (s : State) : (drainSlot me slot s).memory = s.memory := by simp [drainSlot]
@[simp] theorem drainLeaf_memory (coll tile step me slot : Nat) (s : State) : (drainLeaf coll tile step me slot s).memory = s.memory := by
  simp [drainLeaf]
@[simp] theorem wgbDrainSt_memory (me slot : Nat) (s : State) : (wgbDrainSt me slot s).memory = s.memory := by
  fun_cases wgbDrainSt <;> simp
@[simp] theorem deferLeaf_memory (coll chunk leaf : Nat) (v : List Nat × Nat) (s : State) :
    (deferLeaf coll chunk leaf v s).memory = s.memory := rfl
@[simp] theorem lateFrame_memory (f : Frame) (s : State) : (lateFrame f s).memory = s.memory := rfl
@[simp] theorem ackOne_memory (f : Frame) (coll chunk step : Nat) (s : State) : (ackOne f coll chunk step s).memory = s.memory := by
  simp [ackOne]
@[simp] theorem chunkAckSt_memory (f : Frame) (s : State) : (chunkAckSt f s).memory = s.memory := by simp [chunkAckSt]

end Sys2Proof.Proofs

end

section
/-! PROOFS. What leaves memory alone: engines whose threads still hold their writes, and the cores' own registers. -/

namespace Sys2Proof.Proofs
open Sys2Proof.Machine Sys2Proof.Safety Sys2Proof.Laws

@[simp] theorem countEvents_memory (i : Nat) (st : Stored) (s : State) : (countEvents i st s).memory = s.memory := rfl
@[simp] theorem syncScale_memory (i : Nat) (s : State) : (syncScale i s).memory = s.memory := by unfold syncScale; split <;> simp
@[simp] theorem storeTo_memory (thread : Nat) (e : Env) (i seq : Nat) (vals : List (Nat × FV)) (s : State) :
    (storeTo thread e i seq vals s).memory = s.memory := rfl
@[simp] theorem storePlain_memory (thread : Nat) (e : Env) (i seq : Nat) (vals : List (Nat × FV)) (s : State) :
    (storePlain thread e i seq vals s).memory = s.memory := rfl
@[simp] theorem failRead_memory (kind unit thread code i idx : Nat) (e : Env) (s : State) :
    (failRead kind unit thread code i idx e s).memory = s.memory := by simp [failRead]
@[simp] theorem kvPoolCreatePart_st_memory (s : State) (x : Session) (d : Datagram) : (kvPoolCreatePart s x d).st.memory = s.memory := by
  unfold kvPoolCreatePart; split <;> simp
@[simp] theorem kvPoolDestroyPart_st_memory (s : State) (x : Session) (d : Datagram) : (kvPoolDestroyPart s x d).st.memory = s.memory := by
  simp [kvPoolDestroyPart]
@[simp] theorem kvSeqSetPart_st_memory (s : State) (x : Session) (d : Datagram) : (kvSeqSetPart s x d).st.memory = s.memory := by
  fun_cases kvSeqSetPart <;> simp

@[simp] theorem kvTableReadPart_st_memory (s : State) (x : Session) (d : Datagram) : (kvTableReadPart s x d).st.memory = s.memory := by
  unfold kvTableReadPart
  split
  · rfl
  · split <;> simp

@[simp] theorem emptyPass_memory (thread : Nat) (s : State) : (emptyPass thread s).memory = s.memory := rfl
@[simp] theorem drainSt_memory (me : Nat) (s : State) : (drainSt me s).memory = s.memory := by fun_cases drainSt <;> simp
@[simp] theorem lendSt_memory (kind unit : Nat) (s : State) : (lendSt kind unit s).memory = s.memory := by unfold lendSt; split <;> simp
@[simp] theorem embedRun_memory (st : Nat) (s : State) (e : Env) (ent : Nat) (ns : List FV) :
    (embedRun st s e ent ns).memory = s.memory := by fun_cases embedRun <;> simp
@[simp] theorem stemGradRun_memory (st : Nat) (s : State) (e : Env) (ent : Nat) (ns : List FV) :
    (stemGradRun st s e ent ns).memory = s.memory := by fun_cases stemGradRun <;> simp
@[simp] theorem landFwd_memory (t micro : Nat) (e : Env) (o : Nat) (b : Batch) (d : Nat) (rows : Sp RowState) (s : State) :
    (landFwd t micro e o b d rows s).memory = s.memory := by simp [landFwd]
@[simp] theorem addPin_memory (thread seq stream : Nat) (s : State) : (addPin thread seq stream s).memory = s.memory := rfl
@[simp] theorem fwdRun_memory (as ent : Nat) (e : Env) (s : State) : (fwdRun as ent e s).memory = s.memory := by
  fun_cases fwdRun <;> simp +zetaDelta -implicitDefEqProofs
@[simp] theorem landBwd_memory (t micro : Nat) (e : Env) (o : Nat) (b : Batch) (dq : Sp (List FV)) (s : State) :
    (landBwd t micro e o b dq s).memory = s.memory := rfl
@[simp] theorem bwdRun_memory (as ent : Nat) (e : Env) (s : State) : (bwdRun as ent e s).memory = s.memory := by
  fun_cases bwdRun <;> simp +zetaDelta
@[simp] theorem appendRun_memory (as ent : Nat) (e : Env) (s : State) : (appendRun as ent e s).memory = s.memory := by
  fun_cases appendRun <;> simp +zetaDelta
@[simp] theorem commitRun_memory (as ent : Nat) (e : Env) (s : State) : (commitRun as ent e s).memory = s.memory := by
  fun_cases commitRun <;> simp +zetaDelta
@[simp] theorem setWait_memory (w : KvWait) (s : State) : (setWait w s).memory = s.memory := rfl
@[simp] theorem dropWait_memory (thread : Nat) (s : State) : (dropWait thread s).memory = s.memory := rfl
@[simp] theorem countGroup_memory (g : Nat) (s : State) : (countGroup g s).memory = s.memory := by simp [countGroup]
@[simp] theorem landAll_memory (e : Env) (t : Nat) (l : List (Nat × Stored)) (s : State) : (landAll e t l s).memory = s.memory := by
  simp [landAll]
@[simp] theorem keepFactors_memory (e : Env) (o : Nat) (s : State) : (keepFactors e o s).memory = s.memory := by simp [keepFactors]
@[simp] theorem noteCounts_memory (i : InFlight) (s : State) : (noteCounts i s).memory = s.memory := by simp [noteCounts]

@[simp] theorem noteAgain_memory (e : Env) (ent : Nat) (l : List (Nat × Stored)) (s : State) :
    (noteAgain e ent l s).memory = s.memory := by
  simp only [noteAgain, noteCounts_memory]
  exact foldl_memory _ _ _ fun t x => countEvents_memory _ _ t

@[simp] theorem zeroSt_memory (xe : Nat) (s : State) : (zeroSt xe s).memory = s.memory := by
  fun_cases zeroSt <;> simp +zetaDelta
@[simp] theorem spillSt_memory (xe : Nat) (s : State) : (spillSt xe s).memory = s.memory := by
  fun_cases spillSt <;> simp +zetaDelta
@[simp] theorem fillSt_memory (xe : Nat) (s : State) : (fillSt xe s).memory = s.memory := by
  fun_cases fillSt <;> simp +zetaDelta

@[simp] theorem commitSlot_memory (i : InFlight) (s : State) : (commitSlot i s).memory = s.memory := by
  unfold commitSlot
  split
  · rfl
  · split <;> simp

@[simp] theorem engineNext_memory (s : State) : (engineNext s).memory = s.memory := by unfold engineNext; split <;> simp
@[simp] theorem tensorImportPart_st_memory (s : State) (x : Session) (d : Datagram) : (tensorImportPart s x d).st.memory = s.memory := by
  unfold tensorImportPart; split <;> simp

@[simp] theorem failHost_memory (sid h code addr : Nat) (s : State) : (failHost sid h code addr s).memory = s.memory := by
  unfold failHost
  split
  · split <;> simp
  · simp

@[simp] theorem opProgress_memory (sid h n : Nat) (s : State) : (opProgress sid h n s).memory = s.memory := rfl
@[simp] theorem tensorExportPart_st_memory (s : State) (x : Session) (d : Datagram) : (tensorExportPart s x d).st.memory = s.memory := by
  unfold tensorExportPart; split <;> simp
@[simp] theorem memCopyPart_st_memory (s : State) (x : Session) (d : Datagram) : (memCopyPart s x d).st.memory = s.memory := by
  unfold memCopyPart; split <;> simp
@[simp] theorem wgbApply_memory (e : Env) (ent : Nat) (s : State) (a : WgbAdd) : (wgbApply e ent s a).memory = s.memory := by
  simp [wgbApply]
@[simp] theorem wgbBreach_memory (thread me slot done adds : Nat) (s : State) :
    (wgbBreach thread me slot done adds s).memory = s.memory := by simp [wgbBreach]
@[simp] theorem moveLedger_memory (e : Env) (f : InFlight) (s : State) : (moveLedger e f s).memory = s.memory := rfl
@[simp] theorem noteNorm_memory (g step : Nat) (f : NormEntry → NormEntry) (s : State) : (noteNorm g step f s).memory = s.memory := rfl
@[simp] theorem noteNoise_memory (e : Env) (step : Nat) (items : List Nat) (g : Nat) (s : State) :
    (noteNoise e step items g s).memory = s.memory := by unfold noteNoise; split <;> simp
@[simp] theorem applySums_memory (all : List Nat) (step : Nat) (s : State) : (applySums all step s).memory = s.memory := by
  unfold applySums; split <;> simp
@[simp] theorem localSums_memory (s : State) : (localSums s).memory = s.memory := by fun_cases localSums <;> simp
@[simp] theorem coreSt_memory (gc : Nat) (s : State) : (coreSt gc s).memory = s.memory := by unfold coreSt; split <;> simp
@[simp] theorem coreFault_memory (gc : Nat) (h : HThread) (cause : Nat) (s : State) : (coreFault gc h cause s).memory = s.memory := by
  simp [coreFault]
@[simp] theorem fenceSt_memory (gc ht : Nat) (s : State) : (fenceSt gc ht s).memory = s.memory := by unfold fenceSt; split <;> rfl
@[simp] theorem ctrWaitSt_memory (gc ht rs1 rs2 : Nat) (s : State) : (ctrWaitSt gc ht rs1 rs2 s).memory = s.memory := by
  unfold ctrWaitSt; split <;> simp

@[simp] theorem ctrWaitEndSt_memory (gc ht : Nat) (s : State) : (ctrWaitEndSt gc ht s).memory = s.memory := by
  unfold ctrWaitEndSt
  split
  · rfl
  · split <;> simp

@[simp] theorem carWaitSt_memory (gc ht rs1 rd : Nat) (s : State) : (carWaitSt gc ht rs1 rd s).memory = s.memory := by
  fun_cases carWaitSt <;> simp
@[simp] theorem carWaitEndSt_memory (gc ht : Nat) (s : State) : (carWaitEndSt gc ht s).memory = s.memory := by
  fun_cases carWaitEndSt <;> simp
@[simp] theorem descXltSt_memory (gc ht rs1 rs2 rd : Nat) (s : State) : (descXltSt gc ht rs1 rs2 rd s).memory = s.memory := by
  unfold descXltSt; split <;> rfl
@[simp] theorem coreCount_memory (gc ht : Nat) (h : HThread) (c v rd : Nat) (s : State) :
    (coreCount gc ht h c v rd s).memory = s.memory := by simp [coreCount]
@[simp] theorem breakResv_memory (a n : Nat) (s : State) : (breakResv a n s).memory = s.memory := rfl
@[simp] theorem rvFail_memory (gc : Nat) (h : HThread) (t : RvTrap) (s : State) : (rvFail gc h t s).memory = s.memory := by
  simp [rvFail]
@[simp] theorem rvCustom_memory (gc ht w : Nat) (h : HThread) (s : State) : (rvCustom gc ht w h s).memory = s.memory := by
  simp [rvCustom]
@[simp] theorem endWaits_memory (gc : Nat) (s : State) : (endWaits gc s).memory = s.memory := by simp [endWaits]
@[simp] theorem passTime_memory (s : State) : (passTime s).memory = s.memory := by simp [passTime]

end Sys2Proof.Proofs

end

section
/-! PROOFS. What leaves memory alone: federation, publication, peers, the caravan, the run and boot. -/

namespace Sys2Proof.Proofs
open Sys2Proof.Machine Sys2Proof.Safety Sys2Proof.Laws

@[simp] theorem federate_memory (st : Nat) (s : State) : (federate st s).memory = s.memory := by unfold federate; split <;> rfl
@[simp] theorem fedSend_memory (im : Image) (ftype site m r f : Nat) (data : List Byte) (s : State) :
    (fedSend im ftype site m r f data s).memory = s.memory := by unfold fedSend; split <;> rfl
@[simp] theorem fedDiscard_memory (port : Nat) (s : State) : (fedDiscard port s).memory = s.memory := rfl
@[simp] theorem fedClock_memory (im : Image) (g : FedDgram) (s : State) : (fedClock im g s).memory = s.memory := by simp [fedClock]
@[simp] theorem deltaSendSt_memory (r f : Nat) (s : State) : (deltaSendSt r f s).memory = s.memory := by fun_cases deltaSendSt <;> simp
@[simp] theorem deltaSt_memory (port : Nat) (g : FedDgram) (s : State) : (deltaSt port g s).memory = s.memory := by
  fun_cases deltaSt <;> simp +zetaDelta

@[simp] theorem sendAll_memory (im : Image) (r f : Nat) (s : State) : (sendAll im r f s).memory = s.memory := by
  unfold sendAll
  split
  · rfl
  · split <;> simp

@[simp] theorem resultTimeoutSt_memory (r f : Nat) (s : State) : (resultTimeoutSt r f s).memory = s.memory := by
  unfold resultTimeoutSt; split <;> simp
@[simp] theorem resendSt_memory (r f : Nat) (s : State) : (resendSt r f s).memory = s.memory := by unfold resendSt; split <;> simp
@[simp] theorem fedAckSt_memory (port : Nat) (g : FedDgram) (s : State) : (fedAckSt port g s).memory = s.memory := by
  fun_cases fedAckSt <;> simp +zetaDelta
@[simp] theorem makeCurrent_memory (pub shard pver : Nat) (s : State) : (makeCurrent pub shard pver s).memory = s.memory := rfl
@[simp] theorem noteTail_memory (pub shard pver w u : Nat) (s : State) : (noteTail pub shard pver w u s).memory = s.memory := by
  unfold noteTail; split <;> simp
@[simp] theorem publishDeparts_memory (pub st : Nat) (s : State) : (publishDeparts pub st s).memory = s.memory := by
  unfold publishDeparts; split <;> simp
@[simp] theorem noteAck_memory (m step : Nat) (s : State) : (noteAck m step s).memory = s.memory := rfl
@[simp] theorem sendBwdAck_memory (s : State) : (sendBwdAck s).memory = s.memory := by unfold sendBwdAck; split <;> simp
@[simp] theorem bwdAckSendSt_memory (s : State) : (bwdAckSendSt s).memory = s.memory := by unfold bwdAckSendSt; split <;> simp
@[simp] theorem bwdAckSt_memory (f : Frame) (s : State) : (bwdAckSt f s).memory = s.memory := by simp [bwdAckSt]
@[simp] theorem checkpointDeparts_memory (list st : Nat) (s : State) : (checkpointDeparts list st s).memory = s.memory := rfl
@[simp] theorem checkpointDone_memory (s : State) : (checkpointDone s).memory = s.memory := by unfold checkpointDone; split <;> simp
@[simp] theorem linkSendSt_memory (link : Nat) (s : State) : (linkSendSt link s).memory = s.memory := by
  fun_cases linkSendSt <;> simp +zetaDelta
@[simp] theorem signalLinks_memory (s : State) : (signalLinks s).memory = s.memory := by unfold signalLinks; split <;> simp
@[simp] theorem recutDeparts_memory (list st : Nat) (s : State) : (recutDeparts list st s).memory = s.memory := by
  unfold recutDeparts; split <;> rfl

@[simp] theorem sendMoves_memory (list st : Nat) (p : Nat → Bool) (s : State) : (sendMoves list st p s).memory = s.memory := by
  unfold sendMoves; split
  · rfl
  · refine foldl_memory _ _ _ fun t m => ?_
    dsimp only
    split
    · rfl
    · split <;> simp

@[simp] theorem republish_memory (m : Nat) (s : State) : (republish m s).memory = s.memory := rfl
@[simp] theorem movesAfterLoss_memory (m : Nat) (s : State) : (movesAfterLoss m s).memory = s.memory := by
  unfold movesAfterLoss; split <;> simp
@[simp] theorem lossNotice_memory (m : Nat) (s : State) : (lossNotice m s).memory = s.memory := by unfold lossNotice; split <;> rfl
@[simp] theorem quietPorts_memory (s : State) : (quietPorts s).memory = s.memory := rfl
@[simp] theorem doneRun_memory (s : State) : (doneRun s).memory = s.memory := by simp [doneRun]
@[simp] theorem retireAlone_memory (s : State) : (retireAlone s).memory = s.memory := rfl
@[simp] theorem retireIdle_memory (s : State) : (retireIdle s).memory = s.memory := by unfold retireIdle; split <;> simp
@[simp] theorem moduleRetirePart_st_memory (s : State) (x : Session) (d : Datagram) : (moduleRetirePart s x d).st.memory = s.memory := by
  fun_cases moduleRetirePart <;> simp
@[simp] theorem retireDone_memory (s : State) : (retireDone s).memory = s.memory := by unfold retireDone; split <;> simp
@[simp] theorem retireNotice_memory (s : State) : (retireNotice s).memory = s.memory := by unfold retireNotice; split <;> simp
@[simp] theorem retireUnsent_memory (s : State) : (retireUnsent s).memory = s.memory := by unfold retireUnsent; split <;> simp
@[simp] theorem retireExpires_memory (sid handle : Nat) (s : State) : (retireExpires sid handle s).memory = s.memory := by
  unfold retireExpires; split <;> simp
@[simp] theorem leaveNow_memory (s : State) : (leaveNow s).memory = s.memory := rfl
@[simp] theorem retireSt_memory (f : Frame) (s : State) : (retireSt f s).memory = s.memory := by simp [retireSt]

@[simp] theorem retireAckSt_memory (f : Frame) (s : State) : (retireAckSt f s).memory = s.memory := by
  unfold retireAckSt
  split
  · rfl
  · split <;> simp

@[simp] theorem applyCaravanOps_memory (s : State) : (applyCaravanOps s).memory = s.memory := rfl
@[simp] theorem applyDueOps_memory (s : State) : (applyDueOps s).memory = s.memory := rfl
@[simp] theorem caravanChange_st_memory (kind index entry : Nat) (s : State) :
    (caravanChange kind index entry s).st.memory = s.memory := by unfold caravanChange; split <;> simp
@[simp] theorem caravanPeriodPart_st_memory (s : State) (x : Session) (d : Datagram) : (caravanPeriodPart s x d).st.memory = s.memory := by
  simp [caravanPeriodPart]
@[simp] theorem caravanSetPart_st_memory (s : State) (x : Session) (d : Datagram) : (caravanSetPart s x d).st.memory = s.memory := by
  unfold caravanSetPart; split <;> simp
@[simp] theorem adapterSetPart_st_memory (s : State) (x : Session) (d : Datagram) : (adapterSetPart s x d).st.memory = s.memory := by
  unfold adapterSetPart; split <;> simp
@[simp] theorem groupSetPart_st_memory (s : State) (x : Session) (d : Datagram) : (groupSetPart s x d).st.memory = s.memory := by
  unfold groupSetPart; split <;> simp
@[simp] theorem applyAdapter_memory (s : State) (p : Nat) : (applyAdapter s p).memory = s.memory := rfl
@[simp] theorem applyGroup_memory (s : State) (p : Nat) : (applyGroup s p).memory = s.memory := by unfold applyGroup; split <;> rfl

@[simp] theorem applySets_memory (s : State) : (applySets s).memory = s.memory := by
  simp only [applySets]
  rw [foldl_memory _ _ _ applyGroup_memory, foldl_memory _ _ _ applyAdapter_memory]

@[simp] theorem startVersions_memory (im : Image) (s : State) : (startVersions im s).memory = s.memory := by simp [startVersions]
@[simp] theorem discardAccum_memory (s : State) : (discardAccum s).memory = s.memory := rfl
@[simp] theorem freshStep_memory (s : State) : (freshStep s).memory = s.memory := rfl
@[simp] theorem beginRun_memory (x : Session) (d : Datagram) (im : Image) (s : State) : (beginRun x d im s).memory = s.memory := by
  simp [beginRun]
@[simp] theorem runPart_st_memory (s : State) (x : Session) (d : Datagram) : (runPart s x d).st.memory = s.memory := by
  unfold runPart; split <;> simp
@[simp] theorem runStartSt_memory (sid h : Nat) (s : State) : (runStartSt sid h s).memory = s.memory := by
  unfold runStartSt; split <;> simp
@[simp] theorem nextVersions_memory (s : State) : (nextVersions s).memory = s.memory := by unfold nextVersions; split <;> rfl
@[simp] theorem runCompleteSt_memory (sid h : Nat) (s : State) : (runCompleteSt sid h s).memory = s.memory := by simp [runCompleteSt]
@[simp] theorem prunePast_memory (s : State) : (prunePast s).memory = s.memory := rfl
@[simp] theorem scorePage_memory (u : Nat × Nat × Nat × Nat) (s : State) : (scorePage u s).memory = s.memory := by
  unfold scorePage; split <;> simp
@[simp] theorem scoreUpdates_memory (s : State) : (scoreUpdates s).memory = s.memory := by simp [scoreUpdates]
@[simp] theorem failShort_memory (l : List (Nat × Nat × Nat × Nat)) (s : State) : (failShort l s).memory = s.memory := by
  simp [failShort]
@[simp] theorem leaveStep_memory (e : Env) (s : State) : (leaveStep e s).memory = s.memory := rfl
@[simp] theorem pruneMapping_memory (s : State) : (pruneMapping s).memory = s.memory := rfl
@[simp] theorem recordStep_memory (s : State) : (recordStep s).memory = s.memory := rfl
@[simp] theorem lastStep_memory (e : Env) (s : State) : (lastStep e s).memory = s.memory := by simp [lastStep]

@[simp] theorem deadlockSt_memory (s : State) : (deadlockSt s).memory = s.memory := by
  fun_cases deadlockSt <;> simp
  refine foldl_memory _ _ _ fun t q => ?_
  split <;> simp

@[simp] theorem imageStatePart_st_memory (s : State) (x : Session) (d : Datagram) : (imageStatePart s x d).st.memory = s.memory := rfl
@[simp] theorem normReadPart_st_memory (s : State) (x : Session) (d : Datagram) : (normReadPart s x d).st.memory = s.memory := by
  simp [normReadPart]
@[simp] theorem someStates_st_memory (s : State) (count limit total first : Nat) (f : Nat → List Byte) :
    (someStates s count limit total first f).st.memory = s.memory := by simp [someStates]
@[simp] theorem diagReadPart_st_memory (s : State) (x : Session) (d : Datagram) : (diagReadPart s x d).st.memory = s.memory := by
  fun_cases diagReadPart <;> simp

@[simp] theorem scaleHistReadPart_st_memory (s : State) (x : Session) (d : Datagram) : (scaleHistReadPart s x d).st.memory = s.memory := by
  unfold scaleHistReadPart
  split
  · rfl
  · split <;> simp

@[simp] theorem imageLoadPart_st_memory (s : State) (x : Session) (d : Datagram) : (imageLoadPart s x d).st.memory = s.memory := by
  simp [imageLoadPart]
@[simp] theorem imageUnloadPart_st_memory (s : State) (x : Session) (d : Datagram) : (imageUnloadPart s x d).st.memory = s.memory := by
  simp [imageUnloadPart]
@[simp] theorem stopBoot_memory (s : State) : (stopBoot s).memory = s.memory := by simp [stopBoot]
@[simp] theorem chooseMap_memory (b : BootInputs) (s0 : State) : (chooseMap b s0).memory = s0.memory := by
  fun_cases chooseMap <;> simp +zetaDelta
@[simp] theorem trainPorts_memory (a : List (Nat × Training)) (s : State) : (trainPorts a s).memory = s.memory := by
  fun_induction trainPorts <;> simp [*]
@[simp] theorem dueForTraining_memory (s : State) : (dueForTraining s).memory = s.memory :=
  foldl_memory _ _ _ fun t _ => onPort_memory _ _ t
@[simp] theorem lockTime_memory (b : BootInputs) (s : State) : (lockTime b s).memory = s.memory := by simp [lockTime]
@[simp] theorem firstBoot_memory (i : Nat) (s : State) : (firstBoot i s).memory = s.memory := by simp [firstBoot]
@[simp] theorem stopOps_memory (a : List Op) (s : State) : (stopOps a s).memory = s.memory := by fun_induction stopOps <;> simp [*]
@[simp] theorem endClients_memory (s : State) : (endClients s).memory = s.memory := by simp [endClients]
@[simp] theorem endAll_memory (s : State) : (endAll s).memory = s.memory := by simp [endAll]
@[simp] theorem mateSt_memory (inputMv : Nat) (s : State) : (mateSt inputMv s).memory = s.memory := by simp [mateSt]

end Sys2Proof.Proofs

end

section
/-! PROOFS. What writes memory directly keeps it in canonical form. -/

namespace Sys2Proof.Proofs
open Sys2Proof.Machine Sys2Proof.Safety Sys2Proof.Laws

/-! Memory through the operations that write it. -/

@[simp] theorem memoryWf_ite {c : Prop} [Decidable c] (a b : Memory) :
    memoryWf (if c then a else b) = if c then memoryWf a else memoryWf b := apply_ite memoryWf c a b

/-- A fold over memory keeps it canonical where each of its steps does. -/
theorem memoryWf_foldl {α : Type} (g : Memory → α → Memory) (hg : ∀ m x, memoryWf m = true → memoryWf (g m x) = true)
    (l : List α) (m : Memory) (h : memoryWf m = true) : memoryWf (l.foldl g m) = true := by
  induction l generalizing m with
  | nil => exact h
  | cons x r ih => exact ih _ (hg m x h)

theorem memoryWf_putChunk (e : Env) (desc dw chunk : Nat) (vals : List Nat) (m : Memory) (h : memoryWf m = true) :
    memoryWf (putChunk e desc dw chunk vals m) = true := by
  refine memoryWf_foldl _ (fun m v h => ?_) _ m h
  split
  · exact h
  · split
    · exact h
    · exact memoryWf_vaPut _ _ _ _ h

theorem memoryWf_applyWrites (e : Env) (ws : List Write) (m : Memory) (h : memoryWf m = true) :
    memoryWf (applyWrites e ws m) = true :=
  memoryWf_foldl _ (fun m w h => memoryWf_vaPut m _ w.addr w.bytes h) _ m h

theorem memoryWf_applyAdds (e : Env) (l : List (Nat × Nat)) :
    ∀ m n : Memory, memoryWf m = true → applyAdds e l m = .ok n → memoryWf n = true := by
  induction l with
  | nil => rintro m n h ⟨⟩; exact h
  | cons x r ih =>
    obtain ⟨a, v⟩ := x
    intro m n h hn
    rw [applyAdds] at hn
    split at hn
    · cases hn
    · exact ih _ _ (memoryWf_vaPut _ _ _ _ h) hn

theorem memoryWf_appendEntry (e : Env) (d amax : Nat) (m : Memory) (h : memoryWf m = true) :
    memoryWf (appendEntry e d amax m) = true :=
  memoryWf_vaPut _ _ _ _ (memoryWf_vaPut _ _ _ _ h)

theorem memoryWf_putShard (e : Env) (d half sh pos : Nat) (bs : List Byte) (m : Memory) (h : memoryWf m = true) :
    memoryWf (putShard e d half sh pos bs m) = true := by
  refine memoryWf_foldl _ (fun m t h => ?_) _ m h
  dsimp only
  split
  · exact h
  · refine memoryWf_foldl _ (fun m p h => ?_) _ m h
    split
    · exact h
    · exact memoryWf_vaPut _ _ _ _ h

theorem memoryWf_putExps (e : Env) (pub sh half pos : Nat) (bs : List Byte) (m : Memory) (h : memoryWf m = true) :
    memoryWf (putExps e pub sh half pos bs m) = true := by
  refine memoryWf_foldl _ (fun m c h => ?_) _ m h
  split
  · exact h
  · exact memoryWf_vaPut _ _ _ _ h

theorem memoryWf_putWindow (e : Env) (base : Nat) (w : Nat × List Byte) (m : Memory) (h : memoryWf m = true) :
    memoryWf (putWindow e base w m) = true := by
  unfold putWindow
  split
  · exact h
  · exact memoryWf_vaPut _ _ _ _ h

theorem memoryWf_landLink (e : Env) (d pos : Nat) (bs : List Byte) (m : Memory) (h : memoryWf m = true) :
    memoryWf (landLink e d pos bs m) = true := by
  refine memoryWf_putWindow _ _ _ _ ?_
  split
  · exact h
  · exact memoryWf_putWindow _ _ _ _ (memoryWf_putWindow _ _ _ _ h)

theorem memoryWf_putTile (e : Env) (d t : Nat) (bs : List Byte) (ex : Nat) (m : Memory) (h : memoryWf m = true) :
    memoryWf (putTile e d t bs ex m) = true := by
  unfold putTile
  split
  · exact h
  · simp [memoryWf_vaPut, h]

theorem memoryWf_putHist (im : Image) (d r : Nat) (m : Memory) (h : memoryWf m = true) : memoryWf (putHist im d r m) = true :=
  memoryWf_vaPut _ _ _ _ h

theorem memoryWf_loadMemory (im : Image) (m : Memory) (h : memoryWf m = true) : memoryWf (loadMemory im m) = true := by
  refine memoryWf_foldl _ (fun m x h => memoryWf_putHist _ _ _ m h) _ _ (memoryWf_foldl _ (fun m d h => ?_) _ m h)
  unfold freshAux
  split
  · exact h
  · exact memoryWf_vaPut _ _ _ _ h

/-- A fold over the state keeps memory canonical where each of its steps does. -/
theorem foldl_memoryWf {α : Type} (g : State → α → State)
    (hg : ∀ t x, memoryWf t.memory = true → memoryWf (g t x).memory = true) (l : List α) (s : State)
    (h : memoryWf s.memory = true) : memoryWf (l.foldl g s).memory = true := by
  induction l generalizing s with
  | nil => exact h
  | cons x r ih => exact ih _ (hg s x h)

end Sys2Proof.Proofs

end

section
/-! PROOFS. The general cores: an instruction that does not trap leaves memory in canonical form. Only its stores write, and a store
goes through the region's translation. -/

namespace Sys2Proof.Proofs
open Sys2Proof.Machine Sys2Proof.Safety Sys2Proof.Laws

/-- What an instruction of a thread left, where it did not trap, is canonical memory. -/
def OutWf (r : RvOut) : Prop := ∀ h s, r = .ok (h, s) → memoryWf s.memory = true

theorem outWf_ok (h : HThread) (s : State) (hm : memoryWf s.memory = true) : OutWf (.ok (h, s)) := by
  rintro _ _ ⟨⟩
  exact hm
theorem outWf_error (t : RvTrap) : OutWf (.error t) := by
  intro h s he
  cases he
theorem outWf_rvIllegal (h : HThread) : OutWf (rvIllegal h) := outWf_error _
theorem outWf_ite (c : Prop) [Decidable c] (a b : RvOut) : OutWf (if c then a else b) = if c then OutWf a else OutWf b :=
  apply_ite OutWf c a b
theorem outWf_vDone (h : HThread) (s : State) (ok : Bool) (r : HThread) (hm : memoryWf s.memory = true) : OutWf (vDone h s ok r) := by
  unfold vDone
  split
  · exact outWf_ok _ s hm
  · exact outWf_rvIllegal h

theorem memoryWf_vaWrite (m m' : Memory) (rs : List Nat) (need va : Nat) (bs : List Byte) (hm : memoryWf m = true)
    (hw : vaWrite m rs need va bs = .ok m') : memoryWf m' = true := by
  unfold vaWrite at hw
  split at hw
  · cases hw
  · cases hw
    exact memoryWf_writePieces _ _ _ hm

section
variable (h : HThread) (s : State) (w : Nat) (hm : memoryWf s.memory = true)
include hm

theorem memoryWf_rvStore (a n v : Nat) (t : State) (ht : rvStore h s a n v = .ok t) : memoryWf t.memory = true := by
  unfold rvStore at ht
  split at ht
  · cases ht
  · split at ht
    · cases ht
    · next m hw =>
      cases ht
      simp only [breakResv_memory]
      exact memoryWf_vaWrite _ _ _ _ _ _ hm hw

/-- What follows a store: the trap of the store, or a step from the state the store left. -/
theorem outWf_rvStore (a n v : Nat) (f : State → HThread) :
    OutWf (match rvStore h s a n v with
      | .error t => .error t
      | .ok s1 => .ok (f s1, s1)) := by
  split
  · exact outWf_error _
  · next hs => exact outWf_ok _ _ (memoryWf_rvStore h s hm a n v _ hs)

theorem memoryWf_vStores (l : List VAcc) (t : State) (ht : vStores h w l s = .ok t) : memoryWf t.memory = true := by
  induction l generalizing s with
  | nil => cases ht; exact hm
  | cons a r ih =>
    unfold vStores at ht
    split at ht
    · cases ht
    · next hs => exact ih _ (memoryWf_rvStore h s hm _ _ _ _ hs) ht

theorem outWf_rvAtomic : OutWf (rvAtomic h s w) := by
  unfold rvAtomic
  extract_lets wd n a b f5
  split; · exact outWf_rvIllegal h
  split; · exact outWf_error _
  split; · exact outWf_error _
  extract_lets old
  split; · exact outWf_ok _ s hm
  split
  · split
    · exact outWf_ok _ s hm
    · exact outWf_rvStore h s hm _ _ _ _
  · exact outWf_rvStore h s hm _ _ _ _

theorem outWf_rvFloat : OutWf (rvFloat h s w) := by
  unfold rvFloat
  dsimp only
  split
  · exact outWf_rvIllegal h
  · exact outWf_ok _ s hm

theorem outWf_rvFused : OutWf (rvFused h s w) := by
  unfold rvFused
  dsimp only
  split
  · exact outWf_rvIllegal h
  · exact outWf_ok _ s hm

theorem outWf_rvCsrOp : OutWf (rvCsrOp h s w) := by
  unfold rvCsrOp
  dsimp only
  split
  · exact outWf_rvIllegal h
  · simp only [outWf_ite, outWf_rvIllegal, outWf_ok _ s hm, ite_self]

theorem outWf_rvLoadX : OutWf (rvLoadX h s w) := by
  unfold rvLoadX
  dsimp only
  split
  · exact outWf_rvIllegal h
  · split
    · exact outWf_error _
    · exact outWf_ok _ s hm

theorem outWf_rvStoreX : OutWf (rvStoreX h s w) := by
  unfold rvStoreX
  split
  · exact outWf_rvIllegal h
  · exact outWf_rvStore h s hm _ _ _ _

theorem outWf_rvLoadF : OutWf (rvLoadF h s w) := by
  unfold rvLoadF
  dsimp only
  split
  · exact outWf_error _
  · exact outWf_ok _ s hm

theorem outWf_rvStoreF : OutWf (rvStoreF h s w) := outWf_rvStore h s hm _ _ _ _

theorem outWf_rvWrites (rd : Nat) (v : Option Nat) : OutWf (rvWrites h s rd v) := by
  unfold rvWrites
  split
  · exact outWf_rvIllegal h
  · exact outWf_ok _ s hm

theorem outWf_rvVset : OutWf (rvVset h s w) := by
  unfold rvVset
  dsimp only
  split
  · exact outWf_rvIllegal h
  · exact outWf_ok _ s hm

theorem outWf_rvVload : OutWf (rvVload h s w) := by
  unfold rvVload
  split
  · exact outWf_rvIllegal h
  · split
    · exact outWf_ok _ s hm
    · simp only [outWf_ite, outWf_error, outWf_ok _ s hm, ite_self]

theorem outWf_rvVstore : OutWf (rvVstore h s w) := by
  unfold rvVstore
  split
  · exact outWf_rvIllegal h
  · split
    · next hs => exact outWf_ok _ _ (memoryWf_vStores h s _ hm _ _ hs)
    · exact outWf_error _

theorem outWf_vOddI : OutWf (vOddI h s w) := by
  unfold vOddI
  dsimp only
  split
  case h_2 => simp only [outWf_ite, outWf_vDone _ s _ _ hm, ite_self]
  case h_12 => exact outWf_rvIllegal h
  all_goals exact outWf_vDone _ s _ _ hm

theorem outWf_rvVint : OutWf (rvVint h s w) := by
  unfold rvVint
  simp only [outWf_ite, outWf_vOddI h s w hm, outWf_vDone _ s _ _ hm, ite_self]

theorem outWf_vUnaryMask : OutWf (vUnaryMask h s w) := by
  unfold vUnaryMask
  extract_lets
  split
  case h_6 => exact outWf_rvIllegal h
  all_goals exact outWf_vDone _ s _ _ hm

theorem outWf_vMoveX : OutWf (vMoveX h s w) := by
  unfold vMoveX
  extract_lets
  split
  · exact outWf_vDone _ s _ _ hm
  · split
    case h_4 => exact outWf_rvIllegal h
    all_goals exact outWf_vDone _ s _ _ hm

theorem outWf_vExtend : OutWf (vExtend h s w) := by
  unfold vExtend
  simp only [outWf_ite, outWf_rvIllegal, outWf_vDone _ s _ _ hm, ite_self]

theorem outWf_rvVmul : OutWf (rvVmul h s w) := by
  unfold rvVmul
  simp only [outWf_ite, outWf_rvIllegal, outWf_vMoveX h s w hm, outWf_vExtend h s w hm, outWf_vUnaryMask h s w hm,
    outWf_vDone _ s _ _ hm, ite_self]

theorem outWf_vUnaryF (rm : Nat) : OutWf (vUnaryF h s w rm) := by
  unfold vUnaryF
  simp only [outWf_ite, outWf_rvIllegal, outWf_vDone _ s _ _ hm, ite_self]

theorem outWf_vUnaryG (rm : Nat) : OutWf (vUnaryG h s w rm) := by
  unfold vUnaryG
  simp only [outWf_ite, outWf_rvIllegal, outWf_vDone _ s _ _ hm, ite_self]

theorem outWf_rvVflt : OutWf (rvVflt h s w) := by
  unfold rvVflt
  extract_lets
  split
  · exact outWf_rvIllegal h
  · simp only [outWf_ite, outWf_rvIllegal, outWf_vUnaryF h s w hm, outWf_vUnaryG h s w hm, outWf_vDone _ s _ _ hm, ite_self]

theorem outWf_rvVector : OutWf (rvVector h s w) := by
  unfold rvVector
  split; · exact outWf_rvVset h s w hm
  split; · exact outWf_rvIllegal h
  split
  · exact outWf_rvVflt h s w hm
  · exact outWf_rvVflt h s w hm
  · exact outWf_rvVmul h s w hm
  · exact outWf_rvVmul h s w hm
  · exact outWf_rvVint h s w hm

theorem outWf_rvJump (len : Nat) : OutWf (rvJump h s w len) := by
  unfold rvJump
  extract_lets
  split
  · split
    · exact outWf_rvIllegal h
    · exact outWf_ok _ s hm
  · simp only [outWf_ite, outWf_rvIllegal, outWf_ok _ s hm, ite_self]
  · exact outWf_ok _ s hm

theorem outWf_rvStraight : OutWf (rvStraight h s w) := by
  unfold rvStraight
  extract_lets
  split <;> simp only [outWf_ite, outWf_rvIllegal, outWf_ok _ s hm, outWf_rvLoadX h s w hm, outWf_rvVload h s w hm,
    outWf_rvLoadF h s w hm, outWf_rvWrites h s hm, outWf_rvStoreX h s w hm, outWf_rvVstore h s w hm,
    outWf_rvStoreF h s w hm, outWf_rvAtomic h s w hm, outWf_rvFused h s w hm, outWf_rvFloat h s w hm,
    outWf_rvVector h s w hm, outWf_rvCsrOp h s w hm, ite_self]

theorem outWf_rvExec (len : Nat) : OutWf (rvExec h s w len) := by
  unfold rvExec
  split
  · exact outWf_rvJump h s w hm len
  · split
    · exact outWf_error _
    · next hs => exact outWf_ok _ _ (outWf_rvStraight h s w hm _ _ hs)

end

end Sys2Proof.Proofs

end

section
/-! PROOFS. Host writes, faults, repair and reductions keep memory in canonical form. -/

namespace Sys2Proof.Proofs
open Sys2Proof.Machine Sys2Proof.Safety Sys2Proof.Laws

@[simp] theorem memoryWf_addCorrected (stack k : Nat) (s : State) (hm : memoryWf s.memory = true) :
    memoryWf (addCorrected stack k s).memory = true := hm

@[simp] theorem memoryWf_countDegraded (s : State) (ps : List (Nat × Nat × Nat)) (hm : memoryWf s.memory = true) :
    memoryWf (countDegraded s ps).memory = true := by
  unfold countDegraded; split
  · exact hm
  · exact foldl_memoryWf _ (fun t a ht => memoryWf_addCorrected _ _ t ht) _ s hm

@[simp] theorem memoryWf_rdmaRequest (port : Nat) (r : RdmaReq) (write : Bool) (s : State) (hm : memoryWf s.memory = true) :
    memoryWf (rdmaRequest port r write s).memory = true := by
  fun_cases rdmaRequest <;> simp +zetaDelta -implicitDefEqProofs [hm, memoryWf_writePieces]

@[simp] theorem memoryWf_countUnitReads (s : State) (hm : memoryWf s.memory = true) : memoryWf (countUnitReads s).memory = true := by
  refine foldl_memoryWf _ (fun t g ht => ?_) _ s hm
  exact memoryWf_addCorrected _ _ _ ht

@[simp] theorem memoryWf_zeroStack (stack : Nat) (s : State) (hm : memoryWf s.memory = true) :
    memoryWf (zeroStack stack s).memory = true := by
  rw [memoryWf_iff] at hm ⊢
  exact ⟨hm.1, memWf_filter _ _ hm.2.1, hm.2.2⟩

@[simp] theorem memoryWf_takesPlace (kind name : Nat) (s : State) (hm : memoryWf s.memory = true) :
    memoryWf (takesPlace kind name s).memory = true := by simp [takesPlace, hm]
@[simp] theorem memoryWf_replaced (k spare : Nat) (s : State) (hm : memoryWf s.memory = true) :
    memoryWf (replaced k spare s).memory = true := by simp [replaced, hm]

theorem memoryWf_countedFault (act : State → State) (hact : ∀ t, memoryWf t.memory = true → memoryWf (act t).memory = true)
    (s : State) (hm : memoryWf s.memory = true) : memoryWf (countedFault act s).memory = true := by
  simp [countedFault, hact, hm]

@[simp] theorem memoryWf_partFails (k : Nat) (s : State) (hm : memoryWf s.memory = true) : memoryWf (partFails k s).memory = true := by
  fun_cases partFails
  case case1 => simp [hm]
  case case2 => exact hm
  case case3 =>
    refine memoryWf_countedFault _ (fun t ht => ?_) s hm
    split
    · simp [ht]
    · split <;> simp [ht]

@[simp] theorem memoryWf_unitFaultSt (kind scope phys : Nat) (s : State) (hm : memoryWf s.memory = true) :
    memoryWf (unitFaultSt kind scope phys s).memory = true := by simp [unitFaultSt, hm]
@[simp] theorem memoryWf_noProgressSt (kind scope phys : Nat) (s : State) (hm : memoryWf s.memory = true) :
    memoryWf (noProgressSt kind scope phys s).memory = true := by simp [noProgressSt, hm]

@[simp] theorem memoryWf_channelFails (stack pc : Nat) (s : State) (hm : memoryWf s.memory = true) :
    memoryWf (channelFails stack pc s).memory = true := by
  unfold channelFails
  split; · exact hm
  split; · exact hm
  split; · exact hm
  refine memoryWf_countedFault _ (fun t ht => ?_) s hm
  dsimp only
  split
  · simp [ht]
  · simp only [addFault_memory]
    split <;> exact ht

@[simp] theorem memoryWf_stackLost (stack : Nat) (s : State) (hm : memoryWf s.memory = true) :
    memoryWf (stackLost stack s).memory = true := by
  fun_cases stackLost <;> simp +zetaDelta [hm]
  exact hm

@[simp] theorem memoryWf_channelOut (channel : Nat) (s : State) (hm : memoryWf s.memory = true) :
    memoryWf (channelOut channel s).memory = true := by
  unfold channelOut; split
  · exact hm
  · rw [addFault_memory]; exact hm

@[simp] theorem memoryWf_ddrFails (channel : Nat) (s : State) (hm : memoryWf s.memory = true) :
    memoryWf (ddrFails channel s).memory = true := by simp [ddrFails, hm]
@[simp] theorem memoryWf_countCorrected (stack : Nat) (s : State) (hm : memoryWf s.memory = true) :
    memoryWf (countCorrected stack s).memory = true := by simp [countCorrected, hm]
@[simp] theorem memoryWf_markBad (tier k : Nat) (s : State) (hm : memoryWf s.memory = true) :
    memoryWf (markBad tier k s).memory = true := by simp [markBad, hm]

@[simp] theorem memoryWf_scrubSt (tier addr : Nat) (r : ScrubResult) (s : State) (hm : memoryWf s.memory = true) :
    memoryWf (scrubSt tier addr r s).memory = true := by
  fun_cases scrubSt <;> simp +zetaDelta [hm]
  exact hm

@[simp] theorem memoryWf_testFails (k : Nat) (s : State) (hm : memoryWf s.memory = true) :
    memoryWf (testFails k s).memory = true := by simp [testFails, hm]

@[simp] theorem memoryWf_failTests (l : List Nat) (s : State) (hm : memoryWf s.memory = true) :
    memoryWf (failTests l s).memory = true := by
  induction l generalizing s with
  | nil => exact hm
  | cons _ r ih =>
    refine ih _ ?_
    split
    · exact memoryWf_testFails _ s hm
    · exact hm

@[simp] theorem memoryWf_spareBistSt (fails : List Nat) (s : State) (hm : memoryWf s.memory = true) :
    memoryWf (spareBistSt fails s).memory = true := by simp [spareBistSt, hm]

@[simp] theorem memoryWf_failUnits (l : List Nat) (s : State) (hm : memoryWf s.memory = true) :
    memoryWf (failUnits l s).memory = true := by
  induction l generalizing s with
  | nil => exact hm
  | cons _ r ih => exact ih _ (by simp [hm])

@[simp] theorem memoryWf_memoryTestSt (fails : List Nat) (s : State) (hm : memoryWf s.memory = true) :
    memoryWf (memoryTestSt fails s).memory = true := by simp [memoryTestSt, hm]
@[simp] theorem memoryWf_bistDone (sid handle : Nat) (fails : List Nat) (s : State) (hm : memoryWf s.memory = true) :
    memoryWf (bistDone sid handle fails s).memory = true := by unfold bistDone; split <;> simp [hm]

@[simp] theorem memoryWf_resolvePending (l : List (Nat × Nat × Nat)) (s : State) (hm : memoryWf s.memory = true) :
    memoryWf (resolvePending l s).memory = true := by
  induction l generalizing s with
  | nil => exact hm
  | cons _ r ih =>
    refine ih _ ?_
    dsimp only
    split <;> simp [hm]

@[simp] theorem memoryWf_haboobClearPart (s : State) (x : Session) (d : Datagram) (hm : memoryWf s.memory = true) :
    memoryWf (haboobClearPart s x d).st.memory = true := by simp [haboobClearPart, hm]

@[simp] theorem memoryWf_landChunk (need coll chunk step : Nat) (vals : List Nat) (rec_ : Nat) (s : State)
    (hm : memoryWf s.memory = true) : memoryWf (landChunk need coll chunk step vals rec_ s).memory = true := by
  unfold landChunk
  split
  · exact hm
  · extract_lets c ring m1 m2 m3
    split
    · simp [hm]
    · have h1 : memoryWf m1 = true := memoryWf_putChunk _ _ _ _ _ _ hm
      have h2 : memoryWf m2 = true := by
        dsimp only [m2]
        split
        · exact h1
        · exact memoryWf_vaPut _ _ _ _ h1
      have h3 : memoryWf m3 = true := by
        dsimp only [m3]
        split
        · exact h2
        · split
          · exact h2
          · exact memoryWf_vaPut _ _ _ _ h2
      rw [addCtr_memory]; exact h3

@[simp] theorem memoryWf_landRoot (coll chunk step : Nat) (p : Partial) (s : State) (hm : memoryWf s.memory = true) :
    memoryWf (landRoot coll chunk step p s).memory = true := by unfold landRoot; split <;> simp [hm]
@[simp] theorem memoryWf_advanceReplay (coll chunk step : Nat) (s : State) (hm : memoryWf s.memory = true) :
    memoryWf (advanceReplay coll chunk step s).memory = true := by fun_cases advanceReplay <;> simp +zetaDelta -implicitDefEqProofs [hm]
@[simp] theorem memoryWf_substituteReplay (coll chunk step : Nat) (s : State) (hm : memoryWf s.memory = true) :
    memoryWf (substituteReplay coll chunk step s).memory = true := by unfold substituteReplay; split <;> simp [hm]

@[simp] theorem memoryWf_answerReplay (coll chunk step exp blocks : Nat) (s : State) (hm : memoryWf s.memory = true) :
    memoryWf (answerReplay coll chunk step exp blocks s).memory = true := by
  fun_cases answerReplay <;> simp +zetaDelta -implicitDefEqProofs [hm]

@[simp] theorem memoryWf_rootFormed (coll chunk step : Nat) (p : Partial) (s : State) (hm : memoryWf s.memory = true) :
    memoryWf (rootFormed coll chunk step p s).memory = true := by unfold rootFormed; split <;> simp [hm]
@[simp] theorem memoryWf_advance (coll chunk step : Nat) (s : State) (hm : memoryWf s.memory = true) :
    memoryWf (advance coll chunk step s).memory = true := by fun_cases advance <;> simp +zetaDelta -implicitDefEqProofs [hm]

@[simp] theorem memoryWf_sendPartial (coll chunk step : Nat) (used : List Nat) (s : State) (hm : memoryWf s.memory = true) :
    memoryWf (sendPartial coll chunk step used s).memory = true := by
  fun_cases sendPartial <;> simp +zetaDelta -implicitDefEqProofs [hm]

@[simp] theorem memoryWf_startChunk (coll step chunk : Nat) (s : State) (hm : memoryWf s.memory = true) :
    memoryWf (startChunk coll step chunk s).memory = true := by unfold startChunk; split <;> simp [hm]

@[simp] theorem memoryWf_launchColl (coll st : Nat) (s : State) (hm : memoryWf s.memory = true) :
    memoryWf (launchColl coll st s).memory = true := by
  fun_cases launchColl <;> simp +zetaDelta [hm]
  exact foldl_memoryWf _ (fun t c ht => memoryWf_startChunk _ _ _ t ht) _ _ (by simp [hm])

@[simp] theorem memoryWf_modulePartialSt (coll chunk : Nat) (s : State) (hm : memoryWf s.memory = true) :
    memoryWf (modulePartialSt coll chunk s).memory = true := by fun_cases modulePartialSt <;> simp +zetaDelta -implicitDefEqProofs [hm]

@[simp] theorem memoryWf_deadlineChunk (coll step chunk : Nat) (s : State) (hm : memoryWf s.memory = true) :
    memoryWf (deadlineChunk coll step chunk s).memory = true := by
  fun_cases deadlineChunk <;> simp +zetaDelta [hm]
  refine memoryWf_sendPartial _ _ _ _ _ ?_
  rw [memory_ite, foldl_memory]
  · simp [hm]
  · intro t l
    split <;> simp

@[simp] theorem memoryWf_deadlineColl (coll st : Nat) (s : State) (hm : memoryWf s.memory = true) :
    memoryWf (deadlineColl coll st s).memory = true := by
  fun_cases deadlineColl <;> simp +zetaDelta [hm]
  exact foldl_memoryWf _ (fun t c ht => memoryWf_deadlineChunk _ _ _ t ht) _ _ (by simp [hm])

@[simp] theorem memoryWf_putDefer (coll chunk : Nat) (s : State) (hm : memoryWf s.memory = true) :
    memoryWf (putDefer coll chunk s).memory = true := by
  fun_cases putDefer <;> simp +zetaDelta [hm, memoryWf_putChunk]

@[simp] theorem memoryWf_stragglerSt (coll chunk leaf : Nat) (s : State) (hm : memoryWf s.memory = true) :
    memoryWf (stragglerSt coll chunk leaf s).memory = true := by
  fun_cases stragglerSt <;> simp +zetaDelta [hm]
  · refine memoryWf_putDefer _ _ _ ?_
    simp
    split <;> simp [hm]
  · split <;> simp [hm]

@[simp] theorem memoryWf_substitute (coll chunk step : Nat) (nodes : List (Nat × Nat)) (s : State) (hm : memoryWf s.memory = true) :
    memoryWf (substitute coll chunk step nodes s).memory = true := by unfold substitute; split <;> simp [hm]
@[simp] theorem memoryWf_graceSt (coll chunk : Nat) (s : State) (hm : memoryWf s.memory = true) :
    memoryWf (graceSt coll chunk s).memory = true := by fun_cases graceSt <;> simp +zetaDelta -implicitDefEqProofs [hm]
@[simp] theorem memoryWf_redoChunk (coll chunk step : Nat) (s : State) (hm : memoryWf s.memory = true) :
    memoryWf (redoChunk coll chunk step s).memory = true := by unfold redoChunk; split <;> simp [hm]
@[simp] theorem memoryWf_redoFrame (f : Frame) (coll chunk step : Nat) (s : State) (hm : memoryWf s.memory = true) :
    memoryWf (redoFrame f coll chunk step s).memory = true := by simp [redoFrame, hm]
@[simp] theorem memoryWf_reduceFrameSt (f : Frame) (s : State) (hm : memoryWf s.memory = true) :
    memoryWf (reduceFrameSt f s).memory = true := by fun_cases reduceFrameSt <;> simp +zetaDelta -implicitDefEqProofs [hm]
@[simp] theorem memoryWf_replayReqSt (f : Frame) (s : State) (hm : memoryWf s.memory = true) :
    memoryWf (replayReqSt f s).memory = true := by simp [replayReqSt, hm]
@[simp] theorem memoryWf_deliverSt (f : Frame) (s : State) (hm : memoryWf s.memory = true) :
    memoryWf (deliverSt f s).memory = true := by fun_cases deliverSt <;> simp +zetaDelta -implicitDefEqProofs [hm]

end Sys2Proof.Proofs

end

section
/-! PROOFS. KV edits and engines keep memory in canonical form. -/

namespace Sys2Proof.Proofs
open Sys2Proof.Machine Sys2Proof.Safety Sys2Proof.Laws

@[simp] theorem memoryWf_putScale (im : Image) (k t : Nat) (s : State) (hm : memoryWf s.memory = true) :
    memoryWf (putScale im k t s).memory = true :=
  memoryWf_vaPut _ _ _ _ hm

@[simp] theorem memoryWf_applyScale (k : Nat) (s : State) (hm : memoryWf s.memory = true) :
    memoryWf (applyScale k s).memory = true := by
  unfold applyScale; split
  · exact memoryWf_vaPut _ _ _ _ (memoryWf_putScale _ _ _ s hm)
  · exact hm

@[simp] theorem memoryWf_takeScales (ids : List Nat) (s : State) (hm : memoryWf s.memory = true) :
    memoryWf (takeScales ids s).memory = true := by
  refine foldl_memoryWf _ (fun t _ ht => ?_) _ s hm
  split
  · exact ht
  · simp [ht]

@[simp] theorem memoryWf_kvPut (a : Nat) (bs : List Byte) (s : State) (hm : memoryWf s.memory = true) :
    memoryWf (kvPut a bs s).memory = true :=
  memoryWf_vaPut _ _ _ _ hm

@[simp] theorem memoryWf_putHead (r seq stream f c : Nat) (s : State) (hm : memoryWf s.memory = true) :
    memoryWf (putHead r seq stream f c s).memory = true :=
  memoryWf_kvPut _ _ s hm

@[simp] theorem memoryWf_putSlot (r seq stream i : Nat) (row : List Byte) (s : State) (hm : memoryWf s.memory = true) :
    memoryWf (putSlot r seq stream i row s).memory = true :=
  memoryWf_kvPut _ _ _ (memoryWf_kvPut _ _ s hm)

@[simp] theorem memoryWf_putPages (old : Option Pool) (p : Pool) (s : State) (hm : memoryWf s.memory = true) :
    memoryWf (putPages old p s).memory = true := by
  unfold putPages; split
  · exact memoryWf_kvPut _ _ s hm
  · exact foldl_memoryWf _ (fun t n ht => memoryWf_kvPut _ _ t ht) _ s hm

@[simp] theorem memoryWf_putDir (old : Option KvSeq) (p : Pool) (q : KvSeq) (s : State) (hm : memoryWf s.memory = true) :
    memoryWf (putDir old p q s).memory = true := by
  unfold putDir
  split
  · exact hm
  · refine foldl_memoryWf _ (fun t x ht => ?_) _ _ (memoryWf_kvPut _ _ s hm)
    split
    · exact ht
    · exact memoryWf_kvPut _ _ t ht

@[simp] theorem memoryWf_syncPages (s t : State) (hm : memoryWf t.memory = true) : memoryWf (syncPages s t).memory = true :=
  foldl_memoryWf _ (fun u _ hu => memoryWf_putPages _ _ u hu) _ t hm

@[simp] theorem memoryWf_syncTables (s t : State) (hm : memoryWf t.memory = true) : memoryWf (syncTables s t).memory = true := by
  refine foldl_memoryWf _ (fun u _ hu => ?_) _ _ (memoryWf_syncPages s t hm)
  split
  · exact memoryWf_putDir _ _ _ u hu
  · exact hu

@[simp] theorem memoryWf_tabled (part : Part) (s : State) (x : Session) (d : Datagram) (hm : memoryWf (part s x d).st.memory = true) :
    memoryWf (tabled part s x d).st.memory = true := memoryWf_syncTables _ _ hm
@[simp] theorem memoryWf_settleFrees (s : State) (hm : memoryWf s.memory = true) :
    memoryWf (settleFrees s).memory = true := by simp [settleFrees, hm]

@[simp] theorem memoryWf_emptyCisterns (r id : Nat) (s : State) (hm : memoryWf s.memory = true) :
    memoryWf (emptyCisterns r id s).memory = true :=
  foldl_memoryWf _ (fun t _ ht => memoryWf_putHead _ _ _ _ _ t ht) _ s hm

@[simp] theorem memoryWf_kvSeqCreatePart (s : State) (x : Session) (d : Datagram) (hm : memoryWf s.memory = true) :
    memoryWf (kvSeqCreatePart s x d).st.memory = true := by fun_cases kvSeqCreatePart <;> simp +zetaDelta -implicitDefEqProofs [hm]

/-- A publication keeps memory canonical. -/
theorem memoryWf_publishSeq (id : Nat) (leaves : List (List Nat)) (drops : List Nat) (s t : State) (hm : memoryWf s.memory = true)
    (ht : publishSeq id leaves drops s = some t) : memoryWf t.memory = true := by
  revert ht
  fun_cases publishSeq <;> simp +zetaDelta -implicitDefEqProofs
  rintro rfl
  simp [hm]

theorem memoryWf_flushCistern (id stream : Nat) (s t : State) (hm : memoryWf s.memory = true)
    (ht : flushCistern id stream s = .ok t) : memoryWf t.memory = true := by
  revert ht
  fun_cases flushCistern <;> simp +zetaDelta -implicitDefEqProofs
  rename_i hpub _ _ _
  rintro rfl
  exact memoryWf_putHead _ _ _ _ _ _ (memoryWf_kvPut _ _ _ (by
    simpa using memoryWf_publishSeq _ _ _ _ _ hm hpub))

@[simp] theorem memoryWf_copyCisterns (r src dst : Nat) (s : State) (hm : memoryWf s.memory = true) :
    memoryWf (copyCisterns r src dst s).memory = true :=
  memoryWf_kvPut _ _ s hm

@[simp] theorem memoryWf_kvForkPart (s : State) (x : Session) (d : Datagram) (hm : memoryWf s.memory = true) :
    memoryWf (kvForkPart s x d).st.memory = true := by fun_cases kvForkPart <;> simp +zetaDelta -implicitDefEqProofs [hm]

@[simp] theorem memoryWf_kvPageWritePart (s : State) (x : Session) (d : Datagram) (hm : memoryWf s.memory = true) :
    memoryWf (kvPageWritePart s x d).st.memory = true := by
  fun_cases kvPageWritePart <;> simp +zetaDelta [hm]
  exact memoryWf_vaPut _ _ _ _ (memoryWf_publishSeq _ _ _ _ _ (memoryWf_settleFrees s hm) ‹_›)

@[simp] theorem memoryWf_decodeInto (r id st page n : Nat) (s : State) (hm : memoryWf s.memory = true) :
    memoryWf (decodeInto r id st page n s).memory = true := by
  unfold decodeInto; split
  · exact hm
  · exact foldl_memoryWf _ (fun t i ht => memoryWf_putSlot _ _ _ _ _ t ht) _ s hm

@[simp] theorem memoryWf_kvTruncatePart (s : State) (x : Session) (d : Datagram) (hm : memoryWf s.memory = true) :
    memoryWf (kvTruncatePart s x d).st.memory = true := by
  fun_cases kvTruncatePart <;> simp +zetaDelta [hm]
  rename_i hpub _
  refine foldl_memoryWf _ (fun t st ht => ?_) _ _ (memoryWf_publishSeq _ _ _ _ _ (memoryWf_settleFrees s hm) hpub)
  refine memoryWf_putHead _ _ _ _ _ _ ?_
  split
  · exact memoryWf_decodeInto _ _ _ _ _ t ht
  · exact ht

@[simp] theorem memoryWf_kvSeqRetirePart (s : State) (x : Session) (d : Datagram) (hm : memoryWf s.memory = true) :
    memoryWf (kvSeqRetirePart s x d).st.memory = true := by fun_cases kvSeqRetirePart <;> simp +zetaDelta -implicitDefEqProofs [hm]
@[simp] theorem memoryWf_kvPageReadPart (s : State) (x : Session) (d : Datagram) (hm : memoryWf s.memory = true) :
    memoryWf (kvPageReadPart s x d).st.memory = true := by fun_cases kvPageReadPart <;> simp +zetaDelta -implicitDefEqProofs [hm]

@[simp] theorem memoryWf_runPass (me : Nat) (ops : List Nat) (s : State) (hm : memoryWf s.memory = true) :
    memoryWf (runPass me ops s).memory = true := by
  fun_cases runPass <;> simp +zetaDelta [hm, ite_apply]

@[simp] theorem memoryWf_chainRun (ve qi i ent : Nat) (e : Env) (s : State) (hm : memoryWf s.memory = true) :
    memoryWf (chainRun ve qi i ent e s).memory = true := by fun_cases chainRun <;> simp +zetaDelta -implicitDefEqProofs [hm]
@[simp] theorem memoryWf_chainSt (ve : Nat) (s : State) (hm : memoryWf s.memory = true) :
    memoryWf (chainSt ve s).memory = true := by unfold chainSt; split <;> simp [hm]

@[simp] theorem memoryWf_stemRun (st op : Nat) (g : State → Env → Nat → List FV → State) (s : State)
    (hg : ∀ s e ent ns, (g s e ent ns).memory = s.memory) (hm : memoryWf s.memory = true) :
    memoryWf (stemRun st op g s).memory = true := by
  fun_cases stemRun <;> simp +zetaDelta [hm, ite_apply, hg]

@[simp] theorem memoryWf_attRun (as op : Nat) (g : Nat → Env → State → State) (s : State)
    (hg : ∀ ent e s, (g ent e s).memory = s.memory) (hm : memoryWf s.memory = true) :
    memoryWf (attRun as op g s).memory = true := by
  fun_cases attRun <;> simp +zetaDelta [hm, ite_apply, hg]

@[simp] theorem memoryWf_fillSlots (r seq stream : Nat) (l : List (List Byte)) (f : Nat) (s : State) (hm : memoryWf s.memory = true) :
    memoryWf (fillSlots r seq stream l f s).1.memory = true := by
  induction l generalizing f s with
  | nil => exact hm
  | cons _ rest ih =>
    unfold fillSlots
    split
    · exact hm
    · exact ih _ _ (memoryWf_putSlot _ _ _ _ _ s hm)

@[simp] theorem memoryWf_commitStream (r seq stream cand : Nat) (acc : List Nat) (s : State) (hm : memoryWf s.memory = true) :
    memoryWf (commitStream r seq stream cand acc s).memory = true :=
  memoryWf_putHead _ _ _ _ _ _ <|
    foldl_memoryWf _ (fun t _ ht => memoryWf_putSlot _ _ _ _ _ t ht) _ _ <|
      foldl_memoryWf _ (fun t _ ht => memoryWf_putSlot _ _ _ _ _ t ht) _ s hm

@[simp] theorem memoryWf_commitStreams (r seq cand : Nat) (acc l : List Nat) (s : State) (hm : memoryWf s.memory = true) :
    memoryWf (commitStreams r seq cand acc l s).1.memory = true := by
  induction l generalizing s with
  | nil => exact hm
  | cons st rest ih =>
    have hs := memoryWf_commitStream r seq st cand acc s hm
    unfold commitStreams
    split
    · exact hm
    · dsimp only
      split
      · exact hs
      · exact ih _ hs

@[simp] theorem memoryWf_continueLanding (o : Nat) (b : Batch) (w : KvWait) (s : State) (hm : memoryWf s.memory = true) :
    memoryWf (continueLanding o b w s).memory = true := by
  have hc : ∀ r seq cand acc l x, commitStreams r seq cand acc l s = x → memoryWf x.1.memory = true := by
    rintro r seq cand acc l x rfl
    exact memoryWf_commitStreams r seq cand acc l s hm
  have hf : ∀ r seq st l f x, fillSlots r seq st l f s = x → memoryWf x.1.memory = true := by
    rintro r seq st l f x rfl
    exact memoryWf_fillSlots r seq st l f s hm
  fun_cases continueLanding <;> simp +zetaDelta [hm]
  case case4 h => exact hc _ _ _ _ _ _ h
  case case5 h => exact hc _ _ _ _ _ _ h
  case case6 h => exact hc _ _ _ _ _ _ h
  case case8 h _ _ => exact memoryWf_putHead _ _ _ _ _ _ (hf _ _ _ _ _ _ h)
  case case9 h _ _ => exact memoryWf_putHead _ _ _ _ _ _ (hf _ _ _ _ _ _ h)

@[simp] theorem memoryWf_landCistern (i : InFlight) (e : Env) (s : State) (hm : memoryWf s.memory = true) :
    memoryWf (landCistern i e s).memory = true := by fun_cases landCistern <;> simp +zetaDelta -implicitDefEqProofs [hm]

@[simp] theorem memoryWf_flushSt (seq stream : Nat) (s0 : State) (hm : memoryWf s0.memory = true) :
    memoryWf (flushSt seq stream s0).memory = true := by
  fun_cases flushSt <;> simp +zetaDelta [hm]
  exact memoryWf_syncTables _ _ (memoryWf_flushCistern _ _ _ _ (memoryWf_settleFrees s0 hm) ‹_›)

@[simp] theorem memoryWf_runUpd (uu : Nat) (e : Env) (t o : Nat) (s0 : State) (hm : memoryWf s0.memory = true) :
    memoryWf (runUpd uu e t o s0).memory = true := by fun_cases runUpd <;> simp +zetaDelta -implicitDefEqProofs [hm]
@[simp] theorem memoryWf_updSt (op uu : Nat) (s : State) (hm : memoryWf s.memory = true) :
    memoryWf (updSt op uu s).memory = true := by fun_cases updSt <;> simp +zetaDelta -implicitDefEqProofs [hm]

@[simp] theorem memoryWf_repeatPass (uu ent : Nat) (e0 : Env) (s : State) (hm : memoryWf s.memory = true) :
    memoryWf (repeatPass uu ent e0 s).memory = true := by
  fun_cases repeatPass <;> simp +zetaDelta [hm, memoryWf_applyWrites]

@[simp] theorem memoryWf_repeatSt (uu : Nat) (s : State) (hm : memoryWf s.memory = true) : memoryWf (repeatSt uu s).memory = true := by
  fun_cases repeatSt <;> simp +zetaDelta [hm]
  exact foldl_memoryWf _ (fun t ent ht => memoryWf_repeatPass _ _ _ t ht) _ s hm

@[simp] theorem memoryWf_copySt (xe : Nat) (s : State) (hm : memoryWf s.memory = true) : memoryWf (copySt xe s).memory = true := by
  fun_cases copySt <;> simp +zetaDelta [hm, ite_apply]

@[simp] theorem memoryWf_landHost (sid h i : Nat) (e : Env) (st : Stored) (s : State) (hm : memoryWf s.memory = true) :
    memoryWf (landHost sid h i e st s).memory = true := by
  simp [landHost, hm, memoryWf_applyWrites]

theorem memory_engineOp (s t : State) (sid h opc : Nat) (o : Op) (he : engineOp s sid h opc = some (o, t)) : t.memory = s.memory := by
  revert he
  simp only [engineOp, Option.map_eq_some_iff, Prod.mk.injEq]
  rintro ⟨_, _, _, rfl⟩
  split
  · simp
  · rfl

@[simp] theorem memoryWf_importDone (sid h : Nat) (s : State) (hm : memoryWf s.memory = true) :
    memoryWf (importDone sid h s).memory = true := by
  unfold importDone
  split
  · exact hm
  next o s0 he =>
    have h0 : memoryWf s0.memory = true := memory_engineOp _ _ _ _ _ _ he ▸ hm
    rw [engineNext_memory]
    split
    · simp [h0]
    extract_lets i d hf a n
    split
    · simp [h0]
    extract_lets st s1
    split
    · simp [s1, h0]
    · rw [finishOp_memory, opProgress_memory, memory_ite, ite_self]
      exact memoryWf_landHost _ _ _ _ _ _ (by simp [s1, h0])

@[simp] theorem memoryWf_exportDone (sid h : Nat) (s : State) (hm : memoryWf s.memory = true) :
    memoryWf (exportDone sid h s).memory = true := by
  unfold exportDone
  extract_lets s0
  have h0 : memoryWf s0.memory = true := by
    dsimp only [s0]
    split
    · split
      · simp [hm]
      · exact hm
    · exact hm
  split
  · exact h0
  · split
    · extract_lets i d hf p ax dims units
      split
      · simp [h0]
      · split
        · simp [h0]
        · simp [h0]
    · simp [h0]
    · exact h0

@[simp] theorem memoryWf_memCopyDone (sid h : Nat) (s : State) (hm : memoryWf s.memory = true) :
    memoryWf (memCopyDone sid h s).memory = true := by
  unfold memCopyDone
  split
  · exact hm
  next o s0 he =>
    have h0 : memoryWf s0.memory = true := memory_engineOp _ _ _ _ _ _ he ▸ hm
    rw [engineNext_memory]
    split
    · simp [h0]
    extract_lets src dst
    split
    · simp [h0]
    split
    · simp [h0]
    · simp [h0]

end Sys2Proof.Proofs

end

section
/-! PROOFS. Commits, records and the clock keep memory in canonical form. -/

namespace Sys2Proof.Proofs
open Sys2Proof.Machine Sys2Proof.Safety Sys2Proof.Laws

@[simp] theorem memoryWf_appendHistory (e : Env) (outs : List Nat) (s : State) (hm : memoryWf s.memory = true) :
    memoryWf (appendHistory e outs s).memory = true := by
  refine foldl_memoryWf _ (fun t k ht => ?_) _ s hm
  dsimp only
  split
  · exact ht
  · split
    · simp [ht]
    · exact memoryWf_appendEntry _ _ _ _ ht

@[simp] theorem memoryWf_signalThread (i : InFlight) (s0 : State) (hm : memoryWf s0.memory = true) :
    memoryWf (signalThread i s0).memory = true := by simp [signalThread, hm]

@[simp] theorem memoryWf_commitLends (i : InFlight) (s : State) (hm : memoryWf s.memory = true) :
    memoryWf (commitLends i s).memory = true := by
  unfold commitLends; split
  · exact hm
  · exact foldl_memoryWf _ (fun t f ht => memoryWf_signalThread f t ht) _ s hm

@[simp] theorem memoryWf_landThread (e : Env) (i : InFlight) (s : State) (hm : memoryWf s.memory = true) :
    memoryWf (landThread e i s).memory = true := by
  unfold landThread
  split
  · simp [hm]
  · simp [hm]
  · next m _ ha =>
    have h1 : memoryWf m = true := memoryWf_applyAdds _ _ _ _ (memoryWf_applyWrites _ _ _ hm) ha
    rw [moveLedger_memory]
    refine memoryWf_appendHistory _ _ _ (memoryWf_countUnitReads _ (memoryWf_commitLends _ _ (memoryWf_signalThread _ _ ?_)))
    rw [noteCounts_memory, commitSlot_memory]
    exact foldl_memoryWf _ (fun t x ht => by simp [ht]) _ _ h1

@[simp] theorem memoryWf_commitFlight (e : Env) (i : InFlight) (s0 : State) (hm : memoryWf s0.memory = true) :
    memoryWf (commitFlight e i s0).memory = true := by fun_cases commitFlight <;> simp +zetaDelta -implicitDefEqProofs [hm]
@[simp] theorem memoryWf_commitSt (thread : Nat) (s : State) (hm : memoryWf s.memory = true) :
    memoryWf (commitSt thread s).memory = true := by unfold commitSt; split <;> simp [hm]

@[simp] theorem memoryWf_exchangeTensor (reduced : Nat → Nat → Nat) (x : Nat × Nat × Nat × List Nat) (s : State)
    (hm : memoryWf s.memory = true) : memoryWf (exchangeTensor reduced x s).memory = true := by
  unfold exchangeTensor
  split
  · exact hm
  · exact memoryWf_vaPut _ _ _ _ (memoryWf_foldl _ (fun m _ h => memoryWf_vaPut _ _ _ _ h) _ _ hm)

@[simp] theorem memoryWf_exchangeAll (reduced : Nat → Nat → Nat) (l : List (Nat × Nat × Nat × List Nat)) (s : State)
    (hm : memoryWf s.memory = true) : memoryWf (exchangeAll reduced l s).memory = true :=
  foldl_memoryWf _ (fun t _ ht => memoryWf_exchangeTensor _ _ t ht) _ s hm

@[simp] theorem memoryWf_exchangeLocal (s : State) (hm : memoryWf s.memory = true) :
    memoryWf (exchangeLocal s).memory = true := by fun_cases exchangeLocal <;> simp +zetaDelta -implicitDefEqProofs [hm]
@[simp] theorem memoryWf_finishItems (coll step : Nat) (s : State) (hm : memoryWf s.memory = true) :
    memoryWf (finishItems coll step s).memory = true := by unfold finishItems; split <;> simp [hm]
@[simp] theorem memoryWf_twinItems (coll step : Nat) (s : State) (hm : memoryWf s.memory = true) :
    memoryWf (twinItems coll step s).memory = true := by fun_cases twinItems <;> simp +zetaDelta -implicitDefEqProofs [hm]
@[simp] theorem memoryWf_recordItemsSt (coll : Nat) (s : State) (hm : memoryWf s.memory = true) :
    memoryWf (recordItemsSt coll s).memory = true := by fun_cases recordItemsSt <;> simp +zetaDelta -implicitDefEqProofs [hm]
@[simp] theorem memoryWf_normRecSt (f : Frame) (s : State) (hm : memoryWf s.memory = true) :
    memoryWf (normRecSt f s).memory = true := by fun_cases normRecSt <;> simp +zetaDelta -implicitDefEqProofs [hm]

@[simp] theorem memoryWf_amoaddSt (gc ht rs1 rs2 rd : Nat) (s0 : State) (hm : memoryWf s0.memory = true) :
    memoryWf (amoaddSt gc ht rs1 rs2 rd s0).memory = true := by
  unfold amoaddSt
  split
  · exact hm
  · next h he =>
    have h0 : memoryWf (issued gc ht s0).memory = true := by simp [hm]
    extract_lets s a v
    have hs : memoryWf s.memory = true := h0
    split
    · simp [hs]
    · split
      · simp [hs]
      split
      · simp [hs]
      split
      · extract_lets c
        split <;> simp [hs]
      split
      · split
        · simp [hs]
        · split <;> simp [hs]
      · rw [breakResv_memory, setHt_memory]
        exact memoryWf_vaPut _ _ _ _ hs

@[simp] theorem memoryWf_ecallSt (gc ht : Nat) (s0 : State) (hm : memoryWf s0.memory = true) :
    memoryWf (ecallSt gc ht s0).memory = true := by fun_cases ecallSt <;> simp +zetaDelta -implicitDefEqProofs [hm]

@[simp] theorem memoryWf_rvIssue (gc ht : Nat) (s : State) (hm : memoryWf s.memory = true) :
    memoryWf (rvIssue gc ht s).memory = true := by
  unfold rvIssue
  split
  · exact hm
  · extract_lets s0
    have h0 : memoryWf s0.memory = true := by simp [s0, hm]
    split
    · simp [h0]
    split
    · simp [h0]
    split
    · simp [hm]
    split
    · simp [hm]
    split
    · simp [hm]
    split
    · simp [h0]
    · next hx =>
      rw [setHt_memory]
      exact outWf_rvExec _ _ _ h0 _ _ _ hx

@[simp] theorem memoryWf_coreCycle (gc : Nat) (s : State) (hm : memoryWf s.memory = true) :
    memoryWf (coreCycle gc s).memory = true := by
  unfold coreCycle
  extract_lets r s1
  have h1 : memoryWf s1.memory = true := by
    dsimp only [s1]
    rw [endWaits_memory]
    exact hm
  split
  · exact h1
  · exact memoryWf_rvIssue _ _ s1 h1

@[simp] theorem memoryWf_cyclesSt (s : State) (hm : memoryWf s.memory = true) : memoryWf (cyclesSt s).memory = true := by
  unfold cyclesSt; split
  · exact hm
  · exact foldl_memoryWf _ (fun t gc ht => memoryWf_coreCycle gc t ht) _ s hm

@[simp] theorem memoryWf_idle (s : State) (hm : memoryWf s.memory = true) : memoryWf (idle s).memory = true := by simp [idle, hm]

end Sys2Proof.Proofs

end

section
/-! PROOFS. Federation, publication, links, peers, the run and boot keep memory in canonical form. -/

namespace Sys2Proof.Proofs
open Sys2Proof.Machine Sys2Proof.Safety Sys2Proof.Laws

@[simp] theorem memoryWf_takeResult (rg f ver : Nat) (vals : List FV) (s : State) (hm : memoryWf s.memory = true) :
    memoryWf (takeResult rg f ver vals s).memory = true := by
  unfold takeResult
  split
  · exact hm
  extract_lets els put at_ m1 e1
  have hput : ∀ i half m, memoryWf m = true → memoryWf (put i half m) = true := by
    intro i half m h
    refine memoryWf_foldl _ (fun n v hn => ?_) _ m h
    dsimp only
    split
    · exact hn
    · exact memoryWf_vaPut _ _ _ _ hn
  have h1 : memoryWf m1 = true := hput _ _ _ (hput _ _ _ hm)
  split
  · simp [hm]
  split
  · exact h1
  · extract_lets st s1
    have hs1 : memoryWf s1.memory = true := by
      dsimp only [s1]
      rw [countEvents_memory]
      exact memoryWf_applyWrites _ _ _ h1
    split
    · simp [hs1]
    · exact hs1

@[simp] theorem memoryWf_combineSt (r f : Nat) (s : State) (hm : memoryWf s.memory = true) :
    memoryWf (combineSt r f s).memory = true := by fun_cases combineSt <;> simp +zetaDelta -implicitDefEqProofs [hm]
@[simp] theorem memoryWf_resultSt (port : Nat) (g : FedDgram) (s : State) (hm : memoryWf s.memory = true) :
    memoryWf (resultSt port g s).memory = true := by fun_cases resultSt <;> simp +zetaDelta -implicitDefEqProofs [hm]

@[simp] theorem memoryWf_landStream (pub shard pver pos sh : Nat) (bs : List Byte) (s : State) (hm : memoryWf s.memory = true) :
    memoryWf (landStream pub shard pver pos sh bs s).memory = true := by
  fun_cases landStream <;> simp +zetaDelta [hm, memoryWf_putExps, memoryWf_putShard]

@[simp] theorem memoryWf_shardPubSt (pub shard : Nat) (s : State) (hm : memoryWf s.memory = true) :
    memoryWf (shardPubSt pub shard s).memory = true := by fun_cases shardPubSt <;> simp +zetaDelta -implicitDefEqProofs [hm]
@[simp] theorem memoryWf_publishSt (f : Frame) (s : State) (hm : memoryWf s.memory = true) :
    memoryWf (publishSt f s).memory = true := by fun_cases publishSt <;> simp +zetaDelta -implicitDefEqProofs [hm]

@[simp] theorem memoryWf_checkpointSt (pair : Nat) (s : State) (hm : memoryWf s.memory = true) :
    memoryWf (checkpointSt pair s).memory = true := by
  fun_cases checkpointSt <;> simp +zetaDelta [hm, memoryWf_applyWrites]

@[simp] theorem memoryWf_linkFrameSt (f : Frame) (s : State) (hm : memoryWf s.memory = true) :
    memoryWf (linkFrameSt f s).memory = true := by
  fun_cases linkFrameSt <;> simp +zetaDelta [hm, memoryWf_landLink]

@[simp] theorem memoryWf_copyHeldTiles (list : Nat) (s : State) (hm : memoryWf s.memory = true) :
    memoryWf (copyHeldTiles list s).memory = true := by
  fun_cases copyHeldTiles <;> simp +zetaDelta [hm]
  refine memoryWf_foldl _ (fun m t h => memoryWf_foldl _ (fun m k h => ?_) _ m h) _ _ hm
  split
  · exact memoryWf_putTile _ _ _ _ _ m h
  · exact h

@[simp] theorem memoryWf_movesSendSt (list : Nat) (s : State) (hm : memoryWf s.memory = true) :
    memoryWf (movesSendSt list s).memory = true := by unfold movesSendSt; split <;> simp [hm]

@[simp] theorem memoryWf_moveFrameSt (f : Frame) (s : State) (hm : memoryWf s.memory = true) :
    memoryWf (moveFrameSt f s).memory = true := by
  fun_cases moveFrameSt <;> simp +zetaDelta [hm, memoryWf_putWindow]

@[simp] theorem memoryWf_stageCopySt (list : Nat) (s : State) (hm : memoryWf s.memory = true) :
    memoryWf (stageCopySt list s).memory = true := by
  fun_cases stageCopySt <;> simp +zetaDelta [hm]
  exact memoryWf_foldl _ (fun m x h => memoryWf_foldl _ (fun m t h => memoryWf_putTile _ _ _ _ _ m h) _ m h) _ _ hm

@[simp] theorem memoryWf_chunkAfterLoss (m : Nat) (k : Nat × Nat × Nat) (s : State) (hm : memoryWf s.memory = true) :
    memoryWf (chunkAfterLoss m k s).memory = true := by fun_cases chunkAfterLoss <;> simp +zetaDelta -implicitDefEqProofs [hm]

@[simp] theorem memoryWf_runAfterLoss (m : Nat) (s : State) (hm : memoryWf s.memory = true) :
    memoryWf (runAfterLoss m s).memory = true := by
  unfold runAfterLoss
  split
  · exact hm
  split
  · exact hm
  split
  · simp [hm]
  · rw [movesAfterLoss_memory, republish_memory]
    exact foldl_memoryWf _ (fun t _ ht => by simp [ht]) _ _ (foldl_memoryWf _ (fun t _ ht => by simp [ht]) _ s hm)

@[simp] theorem memoryWf_declareLost (m : Nat) (s : State) (hm : memoryWf s.memory = true) :
    memoryWf (declareLost m s).memory = true := by simp [declareLost, hm]
@[simp] theorem memoryWf_peerLossSt (m : Nat) (s : State) (hm : memoryWf s.memory = true) :
    memoryWf (peerLossSt m s).memory = true := by simp [peerLossSt, hm]
@[simp] theorem memoryWf_lossSt (f : Frame) (s : State) (hm : memoryWf s.memory = true) :
    memoryWf (lossSt f s).memory = true := by simp [lossSt, hm]
@[simp] theorem memoryWf_carAction (e step ns : Nat) (s : State) (hm : memoryWf s.memory = true) :
    memoryWf (carAction e step ns s).memory = true := by unfold carAction; split <;> simp [hm]
@[simp] theorem memoryWf_departSt (k : Nat) (s : State) (hm : memoryWf s.memory = true) :
    memoryWf (departSt k s).memory = true := by fun_cases departSt <;> simp +zetaDelta -implicitDefEqProofs [hm]

@[simp] theorem memoryWf_evictSeq (id : Nat) (s : State) (hm : memoryWf s.memory = true) : memoryWf (evictSeq id s).memory = true := by
  unfold evictSeq
  split; · exact hm
  split; · exact hm
  split; · exact hm
  extract_lets r
  split; · exact hm
  split
  · simp [hm]
  · next hp => exact memoryWf_publishSeq _ _ _ _ _ hm hp

@[simp] theorem memoryWf_kvBoundary (s : State) (hm : memoryWf s.memory = true) : memoryWf (kvBoundary s).memory = true := 
  memoryWf_syncTables _ _ (memoryWf_settleFrees _ (foldl_memoryWf _ (fun t id ht => memoryWf_evictSeq id t ht) _ _ (by simp [hm])))

@[simp] theorem memoryWf_earlyActions (s : State) (hm : memoryWf s.memory = true) : memoryWf (earlyActions s).memory = true := by
  unfold earlyActions
  split
  · exact hm
  · exact foldl_memoryWf _ (fun t _ ht => memoryWf_carAction _ _ _ t ht) _ _ hm

@[simp] theorem memoryWf_nextStep (e : Env) (s : State) (hm : memoryWf s.memory = true) :
    memoryWf (nextStep e s).memory = true := by simp [nextStep, hm]
@[simp] theorem memoryWf_boundarySt (s : State) (hm : memoryWf s.memory = true) :
    memoryWf (boundarySt s).memory = true := by unfold boundarySt; split <;> simp [hm]

@[simp] theorem memoryWf_scaleHistWritePart (s : State) (x : Session) (d : Datagram) (hm : memoryWf s.memory = true) :
    memoryWf (scaleHistWritePart s x d).st.memory = true := by
  fun_cases scaleHistWritePart <;> simp +zetaDelta [hm, memoryWf_putHist]

@[simp] theorem memoryWf_install (im : Image) (s : State) (hm : memoryWf s.memory = true) : memoryWf (install im s).memory = true :=
  memoryWf_loadMemory _ _ hm

@[simp] theorem memoryWf_imageLoadDone (sid h : Nat) (s : State) (hm : memoryWf s.memory = true) :
    memoryWf (imageLoadDone sid h s).memory = true := by
  unfold imageLoadDone
  split
  · exact hm
  next o s0 he =>
    have h0 : memoryWf s0.memory = true := memory_engineOp _ _ _ _ _ _ he ▸ hm
    extract_lets a n
    rw [engineNext_memory]
    split
    · simp [h0]
    split
    · simp [h0]
    split
    · simp [h0]
    · rw [finishOp_memory, opProgress_memory]
      exact foldl_memoryWf _ (fun t _ ht => by simp [ht]) _ _ (memoryWf_install _ _ h0)

@[simp] theorem memoryWf_coldClear (stage : Nat) (s : State) : memoryWf (coldClear stage s).memory = true := rfl

@[simp] theorem memoryWf_failChannels (l : List Nat) (s : State) (hm : memoryWf s.memory = true) :
    memoryWf (failChannels l s).memory = true := by
  induction l generalizing s with
  | nil => exact hm
  | cons c r ih => exact ih _ (memoryWf_channelOut c s hm)

@[simp] theorem memoryWf_bootOn (b : BootInputs) (i : Nat) (fallback : Bool) (s : State) (hm : memoryWf s.memory = true) :
    memoryWf (bootOn b i fallback s).memory = true := by simp [bootOn, hm]
@[simp] theorem memoryWf_bootUp (b : BootInputs) (s : State) : memoryWf (bootUp b s).memory = true := by
  fun_cases bootUp <;> simp +zetaDelta -implicitDefEqProofs
@[simp] theorem memoryWf_powerGoodSt (b : BootInputs) (s : State) (hm : memoryWf s.memory = true) :
    memoryWf (powerGoodSt b s).memory = true := by simp [powerGoodSt, hm]
@[simp] theorem memoryWf_watchdogSt (s : State) (hm : memoryWf s.memory = true) :
    memoryWf (watchdogSt s).memory = true := by simp [watchdogSt, hm]

@[simp] theorem memoryWf_clearCisterns (l : List (Nat × KvSeq)) (s : State) (hm : memoryWf s.memory = true) :
    memoryWf (clearCisterns l s).memory = true := by
  induction l generalizing s with
  | nil => exact hm
  | cons _ r ih =>
    refine ih _ ?_
    split
    · exact hm
    · exact memoryWf_emptyCisterns _ _ s hm

@[simp] theorem memoryWf_warmClear (s : State) (hm : memoryWf s.memory = true) :
    memoryWf (warmClear s).memory = true := by simp [warmClear, hm]
@[simp] theorem memoryWf_warmReset (b : BootInputs) (s : State) (hm : memoryWf s.memory = true) :
    memoryWf (warmReset b s).memory = true := by simp [warmReset, hm]
@[simp] theorem memoryWf_rstRise (lowNs : Nat) (b : BootInputs) (s : State) (hm : memoryWf s.memory = true) :
    memoryWf (rstRise lowNs b s).memory = true := by simp [rstRise, hm]
@[simp] theorem memoryWf_powerOff (inputMv : Nat) (s : State) : memoryWf (powerOff inputMv s).memory = true := by
  simp [powerOff]
@[simp] theorem memoryWf_breakSt (s : State) (hm : memoryWf s.memory = true) :
    memoryWf (breakSt s).memory = true := by simp [breakSt, hm]
@[simp] theorem memoryWf_undervoltSt (inputMv : Nat) (s : State) (hm : memoryWf s.memory = true) :
    memoryWf (undervoltSt inputMv s).memory = true := by simp [undervoltSt, hm]
@[simp] theorem memoryWf_overvoltSt (inputMv : Nat) (s : State) (hm : memoryWf s.memory = true) :
    memoryWf (overvoltSt inputMv s).memory = true := by simp [overvoltSt, hm]
@[simp] theorem memoryWf_tripSt (inputMa : Nat) (s : State) (hm : memoryWf s.memory = true) :
    memoryWf (tripSt inputMa s).memory = true := by simp [tripSt, hm]
@[simp] theorem memoryWf_criticalSt (kind index tempC : Nat) (s : State) (hm : memoryWf s.memory = true) :
    memoryWf (criticalSt kind index tempC s).memory = true := by simp [criticalSt, hm]

end Sys2Proof.Proofs

end

section
/-! PROOFS. Every step keeps memory in canonical form: each command through the lemma about its meaning. -/

namespace Sys2Proof.Proofs
open Sys2Proof.Machine Sys2Proof.Safety Sys2Proof.Laws

theorem memoryWf_ofType {f : Frame} {ty : Nat} {sub : Option (Nat × Nat)} {t s : State} (ht : memoryWf t.memory = true)
    (hm : memoryWf s.memory = true) : memoryWf (ofType f ty sub t s).memory = true := by
  unfold ofType
  rw [memory_ite, memoryWf_ite, ht, hm, ite_self]

section
variable {part : Part} (hp : ∀ s x d, memoryWf s.memory = true → memoryWf (part s x d).st.memory = true)
include hp

theorem memoryWf_carryOut (x : Session) (d : Datagram) (opc : Nat) (s : State) (hm : memoryWf s.memory = true) :
    memoryWf (carryOut x d opc part s).memory = true := by
  unfold carryOut
  split
  · simp [hm]
  · split <;> simp [hp, hm]

/-- A datagram's command keeps memory canonical where its part does: refusing, waiting and answering write no memory. -/
theorem memoryWf_ycp {opc : Nat} {c : Instr} {d : Datagram} {s : State} (hm : memoryWf s.memory = true) :
    memoryWf (ycp opc c part d s).memory = true := by
  have hc := memoryWf_carryOut hp
  fun_cases ycp <;> simp +zetaDelta [hm, hc]

end

theorem memoryWf_ycp_frame {part : Part} (hp : ∀ s x d, (part s x d).st.memory = s.memory) {opc : Nat} {c : Instr} {d : Datagram}
    {s : State} (hm : memoryWf s.memory = true) : memoryWf (ycp opc c part d s).memory = true :=
  memoryWf_ycp (fun s x d h => memInv_of_eq h (hp s x d)) hm

/-- A command that is carried out leaves canonical memory. -/
def LeavesCanonical : Host.Outcome State Fault Refusal → Prop
  | .next t => memoryWf t.memory = true
  | _ => True

theorem leavesCanonical_exec {s : State} (hm : memoryWf s.memory = true) : ∀ i, LeavesCanonical (exec i s)
  | .sessionHello _ => memInv_of_eq hm (helloSt_memory _ _)
  | .sessionOpen _ => memInv_of_eq hm (openSt_memory _ _)
  | .sessionClose _ => memoryWf_ycp_frame sessionClosePart_st_memory hm
  | .sessionPing _ => memoryWf_ycp_frame sessionPingPart_st_memory hm
  | .opStatus _ => memoryWf_ycp_frame opStatusPart_st_memory hm
  | .opPartial _ => memoryWf_ycp_frame opPartialPart_st_memory hm
  | .opAbort _ => memoryWf_ycp_frame opAbortPart_st_memory hm
  | .abortTakesEffect _ _ => memInv_of_eq hm (abortEffect_memory _ _ _)
  | .capRead _ => memoryWf_ycp_frame capReadPart_st_memory hm
  | .identRead _ => memoryWf_ycp_frame identReadPart_st_memory hm
  | .attest _ => memoryWf_ycp_frame attestPart_st_memory hm
  | .cfgHostPort _ => memoryWf_ycp_frame cfgHostPortPart_st_memory hm
  | .cfgYcp _ => memoryWf_ycp_frame cfgYcpPart_st_memory hm
  | .cfgGrade _ => memoryWf_ycp_frame cfgGradePart_st_memory hm
  | .cfgRead _ => memoryWf_ycp_frame cfgReadPart_st_memory hm
  | .qpCreate _ => memoryWf_ycp_frame qpCreatePart_st_memory hm
  | .qpDestroy _ => memoryWf_ycp_frame qpDestroyPart_st_memory hm
  | .memRegister _ => memoryWf_ycp_frame memRegisterPart_st_memory hm
  | .memHostKey _ => memoryWf_ycp_frame memHostKeyPart_st_memory hm
  | .memDeregister _ => memoryWf_ycp_frame memDeregisterPart_st_memory hm
  | .tensorImport _ => memoryWf_ycp_frame tensorImportPart_st_memory hm
  | .tensorImportComplete _ _ => memoryWf_importDone _ _ _ hm
  | .tensorExport _ => memoryWf_ycp_frame tensorExportPart_st_memory hm
  | .tensorExportComplete _ _ => memoryWf_exportDone _ _ _ hm
  | .memCopy _ => memoryWf_ycp_frame memCopyPart_st_memory hm
  | .memCopyComplete _ _ => memoryWf_memCopyDone _ _ _ hm
  | .imageLoad _ => memoryWf_ycp_frame imageLoadPart_st_memory hm
  | .imageLoadComplete _ _ => memoryWf_imageLoadDone _ _ _ hm
  | .imageUnload _ => memoryWf_ycp_frame imageUnloadPart_st_memory hm
  | .imageState _ => memoryWf_ycp_frame imageStatePart_st_memory hm
  | .run _ => memoryWf_ycp_frame runPart_st_memory hm
  | .runStartTime _ _ => memInv_of_eq hm (runStartSt_memory _ _ _)
  | .runComplete _ _ => memInv_of_eq hm (runCompleteSt_memory _ _ _)
  | .scaleHistRead _ => memoryWf_ycp_frame scaleHistReadPart_st_memory hm
  | .scaleHistWrite _ => memoryWf_ycp (memoryWf_scaleHistWritePart) hm
  | .adapterSet _ => memoryWf_ycp_frame adapterSetPart_st_memory hm
  | .groupSet _ => memoryWf_ycp_frame groupSetPart_st_memory hm
  | .caravanPeriod _ => memoryWf_ycp_frame caravanPeriodPart_st_memory hm
  | .caravanSet _ => memoryWf_ycp_frame caravanSetPart_st_memory hm
  | .topoWrite _ => memoryWf_ycp_frame topoWritePart_st_memory hm
  | .routeWrite _ => memoryWf_ycp_frame routeWritePart_st_memory hm
  | .mcastWrite _ => memoryWf_ycp_frame mcastWritePart_st_memory hm
  | .fabricCommit _ => memoryWf_ycp_frame fabricCommitPart_st_memory hm
  | .fabricRead _ => memoryWf_ycp_frame fabricReadPart_st_memory hm
  | .timeSet _ => memoryWf_ycp_frame timeSetPart_st_memory hm
  | .cmpInstall _ => memoryWf_ycp_frame cmpInstallPart_st_memory hm
  | .cmpInstallComplete _ _ => memInv_of_eq hm (installDone_memory _ _ _)
  | .fedMapSet _ => memoryWf_ycp_frame fedMapSetPart_st_memory hm
  | .fedKeySet _ => memoryWf_ycp_frame fedKeySetPart_st_memory hm
  | .moduleRetire _ => memInv_of_eq (memoryWf_ycp_frame moduleRetirePart_st_memory hm) (retireIdle_memory _)
  | .retireDeadlineExpiry _ _ => memInv_of_eq hm (retireExpires_memory _ _ _)
  | .kvPoolCreate _ => memoryWf_ycp (fun s x d h => memoryWf_tabled _ s x d (memInv_of_eq h (kvPoolCreatePart_st_memory s x d))) hm
  | .kvPoolDestroy _ => memoryWf_ycp_frame kvPoolDestroyPart_st_memory hm
  | .kvSeqCreate _ => memoryWf_ycp (fun s x d h => memoryWf_tabled _ s x d (memoryWf_kvSeqCreatePart s x d h)) hm
  | .kvFork _ => memoryWf_ycp (fun s x d h => memoryWf_tabled _ s x d (memoryWf_kvForkPart s x d h)) hm
  | .kvPageWrite _ => memoryWf_ycp (fun s x d h => memoryWf_tabled _ s x d (memoryWf_kvPageWritePart s x d h)) hm
  | .kvTruncate _ => memoryWf_ycp (fun s x d h => memoryWf_tabled _ s x d (memoryWf_kvTruncatePart s x d h)) hm
  | .kvSeqRetire _ => memoryWf_ycp (fun s x d h => memoryWf_tabled _ s x d (memoryWf_kvSeqRetirePart s x d h)) hm
  | .kvSeqSet _ => memoryWf_ycp_frame kvSeqSetPart_st_memory hm
  | .kvTableRead _ => memoryWf_ycp_frame kvTableReadPart_st_memory hm
  | .kvPageRead _ => memoryWf_ycp (memoryWf_kvPageReadPart) hm
  | .telemRead _ => memoryWf_ycp_frame telemReadPart_st_memory hm
  | .normRead _ => memoryWf_ycp_frame normReadPart_st_memory hm
  | .faultRead _ => memoryWf_ycp_frame faultReadPart_st_memory hm
  | .accountRead _ => memoryWf_ycp_frame accountReadPart_st_memory hm
  | .pwrTolSet _ => memoryWf_ycp_frame pwrTolSetPart_st_memory hm
  | .pwrBoundsSet _ => memoryWf_ycp_frame pwrBoundsSetPart_st_memory hm
  | .pwrCapSet _ => memoryWf_ycp_frame pwrCapSetPart_st_memory hm
  | .pwrModeSet _ _ => memoryWf_ycp_frame (pwrModeSetPart_st_memory _) hm
  | .pwrRead _ => memoryWf_ycp_frame pwrReadPart_st_memory hm
  | .mirageRead _ => memoryWf_ycp_frame mirageReadPart_st_memory hm
  | .mirageWrite _ => memoryWf_ycp_frame mirageWritePart_st_memory hm
  | .mirageWriteComplete _ _ => memInv_of_eq hm (mirageWritten_memory _ _ _)
  | .bistRun _ => memoryWf_ycp_frame bistRunPart_st_memory hm
  | .bistComplete _ _ _ => memoryWf_bistDone _ _ _ _ hm
  | .diagRead _ => memoryWf_ycp_frame diagReadPart_st_memory hm
  | .serviceWindow _ => memoryWf_ycp_frame serviceWindowPart_st_memory hm
  | .serviceWindowEnd => memInv_of_eq hm (windowEndSt_memory _)
  | .haboobClear _ => memoryWf_ycp (memoryWf_haboobClearPart) hm
  | .calibrate _ => memoryWf_ycp_frame calibratePart_st_memory hm
  | .calibrateComplete _ _ _ _ => memInv_of_eq hm (calibrateDone_memory _ _ _ _ _)
  | .certEnroll _ => memoryWf_ycp_frame certEnrollPart_st_memory hm
  | .certPartTimeout => memInv_of_eq hm (partTimeout_memory _)
  | .certRevoke _ => memoryWf_ycp_frame certRevokePart_st_memory hm
  | .certList _ => memoryWf_ycp_frame certListPart_st_memory hm
  | .auditRead _ => memoryWf_ycp_frame auditReadPart_st_memory hm
  | .auditHead _ => memoryWf_ycp_frame auditHeadPart_st_memory hm
  | .fwInstall _ => memoryWf_ycp_frame fwInstallPart_st_memory hm
  | .fwInstallComplete _ _ => memInv_of_eq hm (fwInstallDone_memory _ _ _)
  | .fwActivate _ => memoryWf_ycp_frame fwActivatePart_st_memory hm
  | .fwRead _ => memoryWf_ycp_frame fwReadPart_st_memory hm
  | .mfgTest _ => memoryWf_ycp_frame mfgTestPart_st_memory hm
  | .sessionIdleExpiry _ => memInv_of_eq hm (idleExpiry_memory _ _)
  | .provisionalSessionExpiry _ => memInv_of_eq hm (provExpiry_memory _ _)
  | .preemptionHold _ _ _ _ => memInv_of_eq hm (holdSt_memory _ _ _ _ _)
  | .preemptionRelease _ _ _ _ => memInv_of_eq hm (releaseSt_memory _ _ _ _ _)
  | .mm _ => memoryWf_runPass _ _ _ hm
  | .mmTwin _ => memoryWf_runPass _ _ _ hm
  | .mmWin _ => memoryWf_runPass _ _ _ hm
  | .mmSplit _ => memoryWf_runPass _ _ _ hm
  | .drain _ => memInv_of_eq hm (drainSt_memory _ _)
  | .chain _ => memoryWf_chainSt _ _ hm
  | .core _ => memInv_of_eq hm (coreSt_memory _ _)
  | .ttFence _ _ => memInv_of_eq hm (fenceSt_memory _ _ _)
  | .ctrWait _ _ _ _ => memInv_of_eq hm (ctrWaitSt_memory _ _ _ _ _)
  | .ctrWaitEnd _ _ => memInv_of_eq hm (ctrWaitEndSt_memory _ _ _)
  | .carWait _ _ _ _ => memInv_of_eq hm (carWaitSt_memory _ _ _ _ _)
  | .carWaitEnd _ _ => memInv_of_eq hm (carWaitEndSt_memory _ _ _)
  | .descXlt _ _ _ _ _ => memInv_of_eq hm (descXltSt_memory _ _ _ _ _ _)
  | .amoaddW _ _ _ _ _ => memoryWf_amoaddSt _ _ _ _ _ _ hm
  | .ecall _ _ => memoryWf_ecallSt _ _ _ hm
  | .lend _ _ => memInv_of_eq hm (lendSt_memory _ _ _)
  | .attFwd _ => memoryWf_attRun _ _ _ _ (fwdRun_memory _) hm
  | .attBwd _ => memoryWf_attRun _ _ _ _ (bwdRun_memory _) hm
  | .attAppend _ => memoryWf_attRun _ _ _ _ (appendRun_memory _) hm
  | .attCommit _ => memoryWf_attRun _ _ _ _ (commitRun_memory _) hm
  | .flush _ _ => memoryWf_flushSt _ _ _ hm
  | .elementPass _ => memoryWf_updSt _ _ _ (memInv_of_eq hm (localSums_memory s))
  | .factorPass _ => memoryWf_updSt _ _ _ (memInv_of_eq hm (localSums_memory s))
  | .repeatedElementPasses _ => memoryWf_repeatSt _ _ (memInv_of_eq hm (localSums_memory s))
  | .stemEmbed _ => memoryWf_stemRun _ _ _ _ (embedRun_memory _) hm
  | .stemWeightGradient _ => memoryWf_stemRun _ _ _ _ (stemGradRun_memory _) hm
  | .copy _ => memoryWf_copySt _ _ hm
  | .spill _ => memInv_of_eq hm (spillSt_memory _ _)
  | .fill _ => memInv_of_eq hm (fillSt_memory _ _)
  | .zero _ => memInv_of_eq hm (zeroSt_memory _ _)
  | .tileThreadCommit _ => memoryWf_commitSt _ _ (memInv_of_eq hm (localSums_memory s))
  | .deadlockDetected => memInv_of_eq hm (deadlockSt_memory _)
  | .stepBoundary => memoryWf_boundarySt _ hm
  | .caravanDeparture _ => memoryWf_departSt _ _ hm
  | .wakeHoldExpiry => memInv_of_eq hm (holdExpirySt_memory _)
  | .wgbDrain _ _ => memInv_of_eq hm (wgbDrainSt_memory _ _ _)
  | .stragglerLeaf _ _ _ => memoryWf_stragglerSt _ _ _ _ hm
  | .modulePartial _ _ => memoryWf_modulePartialSt _ _ _ hm
  | .graceSubstitution _ _ => memoryWf_graceSt _ _ _ hm
  | .reduceFrame _ => memoryWf_ofType (memoryWf_reduceFrameSt _ _ hm) hm
  | .replayReq _ => memoryWf_ofType (memoryWf_replayReqSt _ _ hm) hm
  | .deliver _ => memoryWf_ofType (memoryWf_deliverSt _ _ hm) hm
  | .chunkAck _ => memoryWf_ofType (memInv_of_eq hm (chunkAckSt_memory _ _)) hm
  | .recordItemsSend _ => memoryWf_recordItemsSt _ _ hm
  | .normRec _ => memoryWf_ofType (memoryWf_normRecSt _ _ hm) hm
  | .shardPublication _ _ => memoryWf_shardPubSt _ _ _ hm
  | .publish _ => memoryWf_ofType (memoryWf_publishSt _ _ hm) hm
  | .bwdAckSend => memInv_of_eq hm (bwdAckSendSt_memory _)
  | .bwdAck _ => memoryWf_ofType (memInv_of_eq hm (bwdAckSt_memory _ _)) hm
  | .checkpointCopy _ => memoryWf_checkpointSt _ _ hm
  | .stageLinkSend _ => memInv_of_eq hm (linkSendSt_memory _ _)
  | .stageLinkFrame _ => memoryWf_ofType (memoryWf_linkFrameSt _ _ hm) hm
  | .recutMovesSend _ => memoryWf_movesSendSt _ _ hm
  | .recutMoveFrame _ => memoryWf_ofType (memoryWf_moveFrameSt _ _ hm) hm
  | .recutStageCopy _ => memoryWf_stageCopySt _ _ hm
  | .federationDeltaSend _ _ => memInv_of_eq hm (deltaSendSt_memory _ _ _)
  | .delta _ _ => memInv_of_eq hm (deltaSt_memory _ _ _)
  | .federationCombine _ _ => memoryWf_combineSt _ _ _ hm
  | .result _ _ => memoryWf_resultSt _ _ _ hm
  | .federationResultTimeout _ _ => memInv_of_eq hm (resultTimeoutSt_memory _ _ _)
  | .federationResendTimer _ _ => memInv_of_eq hm (resendSt_memory _ _ _)
  | .ack _ _ => memInv_of_eq hm (fedAckSt_memory _ _ _)
  | .frameForward _ _ => memInv_of_eq hm (receiveFrame_memory _ _ _)
  | .link _ _ => memInv_of_eq hm (linkFrame_memory _ _ _)
  | .retryRequest _ _ => memInv_of_eq hm (retryRequestSt_memory _ _ _)
  | .replayTimeout _ => memInv_of_eq hm (replayTimeoutSt_memory _ _)
  | .lackReportTimer _ => memInv_of_eq hm (lackReportSt_memory _ _)
  | .creditReturnTimer _ => memInv_of_eq hm (creditTimerSt_memory _ _)
  | .linkTraining _ _ => memInv_of_eq hm (trainPort_memory _ _ _)
  | .trainingRetryTimer _ => memInv_of_eq hm (retryTraining_memory _ _)
  | .laneFailure _ _ => memInv_of_eq hm (laneFails_memory _ _ _)
  | .laneSubstitution _ _ => memInv_of_eq hm (laneSubstSt_memory _ _ _)
  | .slotReport _ _ => memInv_of_eq hm (slotReportSt_memory _ _ _)
  | .slotReportTimer _ => memInv_of_eq hm (slotTimerSt_memory _ _)
  | .release _ _ => memInv_of_eq hm (releaseFrameSt_memory _ _ _)
  | .releaseTimer _ => memInv_of_eq hm (releaseTimerSt_memory _ _)
  | .width _ _ => memInv_of_eq hm (widthSt_memory _ _ _)
  | .widthAnswerTimeout _ => memInv_of_eq hm (widthTimeoutSt_memory _ _)
  | .quiet _ _ => memInv_of_eq hm (quietSt_memory _ _ _)
  | .wakeBurst _ => memInv_of_eq hm (burstSt_memory _ _)
  | .ptpMessage _ _ => memInv_of_eq hm (ptpSt_memory _ _ _)
  | .syncTimeout _ => memInv_of_eq hm (syncTimeoutSt_memory _ _)
  | .rdmaWrite _ _ => memoryWf_rdmaRequest _ _ _ _ hm
  | .rdmaRead _ _ => memoryWf_rdmaRequest _ _ _ _ hm
  | .roceAckTimeout _ => memInv_of_eq hm (ackTimeout_memory _ _)
  | .cnp _ => memInv_of_eq hm (cnpSt_memory _ _)
  | .rateIncreaseTimer _ => memInv_of_eq hm (rateUp_memory _ _)
  | .arpRequest _ _ _ _ => memInv_of_eq hm (arpSt_memory _ _ _ _ _)
  | .neighbourSolicitation _ _ _ _ => memInv_of_eq hm (neighbourSt_memory _ _ _ _ _)
  | .echoRequest _ _ _ _ _ _ => memInv_of_eq hm (echoSt_memory _ _ _ _ _ _ _)
  | .dwellExpiry => memInv_of_eq hm (dwellSt_memory _)
  | .wakeEvent _ => memInv_of_eq hm (wakeEventSt_memory _ _)
  | .caravanWakeLead => memInv_of_eq hm (wakeLeadSt_memory _)
  | .powerCapEval _ => memInv_of_eq hm (capEvalSt_memory _ _)
  | .voltageSettled _ _ => memInv_of_eq hm (settledSt_memory _ _ _)
  | .avsTimeout _ => memInv_of_eq hm (avsTimeoutSt_memory _ _)
  | .thermalWarning _ _ _ => memInv_of_eq hm (thermalWarnSt_memory _ _ _ _)
  | .thermalRelease => memInv_of_eq hm (thermalReleaseSt_memory _)
  | .thermalCritical _ _ _ => memoryWf_criticalSt _ _ _ _ hm
  | .unitFaultDetected _ _ _ => memoryWf_unitFaultSt _ _ _ _ hm
  | .noProgressTimeout _ _ _ => memoryWf_noProgressSt _ _ _ _ hm
  | .wgbCopyComplete _ => memInv_of_eq hm (wgbCopied_memory _ _)
  | .bankFailure _ _ => memInv_of_eq hm (bankFails_memory _ _ _)
  | .bankRebuildComplete _ _ => memInv_of_eq hm (bankRebuilt_memory _ _ _)
  | .pseudoChannelFailure _ _ => memoryWf_channelFails _ _ _ hm
  | .pseudoChannelRebuildDone _ _ => memInv_of_eq hm (channelRebuilt_memory _ _ _)
  | .stackMigrationStart _ => memInv_of_eq hm (migrateStart_memory _ _)
  | .stackMigrationComplete _ => memInv_of_eq hm (migrateDone_memory _ _)
  | .stackLoss _ => memoryWf_stackLost _ _ hm
  | .regulatorPhaseFault _ _ => memInv_of_eq hm (phaseFails_memory _ _ _)
  | .ddr5ChannelFailure _ => memoryWf_ddrFails _ _ hm
  | .peerLossDeclared _ => memoryWf_peerLossSt _ _ hm
  | .loss _ => memoryWf_ofType (memoryWf_lossSt _ _ hm) hm
  | .retire _ => memoryWf_ofType (memInv_of_eq hm (retireSt_memory _ _)) hm
  | .retireAck _ => memoryWf_ofType (memInv_of_eq hm (retireAckSt_memory _ _)) hm
  | .mirageMapFlashWrite => memInv_of_eq hm (flashWrite_memory _)
  | .scrub _ _ _ => memoryWf_scrubSt _ _ _ _ hm
  | .spareBist _ => memoryWf_spareBistSt _ _ hm
  | .fullMemoryTest _ => memoryWf_memoryTestSt _ _ hm
  | .powerGood _ => memoryWf_powerGoodSt _ _ hm
  | .bootWatchdog => memoryWf_watchdogSt _ hm
  | .rstNRise _ _ => memoryWf_rstRise _ _ _ hm
  | .presentMate _ => memInv_of_eq hm (mateSt_memory _ _)
  | .presentBreak => memoryWf_breakSt _ hm
  | .undervoltage _ => memoryWf_undervoltSt _ _ hm
  | .overcurrentTrip _ => memoryWf_tripSt _ _ hm
  | .ycpDatagramRefused _ => memInv_of_eq hm (refusedSt_memory _ _)
  | .otherHostPortFrame _ => memInv_of_eq hm (otherFrame_memory _ _)
  | .roceAcknowledge _ _ _ => memInv_of_eq hm (roceAckSt_memory _ _ _ _)
  | .pfcPause _ _ _ => memInv_of_eq hm (pfcSt_memory _ _ _ _)
  | .hostPortFailure _ => memInv_of_eq hm (hostPortDown_memory _ _)
  | .overvoltage _ => memoryWf_overvoltSt _ _ hm
  | .reducedCap _ _ => memInv_of_eq hm (reducedCapSt_memory _ _ _)
  | .mfgTestComplete _ _ => memInv_of_eq hm (mfgTestDone_memory _ _ _)
  | .checkpointComplete => memInv_of_eq hm (checkpointDone_memory _)
  | .avsRetry _ => memInv_of_eq hm (avsRetrySt_memory _ _)
  | .pmbAlert _ _ => memInv_of_eq hm (pmbAlertSt_memory _ _)
theorem memory_nextFenced {s t : State} {c : Instr} (h : nextFenced s = some (c, t)) : t.memory = s.memory := by
  unfold nextFenced at h
  split at h
  · simp at h
  · simp only [Option.map_eq_some_iff, Prod.mk.injEq] at h
    obtain ⟨_, _, _, rfl⟩ := h
    rfl

theorem leavesCanonical_step {s : State} (hm : memoryWf s.memory = true) : LeavesCanonical (step s) := by
  unfold step
  split
  · refine leavesCanonical_exec ?_ _
    exact hm
  · split
    · next hf => exact leavesCanonical_exec (memInv_of_eq hm (memory_nextFenced hf)) _
    · exact memoryWf_idle s hm

/-- Settles O60: memory is written through `writePieces` and cleared by `filter` alone, and both keep the canonical form. -/
theorem stepsKeepMemoryCanonical : Obligations.StepsKeepMemoryCanonical := by
  intro s t hm hs
  have h := leavesCanonical_step (s := s) hm
  rwa [hs] at h

end Sys2Proof.Proofs

end

section
/-! PROOFS. Reads of memory: what each byte of a written range reads as, that a write into one tier leaves the others alone, and that
canonical memories are told apart by their reads. -/

namespace Sys2Proof.Proofs
open Sys2Proof.Machine Sys2Proof.Safety Sys2Proof.Laws

theorem memGet_memWrite (bs : List Byte) (m : Mem) (a x : Nat) :
    memGet (memWrite m a bs) x = if a ≤ x ∧ x < a + bs.length then bs.getD (x - a) 0 else memGet m x := by
  induction bs generalizing m a with
  | nil =>
    rw [if_neg (by simp only [List.length_nil]; omega)]
    rfl
  | cons b r ih =>
    rw [memWrite, ih, memGet_memSet, List.length_cons]
    rcases Nat.lt_trichotomy x a with h | rfl | h
    · rw [if_neg (by omega), if_neg (by omega), if_neg (by omega)]
    · rw [if_neg (by omega), if_pos rfl, if_pos (by omega), Nat.sub_self, List.getD_cons_zero]
    · rw [if_neg (by omega : ¬ x = a)]
      obtain ⟨k, rfl⟩ := Nat.exists_eq_add_of_lt h
      by_cases hk : k < r.length
      · rw [if_pos (by omega), if_pos (by omega), show a + k + 1 - a = k + 1 by omega, List.getD_cons_succ]
        congr 1
        omega
      · rw [if_neg (by omega), if_neg (by omega)]

@[simp] theorem tierMem_setBad (m : Memory) (tier t : Nat) (l : List Nat) : tierMem (setBad m tier l) t = tierMem m t := by
  unfold setBad
  split
  · rfl
  · split <;> rfl

@[simp] theorem tierMem_rewriteWords (m : Memory) (a n t : Nat) : tierMem (rewriteWords m a n) t = tierMem m t := by
  unfold rewriteWords
  split <;> rfl

theorem tierMem_setTier (m : Memory) (tier t : Nat) (x : Mem) (htier : tier < 3) (ht : t < 3) :
    tierMem (setTier m tier x) t = if t = tier then x else tierMem m t := by
  interval_cases tier <;> interval_cases t <;> rfl

theorem tierMem_writeTier (m : Memory) (tier a t : Nat) (bs : List Byte) (htier : tier < 3) (ht : t < 3) :
    tierMem (writeTier m tier a bs) t = if t = tier then memWrite (tierMem m tier) a bs else tierMem m t := by
  rw [← tierMem_setTier m tier t _ htier ht]
  simp only [writeTier, tierMem_setBad]
  split
  · exact tierMem_rewriteWords _ _ _ _
  · rfl

/-- A byte of a sorted table is read where the table lists it. -/
theorem spGet?_eq_some_iff {α : Type} (l : Sp α) (hs : spSorted l = true) (k : Nat) (v : α) : spGet? k l = some v ↔ (k, v) ∈ l := by
  rw [spSorted_iff] at hs
  induction l with
  | nil => simp [spGet?]
  | cons p r ih =>
    obtain ⟨j, w⟩ := p
    obtain ⟨hlt, hr⟩ := List.pairwise_cons.mp hs
    rw [spGet?, List.mem_cons, Prod.mk.injEq]
    by_cases hjk : j = k
    · subst hjk
      have hnot : (j, v) ∉ r := fun hmem => Nat.lt_irrefl j (hlt (j, v) hmem)
      simp [hnot, eq_comm]
    · simp [hjk, Ne.symm hjk, ih hr]

/-- Canonical memory lists exactly its bytes other than zero. -/
theorem mem_iff_memGet {m : Mem} (hm : memWf m = true) (a : Nat) (b : Byte) : (a, b) ∈ m ↔ b ≠ 0 ∧ memGet m a = b := by
  obtain ⟨hs, hz⟩ := Bool.and_eq_true_iff.mp hm
  rw [← spGet?_eq_some_iff m hs, memGet, spGet]
  constructor
  · intro h
    have hmem := (spGet?_eq_some_iff m hs a b).mp h
    exact ⟨by simpa using List.all_eq_true.mp hz _ hmem, by rw [h]; rfl⟩
  · rintro ⟨hb, h⟩
    cases hg : spGet? a m with
    | none => rw [hg] at h; exact absurd h.symm hb
    | some c => rw [hg] at h; exact congrArg some h

theorem mem_ext_of_memGet {m n : Mem} (hm : memWf m = true) (hn : memWf n = true) (h : ∀ a, memGet m a = memGet n a) : m = n := by
  have hsm := (spSorted_iff m).mp (Bool.and_eq_true_iff.mp hm).1
  have hsn := (spSorted_iff n).mp (Bool.and_eq_true_iff.mp hn).1
  have : Std.Irrefl (fun a b : Nat × Byte => a.1 < b.1) := ⟨fun _ => Nat.lt_irrefl _⟩
  have : Std.Antisymm (fun a b : Nat × Byte => a.1 < b.1) := ⟨fun _ _ h h' => absurd h (Nat.lt_asymm h')⟩
  refine hsm.eq_of_mem_iff hsn fun ⟨a, b⟩ => ?_
  rw [mem_iff_memGet hm, mem_iff_memGet hn, h]

/-- Settles O58, by what each byte reads as after one byte is stored, and by what a sorted table without zeros lists. -/
theorem memoryWritesReadBack : Obligations.MemoryWritesReadBack := by
  unfold Obligations.MemoryWritesReadBack
  refine ⟨fun m tier a bs hm htier => ⟨memoryWf_writeTier m tier a bs hm, fun x => ?_, fun t ht hne => ?_⟩,
    fun m n => mem_ext_of_memGet⟩
  · rw [tierMem_writeTier m tier a tier bs htier htier, if_pos rfl, memGet_memWrite]
  · rw [tierMem_writeTier m tier a t bs htier ht, if_neg hne]

end Sys2Proof.Proofs

end

section
/-! PROOFS. The transfer engines: what `COPY`, `SPILL`, `FILL` and `ZERO` leave with their thread once their operands read (R264 to
R266). -/

namespace Sys2Proof.Proofs
open Sys2Proof.Machine Sys2Proof.Safety Sys2Proof.Laws

/-- `COPY` whose gates are open and whose source reads leaves what the destination stores. -/
theorem copySt_lands {s : State} {xe qi i ent : Nat} {e : Env} {st : Stored} (hhead : xferHead s xe 0x60 = some (qi, i, ent))
    (henv : envOf s = some e)
    (hgate : gateOf s e (xSrc (tOp ent)) (List.range (elemCount (descOf e.im (xSrc (tOp ent))))) = 0) :
    let o := tOp ent
    let s1 := (if copiesBytes e (xSrc o) (xDst o) then id else takeScales [xDst o]) (issue 7 xe qi i ent s)
    let e1 := envAfter e s1
    copyOut s1 e1 (xSrc o) (xDst o) (xStage o) (storeHalf e1 (xDst o)) (tMicro ent) = .ok st →
    copySt xe s = doneFlight (tThread ent) (modFlight (tThread ent) (landStored (baseIdx e1 (xDst o)) st)
      (countEvents (baseIdx e1 (xDst o)) st (countFormat (copyErrors e1 (xSrc o) (xDst o)) s1))) := by
  intro o s1 e1 hcopy
  simp only [s1, e1, o] at hcopy ⊢
  simp only [copySt, hhead, henv, hgate, hcopy, Nat.reduceBEq, bne_self_eq_false, Bool.false_eq_true, if_false]

/-- `SPILL` of an `ACCUM` slot leaves its values and its slot word. -/
theorem spillSt_of_accumulating {s : State} {xe qi i ent : Nat} {w : WgbSlot} (hhead : xferHead s xe 0x61 = some (qi, i, ent))
    (hslot : slotOf s (xMe (tOp ent)) (xSlot (tOp ent)) = some w) (haccum : w.st = 1) :
    spillSt xe s = doneFlight (tThread ent) (modFlight (tThread ent) (fun f => { f with writes :=
      [{ addr := xSpill (tOp ent), bytes := p40Bytes w.vals }, { addr := xSpill (tOp ent) + 20480, bytes := leBytes 8 (slotWord w) }] })
      (issue 7 xe qi i ent s)) := by
  simp only [spillSt, hhead, hslot, haccum, bne_self_eq_false, Bool.false_eq_true, if_false]

/-- `FILL` of a `SPILLED` slot leaves the bytes of its spill area. -/
theorem fillSt_of_spilled {s : State} {xe qi i ent : Nat} {e : Env} {w : WgbSlot} {l : List Byte}
    (hhead : xferHead s xe 0x62 = some (qi, i, ent)) (henv : envOf s = some e)
    (hslot : slotOf s (xMe (tOp ent)) (xSlot (tOp ent)) = some w) (hspilled : w.st = 5)
    (hread : vaRead e.mem e.im.regions 1 (xSpill (tOp ent)) 20488 = .ok l) :
    fillSt xe s = doneFlight (tThread ent) (modFlight (tThread ent) (fun f => { f with rows := [l] }) (issue 7 xe qi i ent s)) := by
  simp only [fillSt, hhead, henv, hslot, hspilled, hread, Option.map_some, Option.getD_some, bne_self_eq_false, Bool.false_eq_true,
    if_false]

/-- `ZERO` of a destination that names no element twice leaves its zeros. -/
theorem zeroSt_of_stores {s : State} {xe qi i ent : Nat} {e : Env} {ws : List Write}
    (hhead : xferHead s xe 0x63 = some (qi, i, ent)) (henv : envOf s = some e) (honce : scatterTwice e (xDst (tOp ent)) = false)
    (hzero : zeroOut e (xDst (tOp ent)) (storeHalf e (xDst (tOp ent))) = .ok ws) :
    zeroSt xe s = doneFlight (tThread ent) (modFlight (tThread ent) (fun f => { f with writes := f.writes ++ ws })
      (issue 7 xe qi i ent s)) := by
  simp only [zeroSt, hhead, henv, honce, hzero, Bool.false_eq_true, if_false]

/-- Settles O38: with its operands read, each command's last branch is the one that leaves its writes. -/
theorem transferCommandsComplete : Obligations.TransferCommandsComplete := by
  unfold Obligations.TransferCommandsComplete
  refine ⟨?copy, ?spill, ?fill, ?zero⟩
  case copy =>
    intro s xe qi i ent e st hhead henv o idxs hgate s1 e1 hcopy n
    exact congrArg Host.Outcome.next (copySt_lands hhead henv hgate hcopy)
  case spill =>
    intro s xe qi i ent w hhead hslot haccum
    exact congrArg Host.Outcome.next (spillSt_of_accumulating hhead hslot haccum)
  case fill =>
    intro s xe qi i ent e w l hhead henv hslot hspilled hread
    exact congrArg Host.Outcome.next (fillSt_of_spilled hhead henv hslot hspilled hread)
  case zero =>
    intro s xe qi i ent e ws hhead henv honce hzero
    exact congrArg Host.Outcome.next (zeroSt_of_stores hhead henv honce hzero)

end Sys2Proof.Proofs

end

section
/-! PROOFS. Memory repair: banks, pseudo-channels, stacks and DDR5 channels that fail, what takes their place, and the memory tests
(R257 to R261, R489 to R491, R495, R496). -/

namespace Sys2Proof.Proofs
open Sys2Proof.Machine Sys2Proof.Safety Sys2Proof.Laws

theorem any_eq_false_of_all_not {α : Type} {f : α → Bool} {l : List α} (h : l.all (fun x => !f x) = true) : l.any f = false := by
  simpa using h

/-- Below the fifth fault of the window a fault acts and no haboob condition is raised (R497). -/
theorem countedFault_below_limit {act : State → State} {s : State} (hfew : (countFault s).repair.faultTimes.length < 5) :
    countedFault act s = act (countFault s) := by
  simp only [countedFault, hfew.not_ge, decide_false, Bool.and_false, Bool.false_eq_true, if_false]

@[simp] theorem repairStopped_countFault (s : State) : repairStopped (countFault s) = repairStopped s := rfl

/-- A bank that fails where parity and a spare are left starts its rebuild. -/
theorem bankFails_of_spare {s : State} {field bank k sp : Nat} (hserved : servedBy s 8 field bank = some k) (hready : ready s = true)
    (hnew : s.repair.bankRebuild.contains (field, bank) = false)
    (hparity : s.repair.bankRebuild.all (fun b => !(b.1 == field && b.2 / 16 == bank / 16)) = true)
    (hspare : spareFor s.mirage.entries k = some sp) (hfew : (countFault s).repair.faultTimes.length < 5)
    (hgo : repairStopped s = false) :
    bankFails field bank s = (let s1 := addFault 3 8 field (partPhys k) bank 0 0 (countFault s)
      { s1 with repair := { s1.repair with bankRebuild := s1.repair.bankRebuild ++ [(field, bank)] } }) := by
  simp only [bankFails, hserved, hready, hnew, any_eq_false_of_all_not hparity, hspare, countedFault_below_limit hfew,
    repairStopped_countFault, hgo, Option.isSome_some, Bool.not_true, Bool.not_false, Bool.and_self, Bool.or_self, Bool.false_eq_true,
    if_false]

/-- A rebuilt bank's spare takes its place. -/
theorem bankRebuilt_of_spare {s : State} {field bank k sp : Nat} (hrebuilds : s.repair.bankRebuild.contains (field, bank) = true)
    (hgo : subStopped s = false) (hserved : servedBy s 8 field bank = some k) (hspare : spareFor s.mirage.entries k = some sp) :
    bankRebuilt field bank s = changeMap (fun m => replacePart m k sp) (doneEntry sp bank
      { s with repair := { s.repair with bankRebuild := s.repair.bankRebuild.filter (· != (field, bank)) } }) := by
  simp only [bankRebuilt, hrebuilds, hgo, hserved, hspare, Bool.not_true, Bool.or_self, Bool.false_eq_true, if_false]

/-- A pseudo-channel that fails alone in its group is read by correction while a spare is rebuilt. -/
theorem channelFails_of_spare {s : State} {stack pc p k j : Nat} (hstack : physStack s stack = some p)
    (hserved : servedBy s 10 p pc = some k) (hready : ready s = true) (hnew : s.repair.degraded.contains (stack, pc) = false)
    (halone : s.repair.degraded.all (fun d => !(d.1 == stack && d.2 / 17 == pc / 17)) = true)
    (hspare : (scopeParts 10 p).find? (fun j => (partIn s j).2 == 1 &&
      !s.repair.rebuilding.any (fun r => r.1 == stack && r.2.2 == partPhys j)) = some j)
    (hfew : (countFault s).repair.faultTimes.length < 5) (hgo : repairStopped s = false) :
    channelFails stack pc s = (let s1 := addFault 3 10 p (partPhys k) pc 0 0 (countFault s)
      { s1 with repair := { s1.repair with
          degraded := s1.repair.degraded ++ [(stack, pc)]
          rebuilding := s1.repair.rebuilding ++ [(stack, pc, partPhys j)] } }) := by
  have halone' : (countFault s).repair.degraded.any (fun d => d.1 == stack && d.2 / 17 == pc / 17) = false :=
    any_eq_false_of_all_not halone
  have hspare' : (scopeParts 10 p).find? (fun j => (partIn (countFault s) j).2 == 1 &&
      !(countFault s).repair.rebuilding.any (fun r => r.1 == stack && r.2.2 == partPhys j)) = some j := hspare
  simp only [channelFails, hstack, hserved, hready, hnew, countedFault_below_limit hfew, repairStopped_countFault, hgo, halone', hspare',
    Bool.not_true, Bool.or_self, Bool.false_and, Bool.false_eq_true, if_false]

/-- A rebuilt spare pseudo-channel takes the failed one's place. -/
theorem channelRebuilt_of_found {s : State} {stack pc p k : Nat} {r : Nat × Nat × Nat} (hgo : subStopped s = false)
    (hrebuilds : s.repair.rebuilding.find? (fun r => r.1 == stack && r.2.1 == pc) = some r) (hstack : physStack s stack = some p)
    (hserved : servedBy s 10 p pc = some k) :
    channelRebuilt stack pc s = (
      let s2 := changeMap (fun m => replacePart m k (partKey 10 p r.2.2)) (doneEntry (partKey 10 p r.2.2) pc s)
      { s2 with repair := { s2.repair with
          degraded := s2.repair.degraded.filter (· != (stack, pc))
          rebuilding := s2.repair.rebuilding.filter (· != r) } }) := by
  simp only [channelRebuilt, hgo, hrebuilds, hstack, hserved, Bool.false_eq_true, if_false]

/-- A stack due to migrate starts on a free spare. -/
theorem migrateStart_of_spare {s : State} {stack k sp : Nat} (hserved : servedBy s 9 0 stack = some k) (hready : ready s = true)
    (hgo : subStopped s = false) (hnew : s.repair.migrating.all (fun m => m.1 != stack) = true) (hdue : dueToMigrate s stack = true)
    (hspare : freeSpare s.mirage.entries k = some sp) :
    migrateStart stack s = (let s1 := changeMap (fun m => setPart m k (stack, 4)) s
      { s1 with repair := { s1.repair with migrating := s1.repair.migrating ++ [(stack, partPhys sp)] } }) := by
  simp only [migrateStart, hserved, hready, hgo, any_eq_false_of_all_not hnew, hdue, hspare, Bool.not_true, Bool.or_self,
    Bool.false_eq_true, if_false]

/-- A migrated stack's spare takes its place, and the stack's repairs end. -/
theorem migrateDone_of_found {s : State} {stack k : Nat} {m : Nat × Nat}
    (hmigrates : s.repair.migrating.find? (fun m => m.1 == stack) = some m) (hserved : servedBy s 9 0 stack = some k)
    (hgo : subStopped s = false) :
    migrateDone stack s = (
      let s2 := changeMap (fun e => replacePart e k (partKey 9 0 m.2)) (doneEntry (partKey 9 0 m.2) stack s)
      { s2 with repair := { s2.repair with
          migrating := s2.repair.migrating.filter (· != m)
          degraded := s2.repair.degraded.filter (fun d => d.1 != stack)
          rebuilding := s2.repair.rebuilding.filter (fun d => d.1 != stack)
          corrRecent := spDel stack s2.repair.corrRecent } }) := by
  simp only [migrateDone, hmigrates, hserved, hgo, Bool.false_eq_true, if_false]

/-! The loss of a stack (R491). -/

/-- Undoing a map write's staging leaves the map in force alone. -/
@[simp] theorem undoOp_entries (o : Op) (s : State) : (undoOp o s).mirage.entries = s.mirage.entries := by
  unfold undoOp
  split_ifs <;> rfl

@[simp] theorem finishOp_entries (sid h st c : Nat) (s : State) : (finishOp sid h st c s).mirage.entries = s.mirage.entries := by
  unfold finishOp
  split
  · rfl
  · dsimp only
    split_ifs <;> simp

@[simp] theorem failRun_entries (c : Nat) (s : State) : (failRun c s).mirage.entries = s.mirage.entries := by
  unfold failRun
  split <;> simp

@[simp] theorem failOps_entries (code : Nat) (l : List Op) (s : State) : (failOps code l s).mirage.entries = s.mirage.entries := by
  induction l generalizing s with
  | nil => rfl
  | cons o r ih =>
    rw [failOps, ih]
    split
    · rfl
    · split <;> simp

@[simp] theorem failOps_repair (code : Nat) (l : List Op) (s : State) : (failOps code l s).repair = s.repair := by
  induction l generalizing s with
  | nil => rfl
  | cons o r ih =>
    rw [failOps, ih]
    split
    · rfl
    · split <;> simp

@[simp] theorem foldl_addEvent_mirage (ev n : Nat) (l : List Nat) (s : State) :
    (l.foldl (fun t r => addEvent ev r n t) s).mirage = s.mirage := by
  induction l generalizing s with
  | nil => rfl
  | cons r l ih => rw [List.foldl_cons, ih, addEvent_mirage]

@[simp] theorem foldl_addEvent_repair (ev n : Nat) (l : List Nat) (s : State) :
    (l.foldl (fun t r => addEvent ev r n t) s).repair = s.repair := by
  induction l generalizing s with
  | nil => rfl
  | cons r l ih => rw [List.foldl_cons, ih, addEvent_repair]

/-- What stands before a free spare takes a lost stack's place: the operations fail, and the loss is recorded. -/
def stackRecorded (stack k sp : Nat) (s : State) : State :=
  let s2 := (stackRecords s stack).foldl (fun t r => addEvent 5 r 32 t) (failOps 0x0601 s.sessions.ops s)
  addFault 1 9 0 (partPhys k) stack (pack [(0, 16, partPhys sp), (32, 32, Config.free (takeFree s2).1)]) 8 (takeFree s2).2

theorem stackRecorded_memory (stack k sp : Nat) (s : State) : (stackRecorded stack k sp s).memory = s.memory := by
  simp [stackRecorded]

theorem stackRecorded_entries (stack k sp : Nat) (s : State) :
    (stackRecorded stack k sp s).mirage.entries = s.mirage.entries := by
  simp [stackRecorded]

theorem stackRecorded_repair (stack k sp : Nat) (s : State) : (stackRecorded stack k sp s).repair = s.repair := by
  simp [stackRecorded]

theorem stackLost_of_spare {s : State} {stack k sp : Nat} (hserved : servedBy s 9 0 stack = some k) (hready : ready s = true)
    (hgo : subStopped s = false) (hspare : freeSpare s.mirage.entries k = some sp) :
    stackLost stack s = zeroStack stack (changeMap (fun m => replacePart m k sp) (stackRecorded stack k sp s)) := by
  simp only [stackLost, hserved, hready, hgo, hspare, Bool.not_true, Bool.false_eq_true, if_false, stackRecorded]

/-! DDR5 channels, scrubs and tests (R259, R261, R495, R496). -/

/-- A failed DDR5 channel takes its die's channels out of use. -/
theorem ddrFails_of_grade {s : State} {channel : Nat} (hready : ready s = true) (hchannel : channel < 16)
    (hgrade : s.settings.grade = 1) :
    ddrFails channel s = addFault 2 0 (channel / 8) channel 0xFFFF (pack [(0, 16, 0x0306)]) 8
      { s with memory := { s.memory with ddrOut := (s.memory.ddrOut ++ [channel / 8]).eraseDups } } := by
  simp only [ddrFails, channelOut, hready, hchannel.not_ge, hgrade, Bool.not_true, decide_false, bne_self_eq_false, Bool.or_self,
    Bool.false_eq_true, if_false]

section
variable {s : State} {tier addr : Nat} (hready : ready s = true) (hawake : s.power.ps ≠ 2) (htier : tier ≤ 2)
  (hgrade : tier = 2 → s.settings.grade = 1) (haddr : addr < tierSize tier)
include hready hawake htier hgrade haddr

/-- A scrub within a tier that the module has finds nothing in its way where the module is awake. -/
theorem scrub_not_barred :
    ¬(!ready s || s.power.ps == 2 || 2 < tier || tierSize tier ≤ addr || (tier == 2 && s.settings.grade != 1)) = true := by
  have hpresent : (tier == 2 && s.settings.grade != 1) = false := by
    by_cases hddr : tier = 2
    · simp [hgrade hddr]
    · simp [hddr]
  simp [hready, hawake, htier.not_gt, haddr.not_ge, hpresent]

theorem scrubSt_clean : scrubSt tier addr .clean s = s :=
  if_neg (scrub_not_barred hready hawake htier hgrade haddr)

theorem scrubSt_corrected : scrubSt tier addr .corrected s =
    if tier = 1 then countCorrected (stackOfHbm addr) s
    else if tier = 0 then { s with memory := { s.memory with spadCorrected := tick64 s.memory.spadCorrected } }
    else s :=
  (if_neg (scrub_not_barred hready hawake htier hgrade haddr)).trans (by simp only [beq_iff_eq])

theorem scrubSt_uncorrectable : scrubSt tier addr .uncorrectable s =
    addMemError tier (addr / unitBytes tier) 0xFFFFFFFF (markBad tier (addr / unitBytes tier) s) :=
  if_neg (scrub_not_barred hready hawake htier hgrade haddr)

end

/-- The self-test of spares awake fails the parts it lists that are spare. -/
theorem spareBistSt_awake {s : State} (fails : List Nat) (hready : ready s = true) (hawake : s.power.ps ≠ 2) :
    spareBistSt fails s = failTests (fails.filter (fun i => match allParts[i]? with
        | some k => (partIn s k).2 == 1
        | none => false)) s :=
  if_neg (by simp [hready, hawake])

/-- The full memory test runs once, awake. -/
theorem memoryTestSt_first {s : State} (fails : List Nat) (hready : ready s = true) (hawake : s.power.ps ≠ 2)
    (hfirst : s.boot.memTest = false) :
    memoryTestSt fails s = (let s1 := failUnits fails s
      { s1 with boot := { s1.boot with memTest := true } }) :=
  if_neg (by simp [hready, hawake, hfirst])

/-- Settles O49: under its conditions each event takes the branch that repairs, and no earlier check of it stands in the way. -/
theorem memoryRepairCommandsComplete : Obligations.MemoryRepairCommandsComplete := by
  unfold Obligations.MemoryRepairCommandsComplete
  refine ⟨?bankFailure, ?bankRebuilt, ?channelFailure, ?channelRebuilt, ?migrateStart, ?migrateDone, ?stackLoss, ?ddr, ?scrub, ?tests⟩
  case bankFailure =>
    intro s field bank k sp hserved hready hnew hparity hspare hfew hgo
    exact congrArg Host.Outcome.next (bankFails_of_spare hserved hready hnew hparity hspare hfew hgo)
  case bankRebuilt =>
    intro s field bank k sp hrebuilds hgo hserved hspare
    exact congrArg Host.Outcome.next (bankRebuilt_of_spare hrebuilds hgo hserved hspare)
  case channelFailure =>
    intro s stack pc p k j hstack hserved hready hnew halone hspare hfew hgo
    exact congrArg Host.Outcome.next (channelFails_of_spare hstack hserved hready hnew halone hspare hfew hgo)
  case channelRebuilt =>
    intro s stack pc p k r hgo hrebuilds hstack hserved
    exact congrArg Host.Outcome.next (channelRebuilt_of_found hgo hrebuilds hstack hserved)
  case migrateStart =>
    intro s stack k sp hserved hready hgo hnew hdue hspare
    exact congrArg Host.Outcome.next (migrateStart_of_spare hserved hready hgo hnew hdue hspare)
  case migrateDone =>
    intro s stack k m hmigrates hserved hgo
    exact congrArg Host.Outcome.next (migrateDone_of_found hmigrates hserved hgo)
  case stackLoss =>
    intro s stack k sp hserved hready hgo hspare
    have hmemory := stackRecorded_memory stack k sp s
    have hentries := stackRecorded_entries stack k sp s
    have hrepair := stackRecorded_repair stack k sp s
    refine ⟨_, congrArg Host.Outcome.next (stackLost_of_spare hserved hready hgo hspare), ?_, ?_, rfl, ?_⟩
    · rw [← hmemory]; rfl
    · rw [← hentries]; rfl
    · rw [← hrepair]; rfl
  case ddr =>
    intro s channel hready hchannel hgrade
    exact congrArg Host.Outcome.next (ddrFails_of_grade hready hchannel hgrade)
  case scrub =>
    intro s tier addr hready hawake htier hgrade haddr
    exact ⟨congrArg Host.Outcome.next (scrubSt_clean hready hawake htier hgrade haddr),
      congrArg Host.Outcome.next (scrubSt_corrected hready hawake htier hgrade haddr),
      congrArg Host.Outcome.next (scrubSt_uncorrectable hready hawake htier hgrade haddr)⟩
  case tests =>
    intro s fails hready hawake
    exact ⟨congrArg Host.Outcome.next (spareBistSt_awake fails hready hawake),
      fun hfirst => congrArg Host.Outcome.next (memoryTestSt_first fails hready hawake hfirst)⟩

end Sys2Proof.Proofs

end

section
/-! PROOFS. Queue pairs and memory keys: what each command's part answers once its checks pass (Table 16.4, R306, R307, R421). -/

namespace Sys2Proof.Proofs
open Sys2Proof.Machine Sys2Proof.Safety Sys2Proof.Laws

/-! Queue pairs (R306). -/

/-- `QP_CREATE` with its operands in range and both counts below their limits adds a queue pair whose number and first packet number
are the module's choice (log entry 3). -/
theorem qpCreatePart_accepts {s : State} {x : Session} {d : Datagram} (hpmtu : prm d 2 2 < 3) (hshort : 8 ≤ prm d 8 5)
    (hlong : prm d 8 5 ≤ 20) (hmodule : s.host.qps.length < 64) (hsession : (s.host.qps.filter (fun q => q.sid == x.sid)).length < 4) :
    qpCreatePart s x d =
      (let qpn := freshFrom (1 + Config.firstId 1 s.free % (2 ^ 24 - 128)) (s.host.qps.map (·.qpn))
      let psn := Config.firstId 2 s.free % 2 ^ 24
      ansBody { s with
        host := { s.host with qps := s.host.qps ++ [
          { qpn := qpn, sid := x.sid, port := prm d 0 1, pmtu := prm d 2 2, timeout := prm d 8 5, retry := prm d 16 3,
            peerQpn := prm d 32 24, peerGid := prm d 128 128, peerMac := prm d 256 48, sendPsn := psn, recvPsn := prm d 64 24,
            retries := 0, inFlight := [], rate := 800000, lastCnp := 0, failed := false }] }
        free := s.free + 1 } (pack [(0, 24, qpn), (32, 24, psn)]) 8) := by
  simp only [qpCreatePart, beq_false_of_ne hpmtu.ne, hshort.not_gt, hlong.not_gt, hmodule.not_ge, hsession.not_ge, decide_false,
    Bool.or_self, Bool.false_eq_true, if_false]

/-- `QP_DESTROY` of the session's own queue pair removes it. -/
theorem qpDestroyPart_accepts {s : State} {x : Session} {d : Datagram} {q : Qp} (hfind : findQp s.host (prm d 0 24) = some q)
    (hown : q.sid = x.sid) :
    qpDestroyPart s x d = ansOk { s with host := { s.host with qps := s.host.qps.filter (fun p => p.qpn != q.qpn) } } := by
  simp only [qpDestroyPart, hfind, hown, bne_self_eq_false, Bool.false_eq_true, if_false]

/-- Settles O4: past its checks each part answers code 0. Which numbers a new queue pair gets is the choice of log entry 3. -/
theorem queuePairsComplete : Obligations.QueuePairsComplete := by
  unfold Obligations.QueuePairsComplete
  refine ⟨?create, ?destroy⟩
  case create =>
    refine completes_of_code_zero (fun _ _ => rfl) (by decide) ?_ (fun _ _ _ => rfl)
    rintro s x d ⟨hpmtu, hshort, hlong, hmodule, hsession⟩
    exact qpCreatePart_accepts hpmtu hshort hlong hmodule hsession
  case destroy =>
    intro q
    refine completes_of_code_zero (fun _ _ => rfl) (by decide) ?_ (fun _ _ _ => rfl)
    rintro s x d ⟨hfind, hown⟩
    exact qpDestroyPart_accepts hfind hown

/-! Keys (R307, R421). -/

/-- The answer that issues a key over the command's range, its number the module's choice (log entry 3). -/
def keyIssued (kind : Nat) (r : Bool) (s : State) (x : Session) (d : Datagram) : Answer :=
  let key := freshFrom (1 + Config.firstId 3 s.free % (2 ^ 32 - 8192)) (usedKeys s.sessions)
  ansBody { s with
    sessions := modSession s.sessions x.sid (fun y => { y with keys := y.keys ++ [
      { key := key, kind := kind, r := r, w := prm d 2 1 == 1, addr := prm d 64 48, length := prm d 128 48, qpn := 0, valid := true }] })
    free := s.free + 1 } key 8

/-- `MEM_REGISTER` with `WINDOW`, no image resident, of a range of HBM that is not to be read, issues a window key. -/
theorem memRegisterPart_window {s : State} {x : Session} {d : Datagram} (hwindow : prm d 0 1 = 1) (himage : s.image = none)
    (hnoRead : prm d 1 1 = 0) (hrange : prm d 64 48 + prm d 128 48 ≤ 0x30000000000) (hroom : x.keys.length < 256) :
    memRegisterPart s x d = keyIssued 1 false s x d := by
  have himage' : s.image.isSome = false := Option.isSome_eq_false_iff.2 (Option.isNone_iff_eq_none.2 himage)
  have hrange' : ¬ tierSize 1 < prm d 64 48 + prm d 128 48 := hrange.not_gt
  simp only [memRegisterPart, hwindow, himage', hnoRead, hrange', hroom.not_ge, decide_false, beq_self_eq_true, Nat.reduceBEq,
    bne_self_eq_false, Bool.or_self, Bool.false_eq_true, if_true, if_false]
  rfl

/-- `MEM_REGISTER` without `WINDOW`, by a session of a role that may, over a region with the `HOST` right, issues a region key. -/
theorem memRegisterPart_region {s : State} {x : Session} {d : Datagram} {g : Nat} (hregion : prm d 0 1 = 0) (hrole : x.role ≠ 2)
    (hover : regionOver (regionsOf s) (prm d 64 48) (prm d 128 48) = some g) (hright : rgRights g &&& 8 ≠ 0)
    (hroom : x.keys.length < 256) : memRegisterPart s x d = keyIssued 0 (prm d 1 1 == 1) s x d := by
  simp only [memRegisterPart, hregion, beq_false_of_ne hrole, hover, beq_false_of_ne hright, hroom.not_ge, Nat.reduceBEq,
    bne_self_eq_false, Bool.false_eq_true, if_false]
  rfl

/-- `MEM_HOST_KEY` on the session's own queue pair adds the host's key to the session. -/
theorem memHostKeyPart_accepts {s : State} {x : Session} {d : Datagram} {q : Qp} (hfind : findQp s.host (prm d 32 24) = some q)
    (hown : q.sid = x.sid) (hroom : x.keys.length < 256) :
    memHostKeyPart s x d = ansOk { s with sessions := modSession s.sessions x.sid (fun y => { y with keys := y.keys ++ [
      { key := prm d 0 32, kind := 2, r := false, w := true, addr := prm d 64 64, length := prm d 128 64, qpn := q.qpn,
        valid := true }] }) } := by
  simp only [memHostKeyPart, hfind, hown, hroom.not_ge, bne_self_eq_false, Bool.false_eq_true, if_false]

/-- `MEM_DEREGISTER` of a key that the session holds removes it. -/
theorem memDeregisterPart_accepts {s : State} {x : Session} {d : Datagram} {k : RKey}
    (hfind : x.keys.find? (fun j => j.key == prm d 0 32 && (j.kind == 2) == (prm d 32 1 == 1)) = some k) :
    memDeregisterPart s x d =
      ansOk { s with sessions := modSession s.sessions x.sid (fun y => { y with keys := y.keys.erase k }) } := by
  simp only [memDeregisterPart, hfind]

/-- Settles O5: past its checks each part answers code 0. Which number an issued key gets is the choice of log entry 3. -/
theorem memoryKeysComplete : Obligations.MemoryKeysComplete := by
  unfold Obligations.MemoryKeysComplete
  refine ⟨?window, ?region, ?hostKey, ?deregister⟩
  case window =>
    refine completes_of_code_zero (fun _ _ => rfl) (by decide) ?_ (fun _ _ _ => rfl)
    rintro s x d ⟨hwindow, himage, hnoRead, hrange, hroom⟩
    exact memRegisterPart_window hwindow himage hnoRead hrange hroom
  case region =>
    intro g
    refine completes_of_code_zero (fun _ _ => rfl) (by decide) ?_ (fun _ _ _ => rfl)
    rintro s x d ⟨hregion, hrole, hover, hright, hroom⟩
    exact memRegisterPart_region hregion hrole hover hright hroom
  case hostKey =>
    intro q
    refine completes_of_code_zero (fun _ _ => rfl) (by decide) ?_ (fun _ _ _ => rfl)
    rintro s x d ⟨hfind, hown, hroom⟩
    exact memHostKeyPart_accepts hfind hown hroom
  case deregister =>
    intro k
    exact completes_of_code_zero (fun _ _ => rfl) (by decide) (fun _ _ _ hfind => memDeregisterPart_accepts hfind) (fun _ _ _ => rfl)

end Sys2Proof.Proofs
end

section
/-! PROOFS. The fabric's tables: what the commands that stage, commit and read them answer once their checks pass (R430). -/

namespace Sys2Proof.Proofs
open Sys2Proof.Machine Sys2Proof.Safety Sys2Proof.Laws

/-- A range of a table's entries, within its 65,536 and of at most `most`, passes the check of the writes. -/
theorem entryRange_admitted {first n most : Nat} (hsome : 1 ≤ n) (hmost : n ≤ most) (hfit : first + n ≤ 65536) :
    (n == 0 || decide (most < n) || decide (65536 < first + n)) = false := by
  simp [Nat.ne_of_gt hsome, hmost.not_gt, hfit.not_gt]

/-- `TOPO_WRITE` of a table of version 1 that keeps the rules, of ports that the grade has, stages it. -/
theorem topoWritePart_accepts {s : State} (x : Session) {d : Datagram} (hversion : bits (prm d 0 512) 0 16 = 1)
    (hrules : topoBad (prm d 0 512) ((List.range 32).map (fun i => prm d (512 + 128 * i) 128)) = false)
    (hgrade : topoAbsent s.settings.grade (prm d 0 512) ((List.range 32).map (fun i => prm d (512 + 128 * i) 128)) = false) :
    topoWritePart s x d = ansOk { s with fabric := { s.fabric with staged := { s.fabric.staged with
      topo := some (prm d 0 512, (List.range 32).map (fun i => prm d (512 + 128 * i) 128)) } } } := by
  simp only [topoWritePart, hversion, hrules, hgrade, Nat.lt_irrefl, Bool.false_eq_true, if_false]

/-- `ROUTE_WRITE` of 1 to 256 entries puts them into the staged copy, which starts as the table in force. -/
theorem routeWritePart_accepts {s : State} (x : Session) {d : Datagram} (hsome : 1 ≤ prm d 16 16) (hmost : prm d 16 16 ≤ 256)
    (hfit : prm d 0 16 + prm d 16 16 ≤ 65536) :
    routeWritePart s x d = ansOk { s with fabric := { s.fabric with staged := { s.fabric.staged with
      routes := ((List.range (prm d 16 16)).map (fun i => prm d (32 + 32 * i) 32)).zipIdx.foldl
        (fun m p => spSet (prm d 0 16 + p.2) p.1 m)
        (if s.fabric.staged.routed then s.fabric.staged.routes else s.fabric.force.routes)
      routed := true } } } := by
  simp only [routeWritePart, entryRange_admitted hsome hmost hfit, Bool.false_eq_true, if_false]

/-- `MCAST_WRITE` of 1 to 128 entries stages them. -/
theorem mcastWritePart_accepts {s : State} (x : Session) {d : Datagram} (hsome : 1 ≤ prm d 16 16) (hmost : prm d 16 16 ≤ 128)
    (hfit : prm d 0 16 + prm d 16 16 ≤ 65536) :
    mcastWritePart s x d = ansOk { s with fabric := { s.fabric with staged := { s.fabric.staged with
      mcast := ((List.range (prm d 16 16)).map (fun i => prm d (64 + 64 * i) 64)).zipIdx.foldl
        (fun m p => spSet (prm d 0 16 + p.2) p.1 m) s.fabric.staged.mcast } } } := by
  simp only [mcastWritePart, entryRange_admitted hsome hmost hfit, Bool.false_eq_true, if_false]

/-- Without a topology or without a routing table in force there is no `ENTRIES` for the topology to disagree with. -/
theorem no_entries_mismatch {t : FabTables} (h : t.topo = none ∨ t.routed = false) :
    (match t.topo with
    | none => false
    | some (h, _) => t.routed && routeEntries t.routes != bits h 64 16 + 1) = false := by
  rcases h with htopo | hrouted
  · simp only [htopo]
  · cases htopo : t.topo with
    | none => rfl
    | some p => simp only [hrouted, Bool.false_and]

/-- `FABRIC_COMMIT` of the multicast table alone, between runs, puts its staged entries in force and leaves the other tables and the
ports alone. -/
theorem fabricCommitPart_mcast {s : State} (x : Session) {d : Datagram} (hidle : s.run.active = false) (htopo : prm d 0 1 = 0)
    (hroute : prm d 1 1 = 0) (hmcast : prm d 2 1 = 1) (hagree : s.fabric.force.topo = none ∨ s.fabric.force.routed = false) :
    fabricCommitPart s x d = ansOk { s with fabric := { s.fabric with
      force := { s.fabric.force with mcast := s.fabric.staged.mcast.foldl (fun m p => spPut 0 p.1 p.2 m) s.fabric.force.mcast }
      staged := { s.fabric.staged with mcast := [] } } } := by
  simp only [fabricCommitPart, hidle, htopo, hroute, hmcast, Nat.reduceBEq, beq_self_eq_true, Bool.false_and, Bool.or_false,
    Bool.not_false, Bool.and_true, Bool.false_eq_true, if_false, if_true]
  exact if_neg (Bool.eq_false_iff.1 (no_entries_mismatch hagree))

/-- `FABRIC_READ` of one of the three tables gives its entries. -/
theorem fabricReadPart_accepts (s : State) (x : Session) {d : Datagram} (htable : prm d 0 2 < 3) :
    fabricReadPart s x d = ansBody s (fabricBody s.fabric (prm d 0 2) (prm d 2 1 == 1) (prm d 16 16)) 1032 := by
  simp only [fabricReadPart, beq_false_of_ne htable.ne, Bool.false_eq_true, if_false]

/-- Settles O9: past its checks each part answers code 0; a commit of one table leaves the other tables, in force and staged, as they
were. -/
theorem fabricTableCommandsComplete : Obligations.FabricTableCommandsComplete := by
  unfold Obligations.FabricTableCommandsComplete
  refine ⟨?topoWrite, ?routeWrite, ?mcastWrite, ?commit, ?read⟩
  case topoWrite =>
    refine completes_of_code_zero (fun _ _ => rfl) (by decide) ?_ (fun _ _ _ => rfl)
    rintro s x d ⟨hversion, hrules, hgrade⟩
    exact topoWritePart_accepts x hversion hrules hgrade
  case routeWrite =>
    refine completes_of_code_zero (fun _ _ => rfl) (by decide) ?_ (fun _ _ _ => rfl)
    rintro s x d ⟨hsome, hmost, hfit⟩
    exact routeWritePart_accepts x hsome hmost hfit
  case mcastWrite =>
    refine completes_of_code_zero (fun _ _ => rfl) (by decide) ?_ (fun _ _ _ => rfl)
    rintro s x d ⟨hsome, hmost, hfit⟩
    exact mcastWritePart_accepts x hsome hmost hfit
  case commit =>
    refine completes_of_code_zero (fun _ _ => rfl) (by decide) ?_ (fun _ _ _ => rfl)
    rintro s x d ⟨hidle, htopo, hroute, hmcast, hagree⟩
    exact fabricCommitPart_mcast x hidle htopo hroute hmcast hagree
  case read =>
    exact completes_of_code_zero (fun _ _ => rfl) (by decide) (fun s x _ htable => fabricReadPart_accepts s x htable) (fun _ _ _ => rfl)

end Sys2Proof.Proofs
end

section
/-! PROOFS. RoCE v2 on the host ports: a request in order is carried out and answered; what the requester does on acknowledgement,
timeout and congestion (R306 to R308, Table 11.10). -/

namespace Sys2Proof.Proofs
open Sys2Proof.Machine Sys2Proof.Safety Sys2Proof.Laws

/-! The responder (R306, R307). -/

/-- A packet that is not marked Congestion Experienced is answered by no CNP. -/
@[simp] theorem maybeCnp_unmarked (port : Nat) (q : Qp) (s : State) : maybeCnp port q false s = s := rfl

/-- A packet number is at no distance from itself, modulo 2²⁴. -/
theorem psn_distance_self {n : Nat} : (n + 2 ^ 24 - n) % 2 ^ 24 = 0 := by
  rw [Nat.add_sub_cancel_left, Nat.mod_self]

section
variable {s : State} {port : Nat} {r : RdmaReq} {q : Qp} {x : Session} {ps : List (Nat × Nat × Nat)}

/-- A WRITE that comes next on its queue pair, through a key that admits it, reaches memory, is acknowledged, and moves the expected
packet number on. -/
theorem rdmaRequest_write_in_order (hready : ready s = true) (hicrc : r.icrcOk = true) (hqp : findQp s.host r.qpn = some q)
    (hport : q.port = port) (hlive : q.failed = false) (hsubset : r.inSubset = true) (hce : r.ce = false) (hpsn : r.psn = q.recvPsn)
    (hsession : findSession s.sessions q.sid = some x) (hkey : keyPieces s x r true = .ok ps) :
    rdmaRequest port r true s = roceOut port [.rdmaAck port q.qpn r.psn 0]
      { wakeUp (some 2) s with
        memory := writePieces s.memory ps r.data
        host := modQp s.host q.qpn (fun q => { q with recvPsn := (r.psn + 1) % 2 ^ 24 }) } := by
  simp only [rdmaRequest, hready, hicrc, hqp, hport, hlive, hsubset, hce, hpsn, hsession, hkey, maybeCnp_unmarked, psn_distance_self,
    wakeUp_memory, wakeUp_host, bne_self_eq_false, beq_self_eq_true, Nat.lt_irrefl, decide_false, Bool.false_and, Bool.or_self,
    Bool.not_true, Bool.false_eq_true, if_false, if_true]

/-- A READ that comes next on its queue pair, through a key that admits it and from readable memory, is answered with the bytes, and moves
the expected packet number past its reply. -/
theorem rdmaRequest_read_in_order {data : List Byte} (hready : ready s = true) (hicrc : r.icrcOk = true)
    (hqp : findQp s.host r.qpn = some q) (hport : q.port = port) (hlive : q.failed = false) (hsubset : r.inSubset = true)
    (hce : r.ce = false) (hpsn : r.psn = q.recvPsn) (hsession : findSession s.sessions q.sid = some x)
    (hkey : keyPieces s x r false = .ok ps) (hread : readPieces s.memory ps = .ok data) :
    rdmaRequest port r false s = roceOut port (readReply port q r.psn data) (countDegraded
      { wakeUp (some 2) s with host := modQp s.host q.qpn (fun p =>
        { p with recvPsn := (r.psn + max 1 (ceilDiv r.length (pmtuBytes q.pmtu))) % 2 ^ 24 }) } ps) := by
  simp only [rdmaRequest, hready, hicrc, hqp, hport, hlive, hsubset, hce, hpsn, hsession, hkey, hread, maybeCnp_unmarked,
    psn_distance_self, wakeUp_memory, wakeUp_host, bne_self_eq_false, beq_self_eq_true, Nat.lt_irrefl, decide_false, Bool.false_and,
    Bool.or_self, Bool.not_true, Bool.false_eq_true, if_false, if_true]

end

/-- Settles O26: a request that passes every check before its key takes the last branch of its direction. -/
theorem rdmaRequestsComplete : Obligations.RdmaRequestsComplete := by
  unfold Obligations.RdmaRequestsComplete
  refine ⟨?write, ?read⟩
  case write =>
    intro s port r q x ps hready hicrc hqp hport hlive hsubset hce hpsn _ hsession hkey
    exact congrArg Host.Outcome.next
      (rdmaRequest_write_in_order hready hicrc hqp hport hlive hsubset hce hpsn hsession hkey)
  case read =>
    intro s port r q x ps data hready hicrc hqp hport hlive hsubset hce hpsn _ hsession hkey hread
    exact congrArg Host.Outcome.next
      (rdmaRequest_read_in_order hready hicrc hqp hport hlive hsubset hce hpsn hsession hkey hread)

/-! A host port's record. -/

theorem modHostPort_of_some {h : HostIo} {n : Nat} {p : HostPort} (hp : h.ports[n]? = some p) (f : HostPort → HostPort) :
    modHostPort h n f = { h with ports := h.ports.set n (f p) } := by
  simp only [modHostPort, hp]

theorem ports_modHostPort_same (h : HostIo) (n : Nat) (f : HostPort → HostPort) :
    (modHostPort h n f).ports[n]? = (h.ports[n]?).map f := by
  cases hp : h.ports[n]? with
  | none => simp only [modHostPort, hp, Option.map_none]
  | some p =>
    obtain ⟨hlt, -⟩ := List.getElem?_eq_some_iff.1 hp
    simp only [modHostPort, hp, Option.map_some, List.getElem?_set_self hlt]

theorem ports_modHostPort_of_some {h : HostIo} {n : Nat} {p : HostPort} (hp : h.ports[n]? = some p) (f : HostPort → HostPort) :
    (modHostPort h n f).ports[n]? = some (f p) := by
  rw [ports_modHostPort_same, hp, Option.map_some]

/-- Two changes of a port's record are one. -/
theorem modHostPort_modHostPort (h : HostIo) (n : Nat) (f g : HostPort → HostPort) :
    modHostPort (modHostPort h n f) n g = modHostPort h n (g ∘ f) := by
  cases hp : h.ports[n]? with
  | none => simp only [modHostPort, hp]
  | some p =>
    rw [modHostPort_of_some (ports_modHostPort_of_some hp f), modHostPort_of_some hp, modHostPort_of_some hp, List.set_set,
      Function.comp_apply]

/-! RoCE packets leave a port, or wait (Table 11.10, log entry 91). -/

theorem roceOut_out (port : Nat) (es : List Emission) (s : State) : (roceOut port es s).out =
    if (s.host.ports[port]?.map (·.paused)).getD [] = [] then s.out ++ es else s.out := by
  cases hp : s.host.ports[port]? with
  | none => simp [roceOut, hp]
  | some p => by_cases hpaused : p.paused = [] <;> simp [roceOut, hp, hpaused]

/-- Going back sends what is in flight again, unless the queue pair's port is paused. -/
theorem resendQp_out (q : Qp) (s : State) : (resendQp q s).out =
    if (s.host.ports[q.port]?.map (·.paused)).getD [] = [] then
      s.out ++ q.inFlight.map (fun p => .rdmaWrite q.port q.qpn p.1 p.2.1 p.2.2.1 p.2.2.2) else s.out := by
  rw [resendQp, roceOut_out, ports_modHostPort_same, Option.map_map]
  rfl

/-! The requester (R306, R308). -/

section
variable {s : State} {qpn : Nat} {q : Qp}

/-- With resends left, the Local ACK Timeout goes back and counts one. -/
theorem ackTimeout_resends (hqp : findQp s.host qpn = some q) (hflight : q.inFlight ≠ []) (hlive : q.failed = false)
    (hleft : q.retries < q.retry) :
    ackTimeout qpn s = resendQp q { s with host := modQp s.host qpn (fun q => { q with retries := q.retries + 1 }) } := by
  simp only [ackTimeout, hqp, List.isEmpty_eq_false_iff.2 hflight, hlive, hleft.not_ge, Bool.or_self, Bool.false_eq_true, if_false]

/-- An acknowledgement drops every packet up to its number. -/
theorem roceAckSt_of_ack {psn syn : Nat} (hqp : findQp s.host qpn = some q) (hack : syn < 0x20) :
    roceAckSt qpn psn syn s = { s with host := modQp s.host qpn (fun q =>
      { q with inFlight := q.inFlight.filter (fun p => !decide ((psn + 2 ^ 24 - p.1) % 2 ^ 24 < 2 ^ 23)), retries := 0 }) } := by
  simp only [roceAckSt, hqp, hack, if_true]

/-- A CNP halves the rate of its queue pair and is counted on its port. -/
theorem cnpSt_of_found (hqp : findQp s.host qpn = some q) :
    cnpSt qpn s = (let h := modQp s.host qpn (fun q => { q with rate := max 1000 (q.rate / 2) })
      { s with host := modHostPort h q.port (fun p => { p with cnpsReceived := tick64 p.cnpsReceived }) }) := by
  simp only [cnpSt, hqp]

end

/-- Settles O27: each event past its checks changes the queue pair as its rule says; what goes back leaves unless the port is paused, by
a pause of any priority (log entry 91). -/
theorem roceRequesterComplete : Obligations.RoceRequesterComplete := by
  unfold Obligations.RoceRequesterComplete
  refine ⟨?timeout, ?goBack, ?paused, ?acknowledge, ?congestion, ?rateUp⟩
  case timeout =>
    intro s qpn q hqp hflight hlive hleft
    exact congrArg Host.Outcome.next (ackTimeout_resends hqp hflight hlive hleft)
  case goBack =>
    intro s q hopen
    rw [resendQp_out, if_pos hopen]
  case paused =>
    intro s q p hport hpaused
    rw [resendQp_out, hport, Option.map_some, Option.getD_some, if_neg hpaused]
  case acknowledge =>
    intro s qpn psn syn q hqp hack
    exact congrArg Host.Outcome.next (roceAckSt_of_ack hqp hack)
  case congestion =>
    intro s qpn q hqp
    exact congrArg Host.Outcome.next (cnpSt_of_found hqp)
  case rateUp => exact fun _ _ => rfl

/-! Addresses and other frames (R305, R309). -/

section
variable {s : State} {port ip : Nat}

theorem arpSt_of_address (senderIp senderMac : Nat) (hready : ready s = true) (hup : portUp s port = true)
    (hv4 : bitAt (portCfg s port) 3 = true) (hip : ip = bits (portCfg s port) 64 32) :
    arpSt port ip senderIp senderMac s = emit [.arpReply port ip (portMac s port) senderIp senderMac] s := by
  simp only [arpSt, hready, hup, hv4, hip, beq_self_eq_true, Bool.and_self, if_true]

/-- An ARP request for another address is a frame that the port does not accept. -/
theorem arpSt_of_other (senderIp senderMac : Nat) (hready : ready s = true) (hup : portUp s port = true)
    (hip : ip ≠ bits (portCfg s port) 64 32) : arpSt port ip senderIp senderMac s = otherFrame port s := by
  simp only [arpSt, hready, hup, beq_false_of_ne hip, Bool.and_false, Bool.and_self, Bool.false_eq_true, if_false, if_true]

theorem neighbourSt_of_address (senderIp senderMac : Nat) (hready : ready s = true) (hup : portUp s port = true)
    (hip : (portAddrs s port).contains ip = true) :
    neighbourSt port ip senderIp senderMac s = emit [.arpReply port ip (portMac s port) senderIp senderMac] s := by
  simp only [neighbourSt, hready, hup, hip, Bool.and_self, if_true]

theorem echoSt_of_address (srcIp ident seqNo : Nat) (data : List Byte) (hready : ready s = true) (hup : portUp s port = true)
    (hip : (portAddrs s port).contains ip = true) :
    echoSt port srcIp ip ident seqNo data s = emit [.echoReply port ip srcIp ident seqNo data] s := by
  simp only [echoSt, hready, hup, hip, Bool.and_self, if_true]

end

/-! Priority flow control (Table 11.10, log entry 91). -/

/-- What a filter keeps of a table entry just set is still what its key reads as. -/
theorem spGet?_filter_spSet {α : Type} {f : Nat × α → Bool} {k : Nat} {v : α} (hkeep : f (k, v) = true) (l : Sp α) :
    spGet? k ((spSet k v l).filter f) = some v := by
  induction l with
  | nil => simp [spSet, spGet?, hkeep]
  | cons p r ih =>
    obtain ⟨j, w⟩ := p
    rw [spSet]
    split
    next hlt => simp [spGet?, hkeep]
    next hge =>
      split
      next heq => simp [spGet?, hkeep]
      next hne =>
        have hjk : ¬ j = k := fun h => hne (by simp [h])
        by_cases hw : f (j, w) = true
        · simp [hw, spGet?, hjk, ih]
        · simp [hw, ih]

/-- A nonzero quanta lasts for some time. -/
theorem pauseTime_pos {quanta : Nat} (h : 1 ≤ quanta) : 0 < pauseTime quanta := by
  rw [pauseTime]
  omega

section
variable {s : State} {now n : Nat} {p : HostPort}

/-- A port with a pause still running stays paused. -/
theorem resumePort_of_running (hp : s.host.ports[n]? = some p) (hrunning : p.paused.filter (fun v => decide (now < v.2)) ≠ []) :
    resumePort now n s = { s with host := modHostPort s.host n (fun q =>
      { q with paused := p.paused.filter (fun v => decide (now < v.2)) }) } := by
  simp only [resumePort, hp, List.isEmpty_eq_false_iff.2 hrunning, Bool.not_false, Bool.or_true, if_true]

/-- A paused port whose pauses have all ended sends what has waited. -/
theorem resumePort_of_ended (hp : s.host.ports[n]? = some p) (hpaused : p.paused ≠ [])
    (hended : p.paused.filter (fun v => decide (now < v.2)) = []) :
    resumePort now n s = emit p.held { s with host := modHostPort s.host n (fun p => { p with paused := [], held := [] }) } := by
  simp only [resumePort, hp, hended, List.isEmpty_eq_false_iff.2 hpaused, List.isEmpty_nil, Bool.not_true, Bool.or_self,
    Bool.false_eq_true, if_false]

end

section
variable {s : State} {port priority quanta : Nat} {h : HostPort}

/-- The pauses of a port after one of a nonzero quanta: those that still run. -/
def pausesAfter (s : State) (priority quanta : Nat) (h : HostPort) : Sp Nat :=
  (spSet priority (s.time.now + pauseTime quanta) h.paused).filter (fun v => decide (s.time.now < v.2))

theorem spGet?_pausesAfter (hquanta : 1 ≤ quanta) :
    spGet? priority (pausesAfter s priority quanta h) = some (s.time.now + pauseTime quanta) :=
  spGet?_filter_spSet (decide_eq_true (Nat.lt_add_of_pos_right (pauseTime_pos hquanta))) h.paused

/-- A nonzero quanta changes the port's pauses alone. -/
theorem pfcSt_of_pause (hp : s.host.ports[port]? = some h) (hquanta : 1 ≤ quanta) :
    pfcSt port priority quanta s =
      { s with host := modHostPort s.host port (fun p => { p with paused := pausesAfter s priority quanta h }) } := by
  have hrunning : pausesAfter s priority quanta h ≠ [] := fun hnil => by
    have hget := spGet?_pausesAfter (s := s) (priority := priority) (h := h) hquanta
    rw [hnil] at hget
    cases hget
  simp only [pfcSt, beq_false_of_ne (Nat.ne_of_gt hquanta), Bool.false_eq_true, if_false]
  rw [resumePort_of_running (ports_modHostPort_of_some hp _), modHostPort_modHostPort]
  · rfl
  · exact hrunning

/-- Quanta 0 of the only paused priority ends the pause, and what has waited leaves. -/
theorem pfcSt_of_resume {t : Nat} (hp : s.host.ports[port]? = some h) (honly : h.paused = [(priority, t)]) :
    pfcSt port priority 0 s =
      emit h.held { s with host := modHostPort s.host port (fun p => { p with paused := [], held := [] }) } := by
  have hset : spSet priority s.time.now h.paused = [(priority, s.time.now)] := by simp [honly, spSet]
  simp only [pfcSt, beq_self_eq_true, if_true]
  rw [resumePort_of_ended (ports_modHostPort_of_some hp _) (by simp [hset]) (by simp [hset]), modHostPort_modHostPort]
  rfl

end

/-- Settles O28: each frame for one of the port's addresses is answered; a pause changes the port's pauses alone, and the end of the last
one, of any priority, lets out what has waited (log entry 91). -/
theorem hostPortFramesComplete : Obligations.HostPortFramesComplete := by
  unfold Obligations.HostPortFramesComplete
  refine ⟨?arp, ?arpOther, ?neighbour, ?echo, ?other, ?pause, ?resume, ?failure⟩
  case arp =>
    intro s port ip senderIp senderMac hready hup hv4 hip
    exact congrArg Host.Outcome.next (arpSt_of_address senderIp senderMac hready hup hv4 hip)
  case arpOther =>
    intro s port ip senderIp senderMac hready hup hip
    exact congrArg Host.Outcome.next (arpSt_of_other senderIp senderMac hready hup hip)
  case neighbour =>
    intro s port ip senderIp senderMac hready hup hip
    exact congrArg Host.Outcome.next (neighbourSt_of_address senderIp senderMac hready hup hip)
  case echo =>
    intro s port srcIp dstIp ident seqNo data hready hup hip
    exact congrArg Host.Outcome.next (echoSt_of_address srcIp ident seqNo data hready hup hip)
  case other => exact fun _ _ => rfl
  case pause =>
    intro s port priority quanta h hp hquanta
    exact ⟨_, congrArg Host.Outcome.next (pfcSt_of_pause hp hquanta), rfl, rfl, rfl, _, ports_modHostPort_of_some hp _,
      spGet?_pausesAfter hquanta, rfl⟩
  case resume =>
    intro s port priority h t hp honly
    exact congrArg Host.Outcome.next (pfcSt_of_resume hp honly)
  case failure => exact fun _ _ => rfl

end Sys2Proof.Proofs
end

section
/-! PROOFS. Links: what a port in service does with the frames and `LINK` frames that it receives, and with its timers (R282 to R286,
R291, R357, R358, R467, R468). -/

namespace Sys2Proof.Proofs
open Sys2Proof.Machine Sys2Proof.Safety Sys2Proof.Laws

/-! Numbered frames (R284, R285). -/

/-- A good frame of the domain's EtherType, no `LINK` frame, is judged by how far behind the expected number it comes. -/
theorem receiveFrame_of_good {s : State} {port : Nat} {f : Frame} {p : Port} (hport : getPort s.fabric port = some p)
    (hup : linkUp s port = true) (hgood : f.good = true) (hetype : f.etype = gftEtype s.fabric) (hnotPtp : f.etype ≠ 0x88F7)
    (hnumbered : f.ftype ≠ 0) :
    receiveFrame port f s =
      if (p.rxSeq + 4096 - f.lseq) % 4096 = 0 then afterReceipt port (switchFrame port f (onPort port (fun p =>
        { applyLink f p with rxSeq := (p.rxSeq + 1) % 4096, rxAny := true, retrySent := false, lackDue := true }) s))
      else if p.rxAny = true ∧ (p.rxSeq + 4096 - f.lseq) % 4096 ≤ 2047 then
        onFabric (returnDue 256) (oweFor port f (onPort port (applyAck f) s))
      else badFrame port false f s := by
  have hnotPtp' : (gftEtype s.fabric == 0x88F7) = false := beq_false_of_ne (hetype ▸ hnotPtp)
  simp only [receiveFrame, hport, hup, hgood, hetype, hnotPtp', beq_false_of_ne hnumbered, beq_iff_eq, Bool.and_eq_true, decide_eq_true_eq,
    bne_self_eq_false, Bool.not_true, Bool.true_and, Bool.false_and, Bool.false_eq_true, if_false]

/-- The expected number is at no distance from itself, modulo 4,096. -/
theorem lseq_distance_self {n : Nat} : (n + 4096 - n) % 4096 = 0 := by
  rw [Nat.add_sub_cancel_left, Nat.mod_self]

/-- A whole `LINK` frame whose `LOP` is not defined, or 0, gives its header's reports alone. -/
theorem linkFrame_of_reports {s : State} {port : Nat} {f : Frame} (hup : linkUp s port = true) (htype : f.ftype = 0)
    (hwhole : f.lenOk = true) (hempty : f.payload = []) (hversion : newerFrame f = false)
    (hlop : tsp f 128 8 = 0 ∨ 6 < tsp f 128 8) :
    linkFrame port f s = afterReceipt port (onPort port (applyLink f) s) := by
  simp only [linkFrame, hup, htype, hwhole, hempty, hversion, List.isEmpty_nil, bne_self_eq_false, Bool.not_true, Bool.or_self,
    Bool.false_eq_true, if_false]
  split
  case h_7 => rfl
  all_goals omega

/-! Resends (R284, R286). -/

section
variable {s : State} {port : Nat} {p : Port}

/-- A resend from a number that the port holds, with resends left, goes back to it and counts one. -/
theorem resendFrom_of_held {q : Nat} (hport : getPort s.fabric port = some p)
    (hheld : p.replay.any (fun x => x.f.lseq == q) = true) (hleft : p.resends < 8) :
    resendFrom port (some q) s = afterReceipt port (onPort port (fun p => { goBack q p with resends := p.resends + 1 }) s) := by
  cases hreplay : p.replay with
  | nil => simp [hreplay] at hheld
  | cons h r =>
    rw [hreplay] at hheld
    simp only [resendFrom, hport, hreplay, hleft.not_ge, Option.getD_some, hheld, if_false, if_true]

/-- A resend with no number asked for starts from the oldest frame that the port holds. -/
theorem resendFrom_none {h : Held} {r : List Held} (hport : getPort s.fabric port = some p) (hreplay : p.replay = h :: r) :
    resendFrom port none s = resendFrom port (some h.f.lseq) s := by
  simp only [resendFrom, hport, hreplay, Option.getD_none, Option.getD_some]

theorem retryRequestSt_of_held {f : Frame} (hlink : linkFor s port f 1 = true)
    (hport : getPort (onPort port (applyLink f) s).fabric port = some p)
    (hheld : p.replay.any (fun x => x.f.lseq == tsp f 136 12) = true) (hleft : p.resends < 8) :
    retryRequestSt port f s = afterReceipt port
      (onPort port (fun p => { goBack (tsp f 136 12) p with resends := p.resends + 1 }) (onPort port (applyLink f) s)) := by
  simp only [retryRequestSt, hlink, Bool.not_true, Bool.false_eq_true, if_false]
  exact resendFrom_of_held hport hheld hleft

theorem replayTimeoutSt_of_held {h : Held} {r : List Held} (hup : linkUp s port = true) (hport : getPort s.fabric port = some p)
    (hreplay : p.replay = h :: r) (hleft : p.resends < 8) :
    replayTimeoutSt port s =
      afterReceipt port (onPort port (fun p => { goBack h.f.lseq p with resends := p.resends + 1 }) s) := by
  have hheld : p.replay.any (fun x => x.f.lseq == h.f.lseq) = true := by simp [hreplay]
  simp only [replayTimeoutSt, hup, if_true, resendFrom_none hport hreplay, resendFrom_of_held hport hheld hleft]

/-! Timers of a port in service (R284, R289, R357, R358, R468). -/

theorem lackReportSt_of_due (hup : linkUp s port = true) (hport : getPort s.fabric port = some p) (hdue : p.lackDue = true) :
    lackReportSt port s = sendLink port 0 [] s := by
  simp only [lackReportSt, hup, hport, Option.map_some, Option.getD_some, hdue, Bool.and_self, if_true]

theorem creditTimerSt_of_due (hup : linkUp s port = true) (hport : getPort s.fabric port = some p)
    (hdue : (creditDue p).isSome = true) : creditTimerSt port s = sendLink port 0 [] s := by
  simp only [creditTimerSt, hup, hport, Option.bind_some, hdue, Bool.and_self, if_true]

theorem slotTimerSt_of_transition (hup : linkUp s port = true) (hport : getPort s.fabric port = some p)
    (hmoves : transitioning s.fabric p = true) : slotTimerSt port s = onFabric (fun fab => reportSlots fab port) s := by
  simp only [slotTimerSt, hup, hport, Option.map_some, Option.getD_some, hmoves, Bool.and_self, if_true]

theorem releaseTimerSt_of_releasing {g : Nat} (hup : linkUp s port = true) (hport : getPort s.fabric port = some p)
    (hreleasing : p.releasing = some g) : releaseTimerSt port s = sendLink port 4 [(136, 16, g)] s := by
  simp only [releaseTimerSt, hup, hport, Option.bind_some, hreleasing, if_true]

theorem burstSt_of_quiet (hup : linkUp s port = true) (hport : getPort s.fabric port = some p) (hquiet : p.quiet = true) :
    burstSt port s = pumpSt port
      (onPort port (fun p => { p with quiet := false, wantQuiet := false, width := fullWidth p, wantWidth := fullWidth p }) s) := by
  simp only [burstSt, hup, hport, Option.map_some, Option.getD_some, hquiet, Bool.and_self, if_true]

/-! Slots, width and quiet (R357, R358, R467, R468). -/

variable {f : Frame}

theorem slotReportSt_of_link (hlink : linkFor s port f 3 = true) :
    slotReportSt port f s = afterReceipt port (onPort port (fun p => takeReport f (applyLink f p)) s) := by
  simp only [slotReportSt, hlink, Bool.not_true, Bool.false_eq_true, if_false]

theorem releaseFrameSt_of_link (hlink : linkFor s port f 4 = true) :
    releaseFrameSt port f s = afterReceipt port (onFabric (fun fab => reportSlots fab port)
      (onPort port (fun p => emptySlot s.fabric.newest (tsp f 136 16) (applyLink f p)) s)) := by
  simp only [releaseFrameSt, hlink, Bool.not_true, Bool.false_eq_true, if_false]

/-- A width that the port's lanes can carry is set, and returned unless it answers this end's own request. -/
theorem widthSt_of_possible (hlink : linkFor s port f 5 = true)
    (hport : getPort (onPort port (applyLink f) s).fabric port = some p) (hwidth : tsp f 136 4 = 1 ∨ tsp f 136 4 = 4 ∨ tsp f 136 4 = 8)
    (hcarries : tsp f 136 4 ≤ fullWidth p) :
    widthSt port f s =
      (let w := tsp f 136 4
      let s2 := onPort port (fun p => { p with width := w, wantWidth := w }) (onPort port (applyLink f) s)
      afterReceipt port (if p.wantWidth = w ∧ p.width ≠ w then s2 else sendLink port 5 [(136, 4, w)] s2)) := by
  have hwidth' : [1, 4, 8].contains (tsp f 136 4) = true := by simpa using hwidth
  simp only [widthSt, hlink, hport, hwidth', hcarries.not_gt, decide_false, Bool.not_true, Bool.or_self, Bool.and_eq_true, beq_iff_eq,
    bne_iff_ne, Bool.false_eq_true, if_false]

/-- The answer to this end's request lets the port go quiet. -/
theorem quietSt_of_answer (hlink : linkFor s port f 6 = true) (hport : getPort (onPort port (applyLink f) s).fabric port = some p)
    (hasked : p.wantQuiet = true) :
    quietSt port f s = onPort port (fun p => { p with quiet := true, wantQuiet := false }) (onPort port (applyLink f) s) := by
  simp only [quietSt, hlink, hport, hasked, Bool.not_true, Bool.false_eq_true, if_false, if_true]

/-- The neighbour's request is answered where this end carries no fabric time and has nothing to send (log entry 44). -/
theorem quietSt_of_request (hlink : linkFor s port f 6 = true) (hport : getPort (onPort port (applyLink f) s).fabric port = some p)
    (hunasked : p.wantQuiet = false) (htime : peTime (portEntry s.fabric port) = 0) (hqueue : p.queue = []) (hagain : p.again = []) :
    quietSt port f s =
      onPort port (fun p => { p with quiet := true, wantQuiet := false }) (sendLink port 6 [] (onPort port (applyLink f) s)) := by
  simp only [quietSt, hlink, hport, hunasked, htime, hqueue, hagain, List.isEmpty_nil, bne_self_eq_false, Bool.not_true, Bool.or_self,
    Bool.false_eq_true, if_false]

end

/-- Settles O46: a numbered frame acts by its distance from the expected number, a `LINK` frame by its `LOP`, and a timer by what is due.
That a neighbour's quiet request is granted only with nothing queued is the choice of log entry 44. -/
theorem linkCommandsComplete : Obligations.LinkCommandsComplete := by
  unfold Obligations.LinkCommandsComplete
  refine ⟨?frame, ?reports, ?retry, ?replay, ?timers, ?slots, ?release, ?width, ?widthTimeout, ?quiet⟩
  case frame =>
    intro s port f p hport hup hgood hetype hnotPtp hnumbered
    have hjudged : exec (.frameForward port f) s = .next _ :=
      congrArg Host.Outcome.next (receiveFrame_of_good hport hup hgood hetype hnotPtp hnumbered)
    refine ⟨fun hnext _ => ?_, fun hbehind hrecent hany => ?_, fun hahead => ?_⟩
    · rw [hjudged, if_pos (by rw [hnext]; exact lseq_distance_self)]
    · rw [hjudged, if_neg hbehind.ne', if_pos ⟨hany, hrecent⟩]
    · rw [hjudged, if_neg (Nat.ne_of_gt (Nat.zero_lt_of_lt hahead)), if_neg fun h => hahead.not_ge h.2]
  case reports =>
    intro s port f hup htype hwhole hempty hversion hlop
    exact congrArg Host.Outcome.next (linkFrame_of_reports hup htype hwhole hempty hversion hlop)
  case retry =>
    intro s port f p hlink s1 hport hheld hleft
    exact congrArg Host.Outcome.next (retryRequestSt_of_held hlink hport hheld hleft)
  case replay =>
    intro s port p h r hup hport hreplay hleft
    exact congrArg Host.Outcome.next (replayTimeoutSt_of_held hup hport hreplay hleft)
  case timers =>
    intro s port p hup hport
    exact ⟨fun hdue => congrArg Host.Outcome.next (lackReportSt_of_due hup hport hdue),
      fun hdue => congrArg Host.Outcome.next (creditTimerSt_of_due hup hport hdue),
      fun hmoves => congrArg Host.Outcome.next (slotTimerSt_of_transition hup hport hmoves),
      fun g hreleasing => congrArg Host.Outcome.next (releaseTimerSt_of_releasing hup hport hreleasing),
      fun hquiet => congrArg Host.Outcome.next (burstSt_of_quiet hup hport hquiet)⟩
  case slots =>
    intro s port f hlink
    exact congrArg Host.Outcome.next (slotReportSt_of_link hlink)
  case release =>
    intro s port f hlink
    exact congrArg Host.Outcome.next (releaseFrameSt_of_link hlink)
  case width =>
    intro s port f p hlink s1 w hport hwidth hcarries s2
    exact congrArg Host.Outcome.next (widthSt_of_possible hlink hport hwidth hcarries)
  case widthTimeout => exact fun _ _ => rfl
  case quiet =>
    intro s port f p hlink s1 hport
    exact ⟨fun hasked => congrArg Host.Outcome.next (quietSt_of_answer hlink hport hasked),
      fun hunasked htime hqueue hagain =>
        congrArg Host.Outcome.next (quietSt_of_request hlink hport hunasked htime hqueue hagain)⟩

end Sys2Proof.Proofs
end

section
/-! PROOFS. Training, lanes and fabric time: how an attempt at training ends, how L8 takes a lane's place, and what the messages of
fabric time do (R275, R276, R282, R300, R301). -/

namespace Sys2Proof.Proofs
open Sys2Proof.Machine Sys2Proof.Safety Sys2Proof.Laws

/-! Training (R275). -/

section
variable {s : State} {port : Nat} {p : Port} {t : Training}

/-- Training that finds no reason against it brings the port up afresh, its slots reported. -/
theorem trainPort_of_success (huse : inUse s.fabric port = true) (hport : getPort s.fabric port = some p) (hdue : p.training = true)
    (hreason : trainReason s port t = 0) :
    trainPort port t s = linkEvent port 5 (pumpSt port (onFabric (fun f => reportSlots f port) (onPort port
      (fun p => { freshPort s.fabric.newest (mapLanes s port) t.peerCells p with subst := mapSubst s port })
      { routesReturn port s with fabric := dropCells port (routesReturn port s).fabric }))) := by
  simp only [trainPort, huse, hport, Option.map_some, Option.getD_some, hdue, hreason, bne_self_eq_false, Bool.not_true, Bool.or_self,
    Bool.false_eq_true, if_false]

/-- Training that fails holds the port down and enters its reason. -/
theorem trainPort_of_failure (huse : inUse s.fabric port = true) (hport : getPort s.fabric port = some p) (hdue : p.training = true)
    (hreason : trainReason s port t ≠ 0) :
    trainPort port t s =
      linkEvent port (trainReason s port t) (onPort port (fun p => { p with up := false, training := false }) s) := by
  simp only [trainPort, huse, hport, Option.map_some, Option.getD_some, hdue, bne_iff_ne, hreason, ne_eq, not_false_eq_true,
    Bool.not_true, Bool.or_self, Bool.false_eq_true, if_false, if_true]

theorem retryTraining_of_down (huse : inUse s.fabric port = true) (hstage : 0 < s.boot.stage)
    (hport : getPort s.fabric port = some p) (hdown : p.up = false) :
    retryTraining port s = onPort port (fun p => { p with training := true }) s := by
  simp only [retryTraining, huse, hstage, hport, Option.map_some, Option.getD_some, hdown, decide_true, Bool.not_false, Bool.and_self,
    if_true]

/-! Lanes (R276). -/

/-- A lane below L8 that fails while L8 is good and free gives its place to L8, and the neighbour is told. The figure in the entry is a
free value (log entry 7). -/
theorem laneFails_of_spare {lane : Nat} (hport : getPort s.fabric port = some p) (hup : linkUp s port = true)
    (hlane : bitAt p.lanes lane = true) (hdata : lane < 8) (hfree : p.subst = none) (hspare : bitAt p.lanes 8 = true) :
    laneFails port lane s = (
      let n := takeFree (countFault s)
      afterCount (sendLink port 2 [(148, 4, lane)] (substLane port lane (addFault 1 11 port lane (partIn s (partKey 11 port lane)).1
        (pack [(0, 16, 8), (32, 32, Config.free n.1)]) 8 n.2)))) := by
  simp only [laneFails, hport, hup, hlane, hdata, hfree, hspare, Option.isNone_none, decide_true, Bool.not_true, Bool.or_self,
    Bool.and_self, Bool.false_eq_true, if_false, if_true]

/-- A lane that the neighbour has moved to L8 is moved here too. -/
theorem laneSubstSt_of_spare {f : Frame} (hlink : linkFor s port f 2 = true)
    (hport : getPort (onPort port (applyLink f) s).fabric port = some p) (hdata : tsp f 148 4 < 8) (hfree : p.subst = none)
    (hlane : bitAt p.lanes (tsp f 148 4) = true) (hspare : bitAt p.lanes 8 = true) :
    laneSubstSt port f s = afterReceipt port (substLane port (tsp f 148 4) (onPort port (applyLink f) s)) := by
  simp only [laneSubstSt, hlink, hport, hdata, hfree, hlane, hspare, Option.isNone_none, decide_true, Bool.not_true, Bool.and_self,
    Bool.false_eq_true, if_false, if_true]

end

/-! Fabric time (R300, R301). -/

section
variable {s : State} {port : Nat} {m : PtpMsg}

/-! A message of domain 0, on a port that serves and carries fabric time, acts by its kind. A module that is no grandmaster follows what
comes on a port toward a parent. -/

section
variable (hup : linkUp s port = true) (htime : peTime (portEntry s.fabric port) ≠ 0) (hdomain : m.domain = 0)
include hup htime hdomain

theorem ptpSt_pdelayReq (hkind : m.kind = .pdelayReq) : ptpSt port m s =
    emit [ptpOut s.fabric port 3 m.seq m.rxTime, ptpOut s.fabric port 4 m.seq s.time.now] s := by
  simp only [ptpSt, hup, beq_false_of_ne htime, hdomain, hkind, bne_self_eq_false, Bool.not_true, Bool.false_eq_true, if_false]

theorem ptpSt_pdelayResp (hkind : m.kind = .pdelayResp) : ptpSt port m s = respSt port m s := by
  simp only [ptpSt, hup, beq_false_of_ne htime, hdomain, hkind, bne_self_eq_false, Bool.not_true, Bool.false_eq_true, if_false]

theorem ptpSt_pdelayRespFollowUp (hkind : m.kind = .pdelayRespFollowUp) : ptpSt port m s = respFollowSt port m s := by
  simp only [ptpSt, hup, beq_false_of_ne htime, hdomain, hkind, bne_self_eq_false, Bool.not_true, Bool.false_eq_true, if_false]

theorem ptpSt_sync (hkind : m.kind = .sync) (hparent : peTime (portEntry s.fabric port) ≠ 3) (hfollower : s.time.master = false) :
    ptpSt port m s = syncSt port m s := by
  simp only [ptpSt, hup, beq_false_of_ne htime, hdomain, hkind, beq_false_of_ne hparent, hfollower, bne_self_eq_false, Bool.not_true,
    Bool.or_self, Bool.false_eq_true, if_false]

theorem ptpSt_followUp (hkind : m.kind = .followUp) (hparent : peTime (portEntry s.fabric port) ≠ 3)
    (hfollower : s.time.master = false) : ptpSt port m s = followUpSt port m s := by
  simp only [ptpSt, hup, beq_false_of_ne htime, hdomain, hkind, beq_false_of_ne hparent, hfollower, bne_self_eq_false, Bool.not_true,
    Bool.or_self, Bool.false_eq_true, if_false]

end

/-- The response to the request under way gives the time at which the neighbour had it, and that at which its response came. -/
theorem respSt_of_pending {t1 a b : Nat} (hpending : spGet? port s.time.pd = some (m.seq, t1, a, b)) :
    respSt port m s =
      { s with time := { s.time with pd := spSet port (m.seq, t1, m.carried, stamp16 m.rxTime) s.time.pd } } := by
  simp only [respSt, hpending, beq_self_eq_true, if_true]

/-- The follow-up of a response gives the delay of the link. -/
theorem respFollowSt_of_pending {t1 t2 t4 : Nat} (hpending : spGet? port s.time.pd = some (m.seq, t1, t2, t4)) (hanswered : t4 ≠ 0) :
    respFollowSt port m s = (
      let d : Int := (((t4 : Int) - t1) - ((m.carried : Int) - t2) - m.correction) / 2
      { s with time := { s.time with pd := spDel port s.time.pd, pdelay := spSet port d s.time.pdelay } }) := by
  simp only [respFollowSt, hpending, beq_false_of_ne hanswered, bne_self_eq_false, Bool.or_self, Bool.false_eq_true, if_false]

/-- A parent that has missed fewer than n Syncs is not silent, so not every parent is. -/
theorem parentsSilent_of_heard {k n : Nat} (hmissed : missedFrom s 1 = some k) (hfew : k < n) : parentsSilent s n = false := by
  have hrange : List.range 2 = [0, 1] := rfl
  simp [parentsSilent, hrange, hmissed, hfew.not_ge]

/-- The state after a Sync interval without a Sync on a parent port: one missed. -/
def syncMissed (port : Nat) (s : State) : State :=
  { s with time := { s.time with
    syncMiss := spSet port (spGet 0 port s.time.syncMiss + 1) s.time.syncMiss
    syncRun := spSet port 0 s.time.syncRun
    good := if peTime (portEntry s.fabric port) = parentTime s then 0 else s.time.good } }

/-- While the first parent has missed fewer than 16 Syncs, a missed one is counted and nothing more. -/
theorem syncTimeoutSt_of_heard (huse : inUse s.fabric port = true) (htime : peTime (portEntry s.fabric port) ≠ 0)
    (hparent : peTime (portEntry s.fabric port) ≠ 3) (hfollower : s.time.master = false) {k : Nat}
    (hmissed : missedFrom (syncMissed port s) 1 = some k) (hfew : k < 16) : syncTimeoutSt port s = syncMissed port s := by
  have h16 := parentsSilent_of_heard hmissed hfew
  have h64 := parentsSilent_of_heard hmissed (hfew.trans (by decide : 16 < 64))
  have hnotLate : ¬ 64 ≤ k := by omega
  have hcounts : (!inUse s.fabric port || peTime (portEntry s.fabric port) == 0 || peTime (portEntry s.fabric port) == 3 ||
      s.time.master) = false := by
    rw [huse, beq_false_of_ne htime, beq_false_of_ne hparent, hfollower]
    rfl
  simp only [syncMissed] at hmissed h16 h64 ⊢
  simp only [syncTimeoutSt, hcounts, beq_iff_eq, hmissed, hnotLate, h16, h64, decide_false, Bool.false_and, Bool.and_false,
    Bool.false_eq_true, if_false]

end

/-- Settles O47: an attempt at training ends by its reason, a lane is replaced while L8 is good and free, and a message of fabric time acts
by its kind. The figure of an interruption is a free value (log entry 7). -/
theorem trainingLanesAndTimeComplete : Obligations.TrainingLanesAndTimeComplete := by
  unfold Obligations.TrainingLanesAndTimeComplete
  refine ⟨?training, ?retry, ?laneFailure, ?laneSubstitution, ?message, ?missedSync⟩
  case training =>
    intro s port t p huse hport hdue
    exact ⟨fun hreason => congrArg Host.Outcome.next (trainPort_of_success huse hport hdue hreason),
      fun hreason => congrArg Host.Outcome.next (trainPort_of_failure huse hport hdue hreason)⟩
  case retry =>
    intro s port p huse hstage hport hdown
    exact congrArg Host.Outcome.next (retryTraining_of_down huse hstage hport hdown)
  case laneFailure =>
    intro s port lane p hport hup hlane hdata hfree hspare
    exact congrArg Host.Outcome.next (laneFails_of_spare hport hup hlane hdata hfree hspare)
  case laneSubstitution =>
    intro s port f p hlink s1 hport hdata hfree hlane hspare
    exact congrArg Host.Outcome.next (laneSubstSt_of_spare hlink hport hdata hfree hlane hspare)
  case message =>
    intro s port m hup htime hdomain
    refine ⟨fun hkind => ?request, fun hkind t1 a b hpending => ?response, fun hkind t1 t2 t4 hpending hanswered => ?respFollowUp,
      fun hkind hparent hfollower => ?sync, fun hkind hparent hfollower => ?followUp⟩
    case request => exact congrArg Host.Outcome.next (ptpSt_pdelayReq hup htime hdomain hkind)
    case response =>
      exact congrArg Host.Outcome.next ((ptpSt_pdelayResp hup htime hdomain hkind).trans (respSt_of_pending hpending))
    case respFollowUp =>
      exact congrArg Host.Outcome.next
        ((ptpSt_pdelayRespFollowUp hup htime hdomain hkind).trans (respFollowSt_of_pending hpending hanswered))
    case sync => exact congrArg Host.Outcome.next (ptpSt_sync hup htime hdomain hkind hparent hfollower)
    case followUp => exact congrArg Host.Outcome.next (ptpSt_followUp hup htime hdomain hkind hparent hfollower)
  case missedSync =>
    intro s port huse htime hparent hfollower v s1 hheard
    obtain ⟨k, hmissed, hfew⟩ := hheard
    exact congrArg Host.Outcome.next (syncTimeoutSt_of_heard huse htime hparent hfollower hmissed hfew)

end Sys2Proof.Proofs
end

section
/-! PROOFS. What reset leaves (R302, R356, R457, R515, R519, R527). -/

namespace Sys2Proof.Proofs
open Sys2Proof.Machine Sys2Proof.Safety Sys2Proof.Laws

/-- Memory that lists nothing is canonical (log entry 1). -/
theorem memInv_reset : MemInv State.reset := rfl

/-- An unwritten byte of any tier reads as 0 (log entry 1). -/
theorem byteAt_reset (tier a : Nat) : byteAt State.reset tier a = 0 := by
  have hempty : tierMem State.reset.memory tier = [] := by
    unfold tierMem
    split
    · rfl
    · split <;> rfl
  rw [byteAt, hempty]
  rfl

/-- The factory presents the manufactured grade, with an idle time in its bounds (log entry 2). -/
theorem settingsInv_reset : SettingsInv State.reset := by
  unfold SettingsInv
  decide

/-- An entry whose fields lie below the place k of its hash gives the hash back. -/
theorem hash_of_entry {fields hash k : Nat} (h : fields < 2 ^ k) : (fields + hash * 2 ^ k) / 2 ^ k = hash := by
  rw [Nat.add_mul_div_right _ _ (Nat.two_pow_pos k), Nat.div_eq_of_lt h, Nat.zero_add]

/-- The fields of entry 0 of the factory's log, `VERSION` 1 and `SIZE` 128, fill 24 bits. -/
theorem factoryFields_lt {k : Nat} (hk : 24 ≤ k) : 0x00800001 < 2 ^ k :=
  calc 0x00800001 < 2 ^ 24 := by decide
    _ ≤ 2 ^ k := Nat.pow_le_pow_right (by decide) hk

/-- The factory's audit log is entry 0 alone, on whose hash the chain stands (log entry 2). -/
theorem auditInv_reset : AuditInv State.reset := by
  refine ⟨?nonempty, ?numbered, ?bounded, ?chained⟩
  case nonempty => exact List.cons_ne_nil _ _
  case numbered => exact le_refl 1
  case bounded => exact (by decide : 1 ≤ 524288)
  case chained =>
    simp only [State.reset, Audit.factory, List.getLast?_singleton, Option.map_some]
    rw [hash_of_entry (factoryFields_lt (by decide))]

/-- Every fabric port is held down with nothing queued. -/
theorem ports_reset {p : Port} (hp : p ∈ State.reset.fabric.ports) : p.up = false ∧ p.queue = [] := by
  obtain rfl : p = Port.reset := List.eq_of_mem_replicate hp
  exact ⟨rfl, rfl⟩

/-- Settles O59: the invariants hold of what the factory left and of empty memory, the choices of log entries 1 and 2; the rest are fields
of the reset state. -/
theorem resetState : Obligations.ResetState := by
  unfold Obligations.ResetState
  refine ⟨memInv_reset, settingsInv_reset, auditInv_reset, byteAt_reset, ?fields⟩
  exact ⟨rfl, rfl, rfl, rfl, rfl, rfl, rfl, rfl, rfl, rfl, rfl, List.length_replicate, fun _ => ports_reset, rfl, rfl, rfl, rfl, rfl,
    rfl, rfl, rfl, rfl, rfl, rfl, rfl⟩

end Sys2Proof.Proofs
end

section
/-! PROOFS. Words built from fields and numbers cut into bytes (R10, R11). -/

namespace Sys2Proof.Proofs
open Sys2Proof.Machine Sys2Proof.Safety Sys2Proof.Laws

/-! Fields of a word. -/

/-- The fields of a word stand from bit `b` upward in order, none over another. -/
def fieldsInOrder : Nat → List (Nat × Nat × Nat) → Bool
  | _, [] => true
  | b, (lo, w, _) :: r => decide (b ≤ lo) && fieldsInOrder (lo + w) r

/-- A field of a word stands at or above the bit from which its fields begin. -/
theorem fieldsInOrder_le {b : Nat} {l : List (Nat × Nat × Nat)} (h : fieldsInOrder b l = true) {lo w v : Nat} (hmem : (lo, w, v) ∈ l) :
    b ≤ lo := by
  induction l generalizing b with
  | nil => exact absurd hmem List.not_mem_nil
  | cons p r ih =>
    obtain ⟨lo₀, w₀, v₀⟩ := p
    simp only [fieldsInOrder, Bool.and_eq_true, decide_eq_true_eq] at h
    obtain ⟨hlo, hrest⟩ := h
    rcases List.mem_cons.1 hmem with heq | htail
    · obtain ⟨rfl, -⟩ : lo = lo₀ ∧ (w, v) = (w₀, v₀) := by simpa using heq
      exact hlo
    · have := ih hrest htail
      omega

/-- A word whose fields begin at bit `b` or above is a multiple of 2 ^ `b`. -/
theorem dvd_pack {b : Nat} {l : List (Nat × Nat × Nat)} (h : fieldsInOrder b l = true) : 2 ^ b ∣ pack l := by
  induction l generalizing b with
  | nil => exact dvd_zero _
  | cons p r ih =>
    obtain ⟨lo, w, v⟩ := p
    simp only [fieldsInOrder, Bool.and_eq_true, decide_eq_true_eq] at h
    obtain ⟨hlo, hrest⟩ := h
    rw [pack, Nat.shiftLeft_eq]
    exact Dvd.dvd.add (dvd_mul_of_dvd_right (pow_dvd_pow 2 hlo) _) (dvd_trans (pow_dvd_pow 2 (by omega)) (ih hrest))

/-- A field is read back from under what lies above it. -/
theorem bits_field_add {x w lo : Nat} (hx : x < 2 ^ w) {r : Nat} (hr : 2 ^ (lo + w) ∣ r) : bits ((x <<< lo) + r) lo w = x := by
  obtain ⟨q, rfl⟩ := hr
  rw [bits, Nat.shiftLeft_eq, Nat.shiftRight_eq_div_pow, pow_add, Nat.mul_assoc, Nat.add_mul_div_left _ _ (Nat.two_pow_pos lo),
    Nat.mul_div_cancel _ (Nat.two_pow_pos lo), Nat.add_mul_mod_self_left, Nat.mod_eq_of_lt hx]

/-- A field takes no part in what is read above it. -/
theorem bits_field_add_above {x w lo : Nat} (hx : x < 2 ^ w) {r : Nat} (hr : 2 ^ (lo + w) ∣ r) {lo' w' : Nat} (h : lo + w ≤ lo') :
    bits ((x <<< lo) + r) lo' w' = bits r lo' w' := by
  obtain ⟨q, rfl⟩ := hr
  obtain ⟨k, rfl⟩ := Nat.exists_eq_add_of_le h
  have hlow : x * 2 ^ lo < 2 ^ (lo + w) := by
    rw [Nat.add_comm, pow_add]
    exact (Nat.mul_lt_mul_right (Nat.two_pow_pos lo)).2 hx
  rw [bits, bits, Nat.shiftLeft_eq, Nat.shiftRight_eq_div_pow, Nat.shiftRight_eq_div_pow, pow_add _ _ k, ← Nat.div_div_eq_div_mul,
    ← Nat.div_div_eq_div_mul, Nat.add_mul_div_left _ _ (Nat.two_pow_pos _), Nat.div_eq_of_lt hlow, Nat.zero_add,
    Nat.mul_div_cancel_left _ (Nat.two_pow_pos _)]

/-- Each field of a word is read back in its width. -/
theorem bits_pack {b : Nat} {l : List (Nat × Nat × Nat)} (h : fieldsInOrder b l = true) {lo w v : Nat} (hmem : (lo, w, v) ∈ l) :
    bits (pack l) lo w = v % 2 ^ w := by
  induction l generalizing b with
  | nil => exact absurd hmem List.not_mem_nil
  | cons p r ih =>
    obtain ⟨lo₀, w₀, v₀⟩ := p
    simp only [fieldsInOrder, Bool.and_eq_true, decide_eq_true_eq] at h
    obtain ⟨-, hrest⟩ := h
    have hv₀ : v₀ % 2 ^ w₀ < 2 ^ w₀ := Nat.mod_lt _ (Nat.two_pow_pos w₀)
    rw [pack]
    rcases List.mem_cons.1 hmem with heq | htail
    · obtain ⟨rfl, rfl, rfl⟩ : lo = lo₀ ∧ w = w₀ ∧ v = v₀ := by simpa using heq
      exact bits_field_add hv₀ (dvd_pack hrest)
    · rw [bits_field_add_above hv₀ (dvd_pack hrest) (fieldsInOrder_le hrest htail), ih hrest htail]

/-- A word whose fields all lie below bit `n` lies below 2 ^ `n`. -/
theorem pack_lt {b n : Nat} {l : List (Nat × Nat × Nat)} (h : fieldsInOrder b l = true) (hn : ∀ p ∈ l, p.1 + p.2.1 ≤ n) :
    pack l < 2 ^ n := by
  induction l generalizing b with
  | nil => exact Nat.two_pow_pos n
  | cons p r ih =>
    obtain ⟨lo, w, v⟩ := p
    simp only [fieldsInOrder, Bool.and_eq_true, decide_eq_true_eq] at h
    obtain ⟨-, hrest⟩ := h
    have htop : lo + w ≤ n := hn _ List.mem_cons_self
    have hr : pack r < 2 ^ n := ih hrest (fun q hq => hn q (List.mem_cons_of_mem _ hq))
    obtain ⟨q, hq⟩ := dvd_pack hrest
    obtain ⟨k, rfl⟩ := Nat.exists_eq_add_of_le htop
    have hfield : (v % 2 ^ w) * 2 ^ lo < 2 ^ (lo + w) := by
      rw [Nat.add_comm lo, pow_add]
      exact (Nat.mul_lt_mul_right (Nat.two_pow_pos lo)).2 (Nat.mod_lt _ (Nat.two_pow_pos w))
    rw [hq, pow_add _ _ k] at hr
    have hq' : q + 1 ≤ 2 ^ k := Nat.lt_of_mul_lt_mul_left hr
    calc pack ((lo, w, v) :: r) = (v % 2 ^ w) * 2 ^ lo + 2 ^ (lo + w) * q := by rw [pack, Nat.shiftLeft_eq, hq]
      _ < 2 ^ (lo + w) * (q + 1) := by rw [Nat.mul_succ]; omega
      _ ≤ 2 ^ (lo + w + k) := by rw [pow_add _ _ k]; exact Nat.mul_le_mul_left _ hq'

/-! Bytes. -/

@[simp] theorem length_leBytes (k n : Nat) : (leBytes k n).length = k := by
  induction k generalizing n with
  | zero => rfl
  | succ k ih => rw [leBytes, List.length_cons, ih]

/-- The low bytes of a number give it back, modulo what they hold. -/
theorem ofLe_leBytes (k n : Nat) : ofLe (leBytes k n) = n % 2 ^ (8 * k) := by
  induction k generalizing n with
  | zero => simp [leBytes, ofLe, Nat.mod_one]
  | succ k ih =>
    rw [leBytes, ofLe, ih, BitVec.toNat_ofNat, Nat.shiftLeft_eq, Nat.shiftRight_eq_div_pow,
      show 8 * (k + 1) = 8 + 8 * k by omega, pow_add, Nat.mod_mul, Nat.mul_comm (2 ^ 8)]

end Sys2Proof.Proofs
end

section
/-! PROOFS. Wire compression: canonical codes are free of prefixes, so a coded block's bits say its bytes, and a block-framed payload
decodes to the payload (R352 to R356, R362; RFC 1951, 3.2.2). -/

namespace Sys2Proof.Proofs
open Sys2Proof.Machine Sys2Proof.Safety Sys2Proof.Laws

/-! Bits and bytes. -/

theorem crcBits_lt (n : Nat) {c : Nat} (h : c < 2 ^ 32) : crcBits n c < 2 ^ 32 := by
  induction n generalizing c with
  | zero => exact h
  | succ n ih =>
    have hhalf : c >>> 1 < 2 ^ 32 := lt_of_le_of_lt (Nat.shiftRight_le c 1) h
    rw [crcBits]
    split
    · exact ih (Nat.xor_lt_two_pow hhalf (by decide))
    · exact ih hhalf

/-- A CRC-32C fits its field. -/
theorem crc32c_lt (m : List Byte) : crc32c m < 2 ^ 32 := by
  have hfold : ∀ c < 2 ^ 32, m.foldl (fun c b => crcBits 8 (c ^^^ b.toNat)) c < 2 ^ 32 := by
    induction m with
    | nil => exact fun c h => h
    | cons b m ih =>
      intro c h
      have hb : b.toNat < 2 ^ 32 := lt_trans b.isLt (by decide)
      exact ih _ (crcBits_lt 8 (Nat.xor_lt_two_pow h hb))
  exact Nat.xor_lt_two_pow (hfold _ (by decide)) (by decide)

/-- The number whose bits are given, the first in the least significant place. -/
def bitsNum : List Bool → Nat
  | [] => 0
  | b :: r => b2n b + 2 * bitsNum r

theorem b2n_lt_two (b : Bool) : b2n b < 2 := by cases b <;> decide

theorem bitsNum_lt (l : List Bool) : bitsNum l < 2 ^ l.length := by
  induction l with
  | nil => exact Nat.one_pos
  | cons b r ih =>
    have := b2n_lt_two b
    rw [bitsNum, List.length_cons, pow_succ]
    omega

theorem bitAt_bitsNum (l : List Bool) (i : Nat) : bitAt (bitsNum l) i = l.getD i false := by
  induction l generalizing i with
  | nil => simp [bitsNum, bitAt]
  | cons b r ih =>
    cases i with
    | zero => cases b <;> simp [bitsNum, bitAt, b2n]
    | succ i =>
      have hhalf : (b2n b + 2 * bitsNum r) / 2 = bitsNum r := by have := b2n_lt_two b; omega
      rw [List.getD_cons_succ, ← ih, bitAt, bitAt, bitsNum, Nat.add_comm i, Nat.shiftRight_add, Nat.shiftRight_one, hhalf]

/-- The sum that makes a byte is the number of its bits. -/
theorem sum_zipIdx_bits (l : List Bool) (k : Nat) : ((l.zipIdx k).map (fun p => b2n p.1 <<< p.2)).sum = 2 ^ k * bitsNum l := by
  induction l generalizing k with
  | nil => rfl
  | cons b r ih =>
    rw [List.zipIdx_cons, List.map_cons, List.sum_cons, ih, bitsNum, Nat.shiftLeft_eq, pow_succ]
    ring

theorem toNat_bitsByte {l : List Bool} (h : l.length ≤ 8) : (bitsByte l).toNat = bitsNum l := by
  have hlt : bitsNum l < 2 ^ 8 := lt_of_lt_of_le (bitsNum_lt l) (Nat.pow_le_pow_right (by decide) h)
  rw [bitsByte, ← List.sum_eq_foldl_nat, sum_zipIdx_bits, pow_zero, Nat.one_mul, BitVec.toNat_ofNat, Nat.mod_eq_of_lt hlt]

/-- A byte of at most eight bits gives them back, with zeros in its other places. -/
theorem bits_of_bitsByte {l : List Bool} (h : l.length ≤ 8) :
    (List.range 8).map (bitAt (bitsByte l).toNat) = l ++ List.replicate (8 - l.length) false := by
  refine List.ext_getElem (by simp; omega) (fun i h₁ _ => ?_)
  rw [List.getElem_map, List.getElem_range, toNat_bitsByte h, bitAt_bitsNum, List.getElem_append]
  split
  next hi => rw [List.getD_eq_getElem _ _ hi]
  next hi => rw [List.getElem_replicate, List.getD_eq_default _ _ (by omega)]

theorem unpackBits_packBytes (n : Nat) {l : List Bool} (h : l.length ≤ 8 * n) :
    unpackBits (packBytes n l) = l ++ List.replicate (8 * n - l.length) false := by
  induction n generalizing l with
  | zero => obtain rfl : l = [] := List.length_eq_zero_iff.1 (by omega); rfl
  | succ n ih =>
    have hrest : (l.drop 8).length ≤ 8 * n := by rw [List.length_drop]; omega
    have hbyte := bits_of_bitsByte (l := l.take 8) (by rw [List.length_take]; omega)
    have hcons : unpackBits (packBytes (n + 1) l) =
      (List.range 8).map (bitAt (bitsByte (l.take 8)).toNat) ++ unpackBits (packBytes n (l.drop 8)) := rfl
    rw [hcons, hbyte, ih hrest]
    rcases Nat.lt_or_ge l.length 8 with hshort | hlong
    · rw [List.take_of_length_le hshort.le, List.drop_of_length_le hshort.le, List.nil_append, List.append_assoc,
        List.replicate_append_replicate]
      congr 2
      rw [List.length_nil]
      omega
    · rw [List.length_take, Nat.min_eq_left hlong, Nat.sub_self, List.replicate_zero, List.append_nil, ← List.append_assoc,
        List.take_append_drop, List.length_drop]
      congr 2
      omega

/-- Packed bits come back with fewer than eight zeros behind them (R353). -/
theorem unpackBits_packBits (l : List Bool) : ∃ z < 8, unpackBits (packBits l) = l ++ List.replicate z false := by
  have hfit : l.length ≤ 8 * ceilDiv l.length 8 := by rw [ceilDiv]; omega
  refine ⟨8 * ceilDiv l.length 8 - l.length, ?_, unpackBits_packBytes _ hfit⟩
  rw [ceilDiv]
  omega

theorem length_packBytes (n : Nat) (l : List Bool) : (packBytes n l).length = n := by
  induction n generalizing l with
  | zero => rfl
  | succ n ih => rw [packBytes, List.length_cons, ih]

/-! Canonical codes (RFC 1951, 3.2.2). -/

/-- The first code of length `l`, from 1. -/
def codeStart (lens : List Nat) (l : Nat) : Nat := (firstCodes lens 15 0).getD (l - 1) 0

/-- The room that the codes of lengths 1 to `l` take, in units of 2 ^ −15. -/
def codeRoom (lens : List Nat) (l : Nat) : Nat := ∑ i ∈ Finset.range l, lens.count (i + 1) * 2 ^ (14 - i)

theorem codeRoom_mono (lens : List Nat) {m n : Nat} (h : m ≤ n) : codeRoom lens m ≤ codeRoom lens n :=
  Finset.sum_le_sum_of_subset (Finset.range_subset_range.2 h)

/-- Each length's first code is twice what follows the codes of the length before. -/
theorem firstCodes_getD_succ (lens : List Nat) {k i : Nat} (code : Nat) (hk : k ≤ 15) (hi : i + 1 < k) :
    (firstCodes lens k code).getD (i + 1) 0 = ((firstCodes lens k code).getD i 0 + lens.count (16 - k + i)) * 2 := by
  induction k generalizing i code with
  | zero => omega
  | succ k ih =>
    rw [firstCodes, List.getD_cons_succ]
    cases i with
    | zero =>
      obtain ⟨j, rfl⟩ : ∃ j, k = j + 1 := ⟨k - 1, by omega⟩
      rw [firstCodes, List.getD_cons_zero, List.getD_cons_zero, List.count_eq_length_filter,
        show 16 - (j + 1 + 1) + 0 = 15 - (j + 1) by omega]
    | succ i =>
      rw [ih _ (by omega) (by omega), List.getD_cons_succ]
      congr 3
      omega

/-- The first code of a length stands where the room of the shorter codes ends. -/
theorem codeStart_room (lens : List Nat) {l : Nat} (hl : l < 15) : codeStart lens (l + 1) * 2 ^ (14 - l) = codeRoom lens l := by
  induction l with
  | zero => simp [codeStart, firstCodes, codeRoom]
  | succ l ih =>
    have hstep : codeStart lens (l + 2) = (codeStart lens (l + 1) + lens.count (l + 1)) * 2 := by
      have h := firstCodes_getD_succ lens (k := 15) (i := l) 0 (le_refl 15) (by omega)
      rwa [show 16 - 15 + l = l + 1 by omega] at h
    rw [codeRoom, Finset.sum_range_succ, ← codeRoom, ← ih (by omega), hstep, show 14 - l = 14 - (l + 1) + 1 by omega, pow_succ]
    ring

/-- The Kraft sum is the room that all codes take. -/
theorem codeRoom_eq_kraft {lens : List Nat} (hlens : ∀ l ∈ lens, l ≤ 15) :
    codeRoom lens 15 = ((lens.filter (· != 0)).map (fun l => 2 ^ (15 - l))).sum := by
  induction lens with
  | nil => simp [codeRoom]
  | cons a r ih =>
    have hrest := ih (fun l hl => hlens l (List.mem_cons_of_mem a hl))
    have ha : a ≤ 15 := hlens a List.mem_cons_self
    have hsplit : codeRoom (a :: r) 15 = codeRoom r 15 + ∑ i ∈ Finset.range 15, if a = i + 1 then 2 ^ (14 - i) else 0 := by
      rw [codeRoom, codeRoom, ← Finset.sum_add_distrib]
      refine Finset.sum_congr rfl (fun i _ => ?_)
      rw [List.count_cons, Nat.add_mul]
      simp only [beq_iff_eq, ite_mul, Nat.one_mul, Nat.zero_mul]
    rw [hsplit, hrest]
    cases a with
    | zero => simp
    | succ a =>
      have hone : (∑ i ∈ Finset.range 15, if a + 1 = i + 1 then 2 ^ (14 - i) else 0) = 2 ^ (14 - a) := by
        simp only [Nat.add_right_cancel_iff]
        rw [Finset.sum_ite_eq, if_pos (Finset.mem_range.2 (by omega))]
      rw [hone, List.filter_cons_of_pos (by simp), List.map_cons, List.sum_cons, Nat.add_comm,
        show 15 - (a + 1) = 14 - a by omega]

/-- What an assignment gives: each entry has a length of the table, and its code is one of those that follow its length's next code. -/
theorem mem_assignCodes {lens next : List Nat} {k : Nat} (hlens : ∀ l ∈ lens, l ≤ next.length) {e : Nat × Nat × Nat}
    (he : e ∈ assignCodes lens k next) :
    e.2.1 ∈ lens ∧ e.2.1 ≠ 0 ∧ next.getD (e.2.1 - 1) 0 ≤ e.2.2 ∧
      e.2.2 < next.getD (e.2.1 - 1) 0 + lens.count e.2.1 := by
  induction lens generalizing k next with
  | nil => exact absurd he List.not_mem_nil
  | cons l r ih =>
    have hrest : ∀ m ∈ r, m ≤ next.length := fun m hm => hlens m (List.mem_cons_of_mem l hm)
    by_cases hl : l = 0
    · rw [assignCodes, if_pos (by simp [hl])] at he
      obtain ⟨hmem, hne, hlow, hhigh⟩ := ih hrest he
      exact ⟨List.mem_cons_of_mem l hmem, hne, hlow, lt_of_lt_of_le hhigh (Nat.add_le_add_left List.count_le_count_cons _)⟩
    · rw [assignCodes, if_neg (by simp [hl])] at he
      rcases List.mem_cons.1 he with rfl | htail
      · exact ⟨List.mem_cons_self, hl, le_refl _, by simp [List.count_cons_self]⟩
      · obtain ⟨hmem, hne, hlow, hhigh⟩ := ih (by simpa using hrest) htail
        refine ⟨List.mem_cons_of_mem l hmem, hne, ?_⟩
        have hin : l - 1 < next.length := by have := hlens l List.mem_cons_self; omega
        by_cases hsame : e.2.1 = l
        · rw [hsame, List.getD_eq_getElem?_getD, List.getElem?_set_self hin, Option.getD_some] at hlow hhigh
          rw [hsame, List.count_cons_self]
          omega
        · have hother : l - 1 ≠ e.2.1 - 1 := by omega
          rw [List.getD_eq_getElem?_getD, List.getElem?_set_ne hother, ← List.getD_eq_getElem?_getD] at hlow hhigh
          rw [List.count_cons_of_ne (Ne.symm hsame)]
          exact ⟨hlow, hhigh⟩

/-- No two entries of an assignment share their length and code. -/
theorem eq_of_assignCodes {lens next : List Nat} {k : Nat} (hlens : ∀ l ∈ lens, l ≤ next.length) {e f : Nat × Nat × Nat}
    (he : e ∈ assignCodes lens k next) (hf : f ∈ assignCodes lens k next) (hsame : e.2 = f.2) : e = f := by
  induction lens generalizing k next with
  | nil => exact absurd he List.not_mem_nil
  | cons l r ih =>
    have hrest : ∀ m ∈ r, m ≤ next.length := fun m hm => hlens m (List.mem_cons_of_mem l hm)
    by_cases hl : l = 0
    · rw [assignCodes, if_pos (by simp [hl])] at he hf
      exact ih hrest he hf
    · have hrest' : ∀ m ∈ r, m ≤ (next.set (l - 1) (next.getD (l - 1) 0 + 1)).length := by simpa using hrest
      have hnew : ∀ g ∈ assignCodes r (k + 1) (next.set (l - 1) (next.getD (l - 1) 0 + 1)), g.2 ≠ (l, next.getD (l - 1) 0) := by
        intro g hg heq
        obtain ⟨-, -, hlow, -⟩ := mem_assignCodes hrest' hg
        have hin : l - 1 < next.length := by have := hlens l List.mem_cons_self; omega
        rw [heq, List.getD_eq_getElem?_getD, List.getElem?_set_self hin, Option.getD_some] at hlow
        omega
      rw [assignCodes, if_neg (by simp [hl])] at he hf
      rcases List.mem_cons.1 he with rfl | he
      · rcases List.mem_cons.1 hf with rfl | hf
        · rfl
        · exact absurd hsame.symm (hnew f hf)
      · rcases List.mem_cons.1 hf with rfl | hf
        · exact absurd hsame (hnew e he)
        · exact ih hrest' he hf

/-- Codes that say their values: each fits its length of 1 to 15 bits, and none begins another. -/
structure PrefixFree (cs : List (Nat × Nat × Nat)) : Prop where
  length : ∀ e ∈ cs, 1 ≤ e.2.1 ∧ e.2.1 ≤ 15
  fits : ∀ e ∈ cs, e.2.2 < 2 ^ e.2.1
  prefix_eq : ∀ e ∈ cs, ∀ f ∈ cs, e.2.1 ≤ f.2.1 → f.2.2 >>> (f.2.1 - e.2.1) = e.2.2 → e = f

theorem length_firstCodes (lens : List Nat) (k code : Nat) : (firstCodes lens k code).length = k := by
  induction k generalizing code with
  | zero => rfl
  | succ k ih => rw [firstCodes, List.length_cons, ih]

/-- The room that an entry's code takes: above that of the shorter codes, within that of its own length's. -/
theorem tableCodes_room {lens : List Nat} (hlens : ∀ l ∈ lens, l ≤ 15) {e : Nat × Nat × Nat} (he : e ∈ tableCodes lens) :
    1 ≤ e.2.1 ∧ e.2.1 ≤ 15 ∧ codeRoom lens (e.2.1 - 1) ≤ e.2.2 * 2 ^ (15 - e.2.1) ∧
      (e.2.2 + 1) * 2 ^ (15 - e.2.1) ≤ codeRoom lens e.2.1 := by
  obtain ⟨hmem, hne, hlow, hhigh⟩ := mem_assignCodes (by rwa [length_firstCodes]) he
  obtain ⟨v, l, c⟩ := e
  obtain ⟨m, rfl⟩ : ∃ m, l = m + 1 := ⟨l - 1, by simp only at hne; omega⟩
  have hm : m + 1 ≤ 15 := hlens _ hmem
  have hstart := codeStart_room lens (l := m) (by omega)
  have hnext : codeRoom lens (m + 1) = (codeStart lens (m + 1) + lens.count (m + 1)) * 2 ^ (14 - m) := by
    rw [codeRoom, Finset.sum_range_succ, ← codeRoom, ← hstart, Nat.add_mul]
  simp only [Nat.add_sub_cancel, Nat.reduceSubDiff] at hlow hhigh ⊢
  refine ⟨by omega, hm, ?_, ?_⟩
  · rw [← hstart]
    exact Nat.mul_le_mul_right _ hlow
  · rw [hnext]
    exact Nat.mul_le_mul_right _ hhigh

/-- The canonical codes of lengths that meet Kraft's bound (R355) are free of prefixes. -/
theorem prefixFree_tableCodes {lens : List Nat} (hlens : ∀ l ∈ lens, l ≤ 15) (hkraft : kraftOk lens = true) :
    PrefixFree (tableCodes lens) := by
  have hroom : codeRoom lens 15 ≤ 2 ^ 15 := by
    rw [codeRoom_eq_kraft hlens, List.sum_eq_foldl_nat]
    exact of_decide_eq_true hkraft
  refine ⟨fun e he => ?length, fun e he => ?fits, fun e he f hf hle hpre => ?prefix_eq⟩
  case length =>
    obtain ⟨hpos, hlen, -, -⟩ := tableCodes_room hlens he
    exact ⟨hpos, hlen⟩
  case fits =>
    obtain ⟨-, hlen, -, hhigh⟩ := tableCodes_room hlens he
    have hall : (e.2.2 + 1) * 2 ^ (15 - e.2.1) ≤ 2 ^ e.2.1 * 2 ^ (15 - e.2.1) := by
      rw [← pow_add, Nat.add_sub_cancel' hlen]
      exact hhigh.trans ((codeRoom_mono lens hlen).trans hroom)
    exact Nat.le_of_mul_le_mul_right hall (Nat.two_pow_pos _)
  case prefix_eq =>
    obtain ⟨-, -, -, hhigh⟩ := tableCodes_room hlens he
    obtain ⟨-, hlen, hlow, -⟩ := tableCodes_room hlens hf
    rcases hle.eq_or_lt with heq | hlt
    · rw [heq, Nat.sub_self, Nat.shiftRight_zero] at hpre
      exact eq_of_assignCodes (by rwa [length_firstCodes]) he hf (Prod.ext heq hpre.symm)
    · exfalso
      have hbegins : f.2.2 < (e.2.2 + 1) * 2 ^ (f.2.1 - e.2.1) := by
        rw [← hpre, Nat.shiftRight_eq_div_pow]
        exact (Nat.div_lt_iff_lt_mul (Nat.two_pow_pos _)).1 (Nat.lt_succ_self _)
      have hbelow : f.2.2 * 2 ^ (15 - f.2.1) < (e.2.2 + 1) * 2 ^ (15 - e.2.1) := by
        calc f.2.2 * 2 ^ (15 - f.2.1) < (e.2.2 + 1) * 2 ^ (f.2.1 - e.2.1) * 2 ^ (15 - f.2.1) :=
              (Nat.mul_lt_mul_right (Nat.two_pow_pos _)).2 hbegins
          _ = (e.2.2 + 1) * 2 ^ (15 - e.2.1) := by
              rw [Nat.mul_assoc, ← pow_add, show f.2.1 - e.2.1 + (15 - f.2.1) = 15 - e.2.1 by omega]
      have hmono := codeRoom_mono lens (show e.2.1 ≤ f.2.1 - 1 by omega)
      omega

/-! Symbols and planes (R353). -/

theorem two_mul_shiftRight_add_bit (c m : Nat) : 2 * (c >>> (m + 1)) + b2n (bitAt c m) = c >>> m := by
  have hbit : b2n (bitAt c m) = (c >>> m) % 2 := by
    have h := b2n_mod_two_beq_one (Nat.mod_lt (c >>> m) (by decide : 0 < 2))
    rwa [Nat.mod_mod] at h
  rw [hbit, Nat.shiftRight_add, Nat.shiftRight_one]
  omega

theorem drop_codeBits (len code : Nat) {i : Nat} (hi : i < len) :
    (codeBits len code).drop i = bitAt code (len - 1 - i) :: (codeBits len code).drop (i + 1) := by
  rw [List.drop_eq_getElem_cons (by simpa [codeBits] using hi)]
  simp [codeBits]

/-- The bits of a code say its value, wherever in them the reading stands. -/
theorem decodeSym_of_drop {cs : List (Nat × Nat × Nat)} (h : PrefixFree cs) {e : Nat × Nat × Nat} (he : e ∈ cs) (t : List Bool)
    {n i : Nat} (hn : e.2.1 = i + n + 1) :
    decodeSym cs (15 - i) i (e.2.2 >>> (n + 1)) ((codeBits e.2.1 e.2.2).drop i ++ t) = some (e.1, t) := by
  have hlen := (h.length e he).2
  induction n generalizing i with
  | zero =>
    obtain ⟨f, hf⟩ : ∃ f, cs.find? (fun c => c.2.1 == i + 1 && c.2.2 == e.2.2) = some f :=
      Option.isSome_iff_exists.1 (List.find?_isSome.2 ⟨e, he, by simp [hn]⟩)
    have hmem := List.mem_of_find?_eq_some hf
    have hcode := List.find?_some hf
    simp only [Bool.and_eq_true, beq_iff_eq] at hcode
    obtain ⟨hlenf, hcodef⟩ := hcode
    obtain rfl : e = f := h.prefix_eq e he f hmem (by omega) (by rw [hcodef, show f.2.1 - e.2.1 = 0 by omega, Nat.shiftRight_zero])
    have hend : (codeBits e.2.1 e.2.2).drop (i + 1) = [] := List.drop_of_length_le (by simp [codeBits, hn])
    rw [drop_codeBits _ _ (by omega), hend, show 15 - i = 14 - i + 1 by omega, show e.2.1 - 1 - i = 0 by omega]
    simp only [List.cons_append, List.nil_append, decodeSym, two_mul_shiftRight_add_bit, Nat.shiftRight_zero, hf]
  | succ n ih =>
    have hnone : cs.find? (fun c => c.2.1 == i + 1 && c.2.2 == e.2.2 >>> (n + 1)) = none := by
      refine List.find?_eq_none.2 (fun f hf hfound => ?_)
      simp only [Bool.and_eq_true, beq_iff_eq] at hfound
      obtain ⟨hlenf, hcodef⟩ := hfound
      obtain rfl : f = e := h.prefix_eq f hf e he (by omega) (by rw [hcodef, show e.2.1 - f.2.1 = n + 1 by omega])
      omega
    rw [drop_codeBits _ _ (by omega), show 15 - i = 15 - (i + 1) + 1 by omega, show e.2.1 - 1 - i = n + 1 by omega]
    simp only [List.cons_append, decodeSym, two_mul_shiftRight_add_bit, hnone]
    exact ih (by omega)

/-- The bits of a code say its value. -/
theorem decodeSym_codeBits {cs : List (Nat × Nat × Nat)} (h : PrefixFree cs) {e : Nat × Nat × Nat} (he : e ∈ cs) (t : List Bool) :
    decodeSym cs 15 0 0 (codeBits e.2.1 e.2.2 ++ t) = some (e.1, t) := by
  have hpos := (h.length e he).1
  have h0 := decodeSym_of_drop h he t (n := e.2.1 - 1) (i := 0) (by omega)
  rwa [show e.2.1 - 1 + 1 = e.2.1 by omega, Nat.shiftRight_eq_div_pow, Nat.div_eq_of_lt (h.fits e he), List.drop_zero] at h0

/-- A coded byte has an entry, and the rest of its plane is coded behind it. -/
theorem codePlane_cons {cs : List (Nat × Nat × Nat)} {b : Byte} {r : List Byte} {bl : List Bool} (h : codePlane cs (b :: r) = some bl) :
    ∃ e ∈ cs, e.1 = b.toNat ∧ ∃ t, codePlane cs r = some t ∧ bl = codeBits e.2.1 e.2.2 ++ t := by
  rw [codePlane] at h
  split at h
  next e t he ht =>
    exact ⟨e, List.mem_of_find?_eq_some he, by simpa using List.find?_some he, t, ht, (Option.some.inj h).symm⟩
  next => exact absurd h (by simp)

theorem decodePlane_of_codePlane {cs : List (Nat × Nat × Nat)} (h : PrefixFree cs) {bs : List Byte} {bl : List Bool}
    (hcode : codePlane cs bs = some bl) (t : List Bool) : decodePlane cs bs.length (bl ++ t) = some (bs, t) := by
  induction bs generalizing bl with
  | nil => obtain rfl : [] = bl := Option.some.inj hcode; rfl
  | cons b r ih =>
    obtain ⟨e, he, hvalue, u, hu, rfl⟩ := codePlane_cons hcode
    rw [List.length_cons, List.append_assoc]
    simp only [decodePlane, decodeSym_codeBits h he, ih hu, hvalue, BitVec.ofNat_toNat, BitVec.setWidth_eq]

/-- A plane's bits number at least its bytes. -/
theorem length_le_of_codePlane {cs : List (Nat × Nat × Nat)} (h : PrefixFree cs) {bs : List Byte} {bl : List Bool}
    (hcode : codePlane cs bs = some bl) : bs.length ≤ bl.length := by
  induction bs generalizing bl with
  | nil => exact Nat.zero_le _
  | cons b r ih =>
    obtain ⟨e, he, -, u, hu, rfl⟩ := codePlane_cons hcode
    have hpos := (h.length e he).1
    have hlen : (codeBits e.2.1 e.2.2).length = e.2.1 := by simp [codeBits]
    rw [List.length_cons, List.length_append, hlen]
    have := ih hu
    omega

/-- The positions of a plane in a block are as many as its bytes. -/
theorem length_planeBytes (w j x0 : Nat) (bs : List Byte) :
    (planeBytes w j x0 bs).length = ((List.range bs.length).filter (fun i => (x0 + i) % w == j)).length := by
  have hrange : List.range bs.length = bs.zipIdx.map (·.2) := by rw [List.zipIdx_map_snd, List.range_eq_range']
  rw [planeBytes, List.length_map, hrange, List.filter_map, List.length_map]
  rfl

/-- Planes coded in order decode in order. -/
theorem decodePlanes_of_codePlanes {g : GenSet} {prof w x0 : Nat} {bs : List Byte} {js : List Nat}
    (h : ∀ j ∈ js, PrefixFree (tableCodes (genLens g (genTable g prof j)))) {bl : List Bool}
    (hcode : codePlanes g prof w x0 bs js = some bl) (t : List Bool) :
    decodePlanes g prof w x0 bs.length js (bl ++ t) = some (js.map (fun j => planeBytes w j x0 bs), t) := by
  induction js generalizing bl with
  | nil => obtain rfl : [] = bl := Option.some.inj hcode; rfl
  | cons j r ih =>
    rw [codePlanes] at hcode
    split at hcode
    next a b ha hb =>
      obtain rfl : a ++ b = bl := Option.some.inj hcode
      have hplane := decodePlane_of_codePlane (h j List.mem_cons_self) ha (b ++ t)
      have hrest := ih (fun i hi => h i (List.mem_cons_of_mem j hi)) hb
      rw [length_planeBytes] at hplane
      rw [List.append_assoc]
      simp only [decodePlanes, hplane, hrest, List.map_cons]
    next => exact absurd hcode (by simp)

/-- The bits of all planes number at least the bytes of each. -/
theorem length_planeBytes_le {g : GenSet} {prof w x0 : Nat} {bs : List Byte} {js : List Nat}
    (h : ∀ j ∈ js, PrefixFree (tableCodes (genLens g (genTable g prof j)))) {bl : List Bool}
    (hcode : codePlanes g prof w x0 bs js = some bl) {j : Nat} (hj : j ∈ js) : (planeBytes w j x0 bs).length ≤ bl.length := by
  induction js generalizing bl with
  | nil => exact absurd hj List.not_mem_nil
  | cons i r ih =>
    rw [codePlanes] at hcode
    split at hcode
    next a b ha hb =>
      obtain rfl : a ++ b = bl := Option.some.inj hcode
      rw [List.length_append]
      rcases List.mem_cons.1 hj with rfl | hj
      · exact Nat.le_add_right_of_le (length_le_of_codePlane (h j List.mem_cons_self) ha)
      · exact Nat.le_add_left_of_le (ih (fun k hk => h k (List.mem_cons_of_mem i hk)) hb hj)
    next => exact absurd hcode (by simp)

/-- The first byte of a block is in one of its planes. -/
theorem planeBytes_first_pos {w : Nat} (x0 : Nat) {bs : List Byte} (hne : bs ≠ []) : 0 < (planeBytes w (x0 % w) x0 bs).length := by
  have hmem : 0 ∈ (List.range bs.length).filter (fun i => (x0 + i) % w == x0 % w) :=
    List.mem_filter.2 ⟨List.mem_range.2 (List.length_pos_iff.2 hne), by simp⟩
  rw [length_planeBytes]
  exact List.length_pos_of_mem hmem

/-- The element of a filtered list that stands behind the ones kept before it. -/
theorem getElem?_filter_of_pos {α : Type} (p : α → Bool) (l : List α) {i : Nat} {a : α} (ha : l[i]? = some a) (hp : p a = true) :
    (l.filter p)[((l.take i).filter p).length]? = some a := by
  obtain ⟨hi, rfl⟩ := List.getElem?_eq_some_iff.1 ha
  have hsplit : l = l.take i ++ l[i] :: l.drop (i + 1) := by rw [← List.drop_eq_getElem_cons hi, List.take_append_drop]
  have hfilter : l.filter p = (l.take i).filter p ++ l[i] :: (l.drop (i + 1)).filter p := by
    conv_lhs => rw [hsplit]
    rw [List.filter_append, List.filter_cons_of_pos hp]
  rw [hfilter, List.getElem?_append_right (le_refl _), Nat.sub_self, List.getElem?_cons_zero]

/-- A byte of the block is in its plane behind the plane's earlier bytes. -/
theorem getD_planeBytes (w x0 : Nat) (bs : List Byte) {i : Nat} (hi : i < bs.length) :
    (planeBytes w ((x0 + i) % w) x0 bs).getD ((List.range i).filter (fun k => (x0 + k) % w == (x0 + i) % w)).length 0 = bs[i] := by
  have hat : bs.zipIdx[i]? = some (bs[i], i) := by rw [List.getElem?_zipIdx, List.getElem?_eq_getElem hi]; simp
  have hbefore : ((List.range i).filter (fun k => (x0 + k) % w == (x0 + i) % w)).length =
      ((bs.zipIdx.take i).filter (fun p => (x0 + p.2) % w == (x0 + i) % w)).length := by
    have hrange : List.range i = (bs.zipIdx.take i).map (·.2) := by
      rw [List.map_take, List.zipIdx_map_snd, ← List.range_eq_range', List.take_range, Nat.min_eq_left hi.le]
    rw [hrange, List.filter_map, List.length_map]
    rfl
  rw [hbefore, planeBytes, List.getD_eq_getElem?_getD, List.getElem?_map,
    getElem?_filter_of_pos (fun p => (x0 + p.2) % w == (x0 + i) % w) _ hat (beq_self_eq_true _), Option.map_some, Option.getD_some]

/-- The planes of a block join to the block. -/
theorem joinPlanes_planeBytes {w : Nat} (hw : 0 < w) (x0 : Nat) (bs : List Byte) :
    joinPlanes w x0 bs.length ((List.range w).map (fun j => planeBytes w j x0 bs)) = bs := by
  refine List.ext_getElem (by simp [joinPlanes]) (fun i h₁ h₂ => ?_)
  have hplane : ((List.range w).map (fun j => planeBytes w j x0 bs)).getD ((x0 + i) % w) [] = planeBytes w ((x0 + i) % w) x0 bs := by
    rw [List.getD_eq_getElem?_getD, List.getElem?_map, List.getElem?_range (Nat.mod_lt _ hw)]
    rfl
  simp only [joinPlanes, List.getElem_map, List.getElem_range, hplane]
  exact getD_planeBytes w x0 bs h₂

/-! Blocks (Table 13.3, R352, R354, R362). -/

/-- The header of a block, as a number. -/
def blockHead (stored : Bool) (gen prof ulen : Nat) (body : List Byte) : Nat :=
  pack [(0, 32, crc32c body), (32, 13, body.length), (45, 13, ulen), (58, 1, b2n stored), (59, 1, gen % 2), (60, 3, prof)]

theorem blockOf_eq (stored : Bool) (gen prof ulen : Nat) (body : List Byte) :
    blockOf stored gen prof ulen body = leBytes 8 (blockHead stored gen prof ulen body) ++ body := rfl

section
variable (stored : Bool) (gen prof ulen : Nat) (body : List Byte)

theorem blockHead_lt : blockHead stored gen prof ulen body < 2 ^ 64 := pack_lt (b := 0) rfl (by simp)

/-- A field of a block's header is read back in its width. -/
theorem bits_blockHead {lo w v : Nat} (h : (lo, w, v) ∈ [(0, 32, crc32c body), (32, 13, body.length), (45, 13, ulen),
    (58, 1, b2n stored), (59, 1, gen % 2), (60, 3, prof)]) : bits (blockHead stored gen prof ulen body) lo w = v % 2 ^ w :=
  bits_pack (b := 0) rfl h

theorem bits_blockHead_crc : bits (blockHead stored gen prof ulen body) 0 32 = crc32c body := by
  rw [bits_blockHead (v := crc32c body) _ _ _ _ _ (by simp), Nat.mod_eq_of_lt (crc32c_lt body)]

theorem bits_blockHead_gen : bits (blockHead stored gen prof ulen body) 59 1 = gen % 2 := by
  rw [bits_blockHead (v := gen % 2) _ _ _ _ _ (by simp), pow_one, Nat.mod_mod]

theorem bitAt_blockHead_stored : bitAt (blockHead stored gen prof ulen body) 58 = stored := by
  have h := bits_blockHead stored gen prof ulen body (lo := 58) (w := 1) (v := b2n stored) (by simp)
  rw [bits, pow_one] at h
  rw [bitAt, h]
  cases stored <;> rfl

variable {ulen prof body}

theorem bits_blockHead_clen (h : body.length < 2 ^ 13) : bits (blockHead stored gen prof ulen body) 32 13 = body.length := by
  rw [bits_blockHead (v := body.length) _ _ _ _ _ (by simp), Nat.mod_eq_of_lt h]

theorem bits_blockHead_ulen (h : ulen < 2 ^ 13) : bits (blockHead stored gen prof ulen body) 45 13 = ulen := by
  rw [bits_blockHead (v := ulen) _ _ _ _ _ (by simp), Nat.mod_eq_of_lt h]

theorem bits_blockHead_prof (h : prof < 2 ^ 3) : bits (blockHead stored gen prof ulen body) 60 3 = prof := by
  rw [bits_blockHead (v := prof) _ _ _ _ _ (by simp), Nat.mod_eq_of_lt h]

end

/-- A profile that codes nothing, or one whose planes' codes say their values. -/
def ProfileDecodes (g : GenSet) (prof : Nat) : Prop :=
  prof = 0xF ∨ prof < 8 ∧ 0 < genWidth g prof ∧
    ∀ j < genWidth g prof, PrefixFree (tableCodes (genLens g (genTable g prof j)))

/-- A block decodes to its bytes: the header that it opens with, its body, and what the receiver reads of them. -/
def BlockDecodes (slots : List (Bool × Nat × GenSet)) (gen x0 : Nat) (bs : List Byte) (r : List Byte × Bool) : Prop :=
  ∃ prof body, r.1 = blockOf (!r.2) gen prof bs.length body ∧ body ≠ [] ∧ body.length < 2 ^ 13 ∧
    decodeBlock slots x0 (blockHead (!r.2) gen prof bs.length body) body = some bs

/-- A stored block needs no table (log entry 43). -/
theorem blockDecodes_stored (slots : List (Bool × Nat × GenSet)) (gen prof x0 : Nat) {bs : List Byte} (hne : bs ≠ [])
    (hlen : bs.length < 2 ^ 13) : BlockDecodes slots gen x0 bs (blockOf true gen prof bs.length bs, false) := by
  refine ⟨prof, bs, rfl, hne, hlen, ?_⟩
  have hpos : bs.length ≠ 0 := fun h => hne (List.length_eq_zero_iff.1 h)
  simp only [decodeBlock, Bool.not_false, bits_blockHead_crc, bits_blockHead_ulen true gen hlen, bitAt_blockHead_stored,
    bne_self_eq_false, beq_false_of_ne hpos, beq_self_eq_true, Bool.or_self, Bool.false_eq_true, if_false, if_true]

/-- A coded block decodes at a receiver whose slot holds its generation. -/
theorem blockDecodes_coded {slots : List (Bool × Nat × GenSet)} {g : GenSet} {gen prof x0 : Nat} {bs : List Byte} {bl : List Bool}
    (hslot : slots[gen % 2]? = some (true, gen, g)) (hprof : prof < 8) (hw : 0 < genWidth g prof)
    (hfree : ∀ j < genWidth g prof, PrefixFree (tableCodes (genLens g (genTable g prof j)))) (hne : bs ≠ [])
    (hlen : bs.length < 2 ^ 13) (hcode : codePlanes g prof (genWidth g prof) x0 bs (List.range (genWidth g prof)) = some bl)
    (hsmall : (packBits bl).length < 2 ^ 13) :
    BlockDecodes slots gen x0 bs (blockOf false gen prof bs.length (packBits bl), true) := by
  have hpos : bs.length ≠ 0 := fun h => hne (List.length_eq_zero_iff.1 h)
  obtain ⟨z, hz, hbits⟩ := unpackBits_packBits bl
  have hplanes := decodePlanes_of_codePlanes (fun j hj => hfree j (List.mem_range.1 hj)) hcode (List.replicate z false)
  refine ⟨prof, packBits bl, rfl, fun hnil => ?_, hsmall, ?_⟩
  · have hfirst := planeBytes_first_pos (w := genWidth g prof) x0 hne
    have hsome := length_planeBytes_le (fun j hj => hfree j (List.mem_range.1 hj)) hcode (List.mem_range.2 (Nat.mod_lt x0 hw))
    have hnone : ceilDiv bl.length 8 = 0 := by rw [← length_packBytes (ceilDiv bl.length 8) bl, ← packBits, hnil]; rfl
    rw [ceilDiv] at hnone
    omega
  · simp only [decodeBlock, Bool.not_true, bits_blockHead_crc, bits_blockHead_ulen false gen hlen, bits_blockHead_gen,
      bits_blockHead_prof false gen hprof, bitAt_blockHead_stored, hslot, hbits, hplanes, joinPlanes_planeBytes hw,
      bne_self_eq_false, beq_false_of_ne hpos, beq_false_of_ne hw.ne', Bool.not_true, Bool.or_self, Bool.false_eq_true, if_false]
    simp [hz]

/-- Coding a block gives one that decodes to it. -/
theorem blockDecodes_encodeBlock {slots : List (Bool × Nat × GenSet)} {g : GenSet} {gen prof : Nat}
    (hslot : slots[gen % 2]? = some (true, gen, g)) (hprof : ProfileDecodes g prof) (x0 : Nat) {bs : List Byte} (hne : bs ≠ [])
    (hlen : bs.length ≤ 4096) : BlockDecodes slots gen x0 bs (encodeBlock g gen prof x0 bs) := by
  have hstored := fun p => blockDecodes_stored slots gen p x0 hne (by omega)
  rw [encodeBlock]
  by_cases hraw : (decide (bs.length < 256) || prof == 0xF) = true
  · rw [if_pos hraw]
    exact hstored _
  · obtain ⟨-, hprofF⟩ : 256 ≤ bs.length ∧ prof ≠ 0xF := by simpa using hraw
    obtain ⟨hlt, hw, hfree⟩ := hprof.resolve_left hprofF
    rw [if_neg hraw]
    cases hcode : codePlanes g prof (genWidth g prof) x0 bs (List.range (genWidth g prof)) with
    | none =>
      simp only [hcode]
      exact hstored _
    | some bl =>
      by_cases hsmall : 103 * (packBits bl).length ≤ 100 * bs.length
      · simp only [hcode, if_pos hsmall]
        exact blockDecodes_coded hslot hlt hw hfree hne (by omega) hcode (by omega)
      · simp only [hcode, if_neg hsmall]
        exact hstored _

/-! Payloads (R352, R362). -/

@[simp] theorem encodePayload_nil (g : GenSet) (gen prof n x0 : Nat) : encodePayload g gen prof n x0 [] = ([], 0, 0) := by
  cases n <;> rfl

@[simp] theorem decodePayload_nil (slots : List (Bool × Nat × GenSet)) (k x0 : Nat) : decodePayload slots k x0 [] = some ([], 0, 0) := by
  cases k <;> rfl

/-- A receiver takes a block off the front of a payload and goes on behind it. -/
theorem decodePayload_block {slots : List (Bool × Nat × GenSet)} {gen x0 k : Nat} {bs rest : List Byte} {r : List Byte × Bool}
    (h : BlockDecodes slots gen x0 bs r) (hlen : bs.length < 2 ^ 13) {out : List Byte} {c st : Nat}
    (hrest : decodePayload slots k (x0 + bs.length) rest = some (out, c, st)) :
    decodePayload slots (k + 1) x0 (r.1 ++ rest) = some (bs ++ out, c + b2n r.2, st + b2n (!r.2)) := by
  obtain ⟨prof, body, hblock, hne, hbody, hdecode⟩ := h
  have hpos : body.length ≠ 0 := fun h => hne (List.length_eq_zero_iff.1 h)
  have hhead := length_leBytes 8 (blockHead (!r.2) gen prof bs.length body)
  have hwhole : r.1 ++ rest = leBytes 8 (blockHead (!r.2) gen prof bs.length body) ++ (body ++ rest) := by
    rw [hblock, blockOf_eq, List.append_assoc]
  have hfront : (r.1 ++ rest).take 8 = leBytes 8 (blockHead (!r.2) gen prof bs.length body) := by
    rw [hwhole, List.take_left' hhead]
  have hbehind : (r.1 ++ rest).drop 8 = body ++ rest := by rw [hwhole, List.drop_left' hhead]
  have hnext : (r.1 ++ rest).drop (8 + body.length) = rest := by rw [← List.drop_drop, hbehind, List.drop_left]
  have hsize : (r.1 ++ rest).length = 8 + (body.length + rest.length) := by
    rw [hwhole, List.length_append, hhead, List.length_append]
  have hsome : (r.1 ++ rest).isEmpty = false := by
    rw [List.isEmpty_eq_false_iff_exists_mem, ← List.length_pos_iff_exists_mem, hsize]
    omega
  have hroom : ¬ 8 + (body.length + rest.length) < 8 + body.length := by omega
  simp only [decodePayload, hsome, hfront, hbehind, ofLe_leBytes, Nat.mod_eq_of_lt (blockHead_lt _ _ _ _ _),
    bits_blockHead_clen _ _ hbody, bits_blockHead_ulen _ _ hlen, bitAt_blockHead_stored, hsize, hroom, hnext, List.take_left,
    hdecode, hrest, beq_false_of_ne hpos, decide_false, Bool.or_self, Bool.false_eq_true, if_false, Bool.not_not]

/-- A payload coded with a profile that decodes comes back whole, with the same blocks coded and stored. -/
theorem decodePayload_encodePayload {slots : List (Bool × Nat × GenSet)} {g : GenSet} {gen prof : Nat}
    (hslot : slots[gen % 2]? = some (true, gen, g)) (hprof : ProfileDecodes g prof) {n k : Nat} (x0 : Nat) {bs : List Byte}
    (hlen : bs.length ≤ 4096 * n) (hk : n ≤ k) :
    decodePayload slots k x0 (encodePayload g gen prof n x0 bs).1 =
      some (bs, (encodePayload g gen prof n x0 bs).2.1, (encodePayload g gen prof n x0 bs).2.2) := by
  induction n generalizing k x0 bs with
  | zero =>
    obtain rfl : bs = [] := List.length_eq_zero_iff.1 (by omega)
    rw [encodePayload_nil, decodePayload_nil]
  | succ n ih =>
    rcases eq_or_ne bs [] with rfl | hne
    · rw [encodePayload_nil, decodePayload_nil]
    · obtain ⟨k, rfl⟩ : ∃ j, k = j + 1 := ⟨k - 1, by omega⟩
      have hblock := blockDecodes_encodeBlock hslot hprof x0 (bs := bs.take 4096) (by simpa using hne) (by simp)
      have hrest := ih (k := k) (x0 + 4096) (bs := bs.drop 4096) (by rw [List.length_drop]; omega) (by omega)
      have hnext : decodePayload slots k (x0 + (bs.take 4096).length) (encodePayload g gen prof n (x0 + 4096) (bs.drop 4096)).1 =
          some (bs.drop 4096, (encodePayload g gen prof n (x0 + 4096) (bs.drop 4096)).2) := by
        rcases Nat.lt_or_ge bs.length 4096 with hshort | hlong
        · rw [List.drop_of_length_le hshort.le, encodePayload_nil, decodePayload_nil]
        · rw [List.length_take, Nat.min_eq_left hlong, hrest]
      have hwhole := decodePayload_block hblock (by rw [List.length_take]; omega) hnext
      rw [List.take_append_drop] at hwhole
      have hne' : bs.isEmpty = false := by simpa using hne
      simp only [encodePayload, hne', Bool.false_eq_true, if_false, hwhole]
      rw [Nat.add_comm, Nat.add_comm (b2n (!_))]

/-! Generations (R355, R356). -/

theorem genLens_le (g : GenSet) (tbl : Nat) : ∀ l ∈ genLens g tbl, l ≤ 15 := by
  intro l hl
  obtain ⟨k, -, rfl⟩ := List.mem_map.1 hl
  cases g with
  | none => dsimp only; split_ifs <;> decide
  | some m => exact Nat.le_of_lt_succ (bits_lt _ _ 4)

/-- The tables of generation 0 meet Kraft's bound. -/
theorem kraftOk_builtIn : kraftOk (genLens none 0) = true ∧ kraftOk (genLens none 1) = true := by decide +kernel

/-- Both profiles of generation 0, the one that stores and the one of FP32, decode (R356). -/
theorem profileDecodes_builtIn (fmt : Nat) : ProfileDecodes none (genProfile none fmt) := by
  rw [genProfile]
  split
  · refine .inr ⟨by decide, by decide, fun j hj => ?_⟩
    have htable : genTable none 0 j = 0 ∨ genTable none 0 j = 1 := by rw [genTable]; split <;> simp
    refine prefixFree_tableCodes (genLens_le none _) ?_
    rcases htable with h | h
    · rw [h]; exact kraftOk_builtIn.1
    · rw [h]; exact kraftOk_builtIn.2
  · exact .inl rfl

/-- Every profile of a set that R355 admits decodes. -/
theorem profileDecodes_of_genSetOk {cur : Nat} {l : List Byte} (h : genSetOk cur l = true) {fmt : Nat} (hfmt : fmt < 32) :
    ProfileDecodes (some l) (genProfile (some l) fmt) := by
  simp only [genSetOk, Bool.and_eq_true, List.all_eq_true, List.mem_range, decide_eq_true_eq, Bool.or_eq_true, beq_iff_eq] at h
  obtain ⟨⟨⟨-, hkraft⟩, hprofiles⟩, hformats⟩ := h
  rcases hformats fmt hfmt with hcoded | hstored
  · obtain ⟨⟨hpos, hwidth⟩, htables⟩ := hprofiles _ (Nat.lt_succ_of_le hcoded)
    refine .inr ⟨Nat.lt_succ_of_le hcoded, hpos, fun j hj => ?_⟩
    obtain ⟨htable, -⟩ := htables j (lt_of_lt_of_le hj hwidth)
    exact prefixFree_tableCodes (genLens_le _ _) (hkraft _ htable)
  · exact .inl hstored

/-- Settles O55: canonical codes are free of prefixes, by the room that they take; so each block decodes, and the payload by induction on
its blocks. -/
theorem compressedPayloadDecodes : Obligations.CompressedPayloadDecodes := by
  unfold Obligations.CompressedPayloadDecodes
  intro g gen fmt n k x0 cur slots bs hg hslot hfmt hlen hk
  have hprof : ProfileDecodes g (genProfile g fmt) := by
    rcases hg with ⟨rfl, -⟩ | ⟨l, rfl, hadmitted⟩
    · exact profileDecodes_builtIn fmt
    · exact profileDecodes_of_genSetOk hadmitted hfmt
  exact decodePayload_encodePayload hslot hprof x0 hlen hk

end Sys2Proof.Proofs
end

section
/-! PROOFS. Records, publications, acknowledgements of backward passes and checkpoints: what each event does once its conditions hold (R336
to R342, R381). -/

namespace Sys2Proof.Proofs
open Sys2Proof.Machine Sys2Proof.Safety Sys2Proof.Laws

/-- A frame row acts on a frame of its own type and operation. -/
theorem ofType_of_operation {f : Frame} {ty w v : Nat} (t s : State) (htype : f.ftype = ty) (hop : bits f.tspec 0 w = v) :
    ofType f ty (some (w, v)) t s = t := by
  simp only [ofType, htype, hop, beq_self_eq_true, Bool.and_self, if_true]

/-! Records (R336, R337). -/

/-- The oldest launched record whose own items have not gone sends them once its sums are ready and its step's amax values are known. -/
theorem recordItemsSt_of_ready {s : State} {coll : Nat} {e : Env} {c : CollRt} (henv : envOf s = some e)
    (hfind : s.reductions.colls.find? (fun c => c.coll == coll && c.launched && !c.itemsSent) = some c)
    (hkind : coKind (collOf e.im coll) = 2) (hactive : s.run.active = true) (hsums : sumsReady s e c.step = true)
    (hamax : stepOver s c.step = true ∨ amaxReady s e.im = true) (hsumsRead : sumsFault s e = none)
    (hhistoryRead : historyFault e (managedTensors e.im) = none) :
    recordItemsSt coll s =
      (let items := sumItems s e ++ amaxItems e
      let s1 := modColl coll c.step (fun c =>
        { c with itemsSent := true, snap := scaleSnap e, items := c.items ++ items.map (tagItem e.id) }) s
      finishItems coll c.step (sendOrFail (recordFrames s1 e.im coll c.step (items.length + 1) 0 items) s1)) := by
  have hdue : (stepOver s c.step || amaxReady s e.im) = true := Bool.or_eq_true_iff.2 hamax
  simp only [recordItemsSt, henv, hfind, hkind, hactive, hsums, hdue, hsumsRead, hhistoryRead, bne_self_eq_false, Bool.not_true,
    Bool.or_self, Bool.false_eq_true, if_false, Option.orElse_none]

/-- A frame of a member that has not come before, all of whose items are of assigned kinds, adds its items to the record. -/
theorem normRecSt_of_new {s : State} {f : Frame} {im : Image} {coll step : Nat} {c : CollRt} (htype : f.ftype = 7)
    (hop : tsp f 128 8 = 1) (himage : s.image = some im) (hactive : s.run.active = true) (hcoll : tsp f 136 12 = coll)
    (hstep : stepOf2 s (tsp f 148 2) = step) (hkind : coKind (collOf im coll) = 2)
    (hmember : (membersOf im coll).contains f.src = true) (hfind : findColl (ensureColl coll step s) coll step = some c)
    (hnew : c.frames.any (fun x => x.1 == f.src && x.2.1 == tsp f 151 16) = false)
    (hgood : ((frameItems f).filter (fun x => bits x 0 8 == 1 || bits x 0 8 == 2)).length = (frameItems f).length) :
    normRecSt f s = finishItems coll step (takeFrame f (modColl coll step (fun c => { c with
      frames := c.frames ++ [(f.src, tsp f 151 16, tsp f 150 1 == 1)]
      items := c.items ++ ((frameItems f).filter (fun x => bits x 0 8 == 1 || bits x 0 8 == 2)).map (tagItem f.src) })
      (ensureColl coll step s))) := by
  simp only [normRecSt, himage, htype, hop, hactive, hcoll, hstep, hkind, hmember, hfind, hnew, hgood, Nat.sub_self, List.range_zero,
    List.foldl_nil, bne_self_eq_false, Bool.not_true, Bool.or_self, Bool.false_eq_true, if_false]

/-- Settles O42: a record's items go out by its ready sums, and a member's frame is taken in by its number. -/
theorem recordCommandsComplete : Obligations.RecordCommandsComplete := by
  unfold Obligations.RecordCommandsComplete
  refine ⟨?send, ?receive⟩
  case send =>
    intro s coll e c henv hfind hkind hactive hsums hamax hsumsRead hhistoryRead items s1
    exact congrArg Host.Outcome.next (recordItemsSt_of_ready henv hfind hkind hactive hsums hamax hsumsRead hhistoryRead)
  case receive =>
    intro s f im c htype hop himage hactive coll step hkind hmember s1 hfind hnew good hgood
    exact congrArg Host.Outcome.next ((ofType_of_operation _ s htype hop).trans
      (normRecSt_of_new htype hop himage hactive rfl rfl hkind hmember hfind hnew hgood))

/-! Publication (R339, R340). -/

/-- A shard that may leave, the first of its publication, with its bytes readable, becomes current here and is streamed by its first-listed
owner. -/
theorem shardPubSt_of_publishable {s : State} {pub shard sh : Nat} {e : Env} {v : ShardVer} (henv : envOf s = some e)
    (hfind : findVer s pub shard = some v) (hdeparted : v.departed = some sh) (hready : publishable s e v = true)
    (hfirst : ∀ u ∈ s.versions.shards, u.pub = pub → u.shard < shard → publishable s e u = false)
    (hread : pubFault e pub (v.pver % 2) sh = none) :
    shardPubSt pub shard s =
      (let bytes := readShard e (pubDesc e pub) (v.pver % 2) sh ++ streamEnd e pub sh (v.pver % 2)
      let s1 := modVer pub shard (fun v => { v with sent := true }) s
      let s2 := if v.cur = v.pver then s1 else makeCurrent pub shard v.pver (landStream pub shard v.pver 0 sh bytes s1)
      let l := cutStream (bytes.length + 1) 0 bytes
      if isWhole e pub = true ∨ speaker s sh ≠ e.id then s2
      else sendOrFail (l.zipIdx.map (fun f => (some (dFmt (pubDesc e pub)), mkFrame s.fabric 3 true (puMcast (pubOf e.im pub)) (shard % 256)
        [(128, 12, pub), (140, 24, shard), (164, 32, v.pver), (196, 32, f.1.1), (228, 1, b2n (f.2 + 1 == l.length))] f.1.2))) s2) := by
  have hnone : s.versions.shards.any (fun u => u.pub == pub && decide (u.shard < shard) && publishable s e u) = false := by
    refine List.any_eq_false.2 (fun u hu => ?_)
    by_cases hsame : u.pub = pub ∧ u.shard < shard
    · simp [hfirst u hu hsame.1 hsame.2]
    · simp only [not_and] at hsame
      simp only [Bool.and_eq_true, beq_iff_eq, decide_eq_true_eq]
      exact fun h => hsame h.1.1 h.1.2
  simp only [shardPubSt, henv, hfind, hdeparted, hready, hnone, hread, Bool.not_true, Bool.or_self, Bool.false_eq_true, if_false,
    beq_iff_eq, Bool.or_eq_true, bne_iff_ne]

/-- A frame of a newer version that has not come before lands, and the last byte makes the shard current. -/
theorem publishSt_of_new {s : State} {f : Frame} {e : Env} {v : ShardVer} {sh pub shard pver off : Nat} (htype : f.ftype = 3)
    (henv : envOf s = some e) (hpub : tsp f 128 12 = pub) (hshard : tsp f 140 24 = shard) (hpver : tsp f 164 32 = pver)
    (hoff : tsp f 196 32 = off) (hfind : findVer s pub shard = some v) (hlisted : (pubShards e pub)[shard]? = some sh)
    (hnewer : 0 < (pver + 2 ^ 32 - v.cur) % 2 ^ 32) (hnear : (pver + 2 ^ 32 - v.cur) % 2 ^ 32 < 2 ^ 31)
    (hnew : v.rxVer = pver → v.frames.all (fun x => x.1 != off) = true) {u : ShardVer}
    (hu : findVer (landStream pub shard pver (256 * off) sh f.payload (modVer pub shard (fun v =>
      { v with rxVer := pver, frames := (if v.rxVer = pver then v.frames else []) ++ [(off, f.payload.length)],
               total := if tsp f 228 1 = 1 then some (256 * off + f.payload.length) else (if v.rxVer = pver then v.total else none) })
      (takeFrame f s))) pub shard = some u) :
    publishSt f s =
      (let s2 := landStream pub shard pver (256 * off) sh f.payload (modVer pub shard (fun v =>
        { v with rxVer := pver, frames := (if v.rxVer = pver then v.frames else []) ++ [(off, f.payload.length)],
                 total := if tsp f 228 1 = 1 then some (256 * off + f.payload.length) else (if v.rxVer = pver then v.total else none) })
        (takeFrame f s))
      if u.total = some ((u.frames.map (·.2)).foldl (· + ·) 0) then makeCurrent pub shard pver s2 else s2) := by
  have hfresh : (v.rxVer == pver && v.frames.any (fun x => x.1 == off)) = false := by
    by_cases hsame : v.rxVer = pver
    · have hall := hnew hsame
      simpa [hsame] using hall
    · simp [hsame]
  simp only [publishSt, henv, hpub, hshard, hpver, hoff, hfind, htype, hlisted, beq_false_of_ne hnewer.ne', hnear.not_ge, hfresh,
    bne_self_eq_false, decide_false, Bool.or_self, Bool.false_eq_true, if_false, beq_iff_eq, hu]

/-! Acknowledgements of backward passes (R341, R381). -/

/-- A step's acknowledgement leaves when its counter has reached its value, and has not left before. -/
theorem bwdAckSendSt_of_due {s : State} {im : Image} (himage : s.image = some im) (hactive : s.run.active = true)
    (hbegun : s.run.begun = true) (hctr : bwdCtr im ≠ 0xFFFF) (hmet : waitMet s (bwdCtr im) (bwdValue im) = true)
    (hunsent : s.versions.ackSent = false) :
    bwdAckSendSt s = sendOrFail [(none, mkFrame s.fabric 7 true (ackMcast im) 0 [(128, 8, 2), (136, 32, s.run.step)] [])]
      (noteAck (myId s.fabric) s.run.step { s with versions := { s.versions with ackSent := true } }) := by
  simp only [bwdAckSendSt, sendBwdAck, himage, hactive, hbegun, bne_iff_ne.2 hctr, hmet, hunsent, Bool.and_self, if_true,
    Bool.false_eq_true, if_false]

/-- A `BWD_ACK` is noted under the module that sent it. -/
theorem bwdAckSt_of_ftype (s : State) {f : Frame} (htype : f.ftype = 7) (hop : tsp f 128 8 = 2) :
    bwdAckSt f s = noteAck f.src (tsp f 136 32) (takeFrame f s) := by
  simp only [bwdAckSt, htype, hop, bne_self_eq_false, Bool.or_self, Bool.false_eq_true, if_false]

/-! Checkpoints (R342). -/

/-- The next pair of the list in progress is copied once its source is ready. -/
theorem checkpointSt_of_ready {s : State} {pair l st v x : Nat} {e : Env} {ws : List Write} (henv : envOf s = some e)
    (hactive : s.ckpt.active = some (l, pair, st, v)) (hpair : (e.im.car.ckpts.getD l [])[pair]? = some x)
    (hready : sourceReady s e.im (bits x 0 24) st = true)
    (hread : copyPair e s.reductions.ring (bits x 0 24) (bits x 24 24) v = .ok ws) :
    checkpointSt pair s = syncScale (bits x 24 24) { s with
      ckpt := { s.ckpt with active := some (l, pair + 1, st, v) }
      memory := applyWrites e ws s.memory } := by
  simp only [checkpointSt, henv, hactive, hpair, hready, hread, bne_self_eq_false, Bool.not_true, Bool.or_self, Bool.false_eq_true,
    if_false]

/-- With every pair copied the list is complete, and the next one that waits starts. -/
theorem checkpointDone_of_copied {s : State} {l p st v : Nat} {im : Image} (himage : s.image = some im)
    (hactive : s.ckpt.active = some (l, p, st, v)) (hcopied : (im.car.ckpts.getD l []).length ≤ p) :
    checkpointDone s = { s with ckpt :=
      { completed := tick64 s.ckpt.completed, lastStep := st, waiting := s.ckpt.waiting.drop 1,
        active := s.ckpt.waiting.head?.map (fun w => (w.1, 0, w.2.1, w.2.2)) } } := by
  simp only [checkpointDone, himage, hactive, hcopied.not_gt, if_false]

/-- Settles O43: each event past its conditions takes its last branch. That an acknowledgement leaves in every step, on `ACK_MCAST`, is
the reading of log entry 69. -/
theorem publicationAndCheckpointCommandsComplete : Obligations.PublicationAndCheckpointCommandsComplete := by
  unfold Obligations.PublicationAndCheckpointCommandsComplete
  refine ⟨?publish, ?land, ?ackSend, ?ack, ?copy, ?complete⟩
  case publish =>
    intro s pub shard sh e v henv hfind hdeparted hready hfirst hread bytes s1 s2 l
    exact congrArg Host.Outcome.next (shardPubSt_of_publishable henv hfind hdeparted hready hfirst hread)
  case land =>
    intro s f e v sh htype henv pub shard pver off hfind hlisted hnewer hnear hnew s1 s2 u hu
    exact congrArg Host.Outcome.next ((ofType_of_ftype _ s htype).trans
      (publishSt_of_new htype henv rfl rfl rfl rfl hfind hlisted hnewer hnear hnew hu))
  case ackSend =>
    intro s im himage hactive hbegun hctr hmet hunsent
    exact congrArg Host.Outcome.next (bwdAckSendSt_of_due himage hactive hbegun hctr hmet hunsent)
  case ack =>
    intro s f htype hop
    exact congrArg Host.Outcome.next ((ofType_of_operation _ s htype hop).trans (bwdAckSt_of_ftype s htype hop))
  case copy =>
    intro s pair l st v x e ws henv hactive hpair hready hread
    exact congrArg Host.Outcome.next (checkpointSt_of_ready henv hactive hpair hready hread)
  case complete =>
    intro s l p st v im himage hactive hcopied
    exact congrArg Host.Outcome.next (checkpointDone_of_copied himage hactive hcopied)

end Sys2Proof.Proofs
end

section
/-! PROOFS. The federation's datagrams and the acts of an exchange (R343 to R346). -/

namespace Sys2Proof.Proofs
open Sys2Proof.Machine Sys2Proof.Safety Sys2Proof.Laws

/-- The first-listed owner of a slice whose updates are written forms its change, once; at the lead it keeps it, elsewhere it sends it. -/
theorem deltaSendSt_of_due {s : State} {r f : Nat} {e : Env} {x : Slice} (henv : envOf s = some e) (hfind : findSlice s r f = some x)
    (hactive : s.run.active = true) (hopen : x.done = false) (huncombined : x.combined = false) (hunsent : x.sent = none)
    (hnone : x.deltas.any (fun d => d.1 == fedSite e.im) = false) (howner : frOwner0 (rangeOf e.im r) (fedSite e.im) = e.id)
    (hwritten : sliceWritten s e.im (rangeOf e.im r) f x.ver = true) (hread : sliceFault e (rangeOf e.im r) f x.ver = none) :
    deltaSendSt r f s =
      (let v := deltaVals e (rangeOf e.im r) f x.ver
      let lead := leadOf e.im f
      if lead = fedSite e.im then modSlice r f (fun y => { y with deltas := y.deltas ++ [(fedSite e.im, v)] }) s
      else fedSend e.im 0 lead (frOwner0 (rangeOf e.im r) lead) r f (p40Bytes v)
        (modSlice r f (fun y => { y with sent := some (0, v), resend := [(lead, frOwner0 (rangeOf e.im r) lead)] }) s)) := by
  simp only [deltaSendSt, henv, hfind, hactive, hopen, huncombined, hunsent, hnone, howner, hwritten, hread, Option.isSome_none,
    bne_self_eq_false, Bool.not_true, Bool.or_self, Bool.false_eq_true, if_false, beq_iff_eq]

/-- The lead keeps and acknowledges a change that comes within the wait, the first of its site. -/
theorem deltaSt_of_new {s : State} (port : Nat) {g : FedDgram} {im : Image} {r f site : Nat} {x : Slice} (himage : s.image = some im)
    (hgood : fedGood s im 0 g = true) (hrange : fedRange im g = some r) (hslice : bits g.header 88 40 = f)
    (hsite : bits g.header 16 4 = site) (hfind : findSlice (fedClock im g s) r f = some x) (hlead : leadOf im f = fedSite im)
    (howner : frOwner0 (rangeOf im r) (fedSite im) = myId s.fabric) (hnew : x.deltas.any (fun d => d.1 == site) = false)
    (huncombined : x.combined = false) (hopen : x.done = false) (hinTime : s.time.now < x.departed + fedWait im) :
    deltaSt port g s = fedSend im 2 site (frOwner0 (rangeOf im r) site) r f []
      (modSlice r f (fun y => { y with deltas := y.deltas ++ [(site, fedVals g)] }) (fedClock im g s)) := by
  have hnoneLate : x.late.any (fun _ => false) = false := by simp
  simp only [deltaSt, himage, hgood, hrange, hslice, hsite, hfind, hlead, howner, hnew, huncombined, hopen, hinTime.not_ge,
    hnoneLate, bne_self_eq_false, Bool.not_true, decide_false, Bool.or_self, Bool.false_and, Bool.false_eq_true, if_false]

/-- The lead that holds its own change combines once every site's has come or the wait is over, and sends the result to the owners. -/
theorem combineSt_of_due {s : State} {r f : Nat} {e : Env} {x : Slice} (henv : envOf s = some e) (hfind : findSlice s r f = some x)
    (hactive : s.run.active = true) (hopen : x.done = false) (huncombined : x.combined = false) (hlead : leadOf e.im f = fedSite e.im)
    (howner : frOwner0 (rangeOf e.im r) (fedSite e.im) = e.id) (hown : x.deltas.any (fun d => d.1 == fedSite e.im) = true)
    (hdue : (∀ j < fedSites e.im, frOwner0 (rangeOf e.im r) j ≠ 0xFFFF → x.deltas.any (fun d => d.1 == j) = true) ∨
      x.departed + fedWait e.im ≤ s.time.now)
    (hread : sliceFault e (rangeOf e.im r) f x.ver = none) :
    combineSt r f s =
      (let rg := rangeOf e.im r
      let vals := combineVals e rg f x
      let dests := ((List.range (fedSites e.im)).flatMap (fun j =>
        (if j = fedSite e.im then [] else [(j, frOwner0 rg j)]) ++ [(j, frOwner1 rg j)])).filter (fun d => d.2 != 0xFFFF)
      sendAll e.im r f (takeResult rg f x.ver vals (modSlice r f (fun y =>
        { y with combined := true, done := true, late := y.late.filter (fun l => !y.deltas.any (fun d => d.1 == l.1)),
                 sent := some (1, vals.map enc40), resend := dests }) s))) := by
  have hgo : (!((List.range (fedSites e.im)).filter (fun j => frOwner0 (rangeOf e.im r) j != 0xFFFF)).all
      (fun j => x.deltas.any (fun d => d.1 == j)) && decide (s.time.now < x.departed + fedWait e.im)) = false := by
    rcases hdue with hall | hover
    · have hevery : ((List.range (fedSites e.im)).filter (fun j => frOwner0 (rangeOf e.im r) j != 0xFFFF)).all
          (fun j => x.deltas.any (fun d => d.1 == j)) = true := by
        refine List.all_eq_true.2 (fun j hj => ?_)
        obtain ⟨hsite, howned⟩ := List.mem_filter.1 hj
        exact hall j (List.mem_range.1 hsite) (bne_iff_ne.1 howned)
      rw [hevery, Bool.not_true, Bool.false_and]
    · rw [decide_eq_false hover.not_gt, Bool.and_false]
  simp only [combineSt, henv, hfind, hactive, hopen, huncombined, hlead, howner, hown, hgo, hread, bne_self_eq_false, Bool.not_true,
    Bool.or_self, Bool.false_eq_true, if_false, beq_iff_eq]

/-- An owner takes in and acknowledges the result of the slice's lead, once its own updates are written. -/
theorem resultSt_of_new {s : State} (port : Nat) {g : FedDgram} {e : Env} {r f site : Nat} {x : Slice} (henv : envOf s = some e)
    (hgood : fedGood s e.im 1 g = true) (hrange : fedRange e.im g = some r) (hslice : bits g.header 88 40 = f)
    (hsite : bits g.header 16 4 = site) (hfind : findSlice (fedClock e.im g s) r f = some x) (hlead : site = leadOf e.im f)
    (hother : ¬ (leadOf e.im f = fedSite e.im ∧ frOwner0 (rangeOf e.im r) site = e.id)) (huncombined : x.combined = false)
    (hopen : x.done = false) (hwritten : sliceWritten s e.im (rangeOf e.im r) f x.ver = true) :
    resultSt port g s = fedSend e.im 2 site (frOwner0 (rangeOf e.im r) site) r f []
      (takeResult (rangeOf e.im r) f x.ver ((fedVals g).map dec40)
        (modSlice r f (fun y => { y with combined := true, done := true, resend := [] }) (fedClock e.im g s))) := by
  have hnotOwn : (site != leadOf e.im f || (leadOf e.im f == fedSite e.im && frOwner0 (rangeOf e.im r) site == e.id)) = false := by
    subst hlead
    simpa using hother
  simp only [resultSt, henv, hgood, hrange, hslice, hsite, hfind, hnotOwn, huncombined, hopen, hwritten, Bool.not_true, Bool.or_self,
    Bool.false_eq_true, if_false]

/-- A slice without its result twice the wait after its departure is given up with warning 0x0507. -/
theorem resultTimeoutSt_of_over {s : State} {r f : Nat} {im : Image} {x : Slice} (himage : s.image = some im)
    (hfind : findSlice s r f = some x) (hopen : x.done = false) (hactive : s.run.active = true)
    (hover : x.departed + 2 * fedWait im ≤ s.time.now) :
    resultTimeoutSt r f s = warnRun 0x0507 (modSlice r f (fun y => { y with done := true, resend := [] }) s) := by
  simp only [resultTimeoutSt, himage, hfind, hopen, hactive, hover.not_gt, Bool.not_true, decide_false, Bool.or_self,
    Bool.false_eq_true, if_false]

/-- Within twice the wait, what a slice holds is sent again to those who have not acknowledged it. -/
theorem resendSt_of_inTime {s : State} {r f : Nat} {im : Image} {x : Slice} (himage : s.image = some im)
    (hfind : findSlice s r f = some x) (hinTime : s.time.now < x.departed + 2 * fedWait im) :
    resendSt r f s = sendAll im r f s := by
  simp only [resendSt, himage, hfind, hinTime.not_ge, if_false]

/-- An acknowledgement takes its sender off the slice's list. -/
theorem fedAckSt_of_known {s : State} (port : Nat) {g : FedDgram} {im : Image} {r : Nat} {a : Nat × Nat × Nat × Nat}
    (himage : s.image = some im) (hgood : fedGood s im 2 g = true) (hrange : fedRange im g = some r)
    (hsender : s.federation.addrs.find? (fun a => a.1 == bits g.header 16 4 && a.2.2.2 == g.srcIp) = some a) :
    fedAckSt port g s = modSlice r (bits g.header 88 40) (fun y =>
      { y with resend := y.resend.filter (· != (a.1, a.2.1)) }) (fedClock im g s) := by
  simp only [fedAckSt, himage, hgood, hrange, hsender, Bool.not_true, Bool.false_eq_true, if_false]

/-- Settles O45: each event past its conditions takes its last branch. -/
theorem federationCommandsComplete : Obligations.FederationCommandsComplete := by
  unfold Obligations.FederationCommandsComplete
  refine ⟨?deltaSend, ?delta, ?combine, ?result, ?timeout, ?resend, ?ack⟩
  case deltaSend =>
    intro s r f e x henv hfind rg site lead v hactive hopen huncombined hunsent hnone howner hwritten hread
    exact congrArg Host.Outcome.next
      (deltaSendSt_of_due henv hfind hactive hopen huncombined hunsent hnone howner hwritten hread)
  case delta =>
    intro s port g im r x himage hgood hrange s1 f site rg hfind hlead howner hnew huncombined hopen hinTime
    exact congrArg Host.Outcome.next
      (deltaSt_of_new port himage hgood hrange rfl rfl hfind hlead howner hnew huncombined hopen hinTime)
  case combine =>
    intro s r f e x henv hfind rg site vals dests hactive hopen huncombined hlead howner hown hdue hread
    exact congrArg Host.Outcome.next
      (combineSt_of_due henv hfind hactive hopen huncombined hlead howner hown hdue hread)
  case result =>
    intro s port g e r x henv hgood hrange s1 f site rg hfind hlead hother huncombined hopen hwritten
    exact congrArg Host.Outcome.next
      (resultSt_of_new port henv hgood hrange rfl rfl hfind hlead hother huncombined hopen hwritten)
  case timeout =>
    intro s r f im x himage hfind hopen hactive hover
    exact congrArg Host.Outcome.next (resultTimeoutSt_of_over himage hfind hopen hactive hover)
  case resend =>
    intro s r f im x himage hfind hinTime
    exact congrArg Host.Outcome.next (resendSt_of_inTime himage hfind hinTime)
  case ack =>
    intro s port g im r a himage hgood hrange hsender
    exact congrArg Host.Outcome.next (fedAckSt_of_known port himage hgood hrange hsender)

end Sys2Proof.Proofs
end

section
/-! PROOFS. Stage links and re-cut moves: what each event does once its conditions hold (R367 to R372). -/

namespace Sys2Proof.Proofs
open Sys2Proof.Machine Sys2Proof.Safety Sys2Proof.Laws

/-- A `BULK` frame of this step or the next is of a step that it may be of. -/
theorem bulk_step_admitted {step now next : Nat} (h : step = now ∨ step = next) : (step != now && step != next) = false := by
  rcases h with rfl | rfl <;> simp

/-- A sending link whose counter has reached its value sends its scale part and its tensor, once a step. -/
theorem linkSendSt_of_due {s : State} {link l : Nat} {e : Env} {bs : List Byte} (henv : envOf s = some e)
    (hlink : e.im.links[link]? = some l) (hsends : liRecv l = false) (hactive : s.run.active = true) (hbegun : s.run.begun = true)
    (hunsent : s.mapping.linkSent.contains (link, s.run.step) = false) (hmet : waitMet s (liCtr l) (liValue l) = true)
    (hread : vaRead s.memory e.im.regions 0
      (dBase (descOf e.im (liLocal l)) + halfOff e (descOf e.im (liLocal l)) (curHalf e (liLocal l)))
      (occupied e (descOf e.im (liLocal l))) = .ok bs)
    (hscale : rangesFault s.memory e.im.regions (scaleRanges (descOf e.im (liLocal l))) = none) :
    linkSendSt link s =
      (let d := descOf e.im (liLocal l)
      sendOrFail (bulkFrames s 0 (if liCmp l = true then some (dFmt d) else none) (liPeer l) (liDescPeer l) link s.run.step (link % 256)
        (scalePart e d ++ bs)) { s with mapping := { s.mapping with linkSent := s.mapping.linkSent ++ [(link, s.run.step)] } }) := by
  simp only [linkSendSt, henv, hlink, hsends, hactive, hbegun, hunsent, hmet, hread, hscale, Bool.not_true, Bool.or_self,
    Bool.false_eq_true, if_false]

/-- A frame of a receiving link that has not come before lands in the step's buffer; the last byte of the step's own stream signals. -/
theorem linkFrameSt_of_new {s : State} {f : Frame} {e : Env} {i l step off buf : Nat} (htype : f.ftype = 6) (hkind : tsp f 128 4 = 0)
    (henv : envOf s = some e) (hactive : s.run.active = true) (hentry : linkEntryFor e.im f = some (i, l)) (hstep : tsp f 224 32 = step)
    (hoff : tsp f 160 40 = off) (hinTime : step = s.run.step ∨ step = (s.run.step + 1) % 2 ^ 32)
    (hnew : streamHas s.mapping.links i step off = false) (hbuf : (if step % 2 = 0 then liLocal l else liOdd l) = buf)
    (hoffsets : fmtScaled (dFmt (descOf e.im buf)) = true →
      badOffsets (windowOf (256 * off) f.payload 256 (256 + tileCount (descOf e.im buf))) = false)
    (hwrite : rangeFault e 18 (linkRanges e (descOf e.im buf) (256 * off) f.payload) = none) :
    linkFrameSt f s =
      (let links := addFrame i step off f.payload.length (tsp f 133 1 == 1) s.mapping.links
      let s1 := syncScale buf (takeFrame f { s with
        memory := landLink e (descOf e.im buf) (256 * off) f.payload s.memory, mapping := { s.mapping with links := links } })
      if step = s.run.step ∧ streamWhole links i step = true then addCtr (liCtr l) 1 s1 else s1) := by
  have hgood : (fmtScaled (dFmt (descOf e.im buf)) &&
      badOffsets (windowOf (256 * off) f.payload 256 (256 + tileCount (descOf e.im buf)))) = false := by
    cases hscaled : fmtScaled (dFmt (descOf e.im buf)) with
    | false => rfl
    | true => exact hoffsets hscaled
  simp only [linkFrameSt, henv, htype, hkind, hactive, hentry, hstep, hoff, bulk_step_admitted hinTime, hnew, beq_iff_eq, hbuf, hgood,
    hwrite, bne_self_eq_false, Bool.not_true, Bool.or_self, Bool.false_eq_true, if_false, Bool.and_eq_true]

/-- The moves of a departed list leave once the old phase's use has ended, and the tiles held here under both tables are copied. -/
theorem movesSendSt_of_due {s : State} {list st : Nat} {im : Image} (himage : s.image = some im)
    (hfirst : firstStep s.mapping.recutDep s.mapping.recutSent list = some st) (hactive : s.run.active = true)
    (hdue : stepOver s st = true ∨ st = s.run.step ∧ s.run.begun = true ∧ (rcPhase (recutOf im list).head = 1 ∨
      waitMet s (rcDoneCtr (recutOf im list).head) (rcDoneValue (recutOf im list).head) = true))
    (hnoneLost : moveLost s im (recutOf im list) = false) :
    movesSendSt list s = copyHeldTiles list (sendMoves list st (fun _ => true)
      { s with mapping := { s.mapping with recutSent := s.mapping.recutSent ++ [(list, st)] } }) := by
  have hgo : (stepOver s st || (st == s.run.step && s.run.begun && (rcPhase (recutOf im list).head == 1 ||
      waitMet s (rcDoneCtr (recutOf im list).head) (rcDoneValue (recutOf im list).head)))) = true := by
    simpa [and_assoc] using hdue
  simp only [movesSendSt, himage, hfirst, hactive, hgo, hnoneLost, Bool.not_true, Bool.or_self, Bool.false_eq_true, if_false]

/-- A frame of a move to this module that has not come before lands in staging: its tiles at the move's place, its offsets behind all
incoming tiles (log entry 29). -/
theorem moveFrameSt_of_new {s : State} {f : Frame} {e : Env} {list m i before tilesBefore step off : Nat} (htype : f.ftype = 6)
    (hkind : tsp f 128 4 = 2) (henv : envOf s = some e) (hactive : s.run.active = true) (hstep : tsp f 224 32 = step)
    (hoff : tsp f 160 40 = off) (hinTime : step = s.run.step ∨ step = (s.run.step + 1) % 2 ^ 32)
    (hmove : moveFor s e.im f = some (list, m, i, before, tilesBefore))
    (hnew : streamHas s.mapping.moves (moveKey list i) step off = false) {r : Recut} (hr : recutOf e.im list = r) {n st : Nat}
    (hn : mvTiles m * tileBytes (rtDescs e.im (r.tensors.getD (mvTensor m) 0)).2 = n) (hst : rcStage r.head step = st)
    (hoffsets : badOffsets (windowOf (256 * off) f.payload n (n + mvTiles m)) = false)
    (hwrite : rangeFault e 18 (windowRange (st + before) (windowOf (256 * off) f.payload 0 n) ++
      windowRange (st + incomingBytes e.im e.id r + tilesBefore) (windowOf (256 * off) f.payload n (n + mvTiles m))) = none) :
    moveFrameSt f s = takeFrame f { s with
      memory := putWindow e (st + incomingBytes e.im e.id r + tilesBefore) (windowOf (256 * off) f.payload n (n + mvTiles m))
        (putWindow e (st + before) (windowOf (256 * off) f.payload 0 n) s.memory)
      mapping := { s.mapping with
        moves := addFrame (moveKey list i) step off f.payload.length (tsp f 133 1 == 1) s.mapping.moves } } := by
  simp only [moveFrameSt, henv, htype, hkind, hactive, hstep, hoff, bulk_step_admitted hinTime, hmove, hnew, hr, hn, hst, hoffsets,
    hwrite, bne_self_eq_false, Bool.not_true, Bool.or_self, Bool.false_eq_true, if_false]

/-- Memory after the staged tiles of a list have taken their places, with their offsets. -/
def copyStaged (e : Env) (r : Recut) (st : Nat) (m : Memory) : Memory :=
  (incoming e.im e.id r).foldl (fun mm m =>
    let d := (rtDescs e.im (r.tensors.getD (mvTensor m.1) 0)).2
    (mvRange m.1).zipIdx.foldl (fun mm t =>
      putTile e d t.1 (vaPeek e.mem e.im.regions (rcStage r.head st + m.2.2.1 + t.2 * tileBytes d) (tileBytes d))
        (peekN e (rcStage r.head st + incomingBytes e.im e.id r + m.2.2.2 + t.2) 1) mm) mm) m

/-- With every move of a list in, the staged tiles take their places and the list's counter says so. -/
theorem stageCopySt_of_whole {s : State} {list st : Nat} {e : Env} (henv : envOf s = some e)
    (hfirst : firstStep s.mapping.recutSent s.mapping.recutDone list = some st) (hactive : s.run.active = true)
    (hwhole : (incoming e.im e.id (recutOf e.im list)).all (fun m => streamWhole s.mapping.moves (moveKey list m.2.1) st) = true)
    (hread : stagedFault e (recutOf e.im list) (rcStage (recutOf e.im list).head st) (incoming e.im e.id (recutOf e.im list)) = none) :
    stageCopySt list s = addCtr (rcMoveCtr (recutOf e.im list).head) 1 { s with
      memory := copyStaged e (recutOf e.im list) st s.memory
      mapping := { s.mapping with recutDone := s.mapping.recutDone ++ [(list, st)] } } := by
  simp only [stageCopySt, henv, hfirst, hactive, hwhole, hread, Bool.not_true, Bool.or_self, Bool.false_eq_true, if_false]
  rfl

/-- Settles O44: each event past its conditions takes its last branch. Where staging holds the offsets is log entry 29, and that a list of
`PHASE` 1 moves at once is log entry 64. -/
theorem stageLinkAndRecutCommandsComplete : Obligations.StageLinkAndRecutCommandsComplete := by
  unfold Obligations.StageLinkAndRecutCommandsComplete
  refine ⟨?linkSend, ?linkFrame, ?movesSend, ?moveFrame, ?stageCopy⟩
  case linkSend =>
    intro s link l e bs henv hlink hsends hactive hbegun hunsent hmet d hread hscale
    exact congrArg Host.Outcome.next (linkSendSt_of_due henv hlink hsends hactive hbegun hunsent hmet hread hscale)
  case linkFrame =>
    intro s f e i l htype hkind henv hactive hentry step off hinTime hnew buf d hoffsets hwrite links s1
    exact congrArg Host.Outcome.next ((ofType_of_operation _ s htype hkind).trans
      (linkFrameSt_of_new htype hkind henv hactive hentry rfl rfl hinTime hnew rfl hoffsets hwrite))
  case movesSend =>
    intro s list st im himage hfirst hactive hdue hnoneLost
    exact congrArg Host.Outcome.next (movesSendSt_of_due himage hfirst hactive hdue hnoneLost)
  case moveFrame =>
    intro s f e list m i before tilesBefore htype hkind henv hactive step off hinTime hmove hnew r n st w1 w2 hoffsets hwrite m1 m2 mv
    exact congrArg Host.Outcome.next ((ofType_of_operation _ s htype hkind).trans
      (moveFrameSt_of_new htype hkind henv hactive rfl rfl hinTime hmove hnew rfl rfl rfl hoffsets hwrite))
  case stageCopy =>
    intro s list st e henv hfirst hactive r ins hwhole base exps hread mem
    exact congrArg Host.Outcome.next (stageCopySt_of_whole henv hfirst hactive hwhole hread)

end Sys2Proof.Proofs
end

section
/-! PROOFS. The life of a command: which command a step runs, the window of sequence numbers, and the datagrams that a check turns away
(R384, R385, R396 to R400). -/

namespace Sys2Proof.Proofs
open Sys2Proof.Machine Sys2Proof.Safety Sys2Proof.Laws

/-- Settles O1: the two forms of the queue; that an empty queue is idle time is the choice of log entry 4. -/
theorem stepRunsFrontCommand : Obligations.StepRunsFrontCommand := by
  unfold Obligations.StepRunsFrontCommand
  refine ⟨?front, ?empty⟩
  case front =>
    intro c rest s hqueue
    simp only [step, hqueue]
  case empty =>
    intro s hqueue hnoneWaits
    simp only [step, hqueue, hnoneWaits]

/-! A command that is authentic and comes from its session's address (R396). -/

/-- A command datagram that passes the checks of R396 up to the sequence number. -/
structure Authentic (opc : Nat) (s : State) (x : Session) (d : Datagram) : Prop where
  ready : ready s = true
  live : findSession s.sessions d.sid = some x
  plain : s.sessions.resuming = false
  tag : d.tag = cmdTag x.kHm d opc
  major : d.major = x.major
  minor : d.minor = x.minor
  ip : d.srcIp = x.ip
  udp : d.srcUdp = x.udp

theorem authentic_of_accepted {opc : Nat} {s : State} {x : Session} {d : Datagram} (h : Accepted opc s x d) : Authentic opc s x d :=
  ⟨h.ready, h.live, h.plain, h.tag, h.major, h.minor, h.ip, h.udp⟩

/-- The code with which a new number is refused, 0 where it is not. -/
def refusalCode (opc : Nat) (part : Part) (x : Session) (d : Datagram) (s : State) : Nat :=
  if formCheck x d opc != 0 then formCheck x d opc
  else if isRefusal (part s x d).code then (part s x d).code else 0

/-- What becomes of a new number, in the state in which its session's idle time has started again. -/
def takeNumber (opc : Nat) (c : Instr) (part : Part) (x : Session) (d : Datagram) (s : State) : State :=
  if refusalCode opc part x d s != 0 then refuse x d opc (refusalCode opc part x d s) s
  else if 64 ≤ x.slots then
    refuse x d opc 0x0108 { s with
      sessions := modAcct s.sessions x.sid (fun a => { a with windowFull := satAdd 32 a.windowFull 1 }) }
  else
    let s1 := { s with sessions := modSession s.sessions x.sid (fun y => acceptSeq y d.seq opc d.hostTag) }
    if mustWait (acceptedSession opc x d) d.seq d.fence then
      { s1 with sessions := modSession s1.sessions x.sid (fun y => { y with fenced := y.fenced ++ [c] }) }
    else carryOut (acceptedSession opc x d) d opc part s1

/-- The fate of an authentic command, by the class of its number. -/
theorem ycp_of_authentic {opc : Nat} {c : Instr} {part : Part} {s : State} {x : Session} {d : Datagram} (h : Authentic opc s x d) :
    ycp opc c part d s =
      if seqClass x d.seq == 0 then ycpDiscard d.port (authState x s)
      else if seqClass x d.seq == 2 then answerRepeat x d (authState x s)
      else takeNumber opc c part x d (authState x s) := by
  simp only [ycp, h.ready, h.live, h.plain, ← h.tag, h.major, h.minor, h.ip, h.udp, bne_self_eq_false, Bool.not_true, Bool.false_and,
    Bool.or_self, Bool.false_eq_true, if_false]
  rfl

section
variable {opc : Nat} {c : Instr} {part : Part} {s : State} {x : Session} {d : Datagram}

theorem refusalCode_of_form (h : formCheck x d opc ≠ 0) : refusalCode opc part x d s = formCheck x d opc := by
  rw [refusalCode, if_pos (bne_iff_ne.2 h)]

theorem refusalCode_of_part (hform : formCheck x d opc = 0) (h : isRefusal (part s x d).code = true) :
    refusalCode opc part x d s = (part s x d).code := by
  simp only [refusalCode, hform, h, bne_self_eq_false, Bool.false_eq_true, if_false, if_true]

theorem refusalCode_of_accepted (hform : formCheck x d opc = 0) (h : isRefusal (part s x d).code = false) :
    refusalCode opc part x d s = 0 := by
  simp only [refusalCode, hform, h, bne_self_eq_false, Bool.false_eq_true, if_false]

/-- A number that is refused is answered, and nothing more. -/
theorem takeNumber_of_refused (h : refusalCode opc part x d s ≠ 0) :
    takeNumber opc c part x d s = refuse x d opc (refusalCode opc part x d s) s := by
  rw [takeNumber, if_pos (bne_iff_ne.2 h)]

/-- With no free slot a new number is answered 0x0108 and counted. -/
theorem takeNumber_of_full (hcode : refusalCode opc part x d s = 0) (hfull : 64 ≤ x.slots) :
    takeNumber opc c part x d s = refuse x d opc 0x0108 { s with
      sessions := modAcct s.sessions x.sid (fun a => { a with windowFull := satAdd 32 a.windowFull 1 }) } := by
  simp only [takeNumber, hcode, hfull, bne_self_eq_false, Bool.false_eq_true, if_false, if_true]

/-- Behind a closed fence an accepted number waits. -/
theorem takeNumber_of_waiting (hcode : refusalCode opc part x d s = 0) (hslot : x.slots < 64)
    (hwait : mustWait (acceptedSession opc x d) d.seq d.fence = true) :
    takeNumber opc c part x d s =
      (let s1 := { s with sessions := modSession s.sessions x.sid (fun y => acceptSeq y d.seq opc d.hostTag) }
      { s1 with sessions := modSession s1.sessions x.sid (fun y => { y with fenced := y.fenced ++ [c] }) }) := by
  simp only [takeNumber, hcode, hslot.not_ge, hwait, bne_self_eq_false, Bool.false_eq_true, if_false, if_true]

end

/-! The window (R397). -/

/-- The signed distance of a number from H, by how far it is ahead and how far behind. -/
theorem seqDist_eq {q hi : Nat} (hhi : hi < 2 ^ 32) :
    seqDist q hi = if (q + 2 ^ 32 - hi) % 2 ^ 32 < 2 ^ 31 then (((q + 2 ^ 32 - hi) % 2 ^ 32 : Nat) : Int)
      else (((q + 2 ^ 32 - hi) % 2 ^ 32 : Nat) : Int) - (2 ^ 32 : Nat) := by
  rw [seqDist, toSigned, Nat.mod_eq_of_lt hhi]

/-- More than 64 ahead and more than 127 behind is outside the window. -/
theorem seqClass_outside {x : Session} {q : Nat} (hhi : x.hi < 2 ^ 32)
    (hahead : 64 < (q + 2 ^ 32 - x.hi) % 2 ^ 32) (hbehind : 127 < (x.hi + 2 ^ 32 - q) % 2 ^ 32) :
    seqClass x q = 0 := by
  have hd : 64 < seqDist q x.hi ∨ seqDist q x.hi < -127 := by
    rw [seqDist_eq hhi]
    split <;> omega
  have hnear : (decide (0 < seqDist q x.hi) && decide (seqDist q x.hi ≤ 64)) = false := by
    rw [Bool.and_eq_false_iff, decide_eq_false_iff_not, decide_eq_false_iff_not]
    omega
  have hfar : (decide (-127 ≤ seqDist q x.hi) && decide (seqDist q x.hi ≤ 0)) = false := by
    rw [Bool.and_eq_false_iff, decide_eq_false_iff_not, decide_eq_false_iff_not]
    omega
  simp only [seqClass, hnear, hfar, Bool.false_eq_true, if_false, ite_self]

/-- Up to 64 ahead is new. -/
theorem seqClass_ahead {x : Session} {q : Nat} (hhi : x.hi < 2 ^ 32) (hpos : 0 < q)
    (hfirst : 1 ≤ (q + 2 ^ 32 - x.hi) % 2 ^ 32) (hlast : (q + 2 ^ 32 - x.hi) % 2 ^ 32 ≤ 64) : seqClass x q = 1 := by
  have hd : 0 < seqDist q x.hi ∧ seqDist q x.hi ≤ 64 := by
    rw [seqDist_eq hhi]
    split <;> omega
  simp only [seqClass, beq_false_of_ne hpos.ne', hd, decide_true, Bool.and_self, Bool.false_eq_true, if_false, if_true]

/-- Up to 127 behind is a repeat where it is recorded, and new where it is not. -/
theorem seqClass_behind {x : Session} {q : Nat} (hhi : x.hi < 2 ^ 32) (hpos : 0 < q) (hq : q < 2 ^ 32)
    (hbehind : (x.hi + 2 ^ 32 - q) % 2 ^ 32 ≤ 127) : seqClass x q = if recorded x q then 2 else 1 := by
  have hd : seqDist q x.hi ≤ 0 ∧ -127 ≤ seqDist q x.hi := by
    rw [seqDist_eq hhi]
    split <;> omega
  simp only [seqClass, beq_false_of_ne hpos.ne', hd.1.not_gt, hd, decide_true, decide_false, Bool.and_self, Bool.false_and,
    Bool.false_eq_true, if_false, if_true]

/-- Settles O52: the class of the number says its fate, and a new number's part, slots and fence what becomes of it. -/
theorem sequenceWindow : Obligations.SequenceWindow := by
  unfold Obligations.SequenceWindow
  intro opc c part hexec s x d hready hlive hplain htag hmajor hminor hip hudp hhi hpos hseq ahead behind
  have hauth : Authentic opc s x d := ⟨hready, hlive, hplain, htag, hmajor, hminor, hip, hudp⟩
  have hrun : exec (c d) s = .next (if seqClass x d.seq == 0 then ycpDiscard d.port (authState x s)
      else if seqClass x d.seq == 2 then answerRepeat x d (authState x s)
      else takeNumber opc (c d) part x d (authState x s)) := by rw [hexec, ycp_of_authentic hauth]
  refine ⟨?outside, ?repeated, ?new⟩
  case outside =>
    intro hahead hbehind
    rw [hrun, seqClass_outside hhi hahead hbehind]
    rfl
  case repeated =>
    intro r hbehind hfind
    have hseen : (r.seq == d.seq) = true := List.find?_some (p := fun r : SeqRec => r.seq == d.seq) hfind
    have hrecorded : recorded x d.seq = true := List.any_eq_true.2 ⟨r, List.mem_of_find?_eq_some hfind, hseen⟩
    rw [hrun, seqClass_behind hhi hpos hseq hbehind, if_pos hrecorded]
    simp only [Nat.reduceBEq, Bool.false_eq_true, if_false, if_true, answerRepeat, hfind]
    cases r.reply <;> rfl
  case new =>
    intro hclass hform haccepts
    have hnew : seqClass x d.seq = 1 := by
      rcases hclass with ⟨hfirst, hlast⟩ | ⟨hbehind, hnone⟩
      · exact seqClass_ahead hhi hpos hfirst hlast
      · have hunrecorded : ¬ recorded x d.seq = true := by
          rw [recorded, Bool.not_eq_true]
          simpa using hnone
        rw [seqClass_behind hhi hpos hseq hbehind, if_neg hunrecorded]
    have hcode := refusalCode_of_accepted (part := part) hform haccepts
    have htaken : exec (c d) s = .next (takeNumber opc (c d) part x d (authState x s)) := by rw [hrun, hnew]; rfl
    exact ⟨fun hfull => htaken.trans (congrArg _ (takeNumber_of_full hcode hfull)),
      fun hslot hwait => htaken.trans (congrArg _ (takeNumber_of_waiting hcode hslot hwait))⟩

/-! Datagrams that a check turns away (R384, R385, R396). -/

/-- A datagram that fails a check of its headers is discarded and counted. -/
theorem refusedSt_of_headers {s : State} {r : RawDatagram} (hready : ready s = true) (hport : r.dstUdp = s.settings.ycpUdp)
    (hbad : r.sumOk = false ∨ r.udpLen < 48 ∨ 1432 < r.udpLen ∨ r.magic ≠ 0x4359 ∨ r.hlen ≠ 32 ∨ r.resp = true ∨
      r.d.plen + 48 ≠ r.udpLen) : refusedSt r s = ycpDiscard r.d.port s := by
  have hfails : (!r.sumOk || decide (r.udpLen < 48) || decide (1432 < r.udpLen) || r.magic != 0x4359 || r.hlen != 32 || r.resp ||
      r.d.plen + 48 != r.udpLen) = true := by simpa [or_assoc] using hbad
  simp only [refusedSt, hready, hport, hfails, bne_self_eq_false, Bool.not_true, Bool.or_self, Bool.false_eq_true, if_false, if_true]

/-- An authentic datagram with a new number that fails a check of its form is refused with that check's code. -/
theorem refusedSt_of_form {s : State} {r : RawDatagram} {x : Session} (hready : ready s = true) (hport : r.dstUdp = s.settings.ycpUdp)
    (hsum : r.sumOk = true) (hshort : 48 ≤ r.udpLen) (hlong : r.udpLen ≤ 1432) (hmagic : r.magic = 0x4359) (hhlen : r.hlen = 32)
    (hresp : r.resp = false) (hplen : r.d.plen + 48 = r.udpLen) (hhello : r.opcode ≠ 0x0001) (hopen : r.opcode ≠ 0x0002)
    (hlive : findSession s.sessions r.d.sid = some x) (htag : r.d.tag = cmdTag x.kHm r.d r.opcode) (hmajor : r.d.major = x.major)
    (hminor : r.d.minor = x.minor) (hip : r.d.srcIp = x.ip) (hudp : r.d.srcUdp = x.udp) (hnew : seqClass x r.d.seq = 1)
    (hform : formCheck x r.d r.opcode ≠ 0) :
    refusedSt r s = refuse x r.d r.opcode (formCheck x r.d r.opcode) (authState x s) := by
  simp only [refusedSt, hready, hport, hsum, hshort.not_gt, hlong.not_gt, hmagic, hhlen, hresp, hplen, beq_false_of_ne hhello,
    beq_false_of_ne hopen, hlive, ← htag, hmajor, hminor, hip, hudp, hnew, bne_iff_ne.2 hform, bne_self_eq_false, Bool.not_true,
    decide_false, Bool.or_self, Bool.false_eq_true, if_false, if_true, Nat.reduceBEq]
  rfl

/-- Settles O25: a bad header discards the datagram; a bad form refuses it. The session's idle time has then started again (R401). -/
theorem refusedDatagramLeavesNoTrace : Obligations.RefusedDatagramLeavesNoTrace := by
  unfold Obligations.RefusedDatagramLeavesNoTrace
  refine ⟨?headers, ?form⟩
  case headers =>
    intro s r hready hport hbad
    exact congrArg Host.Outcome.next (refusedSt_of_headers hready hport hbad)
  case form =>
    intro s r x hready hport hsum hshort hlong hmagic hhlen hresp hplen hhello hopen hlive htag hmajor hminor hip hudp hnew hform
    exact congrArg Host.Outcome.next (refusedSt_of_form hready hport hsum hshort hlong hmagic hhlen hresp hplen hhello hopen hlive htag
      hmajor hminor hip hudp hnew hform)

/-! Commands of a session (R399 to R408). -/

/-- `OP_STATUS` of a kept operation answers its status word; of one that has ended and holds its slot, it returns the slot. -/
theorem opStatusPart_of_found {s : State} {x : Session} {d : Datagram} {o : Op}
    (hfind : findOp s.sessions x.sid (prm d 0 32) = some o) :
    opStatusPart s x d =
      (let freed := modSession (modOp s.sessions x.sid (prm d 0 32) (fun p => { p with slotHeld := false })) x.sid
        (fun y => { y with slots := y.slots - 1 })
      { ansBody (if opFinal o.state && o.slotHeld then { s with sessions := freed } else s) (statusWord o) 8 with
        handle := prm d 0 32 }) := by
  simp only [opStatusPart, hfind]
  cases opFinal o.state && o.slotHeld <;> rfl

/-- `OP_PARTIAL` of an operation with a partial result writes the step records into the host's range. -/
theorem opPartialPart_of_found {s : State} {x : Session} {d : Datagram} {o : Op} {k : RKey}
    (hfind : findOp s.sessions x.sid (prm d 0 32) = some o) (hpart : o.part = true)
    (hkey : hostKeyFor x (prm d 64 32) (prm d 96 64) (prm d 160 64) = some k) :
    opPartialPart s x d =
      (let data := ((keepLast 65536 s.run.records).flatMap recordBytes).take (prm d 160 64)
      ansBody (rdmaSend k.qpn k.key (prm d 96 64) data s)
        (pack [(0, 64, data.length), (64, 32, min 0xFFFFFFFF (o.progress + (if o.state == 5 then 1 else 0)))]) 12) := by
  simp only [opPartialPart, hfind, hpart, hkey, Bool.not_true, Bool.false_eq_true, if_false]

/-- `OP_ABORT` of an operation that has not ended asks for its abort. -/
theorem opAbortPart_of_found {s : State} {x : Session} {d : Datagram} {o : Op} (hfind : findOp s.sessions x.sid (prm d 0 32) = some o)
    (hopen : opFinal o.state = false) : opAbortPart s x d = { ansOk s with aborts := [(o.sid, o.handle)] } := by
  simp only [opAbortPart, hfind, hopen, Bool.false_eq_true, if_false]

/-- Settles O2: past its checks each part answers code 0. -/
theorem sessionCommandsComplete : Obligations.SessionCommandsComplete := by
  unfold Obligations.SessionCommandsComplete
  refine ⟨?ping, ?close, ?status, ?part, ?abort⟩
  case ping => exact completes_of_unconditional (fun _ _ => rfl) (by decide) (fun _ _ _ => rfl)
  case close => exact completes_of_unconditional (fun _ _ => rfl) (by decide) (fun _ _ _ => rfl)
  case status =>
    intro o
    exact completes_of_code_zero (fun _ _ => rfl) (by decide) (fun _ _ _ hfind => opStatusPart_of_found hfind) (fun _ _ _ => rfl)
  case part =>
    intro o k
    refine completes_of_code_zero (fun _ _ => rfl) (by decide) ?_ (fun _ _ _ => rfl)
    rintro s x d ⟨hfind, hpart, hkey⟩
    exact opPartialPart_of_found hfind hpart hkey
  case abort =>
    intro o
    refine completes_of_code_zero (fun _ _ => rfl) (by decide) ?_ (fun _ _ _ => rfl)
    rintro s x d ⟨hfind, hopen⟩
    exact opAbortPart_of_found hfind hopen

/-! Time, compression generations and the federation (R343, R355, R432). -/

/-- `TIME_SET` between runs, at a module that is not yet the master, sets the start of fabric time. -/
theorem timeSetPart_accepts {s : State} (x : Session) (d : Datagram) (hidle : s.run.active = false) (hmaster : s.time.master = false) :
    timeSetPart s x d = ansOk { s with time := { s.time with start := some (prm d 0 64 * 65536 + prm d 64 16) } } := by
  simp only [timeSetPart, hidle, hmaster, Bool.false_eq_true, if_false]

/-- `CMP_INSTALL` of a set that R355 admits, the newest generation having no predecessor, starts its loading at the ports in use. -/
theorem cmpInstallPart_accepts {s : State} (x : Session) {d : Datagram} {h set : List Byte}
    (hhead : vaRead s.memory (regionsOf s) 1 (prm d 0 48) 64 = .ok h)
    (hset : vaRead s.memory (regionsOf s) 1 (prm d 0 48) (128 + 128 * setField h 48 5) = .ok set)
    (hreserved : genSetReserved set = true) (hversion : setField set 0 16 = 1) (hadmitted : genSetOk s.fabric.newest set = true)
    (hfirst : genPred s.fabric s.fabric.newest = none) :
    cmpInstallPart s x d =
      (let f1 := { s.fabric with
        tables := spSet (genSucc s.fabric.newest) set s.fabric.tables
        newest := genSucc s.fabric.newest
        installing := some (x.sid, x.nextHandle, genSucc s.fabric.newest) }
      let r := loadPorts (genSucc s.fabric.newest) (portsInUse f1) f1
      ansLong { s with fabric := r.1, out := s.out ++ r.2 } 2) := by
  have hnone : (portsInUse s.fabric).any (fun _ => false) = false := by simp
  simp only [cmpInstallPart, hhead, hset, hreserved, hversion, hadmitted, hfirst, hnone, Nat.lt_irrefl, Nat.reduceBEq, Bool.not_true,
    Bool.or_self, Bool.false_eq_true, if_false]

/-- `FED_MAP_SET` of a unicast IPv6 address puts it in the place of the one that the module of the site had. -/
theorem fedMapSetPart_accepts {s : State} (x : Session) {d : Datagram} (hsome : ofBe (leBytes 16 (prm d 128 128)) ≠ 0)
    (hunicast : ofBe (leBytes 16 (prm d 128 128)) >>> 120 ≠ 0xFF) (hv6 : isMapped4 (ofBe (leBytes 16 (prm d 128 128))) = false) :
    fedMapSetPart s x d = ansOk { s with federation := { s.federation with
      addrs := s.federation.addrs.filter (fun a => !(a.1 == prm d 0 4 && a.2.1 == prm d 16 16)) ++
        [(prm d 0 4, prm d 16 16, if prm d 32 16 = 0 then 43601 else prm d 32 16, ofBe (leBytes 16 (prm d 128 128)))] } } := by
  simp only [fedMapSetPart, beq_false_of_ne hsome, beq_false_of_ne hunicast, hv6, Bool.false_and, Bool.or_self, Bool.false_eq_true,
    if_false, beq_iff_eq]

/-- `FED_KEY_SET` takes a secret that decrypts to 32 bytes. -/
theorem fedKeySetPart_of_key {s : State} {x : Session} {d : Datagram} {k : List Byte}
    (hkey : (Config.oaep s.settings.idN (prm d 0 3072)).filter (fun k => k.length == 32) = some k) :
    fedKeySetPart s x d = ansOk { s with federation := { s.federation with key := ofLe k } } := by
  obtain ⟨hsecret, hlen⟩ := Option.filter_eq_some_iff.1 hkey
  simp only [fedKeySetPart, hsecret, hlen, if_true]

/-- `FED_KEY_SET` refuses any other secret. -/
theorem fedKeySetPart_of_none {s : State} {x : Session} {d : Datagram}
    (hkey : (Config.oaep s.settings.idN (prm d 0 3072)).filter (fun k => k.length == 32) = none) :
    fedKeySetPart s x d = ansCode s 0x0105 := by
  cases hsecret : Config.oaep s.settings.idN (prm d 0 3072) with
  | none => simp only [fedKeySetPart, hsecret]
  | some k =>
    have hlen : (k.length == 32) = false := by simpa [hsecret, Option.filter] using hkey
    simp only [fedKeySetPart, hsecret, hlen, Bool.false_eq_true, if_false]

@[simp] theorem runState_federation (o : Nat) (x : Session) (d : Datagram) (s : State) :
    (runState o x d s).federation = s.federation := by
  simp [runState, acceptedState, authState]

/-- Settles O10: past its checks each part answers code 0; a key that does not decrypt is refused as any parameter is. -/
theorem domainCommandsComplete : Obligations.DomainCommandsComplete := by
  unfold Obligations.DomainCommandsComplete
  refine ⟨?timeSet, ?install, ?fedMap, ?fedKey⟩
  case timeSet =>
    refine completes_of_code_zero (fun _ _ => rfl) (by decide) ?_ (fun _ _ _ => rfl)
    rintro s x d ⟨hidle, hmaster⟩
    exact timeSetPart_accepts x d hidle hmaster
  case install =>
    intro h set
    refine completes_of_code_zero (fun _ _ => rfl) (by decide) ?_ (fun _ _ _ => rfl)
    rintro s x d ⟨hhead, hset, hreserved, hversion, hadmitted, hfirst⟩
    exact cmpInstallPart_accepts x hhead hset hreserved hversion hadmitted hfirst
  case fedMap =>
    refine completes_of_code_zero (fun _ _ => rfl) (by decide) ?_ (fun _ _ _ => rfl)
    rintro s x d ⟨hsome, hunicast, hv6⟩
    exact fedMapSetPart_accepts x hsome hunicast hv6
  case fedKey =>
    intro s x d hacc
    cases hkey : (Config.oaep s.settings.idN (prm d 0 3072)).filter (fun k => k.length == 32) with
    | some k =>
      have hrun := ycp_concludes (part := fedKeySetPart) (c := .fedKeySet d) hacc (by decide)
        (by rw [fedKeySetPart_of_key (s := authState x s) hkey]; rfl)
      rw [fedKeySetPart_of_key (by rw [runState_settings]; exact hkey), runState_federation] at hrun
      exact congrArg Host.Outcome.next hrun
    | none =>
      have hpart : fedKeySetPart (authState x s) x d = ansCode (authState x s) 0x0105 := fedKeySetPart_of_none hkey
      have hcode : refusalCode 0x050A fedKeySetPart x d (authState x s) = 0x0105 := by
        rw [refusalCode_of_part hacc.form (by rw [hpart]; rfl), hpart]
        rfl
      have hrun : ycp 0x050A (.fedKeySet d) fedKeySetPart d s = takeNumber 0x050A (.fedKeySet d) fedKeySetPart x d (authState x s) := by
        rw [ycp_of_authentic (authentic_of_accepted hacc), hacc.fresh]
        rfl
      rw [takeNumber_of_refused (by rw [hcode]; decide), hcode] at hrun
      exact congrArg Host.Outcome.next hrun

end Sys2Proof.Proofs
end

section
/-! PROOFS. How sessions open, end and run out, and the pre-emption of a transfer engine (R389 to R393, R401, R446 to R452). -/

namespace Sys2Proof.Proofs
open Sys2Proof.Machine Sys2Proof.Safety Sys2Proof.Laws

/-! Audit entries (R515). -/

/-- What an audit entry leaves in the log, from the log and the time before it. -/
theorem auditEntry_audit_eq {s : State} {a : Audit} {now : Nat} (haudit : s.audit = a) (hnow : nowNs s = now)
    (hwritable : a.writable = true) (opc code sid role event cert arg : Nat) :
    (auditEntry opc code sid role event cert arg s).audit = auditPush a opc code now sid role event cert arg := by
  subst haudit hnow
  exact auditEntry_audit _ _ _ _ _ _ _ _ hwritable

/-- An audit entry that can be written sends nothing. -/
theorem auditEntry_out_of_writable {s : State} (opc code sid role event cert arg : Nat) (h : s.audit.writable = true) :
    (auditEntry opc code sid role event cert arg s).out = s.out := by
  rw [auditEntry, if_pos h]

/-! Opening (R391 to R393). -/

/-- The provisional session that an accepted hello opens. -/
def helloProv (d : Datagram) (s : State) : ProvSession :=
  let held := s.sessions.prov.filter (fun p => decide (nowNs s < p.expires))
  let sid := freshFrom (1 + Config.firstId 0 s.free % (2 ^ 32 - 8192))
    (held.map (·.sid) ++ s.sessions.live.map (·.sid) ++ s.sessions.ops.map (·.sid))
  let nM := Config.free s.free % 2 ^ 256
  { sid := sid, port := d.port, ip := d.srcIp, udp := d.srcUdp, role := bits d.params 32 2, prio := bits d.params 34 2,
    fp := bits d.params 128 256, nH := bits d.params 384 256, nM := nM, major := 1, minor := 0, helloParams := d.params,
    replyParams := helloBody s d 0 sid nM <<< 64, expires := nowNs s + secondNs }

/-- The state in which an accepted hello makes its provisional session: the hello counted, the module awake. -/
def helloState (s : State) : State :=
  wakeUp (some 1) { s with sessions := { s.sessions with
    helloTimes := s.sessions.helloTimes.filter (fun t => decide (nowNs s < t + secondNs)) ++ [nowNs s] } }

/-- A good hello from an address without a session, with room for it, opens a provisional session behind those that still stand. -/
theorem helloSt_opens {s : State} {d : Datagram} (hready : ready s = true) (hcode : helloCode d = 0)
    (hrate : (s.sessions.helloTimes.filter (fun t => decide (nowNs s < t + secondNs))).length < 64)
    (hnone : s.sessions.live.all (fun x => !(x.ip == d.srcIp && x.udp == d.srcUdp)) = true)
    (hroom : (s.sessions.prov.filter (fun p => decide (nowNs s < p.expires))).length < 16) :
    helloSt d s =
      (let s1 := helloState s
      let p := helloProv d s1
      emit [helloReply d { code := 0, warn := false, handle := 0, body := helloBody s1 d 0 p.sid p.nM, blen := 432 }]
        { s1 with
          sessions := { s1.sessions with prov := s1.sessions.prov.filter (fun q => decide (nowNs s1 < q.expires)) ++ [p] }
          free := s1.free + 1 }) := by
  have hold : s.sessions.live.filter (fun x => x.ip == d.srcIp && x.udp == d.srcUdp) = [] := by
    refine List.filter_eq_nil_iff.2 (fun x hx => ?_)
    have hother := List.all_eq_true.1 hnone x hx
    rwa [Bool.not_eq_true', ← Bool.not_eq_true] at hother
  have hroom' : ((helloState s).sessions.prov.filter (fun p => decide (nowNs (helloState s) < p.expires))).length < 16 := by
    rw [helloState, nowNs_wakeUp, wakeUp_sessions]
    exact hroom
  simp only [helloSt, hready, hrate.not_ge, hcode, hold, List.map_nil, endSessions, ← helloState.eq_1, hroom'.not_ge, Nat.reduceBEq,
    bne_self_eq_false, Bool.not_true, Bool.false_eq_true, if_false]
  rfl

/-- Settles O20: the provisional session stands behind the ones that have not run out, and nothing else of the module's own changes.
Its `SID` and nonce are the choices of log entry 3. -/
theorem helloOpensProvisionalSession : Obligations.HelloOpensProvisionalSession := by
  unfold Obligations.HelloOpensProvisionalSession
  intro s d hready hcode hrate hnone hroom
  refine ⟨_, congrArg Host.Outcome.next (helloSt_opens hready hcode hrate hnone hroom), ?_⟩
  have hnow : nowNs (helloState s) = nowNs s := nowNs_wakeUp _ _
  have hfree : (helloState s).free = s.free := wakeUp_free _ _
  have hprov : (helloState s).sessions.prov = s.sessions.prov := by rw [helloState, wakeUp_sessions]
  refine ⟨⟨helloProv d (helloState s), ?stands, ?expires, rfl, rfl, rfl, rfl, rfl, rfl, ?nonce⟩, ?frame⟩
  case stands =>
    dsimp only [emit]
    rw [hprov, hnow]
  case expires =>
    dsimp only [helloProv]
    rw [hnow]
    rfl
  case nonce =>
    dsimp only [helloProv]
    rw [hfree]
  case frame => simp [helloState]

/-- Proving a role reads the certificates alone. -/
theorem roleProved_of_security {s t : State} (h : t.security = s.security) (p : ProvSession) (wrapped sig : Nat) :
    roleProved t p wrapped sig = roleProved s p wrapped sig := by
  simp only [roleProved, findCert, certExpired, h]

/-- The answer to a `SESSION_OPEN`, under the session's own tag. -/
def openAnswer (d : Datagram) (p : ProvSession) (kMh : Nat) (r : Reply) : Emission :=
  .ycp d.port p.ip p.udp p.sid d.seq 0x0002 d.hostTag r (tag16 kMh (replyBytes p.sid d.seq 0x0002 d.hostTag p.major p.minor r))

/-- The state in which a `SESSION_OPEN` past its checks is judged: the module awake, the provisional session gone. -/
def openState (p : ProvSession) (s : State) : State := dropProv p.sid (wakeUp (some 1) s)

/-- The live session that a provisional one becomes. -/
def openedSession (p : ProvSession) (kHm kMh now : Nat) : Session :=
  { sid := p.sid, port := p.port, ip := p.ip, udp := p.udp, role := p.role, prio := p.prio, fp := p.fp, major := p.major,
    minor := p.minor, kHm := kHm, kMh := kMh, hi := 0, recs := [], slots := 0, nextHandle := 1, keys := [], lastAuth := now,
    acct := { sid := p.sid, role := p.role, prio := p.prio, live := true, opened := now, commands := 0, longOps := 0, queueNs := 0,
              preempts := 0, preemptsCaused := 0, lostNs := 0, windowFull := 0 }
    fenced := [] }

/-- An expired certificate of a `SESSION_OPEN` enters audit event 6. -/
def auditExpired (p : ProvSession) (arg : Nat) (s : State) : State :=
  match findCert s p.fp with
  | some c => if certExpired s c then auditEntry 0x0002 0x0202 p.sid 0 6 (certTag p.fp) arg s else s
  | none => s

/-- It changes the two logs alone. -/
theorem auditExpired_cases (p : ProvSession) (arg : Nat) (s : State) :
    auditExpired p arg s = s ∨ auditExpired p arg s = auditEntry 0x0002 0x0202 p.sid 0 6 (certTag p.fp) arg s := by
  rw [auditExpired]
  split
  · split
    · exact .inr rfl
    · exact .inl rfl
  · exact .inl rfl

@[simp] theorem auditExpired_sessions (p : ProvSession) (arg : Nat) (s : State) : (auditExpired p arg s).sessions = s.sessions := by
  rcases auditExpired_cases p arg s with h | h <;> simp [h]

@[simp] theorem auditExpired_memory (p : ProvSession) (arg : Nat) (s : State) : (auditExpired p arg s).memory = s.memory := by
  rcases auditExpired_cases p arg s with h | h <;> simp [h]

section
variable {s : State} {d : Datagram} {p : ProvSession} (hready : ready s = true)
  (hprov : s.sessions.prov.find? (fun q => q.sid == d.sid && decide (nowNs s < q.expires)) = some p) (hip : p.ip = d.srcIp)
  (hudp : p.udp = d.srcUdp)
include hready hprov hip hudp

/-- A secret that does not decrypt discards the provisional session. -/
theorem openSt_of_no_secret (hsecret : Config.oaep s.settings.idN (bits d.params 0 3072) = none) :
    openSt d s = ycpDiscard d.port (dropProv p.sid s) := by
  simp only [openSt, hready, hprov, hip, hudp, hsecret, bne_self_eq_false, Bool.not_true, Bool.or_self, Bool.false_eq_true, if_false]

variable {k : List Byte} (hsecret : Config.oaep s.settings.idN (bits d.params 0 3072) = some k)
  (htag : d.tag = cmdTag (sessionKey labelHost k p.sid p.nH p.nM) d 0x0002) (hmajor : d.major = p.major) (hminor : d.minor = p.minor)
  (hrsv : d.rsv = 0) (hplen : d.plen = 768) (haudit : s.audit.writable = true) (hroom : s.sessions.live.length < 16)
include hsecret htag hmajor hminor hrsv hplen haudit hroom

/-- Past the checks of its datagram, a `SESSION_OPEN` is judged by its certificate. -/
theorem openSt_of_checked :
    openSt d s =
      (let kMh := sessionKey labelModule k p.sid p.nH p.nM
      let arg := shaNat (leBytes d.plen d.params)
      let s1 := openState p s
      if roleProved s p (bits d.params 0 3072) (bits d.params 3072 3072) = true then
        emit [openAnswer d p kMh { code := 0, warn := false, handle := 0, body := p.sid, blen := 4 }]
          (auditEntry 0x0002 0 p.sid p.role 5 (certTag p.fp) arg { s1 with sessions := { s1.sessions with
            live := s1.sessions.live ++ [openedSession p (sessionKey labelHost k p.sid p.nH p.nM) kMh (nowNs s1)] } })
      else
        emit [openAnswer d p kMh { code := 0x0202, warn := false, handle := 0, body := 0, blen := 0 }]
          (auditEntry 0x0002 0x0202 p.sid 0 5 (certTag p.fp) arg (auditExpired p arg s1))) := by
  have haddress : (p.ip != d.srcIp || p.udp != d.srcUdp) = false := by rw [hip, hudp, bne_self_eq_false, bne_self_eq_false]; rfl
  have hversion : (d.major != p.major || d.minor != p.minor) = false := by
    rw [hmajor, hminor, bne_self_eq_false, bne_self_eq_false]
    rfl
  have hlength : (d.plen != 768) = false := by rw [hplen, bne_self_eq_false]
  have hproved : roleProved (openState p s) p (bits d.params 0 3072) (bits d.params 3072 3072) =
      roleProved s p (bits d.params 0 3072) (bits d.params 3072 3072) := roleProved_of_security (wakeUp_security _ _) _ _ _
  have hlive : ¬ 16 ≤ (openState p s).sessions.live.length := by
    rw [openState, dropProv, wakeUp_sessions]
    exact hroom.not_ge
  simp only [openSt, hready, hprov, haddress, hsecret, ← htag, hversion, hrsv, hlength, haudit, ← openState.eq_1, hproved, hlive,
    bne_self_eq_false, Bool.not_true, Bool.false_eq_true, if_false]
  cases roleProved s p (bits d.params 0 3072) (bits d.params 3072 3072) <;> rfl

end

/-- Settles O21: the datagram's checks passed, the certificate decides. What the secret decrypts to and whether the signature verifies
are the part's own (log entry 3). -/
theorem openMakesSession : Obligations.OpenMakesSession := by
  unfold Obligations.OpenMakesSession
  intro s d p hready hprov hip hudp hmajor hminor hrsv hplen haudit hroom
  refine ⟨fun hsecret => congrArg Host.Outcome.next (openSt_of_no_secret hready hprov hip hudp hsecret), ?_⟩
  intro k hsecret kHm kMh htag proved
  have hopen := openSt_of_checked hready hprov hip hudp hsecret htag hmajor hminor hrsv hplen haudit hroom
  have hsessions : (openState p s).sessions = { s.sessions with prov := s.sessions.prov.filter (fun q => q.sid != p.sid) } := by
    rw [openState, dropProv, wakeUp_sessions]
  have hmemory : (openState p s).memory = s.memory := wakeUp_memory _ _
  have hnow : nowNs (openState p s) = nowNs s := nowNs_wakeUp _ _
  have haudit' : (openState p s).audit = s.audit := wakeUp_audit _ _
  by_cases hproved : proved = true
  · rw [if_pos hproved] at hopen
    refine ⟨_, { code := 0, warn := false, handle := 0, body := p.sid, blen := 4 }, congrArg Host.Outcome.next hopen, ?prov, ?memory,
      ?ops, ?out, fun h => absurd hproved (Bool.eq_false_iff.1 h), fun _ => ⟨openedSession p kHm kMh (nowNs s), ?live, rfl, rfl, rfl,
      rfl, rfl, rfl, rfl, rfl, rfl, rfl, rfl, rfl, rfl, ?audit⟩⟩
    case prov => simp only [emit_sessions, auditEntry_sessions, hsessions]
    case memory => simp only [emit_memory, auditEntry_memory, hmemory]
    case ops => simp only [emit_sessions, auditEntry_sessions, hsessions]
    case out => rw [emit_out, List.getLast?_concat]; rfl
    case live => simp only [emit_sessions, auditEntry_sessions, hsessions, hnow, kHm, kMh]
    case audit =>
      rw [emit_audit]
      exact auditEntry_audit_eq (by exact haudit') (by exact hnow) haudit _ _ _ _ _ _ _
  · rw [if_neg hproved] at hopen
    refine ⟨_, { code := 0x0202, warn := false, handle := 0, body := 0, blen := 0 }, congrArg Host.Outcome.next hopen, ?prov, ?memory,
      ?ops, ?out, fun _ => ⟨rfl, ?live⟩, fun h => absurd h hproved⟩
    case prov => simp only [emit_sessions, auditEntry_sessions, auditExpired_sessions, hsessions]
    case memory => simp only [emit_memory, auditEntry_memory, auditExpired_memory, hmemory]
    case ops => simp only [emit_sessions, auditEntry_sessions, auditExpired_sessions, hsessions]
    case out => rw [emit_out, List.getLast?_concat]; rfl
    case live => simp only [emit_sessions, auditEntry_sessions, auditExpired_sessions, hsessions]

/-! Timers (R392, R401, R437, R512). -/

/-- A session that has been idle for its time ends. -/
theorem idleExpiry_of_over {s : State} {sid : Nat} {x : Session} (hfind : findSession s.sessions sid = some x)
    (hover : x.lastAuth + s.settings.idleS * 1000000000 ≤ nowNs s) : idleExpiry sid s = endSession sid s := by
  simp only [idleExpiry, hfind, secondNs, hover, if_true]

/-- The first part of a certificate is dropped when its second does not come within 10 s. -/
theorem partTimeout_of_over {s : State} {c : CertPart} (hstaged : s.security.staged = some c) (hover : c.time + 10000000000 < nowNs s) :
    partTimeout s = { s with security := { s.security with staged := none } } := by
  have hover' : c.time + tenSeconds < nowNs s := hover
  simp only [partTimeout, hstaged, hover', if_true]

/-- A service window ends at its time, and the audit log says so. -/
theorem windowEndSt_of_over {s : State} {e : Nat} (hopen : s.security.windowEnd = some e) (hover : e ≤ nowNs s) :
    windowEndSt s = closeWindow (auditModule 7 e s) := by
  simp only [windowEndSt, hopen, hover, if_true]

/-- Settles O22: each timer acts once its time has passed. -/
theorem sessionTimersComplete : Obligations.SessionTimersComplete := by
  unfold Obligations.SessionTimersComplete
  refine ⟨?idle, ?provisional, ?certificate, ?window⟩
  case idle =>
    intro s sid x hfind hover
    exact congrArg Host.Outcome.next (idleExpiry_of_over hfind hover)
  case provisional =>
    intro s sid
    rfl
  case certificate =>
    intro s c hstaged hover
    exact congrArg Host.Outcome.next (partTimeout_of_over hstaged hover)
  case window =>
    intro s e hopen hover
    exact congrArg Host.Outcome.next (windowEndSt_of_over hopen hover)

/-! The end of a session (R401, R451, R517). -/

/-- An operation that has ended is not aborted. -/
theorem abortAll_of_final {os : List Op} (h : ∀ o ∈ os, opFinal o.state = true) (s : State) : abortAll os s = s := by
  induction os generalizing s with
  | nil => rfl
  | cons o r ih =>
    have hfirst : abortOp o s = s := by simp only [abortOp, h o List.mem_cons_self, if_true]
    rw [abortAll, hfirst]
    exact ih (fun p hp => h p (List.mem_cons_of_mem o hp)) s

/-- The state without a session and what is its own, its operations having ended. -/
def withoutSession (sid : Nat) (x : Session) (s : State) : State :=
  { s with
    sessions := { s.sessions with
      live := s.sessions.live.filter (fun y => y.sid != sid)
      ended := keepLast 16 (s.sessions.ended ++ [{ x.acct with live := false }])
      ops := s.sessions.ops.filter (fun o => o.sid != sid) }
    host := { s.host with qps := s.host.qps.filter (fun q => q.sid != sid) } }

/-- A session whose operations have all ended goes with them, its queue pairs and its slots, and the audit log says so. -/
theorem endSession_of_final {s : State} {sid : Nat} {x : Session} (hfind : findSession s.sessions sid = some x)
    (hended : ∀ o ∈ s.sessions.ops, o.sid = sid → opFinal o.state = true) :
    endSession sid s = auditEntry 0 0 sid x.role 5 (certTag x.fp) 0 (withoutSession sid x s) := by
  have hnoneOpen : abortAll (s.sessions.ops.filter (fun o => o.sid == sid)) s = s := by
    refine abortAll_of_final (fun o ho => ?_) s
    obtain ⟨hmem, hown⟩ := List.mem_filter.1 ho
    exact hended o hmem (beq_iff_eq.1 hown)
  have hops : s.sessions.ops.filter (fun o => !(o.sid == sid && opFinal o.state)) = s.sessions.ops.filter (fun o => o.sid != sid) := by
    refine List.filter_congr (fun o ho => ?_)
    by_cases hown : o.sid = sid
    · simp [hown, hended o ho hown]
    · simp [beq_false_of_ne hown, bne_iff_ne.2 hown]
  simp only [endSession, hfind, hnoneOpen, hops, Option.map_some, Option.getD_some]
  rfl

/-- No session of a number is found once those of that number are left out. -/
theorem findSession_withoutSession (sid : Nat) (x : Session) (s : State) : findSession (withoutSession sid x s).sessions sid = none := by
  refine List.find?_eq_none.2 (fun y hy => ?_)
  have hother := (List.mem_filter.1 hy).2
  simpa using hother

/-- Settles O23: nothing is left to abort, so what goes is the session's own alone. -/
theorem endSessionRemovesIt : Obligations.EndSessionRemovesIt := by
  unfold Obligations.EndSessionRemovesIt
  intro s sid x hfind haudit hended t
  have hend : t = auditEntry 0 0 sid x.role 5 (certTag x.fp) 0 (withoutSession sid x s) := endSession_of_final hfind hended
  have hsessions : t.sessions = (withoutSession sid x s).sessions := by rw [hend, auditEntry_sessions]
  refine ⟨?live, ?gone, ?ops, ?qps, ?kept, ?audit, ?memory, ?out, ?settings⟩
  case live => rw [hsessions]; rfl
  case gone => rw [hsessions, findSession_withoutSession]
  case ops => rw [hsessions]; rfl
  case qps => rw [hend, auditEntry_host]; rfl
  case kept => rw [hsessions]; rfl
  case audit => rw [hend, auditEntry_audit_eq (s := withoutSession sid x s) rfl rfl haudit]; rfl
  case memory => rw [hend, auditEntry_memory]; rfl
  case out => rw [hend, auditEntry_out_of_writable _ _ _ _ _ _ _ (show (withoutSession sid x s).audit.writable = true from haudit)]; rfl
  case settings => rw [hend, auditEntry_settings]; rfl

end Sys2Proof.Proofs
end

section
/-! PROOFS. Pre-emption of a transfer engine: what a hold and a release do to each operation (R446 to R452). -/

namespace Sys2Proof.Proofs
open Sys2Proof.Machine Sys2Proof.Safety Sys2Proof.Laws

/-- A fold of changes that each keep the operations keeps the operations. -/
theorem foldl_ops {α : Type} {f : Sessions → α → Sessions} (h : ∀ ss a, (f ss a).ops = ss.ops) (l : List α) (ss : Sessions) :
    (l.foldl f ss).ops = ss.ops := by
  induction l generalizing ss with
  | nil => rfl
  | cons a r ih => rw [List.foldl_cons, ih, h]

/-- A change of the operations that keeps their names is found under the same name. -/
theorem findOp_of_map {ss tt : Sessions} {f : Op → Op} {sid h : Nat} (hops : tt.ops = ss.ops.map f)
    (hname : ∀ o, opIs sid h (f o) = opIs sid h o) : findOp tt sid h = (findOp ss sid h).map f := by
  have hsame : opIs sid h ∘ f = opIs sid h := funext hname
  rw [findOp, findOp, hops, List.find?_map, hsame]

/-- An operation that is found enters `RUNNING`. -/
theorem beginOp_ops {s : State} {sid h : Nat} {o : Op} (hfind : findOp s.sessions sid h = some o) :
    (beginOp sid h s).sessions.ops =
      s.sessions.ops.map (fun o => if opIs sid h o then { o with state := 2, started := true } else o) := by
  simp only [beginOp, hfind]
  split <;> rfl

/-- What the hold of a pre-emptor `p` on a transfer engine does to a victim: it pauses under the hold. -/
def pausedOp (s : State) (p : Op) (sid h unit : Nat) (o : Op) : Op :=
  if isVictim s p unit o then { o with state := 3, holdBy := o.holdBy ++ [(sid, h, awakeNs s)] } else o

/-- The operations once the victims have paused and the pre-emptor has its hold. -/
def holdingOp (s : State) (p : Op) (sid h unit : Nat) (o : Op) : Op :=
  if opIs sid h (pausedOp s p sid h unit o) then
    { pausedOp s p sid h unit o with holds := (pausedOp s p sid h unit o).holds ++ [(7, unit)] }
  else pausedOp s p sid h unit o

/-- What the hold does to every operation: victims pause, and the pre-emptor runs with the hold as its own. -/
def heldOp (s : State) (p : Op) (sid h unit : Nat) (o : Op) : Op :=
  if opIs sid h (holdingOp s p sid h unit o) then { holdingOp s p sid h unit o with state := 2, started := true }
  else holdingOp s p sid h unit o

section
variable (s : State) (p : Op) (sid h unit : Nat) (o : Op)

theorem opIs_pausedOp : opIs sid h (pausedOp s p sid h unit o) = opIs sid h o := by
  rw [pausedOp]
  split <;> rfl

theorem opIs_holdingOp : opIs sid h (holdingOp s p sid h unit o) = opIs sid h o := by
  rw [holdingOp, ← opIs_pausedOp s p sid h unit o]
  split <;> rfl

theorem opIs_heldOp : opIs sid h (heldOp s p sid h unit o) = opIs sid h o := by
  rw [heldOp, ← opIs_holdingOp s p sid h unit o]
  split <;> rfl

/-- No operation is a victim of its own hold: a victim has a lower priority. -/
theorem pausedOp_self : pausedOp s p sid h unit p = p := by
  simp only [pausedOp, isVictim, Nat.lt_irrefl, decide_false, Bool.false_and, Bool.false_eq_true, if_false]

variable {s p sid h unit o}

/-- The pre-emptor runs with the hold. -/
theorem heldOp_self (hown : opIs sid h p = true) :
    heldOp s p sid h unit p = { p with state := 2, started := true, holds := p.holds ++ [(7, unit)] } := by
  rw [heldOp, if_pos ((opIs_holdingOp s p sid h unit p).trans hown), holdingOp, pausedOp_self, if_pos hown]

/-- A victim pauses. -/
theorem heldOp_of_victim (hvictim : isVictim s p unit o = true) (hother : opIs sid h o = false) :
    heldOp s p sid h unit o = { o with state := 3, holdBy := o.holdBy ++ [(sid, h, awakeNs s)] } := by
  have hpaused : ¬ opIs sid h (pausedOp s p sid h unit o) = true := by rw [opIs_pausedOp, hother]; decide
  have hholding : ¬ opIs sid h (holdingOp s p sid h unit o) = true := by rw [opIs_holdingOp, hother]; decide
  rw [heldOp, if_neg hholding, holdingOp, if_neg hpaused, pausedOp, if_pos hvictim]

end

section
variable {s : State} {sid h unit : Nat} {p : Op} (hfind : findOp s.sessions sid h = some p) (hpre : isPreemptor s p 7 unit = true)
  (hfree : unitBusy s 7 unit = false) (hsome : s.sessions.ops.any (isVictim s p unit) = true)
include hfind hpre hfree hsome

/-- A hold that takes effect starts the pre-emptor in a state whose operations hold as they should and which differs from the one before
in its sessions alone. -/
theorem holdSt_eq_beginOp : ∃ ss : Sessions, ss.ops = s.sessions.ops.map (holdingOp s p sid h unit) ∧
    holdSt sid h 7 unit s = beginOp sid h { s with sessions := ss } := by
  have hvictims : (s.sessions.ops.filter (isVictim s p unit)).isEmpty = false := by
    rw [List.isEmpty_eq_false_iff, ne_eq, List.filter_eq_nil_iff]
    obtain ⟨o, ho, hvictim⟩ := List.any_eq_true.1 hsome
    exact fun hnone => hnone o ho hvictim
  simp only [holdSt, hfind, hpre, hfree, hvictims, Bool.not_true, Bool.or_self, Bool.false_eq_true, if_false]
  refine ⟨_, ?_, rfl⟩
  refine (foldl_ops ?_ _ _).trans ?_
  · exact fun _ _ => rfl
  · rw [modOp, List.map_map]
    rfl

/-- A hold that takes effect changes every operation by `heldOp`. -/
theorem holdSt_ops : (holdSt sid h 7 unit s).sessions.ops = s.sessions.ops.map (heldOp s p sid h unit) := by
  obtain ⟨ss, hops, hst⟩ := holdSt_eq_beginOp hfind hpre hfree hsome
  have hfind' : findOp ss sid h = some (holdingOp s p sid h unit p) := by
    rw [findOp_of_map hops (opIs_holdingOp s p sid h unit), hfind]
    rfl
  rw [hst, beginOp_ops (s := { s with sessions := ss }) hfind', hops, List.map_map]
  rfl

/-- A hold changes no run, no memory and no output. -/
theorem holdSt_frame : (holdSt sid h 7 unit s).run = s.run ∧ (holdSt sid h 7 unit s).memory = s.memory ∧
    (holdSt sid h 7 unit s).out = s.out := by
  obtain ⟨ss, -, hst⟩ := holdSt_eq_beginOp hfind hpre hfree hsome
  rw [hst, beginOp_run, beginOp_memory, beginOp_out]
  exact ⟨rfl, rfl, rfl⟩

end

/-! The release (R447, R449). -/

/-- Whether a hold is that of a pre-emptor. -/
def holdOf (sid h : Nat) (b : Nat × Nat × Nat) : Bool := b.1 == sid && b.2.1 == h

/-- What a release does to an operation: a hold of the pre-emptor goes, and a victim that no other keeps runs again. -/
def releasedOp (sid h kind unit : Nat) (o : Op) : Op :=
  if o.holdBy.any (holdOf sid h) then
    { o with
      state := if o.state == 3 && !o.haboobHeld && (o.holdBy.filter (fun b => !holdOf sid h b)).isEmpty then 2 else o.state
      holdBy := o.holdBy.filter (fun b => !holdOf sid h b) }
  else if opIs sid h o then { o with holds := o.holds.filter (· != (kind, unit)) }
  else o

/-- A release of a pre-emptor without work changes every operation by `releasedOp`, and the sessions' accounts alone beside. -/
theorem releaseSt_of_done {s : State} {sid h : Nat} (kind unit : Nat) (hdone : preemptorDone s sid h = true) :
    ∃ ss : Sessions, ss.ops = s.sessions.ops.map (releasedOp sid h kind unit) ∧
      releaseSt sid h kind unit s = { s with sessions := ss } := by
  simp only [releaseSt, hdone, Bool.not_true, Bool.false_eq_true, if_false]
  refine ⟨_, ?_, rfl⟩
  refine (foldl_ops (fun ss v => ?_) _ _).trans rfl
  refine foldl_ops ?_ _ _
  exact fun _ _ => rfl

/-- A victim that the pre-emptor alone holds, and no haboob condition, runs again. -/
theorem releasedOp_of_held {sid h : Nat} (kind unit : Nat) {o : Op} (hheld : o.holdBy ≠ [])
    (hall : ∀ b ∈ o.holdBy, b.1 = sid ∧ b.2.1 = h) (hpaused : o.state = 3) (hfree : o.haboobHeld = false) :
    releasedOp sid h kind unit o = { o with state := 2, holdBy := [] } := by
  have hmine : ∀ b ∈ o.holdBy, holdOf sid h b = true := fun b hb => by
    obtain ⟨hsid, hhandle⟩ := hall b hb
    rw [holdOf, hsid, hhandle, beq_self_eq_true, beq_self_eq_true]
    rfl
  have hany : o.holdBy.any (holdOf sid h) = true := by
    obtain ⟨b, hb⟩ := List.exists_mem_of_ne_nil _ hheld
    exact List.any_eq_true.2 ⟨b, hb, hmine b hb⟩
  have hrest : o.holdBy.filter (fun b => !holdOf sid h b) = [] :=
    List.filter_eq_nil_iff.2 (fun b hb => by rw [hmine b hb]; decide)
  simp only [releasedOp, hany, hrest, hpaused, hfree, if_true, beq_self_eq_true, Bool.not_false, List.isEmpty_nil, Bool.and_self]

/-- No hold of the pre-emptor is left. -/
theorem holdOf_releasedOp {sid h kind unit : Nat} {o : Op} {b : Nat × Nat × Nat} (hb : b ∈ (releasedOp sid h kind unit o).holdBy) :
    holdOf sid h b = false := by
  rw [releasedOp] at hb
  split at hb
  next => simpa using (List.mem_filter.1 hb).2
  next hnone =>
    have hother : ∀ c ∈ o.holdBy, holdOf sid h c = false := by simpa using hnone
    split at hb
    · exact hother b hb
    · exact hother b hb

/-- Settles O24: a hold and a release each change every operation in one way, by whether it is the pre-emptor and whether it is held. -/
theorem preemptionHoldAndRelease : Obligations.PreemptionHoldAndRelease := by
  unfold Obligations.PreemptionHoldAndRelease
  refine ⟨?hold, ?release⟩
  case hold =>
    intro s sid h unit p hfind hpre hfree hsome
    have hops := holdSt_ops hfind hpre hfree hsome
    refine ⟨holdSt sid h 7 unit s, rfl, ?starts, ?pauses, holdSt_frame hfind hpre hfree hsome⟩
    case starts =>
      have hown : opIs sid h p = true := List.find?_some hfind
      refine ⟨heldOp s p sid h unit p, ?_, ?_⟩
      · rw [findOp_of_map hops (opIs_heldOp s p sid h unit), hfind]
        rfl
      · rw [heldOp_self hown]
        exact ⟨rfl, rfl, rfl⟩
    case pauses =>
      intro o ho hvictim hother
      rw [hops]
      exact List.mem_map.2 ⟨o, ho, heldOp_of_victim hvictim hother⟩
  case release =>
    intro s sid h kind unit hdone
    obtain ⟨ss, hops, hst⟩ := releaseSt_of_done kind unit hdone
    refine ⟨{ s with sessions := ss }, congrArg Host.Outcome.next hst, ?goOn, ?noneLeft, rfl, rfl, rfl⟩
    case goOn =>
      intro o ho hheld hall hpaused hfree
      rw [show ({ s with sessions := ss } : State).sessions.ops = _ from hops]
      exact List.mem_map.2 ⟨o, ho, releasedOp_of_held kind unit hheld hall hpaused hfree⟩
    case noneLeft =>
      intro o ho b hb hmine
      rw [show ({ s with sessions := ss } : State).sessions.ops = _ from hops] at ho
      obtain ⟨o', -, rfl⟩ := List.mem_map.1 ho
      have hnot := holdOf_releasedOp hb
      rw [holdOf, hmine.1, hmine.2, beq_self_eq_true, beq_self_eq_true] at hnot
      exact absurd hnot (by decide)

end Sys2Proof.Proofs
end

section
/-! PROOFS. The module's own commands: images and runs, certificates and the audit log, reads, firmware and the service window, and the
power commands (chapter 16). -/

namespace Sys2Proof.Proofs
open Sys2Proof.Machine Sys2Proof.Safety Sys2Proof.Laws

/-! Images and runs (R416, R424 to R426). -/

theorem isSome_eq_false_of_eq_none {α : Type} {o : Option α} (h : o = none) : o.isSome = false := by rw [h]; rfl

/-- `IMAGE_LOAD` of an aligned range of HBM that no other session's window key covers starts, or waits for the engines. -/
theorem imageLoadPart_accepts {s : State} {x : Session} {d : Datagram} (himage : s.image = none) (haligned : prm d 0 48 % 256 = 0)
    (hrange : prm d 0 48 + prm d 64 48 ≤ 0x30000000000) (hwindow : windowOver s x.sid (prm d 0 48) (prm d 64 48) = false) :
    imageLoadPart s x d = ansLong s (engineState s) := by
  have hrange' : ¬ tierSize 1 < prm d 0 48 + prm d 64 48 := hrange.not_gt
  simp only [imageLoadPart, isSome_eq_false_of_eq_none himage, haligned, hrange', hwindow, bne_self_eq_false, decide_false,
    Bool.or_self, Bool.false_eq_true, if_false]

/-- `IMAGE_UNLOAD` between runs drops the image, what it set up, and the keys over its regions. -/
theorem imageUnloadPart_accepts {s : State} (x : Session) (d : Datagram) (hidle : s.run.active = false) (himage : s.image ≠ none) :
    imageUnloadPart s x d = ansOk { s with
      image := none
      engines := []
      kv := { s.kv with pools := [], seqs := [], pins := [], masses := [], waiting := [] }
      changes := { groupSets := [], adapterSets := [], caravanOps := [] }
      sessions := { s.sessions with live := s.sessions.live.map (fun x => { x with keys := x.keys.filter (fun k => k.kind != 0) }) } } := by
  have hresident : s.image.isNone = false := Option.isNone_eq_false_iff.2 (Option.isSome_iff_ne_none.2 himage)
  simp only [imageUnloadPart, hidle, hresident, Bool.false_eq_true, if_false]

/-- `RUN` of 1 to 64 steps with a resident image, at a module in service whose time is locked, starts at an origin at least 1 ms ahead. -/
theorem runPart_accepts {s : State} {x : Session} {d : Datagram} {im : Image} (himage : s.image = some im)
    (hidle : s.run.active = false) (hsome : 1 ≤ prm d 208 8) (hmost : prm d 208 8 ≤ 64) (hserves : s.boot.retired = false)
    (hlocked : s.time.state = 2) (hahead : s.time.now + 1000000 * 65536 ≤ prm d 128 64 * 65536 + prm d 192 16) :
    runPart s x d = ansLong (beginRun x d im s) 0 := by
  simp only [runPart, himage, hidle, beq_false_of_ne (Nat.ne_of_gt hsome), hmost.not_gt, hserves, hlocked, hahead.not_gt, decide_false,
    bne_self_eq_false, Bool.or_self, Bool.false_eq_true, if_false]

/-- Settles O15: past its checks each part answers code 0. -/
theorem imageAndRunCommandsComplete : Obligations.ImageAndRunCommandsComplete := by
  unfold Obligations.ImageAndRunCommandsComplete
  refine ⟨?load, ?unload, ?state, ?run⟩
  case load =>
    refine completes_of_code_zero (fun _ _ => rfl) (by decide) ?_ (fun _ _ _ => rfl)
    rintro s x d ⟨himage, haligned, hrange, hwindow⟩
    exact imageLoadPart_accepts himage haligned hrange hwindow
  case unload =>
    refine completes_of_code_zero (fun _ _ => rfl) (by decide) ?_ (fun _ _ _ => rfl)
    rintro s x d ⟨hidle, himage⟩
    exact imageUnloadPart_accepts x d hidle himage
  case state => exact completes_of_unconditional (fun _ _ => rfl) (by decide) (fun _ _ _ => rfl)
  case run =>
    intro im
    refine completes_of_code_zero (fun _ _ => rfl) (by decide) ?_ (fun _ _ _ => rfl)
    rintro s x d ⟨himage, hidle, hsome, hmost, hserves, hlocked, hahead⟩
    exact runPart_accepts himage hidle hsome hmost hserves hlocked hahead

/-! Certificates and the audit log (R437, R507, R508, R515). -/

/-- The certificate bytes of a part. -/
def certPart (d : Datagram) : List Byte := (leBytes 1344 (prm d 64 10752)).take (prm d 16 16)

theorem length_certPart (d : Datagram) : (certPart d).length ≤ 1344 := by
  rw [certPart, List.length_take, length_leBytes]
  exact Nat.min_le_right _ _

/-- The first of two parts of a certificate is kept. -/
theorem certEnrollPart_stages {s : State} {x : Session} {d : Datagram} (hsome : 0 < prm d 16 16) (hmost : prm d 16 16 ≤ 1344)
    (hfirst : prm d 0 1 = 0) (hmore : prm d 1 1 = 0) :
    certEnrollPart s x d = ansOk { s with security := { s.security with
      staged := some { sid := x.sid, time := nowNs s, data := certPart d } } } := by
  simp only [certEnrollPart, beq_false_of_ne hsome.ne', hmost.not_gt, hfirst, hmore, Nat.reduceBEq, decide_false, Bool.false_and,
    Bool.not_false, Bool.or_self, Bool.false_eq_true, if_false, if_true]
  rfl

/-- A certificate in one part is enrolled or not by what it says (log entry 3). -/
theorem certEnrollPart_whole {s : State} {x : Session} {d : Datagram} (hsome : 0 < prm d 16 16) (hmost : prm d 16 16 ≤ 1344)
    (hfirst : prm d 0 1 = 0) (hlast : prm d 1 1 = 1) :
    certEnrollPart s x d =
      if (enrolCert s (certPart d)).1 = 0 then
        { ansBody { s with security := (enrolCert s (certPart d)).2 } (shaNat (certPart d)) 32 with
          events := [(6, shaNat (leBytes d.plen d.params))] }
      else ansCode { s with security := (enrolCert s (certPart d)).2 } (enrolCert s (certPart d)).1 := by
  simp only [certEnrollPart, beq_false_of_ne hsome.ne', hmost.not_gt, hfirst, hlast, Nat.reduceBEq, decide_false, Bool.false_and,
    Bool.not_false, Bool.not_true, Bool.or_self, Bool.false_eq_true, if_false, if_true, List.nil_append, bne_iff_ne, ne_eq, ite_not]
  rfl

/-- A certificate of role 1 that is not yet known is enrolled where there is room. -/
theorem enrolCert_of_role {s : State} {der : List Byte} {key nb na : Nat} (hx509 : Config.x509 der = some (1, key, nb, na))
    (hlen : der.length ≤ 2688) (hnew : findCert s (shaNat der) = none) (hroom : s.security.enrol.length < 64) :
    enrolCert s der = (0, { s.security with
      staged := none
      enrol := s.security.enrol ++ [{ fp := shaNat der, role := 1, key := key, notBefore := nb, notAfter := na, revoked := false }]
      trustedDate := max s.security.trustedDate nb }) := by
  simp only [enrolCert, hx509, hlen.not_gt, isSome_eq_false_of_eq_none hnew, hroom.not_ge, bne_self_eq_false, decide_false,
    Bool.or_self, Bool.false_eq_true, if_false]

/-- Any other certificate is not. -/
theorem enrolCert_of_other {s : State} {der : List Byte} (h : ∀ key nb na, Config.x509 der ≠ some (1, key, nb, na)) :
    enrolCert s der = (0x0A01, { s.security with staged := none }) := by
  rw [enrolCert]
  split
  next => rfl
  next role key nb na hx509 =>
    have hrole : (role != 1) = true := bne_iff_ne.2 (fun hone => h key nb na (by rw [hx509, hone]))
    simp only [hrole, Bool.or_true, Bool.true_or, if_true]

/-- `CERT_REVOKE` of an enrolled certificate other than the session's own revokes it and ends the sessions that it opened. -/
theorem certRevokePart_accepts {s : State} {x : Session} {d : Datagram} (hother : x.fp ≠ prm d 0 256)
    (hknown : s.security.enrol.any (fun c => c.fp == prm d 0 256) = true) :
    certRevokePart s x d =
      { ansOk { s with security := { s.security with
          enrol := s.security.enrol.map (fun c => if c.fp == prm d 0 256 then { c with revoked := true } else c) } } with
        ends := (s.sessions.live.filter (fun y => y.fp == prm d 0 256)).map (·.sid)
        events := [(6, shaNat (leBytes d.plen d.params))] } := by
  simp only [certRevokePart, beq_false_of_ne hother, hknown, Bool.not_true, Bool.or_self, Bool.false_eq_true, if_false]

/-- `AUDIT_READ` from an entry that exists gives ten, from the oldest that is kept. -/
theorem auditReadPart_accepts {s : State} (x : Session) {d : Datagram} (hexists : prm d 0 64 < s.audit.next) :
    auditReadPart s x d =
      (let first := s.audit.next - s.audit.entries.length
      let start := max (prm d 0 64) first
      let es := (s.audit.entries.drop (start - first)).take 10
      ansBytes s (leBytes 8 (start + es.length) ++ es.flatMap (leBytes 128))) := by
  simp only [auditReadPart, hexists.not_ge, if_false]

/-- Settles O6: past its checks each part answers code 0, or, for a certificate that is not enrolled, 0x0A01, which is no refusal. -/
theorem certificateAndAuditCommandsComplete : Obligations.CertificateAndAuditCommandsComplete := by
  unfold Obligations.CertificateAndAuditCommandsComplete
  refine ⟨?stage, ?enrol, ?revoke, ?list, ?read, ?head⟩
  case stage =>
    refine completes_of_code_zero (fun _ _ => rfl) (by decide) ?_ (fun _ _ _ => rfl)
    rintro s x d ⟨hsome, hmost, hfirst, hmore⟩
    exact certEnrollPart_stages hsome hmost hfirst hmore
  case enrol =>
    refine completes_of (part := certEnrollPart) (fun _ _ => rfl) (by decide) ?_ ?_
    · rintro s x d ⟨hsome, hmost, hfirst, hlast, hnew, hroom⟩
      dsimp only
      split
      next key nb na hx509 =>
        rw [certEnrollPart_whole hsome hmost hfirst hlast,
          enrolCert_of_role (der := certPart d) hx509 ((length_certPart d).trans (by decide)) hnew hroom]
        rfl
      next hother =>
        rw [certEnrollPart_whole hsome hmost hfirst hlast, enrolCert_of_other (der := certPart d) hother]
        rfl
    · intro s x d _
      dsimp only
      split <;> rfl
  case revoke =>
    refine completes_of_code_zero (fun _ _ => rfl) (by decide) ?_ (fun _ _ _ => rfl)
    rintro s x d ⟨hother, hknown⟩
    exact certRevokePart_accepts hother hknown
  case list => exact completes_of_unconditional (fun _ _ => rfl) (by decide) (fun _ _ _ => rfl)
  case read =>
    exact completes_of_code_zero (fun _ _ => rfl) (by decide) (fun _ x _ hexists => auditReadPart_accepts x hexists) (fun _ _ _ => rfl)
  case head => exact completes_of_unconditional (fun _ _ => rfl) (by decide) (fun _ _ _ => rfl)

/-! Reads (R434, R451, R500). -/

/-- `ACCOUNT_READ` of a session whose record is kept, the session's own for role 1, gives the record. -/
theorem accountReadPart_accepts {s : State} {x : Session} {d : Datagram}
    (hown : x.role = 1 → (if prm d 0 32 == 0 then x.sid else prm d 0 32) = x.sid)
    (hkept : ((s.sessions.live.map (·.acct) ++ s.sessions.ended.reverse).find?
      (fun b => b.sid == if prm d 0 32 == 0 then x.sid else prm d 0 32)).isSome = true) :
    accountReadPart s x d =
      match (s.sessions.live.map (·.acct) ++ s.sessions.ended.reverse).find?
          (fun b => b.sid == if prm d 0 32 == 0 then x.sid else prm d 0 32) with
      | some a => ansBody s (acctBody a) 64
      | none => ansOk s := by
  have hadmitted : (x.role == 1 && (if prm d 0 32 == 0 then x.sid else prm d 0 32) != x.sid) = false := by
    by_cases hrole : x.role = 1
    · rw [hown hrole, bne_self_eq_false, Bool.and_false]
    · rw [beq_false_of_ne hrole, Bool.false_and]
  obtain ⟨a, ha⟩ := Option.isSome_iff_exists.1 hkept
  simp only [accountReadPart, hadmitted, ha, Bool.false_eq_true, if_false]

/-- `TELEM_READ` of a block that exists gives its fields. -/
theorem telemReadPart_accepts {s : State} (x : Session) {d : Datagram} {l : List Byte}
    (hfields : telemFields s (prm d 0 8) (prm d 32 32) = .ok l) :
    telemReadPart s x d = ansBytes s (telemBlock (prm d 32 32) l) := by
  simp only [telemReadPart, hfields]

/-- Settles O7: past its checks each part answers code 0. -/
theorem readCommandsComplete : Obligations.ReadCommandsComplete := by
  unfold Obligations.ReadCommandsComplete
  refine ⟨?fault, ?account, ?telem⟩
  case fault => exact completes_of_unconditional (fun _ _ => rfl) (by decide) (fun _ _ _ => rfl)
  case account =>
    refine completes_of_code_zero (fun _ _ => rfl) (by decide) ?_ ?_
    · rintro s x d ⟨hown, hkept⟩
      exact accountReadPart_accepts hown hkept
    · intro s x d
      split <;> rfl
  case telem =>
    refine completes_of_code_zero (fun _ _ => rfl) (by decide) ?_ ?_
    · rintro s x d ⟨l, hfields⟩
      rw [telemReadPart_accepts x hfields]
      simp only [hfields]
    · intro s x d
      split <;> rfl

/-! Firmware, manufacturing test and the service window (R436, R438, R439, R512, R513). -/

/-- The firmware while the bank that is not active is written. -/
def writingInactive (f : Firmware) : Firmware :=
  if f.active = 0 then { f with bankB := { f.bankB with valid := false, writing := true } }
  else { f with bankA := { f.bankA with valid := false, writing := true } }

/-- `FW_INSTALL` with no image resident starts the write of an image that checks, and answers the code of one that does not. -/
theorem fwInstallPart_eq {s : State} (x : Session) (d : Datagram) (himage : s.image = none) :
    fwInstallPart s x d =
      match fwParse s (prm d 0 48) (prm d 64 48) with
      | .ok _ => ansLong { s with firmware := writingInactive s.firmware } 2
      | .error c => ansCode s c := by
  cases hparse : fwParse s (prm d 0 48) (prm d 64 48) with
  | ok b =>
    simp only [fwInstallPart, isSome_eq_false_of_eq_none himage, hparse, writingInactive, beq_iff_eq, Bool.false_eq_true, if_false]
  | error c => simp only [fwInstallPart, isSome_eq_false_of_eq_none himage, hparse, Bool.false_eq_true, if_false]

/-- `FW_ACTIVATE` of a bank that is valid and not being written selects it. -/
theorem fwActivatePart_accepts {s : State} (x : Session) {d : Datagram}
    (hvalid : (if prm d 0 1 = 0 then s.firmware.bankA else s.firmware.bankB).valid = true)
    (hwritten : (if prm d 0 1 = 0 then s.firmware.bankA else s.firmware.bankB).writing = false) :
    fwActivatePart s x d = ansOk { s with firmware := { s.firmware with next := prm d 0 1 } } := by
  simp only [fwActivatePart, beq_iff_eq, hvalid, hwritten, Bool.not_true, Bool.or_self, Bool.false_eq_true, if_false]

/-- `MFG_TEST` in a service window with no image resident starts. -/
theorem mfgTestPart_accepts {s : State} (x : Session) (d : Datagram) (hwindow : windowOpen s = true) (himage : s.image = none) :
    mfgTestPart s x d = ansLong s 2 := by
  simp only [mfgTestPart, hwindow, isSome_eq_false_of_eq_none himage, Bool.not_true, Bool.false_eq_true, if_false]

/-- `SERVICE_WINDOW` of 1 to 1,440 minutes opens the window until then. -/
theorem serviceWindowPart_opens {s : State} (x : Session) {d : Datagram} (hsome : 1 ≤ prm d 0 16) (hmost : prm d 0 16 ≤ 1440) :
    serviceWindowPart s x d =
      (let e := nowNs s + prm d 0 16 * 60000000000
      { ansOk { s with security := { s.security with windowEnd := some e } } with events := [(7, e)] }) := by
  simp only [serviceWindowPart, hmost.not_gt, beq_false_of_ne (Nat.ne_of_gt hsome), Bool.false_eq_true, if_false]
  rfl

/-- Settles O8: past its checks each part answers code 0, or the code of an image that does not check where that is no refusal (log
entry 3: whether a signature verifies is the part's own). That an image is checked before the operation starts is log entry 14. -/
theorem firmwareAndServiceCommandsComplete : Obligations.FirmwareAndServiceCommandsComplete := by
  unfold Obligations.FirmwareAndServiceCommandsComplete
  refine ⟨?install, ?activate, ?read, ?test, ?window⟩
  case install =>
    refine completes_of (part := fwInstallPart) (fun _ _ => rfl) (by decide) ?_ ?_
    · rintro s x d ⟨himage, _⟩
      exact fwInstallPart_eq x d himage
    · rintro s x d ⟨_, hchecked⟩
      cases hparse : fwParse s (prm d 0 48) (prm d 64 48) with
      | ok b => rfl
      | error c =>
        rw [hparse] at hchecked
        exact hchecked
  case activate =>
    refine completes_of_code_zero (fun _ _ => rfl) (by decide) ?_ (fun _ _ _ => rfl)
    rintro s x d ⟨hvalid, hwritten⟩
    exact fwActivatePart_accepts x hvalid hwritten
  case read => exact completes_of_unconditional (fun _ _ => rfl) (by decide) (fun _ _ _ => rfl)
  case test =>
    refine completes_of_code_zero (fun _ _ => rfl) (by decide) ?_ (fun _ _ _ => rfl)
    rintro s x d ⟨hwindow, himage⟩
    exact mfgTestPart_accepts x d hwindow himage
  case window =>
    refine completes_of_code_zero (fun _ _ => rfl) (by decide) ?_ (fun _ _ _ => rfl)
    rintro s x d ⟨hsome, hmost⟩
    exact serviceWindowPart_opens x hsome hmost

/-! The power commands (R435, R457, R466, R472, R474). -/

/-- `PWR_TOL_SET` within the installer's bounds, or by a role that they do not bind, sets tolerance and dwell. -/
theorem pwrTolSetPart_accepts {s : State} {x : Session} {d : Datagram}
    (h : x.role ≠ 1 ∨ (s.power.tolMin ≤ prm d 0 32 ∧ prm d 0 32 ≤ s.power.tolMax ∧ s.power.dwellMin ≤ prm d 32 32)) :
    pwrTolSetPart s x d = ansOk (setTol (prm d 0 32) { s with power := { s.power with dwellUs := prm d 32 32 } }) := by
  have hadmitted : (x.role == 1 && (decide (prm d 0 32 < s.power.tolMin) || decide (s.power.tolMax < prm d 0 32) ||
      decide (prm d 32 32 < s.power.dwellMin))) = false := by
    rcases h with hrole | ⟨hmin, hmax, hdwell⟩
    · rw [beq_false_of_ne hrole, Bool.false_and]
    · simp only [hmin.not_gt, hmax.not_gt, hdwell.not_gt, decide_false, Bool.or_self, Bool.and_false]
  simp only [pwrTolSetPart, hadmitted, Bool.false_eq_true, if_false]

/-- `PWR_BOUNDS_SET` of bounds in order sets them and moves a tolerance outside them to the nearer one. -/
theorem pwrBoundsSetPart_accepts {s : State} (x : Session) {d : Datagram} (horder : prm d 0 32 ≤ prm d 32 32) :
    pwrBoundsSetPart s x d =
      (let s1 := { s with power := { s.power with tolMin := prm d 0 32, tolMax := prm d 32 32, dwellMin := prm d 64 32 } }
      ansOk (if s.power.tolNs < prm d 0 32 ∨ prm d 32 32 < s.power.tolNs then
          setTol (max (prm d 0 32) (min (prm d 32 32) s.power.tolNs)) s1
        else s1)) := by
  simp only [pwrBoundsSetPart, horder.not_gt, Bool.or_eq_true, decide_eq_true_eq, if_false]

/-- `PWR_CAP_SET` of 800 to 3,800 W sets the cap. -/
theorem pwrCapSetPart_accepts {s : State} (x : Session) {d : Datagram} (hleast : 800 ≤ prm d 0 16) (hmost : prm d 0 16 ≤ 3800) :
    pwrCapSetPart s x d = ansOk { s with power := { s.power with capW := prm d 0 16 } } := by
  simp only [pwrCapSetPart, hleast.not_gt, hmost.not_gt, decide_false, Bool.or_self, Bool.false_eq_true, if_false]

/-- `PWR_MODE_SET` between runs, with the regulators' AVS on the board, moves both dies to point 0 for the new mode. -/
theorem pwrModeSetPart_accepts {s : State} (x : Session) (d : Datagram) (hidle : s.run.active = false) :
    pwrModeSetPart true s x d =
      (let s1 := movePoint 1 0 (movePoint 0 0 s)
      ansOk { s1 with power := { s1.power with toCompat := some (prm d 0 1 == 1), handover := [], capPoint := 0, underCap := 0 } }) := by
  simp only [pwrModeSetPart, hidle, Bool.not_true, Bool.false_eq_true, if_false]

/-- `PWR_READ` alone is answered with what the module held before it woke (R466). -/
theorem carryOut_pwrRead {s : State} (x : Session) (d : Datagram) (part : Part) (haudit : s.audit.writable = true) :
    carryOut x d 0x0804 part s = conclude x d 0x0804 { part s x d with st := wakeUp none (part s x d).st } s := by
  simp only [carryOut, haudit, Bool.not_true, Bool.and_false, Bool.false_eq_true, beq_self_eq_true, if_false, if_true]

/-- Settles O13: past its checks each part answers code 0; `PWR_READ` is answered before it wakes the module. -/
theorem powerCommandsComplete : Obligations.PowerCommandsComplete := by
  unfold Obligations.PowerCommandsComplete
  refine ⟨?tol, ?bounds, ?cap, ?mode, ?read⟩
  case tol =>
    exact completes_of_code_zero (fun _ _ => rfl) (by decide) (fun _ _ _ h => pwrTolSetPart_accepts h) (fun _ _ _ => rfl)
  case bounds =>
    exact completes_of_code_zero (fun _ _ => rfl) (by decide) (fun _ x _ horder => pwrBoundsSetPart_accepts x horder) (fun _ _ _ => rfl)
  case cap =>
    refine completes_of_code_zero (fun _ _ => rfl) (by decide) ?_ (fun _ _ _ => rfl)
    rintro s x d ⟨hleast, hmost⟩
    exact pwrCapSetPart_accepts x hleast hmost
  case mode =>
    exact completes_of_code_zero (fun _ _ => rfl) (by decide) (fun _ x d hidle => pwrModeSetPart_accepts x d hidle) (fun _ _ _ => rfl)
  case read =>
    intro s x d hacc
    have haudit : (acceptedState 0x0804 x d s).audit.writable = true := hacc.audit
    have hrun : exec (.pwrRead d) s = .next (ycp 0x0804 (.pwrRead d) pwrReadPart d s) := rfl
    rw [hrun, ycp_accepted hacc rfl, carryOut_pwrRead _ _ _ haudit]
    rfl

end Sys2Proof.Proofs
end

section
/-! PROOFS. The completion points of the long operations (R402, R404, R408, R425, R438, R480, R494, R502). -/

namespace Sys2Proof.Proofs
open Sys2Proof.Machine Sys2Proof.Safety Sys2Proof.Laws

section
variable {s : State} {sid h : Nat} {o : Op} (hop : findOp s.sessions sid h = some o)
include hop

/-- An abort that has been accepted ends an open operation ABORTED. -/
theorem abortEffect_of_aborting (habort : o.aborting = true) (hopen : opFinal o.state = false) :
    abortEffect sid h s = finishOp sid h 6 0 s := by
  simp only [abortEffect, hop, habort, hopen, Bool.not_false, Bool.and_self, if_true]

/-- The image of an open `FW_INSTALL` is read again: one that checks is in the inactive bank, and one that does not fails it. -/
theorem fwInstallDone_of_open (hopcode : o.opcode = 0x0B00) (hopen : opFinal o.state = false) (habort : o.aborting = false) :
    fwInstallDone sid h s = match fwParse s (bits o.params 0 48) (bits o.params 64 48) with
      | .ok b => finishOp sid h 4 0 { s with
          firmware := if s.firmware.active = 0 then { s.firmware with bankB := b, next := 1 } else { s.firmware with bankA := b, next := 0 }
          sessions := modOp (dropWindowKeys s.sessions) sid h (setProgress (ceilDiv (bits o.params 64 48) 1024)) }
      | .error c => finishOp sid h 5 c s := by
  cases hparse : fwParse s (bits o.params 0 48) (bits o.params 64 48) with
  | ok b =>
    simp only [fwInstallDone, hop, hopcode, hopen, habort, hparse, bne_self_eq_false, beq_iff_eq, Bool.or_self, Bool.false_eq_true,
      if_false]
  | error c =>
    simp only [fwInstallDone, hop, hopcode, hopen, habort, hparse, bne_self_eq_false, Bool.or_self, Bool.false_eq_true, if_false]

theorem mfgTestDone_of_open (hopcode : o.opcode = 0x8000) (hopen : opFinal o.state = false) (habort : o.aborting = false) :
    mfgTestDone sid h s = finishOp sid h 4 0 { s with sessions := modOp s.sessions sid h (setProgress 100) } := by
  simp only [mfgTestDone, hop, hopcode, hopen, habort, bne_self_eq_false, Bool.or_self, Bool.false_eq_true, if_false]

/-- A generation that every port in use holds is installed. -/
theorem installDone_of_held (hopcode : o.opcode = 0x0508) (hstate : o.state = 2) (habort : o.aborting = false)
    (hinstalling : s.fabric.installing = some (sid, h, s.fabric.newest)) (hheld : holders s.fabric = (portsInUse s.fabric).length) :
    installDone sid h s = finishOp sid h 4 0 { s with
      fabric := { s.fabric with installing := none }
      sessions := modOp s.sessions sid h (setProgress (holders s.fabric)) } := by
  simp only [installDone, hop, hopcode, hstate, habort, hinstalling, hheld, bne_self_eq_false, Bool.or_self, Bool.false_eq_true, if_false]

/-- A retirement whose deadline has come fails. -/
theorem retireExpires_of_late (hopcode : o.opcode = 0x050B) (hopen : opFinal o.state = false)
    (hlate : o.queuedAt + 1000000 * bits o.params 0 32 ≤ nowNs s) : retireExpires sid h s = finishOp sid h 5 0x050F s := by
  simp only [retireExpires, hop, hopcode, hopen, hlate.not_gt, bne_self_eq_false, decide_false, Bool.or_self, Bool.false_eq_true, if_false]

/-- A map that is whole is stored as the generation after the one in force. -/
theorem mirageWritten_of_whole {c : MapCopy} (hopcode : o.opcode = 0x0901) (hstate : o.state = 2) (habort : o.aborting = false)
    (hwriting : s.mirage.writing = true) (hwhole : mapOfBytes s.mirage.staged = some c) :
    mirageWritten sid h s =
      (let w := { c with gen := s.mirage.gen + 1, subStop := s.mirage.subStop }
      finishOp sid h 4 0 { s with
        mirage := { s.mirage with writing := false, staged := [], written := some w, stored := storeMap s.mirage.stored w }
        sessions := modOp s.sessions sid h (setProgress 30) }) := by
  simp only [mirageWritten, hop, hwhole, hopcode, hstate, habort, hwriting, bne_self_eq_false, Bool.not_true, Bool.or_self,
    Bool.false_eq_true, if_false]

/-- The self-test of the units takes out those that fail. -/
theorem bistDone_of_units (fails : List Nat) (hopcode : o.opcode = 0x0902) (hstate : o.state = 2) (habort : o.aborting = false)
    (hset : bits o.params 0 8 = 1) :
    bistDone sid h fails s =
      (let s1 := failUnits fails s
      finishOp sid h 4 0 { s1 with sessions := modOp s1.sessions sid h (setProgress 100) }) := by
  simp only [bistDone, hop, hopcode, hstate, habort, hset, Nat.reduceBEq, bne_self_eq_false, Bool.or_self, Bool.false_eq_true, if_false,
    if_true]

/-- A calibration of one target between runs keeps its results. -/
theorem calibrateDone_of_target (results : List (Nat × Nat)) (hopcode : o.opcode = 0x0906) (hstate : o.state = 2)
    (habort : o.aborting = false) (hidle : s.run.active = false) (htarget : 1 ≤ bits o.params 0 8) :
    calibrateDone sid h true results s = finishOp sid h 4 0 { s with
      repair := { s.repair with calib := spSet (bits o.params 0 8) results s.repair.calib }
      sessions := modOp s.sessions sid h (setProgress 100) } := by
  simp only [calibrateDone, hop, hopcode, hstate, habort, hidle, beq_false_of_ne (Nat.ne_of_gt htarget), bne_self_eq_false, Bool.not_true,
    Bool.false_and, Bool.or_self, Bool.false_eq_true, if_false, List.foldl_cons, List.foldl_nil]

end

/-- Settles O19: each operation does its work and ends; an abort ends ABORTED and a deadline FAILED. That the
bank is written at completion, and that an operation does its work in one act there, are the choices of log entries 14 and 19. -/
theorem otherOperationsEnd : Obligations.OtherOperationsEnd := by
  unfold Obligations.OtherOperationsEnd
  refine ⟨?abort, ?firmware, ?test, ?generation, ?deadline, ?map, ?selftest, ?calibration⟩
  case abort =>
    intro s sid h o hop habort hopen
    exact congrArg Host.Outcome.next (abortEffect_of_aborting hop habort hopen)
  case firmware =>
    intro s sid h o hop hopcode hopen habort
    exact congrArg Host.Outcome.next (fwInstallDone_of_open hop hopcode hopen habort)
  case test =>
    intro s sid h o hop hopcode hopen habort
    exact congrArg Host.Outcome.next (mfgTestDone_of_open hop hopcode hopen habort)
  case generation =>
    intro s sid h o hop hopcode hstate habort hinstalling hheld
    exact congrArg Host.Outcome.next (installDone_of_held hop hopcode hstate habort hinstalling hheld)
  case deadline =>
    intro s sid h o hop hopcode hopen hlate
    exact congrArg Host.Outcome.next (retireExpires_of_late hop hopcode hopen hlate)
  case map =>
    intro s sid h o c hop hopcode hstate habort hwriting hwhole
    exact congrArg Host.Outcome.next (mirageWritten_of_whole hop hopcode hstate habort hwriting hwhole)
  case selftest =>
    intro s sid h o fails hop hopcode hstate habort hset
    exact congrArg Host.Outcome.next (bistDone_of_units hop fails hopcode hstate habort hset)
  case calibration =>
    intro s sid h o results hop hopcode hstate habort hidle htarget
    exact congrArg Host.Outcome.next (calibrateDone_of_target hop results hopcode hstate habort hidle htarget)

end Sys2Proof.Proofs
end

section
/-! PROOFS. The power ladder: low states and their ends, operating points, thermal demand and the hold of a `WAKE` action (chapter 18). -/

namespace Sys2Proof.Proofs
open Sys2Proof.Machine Sys2Proof.Safety Sys2Proof.Laws

/-! Low states (R458 to R466). -/

theorem wakeUp_of_awake {s : State} (r : Option Nat) (hawake : s.power.ps = 0) :
    wakeUp r s = { s with power := { s.power with idleSince := nowNs s } } := by
  rcases wakeUp_cases r s with ⟨-, h⟩ | ⟨hlow, -⟩
  · exact h
  · exact absurd hawake hlow

theorem wakeUp_of_low {s : State} (r : Option Nat) (hlow : s.power.ps ≠ 0) :
    wakeUp r s = { s with
      power := { s.power with
        ps := 0, wake := r.getD s.power.wake, idleSince := nowNs s, lowNs := s.power.lowNs + (nowNs s - s.power.lowSince) }
      fabric := (widenAll (List.range 32) s.fabric).1
      out := s.out ++ (widenAll (List.range 32) s.fabric).2 } := by
  rcases wakeUp_cases r s with ⟨hawake, -⟩ | ⟨-, h⟩
  · exact absurd hawake hlow
  · exact h

/-- After a dwell without a break the module enters the state selected. -/
theorem dwellSt_of_idle {s : State} (hready : ready s = true) (hawake : s.power.ps = 0) (hidle : moduleIdle s = true)
    (hdwell : s.power.idleSince + 1000 * s.power.dwellUs ≤ nowNs s) (hselect : selectState s ≠ 0) :
    dwellSt s = enterLow (selectState s) s := by
  simp only [dwellSt, hready, hawake, hidle, hdwell.not_gt, beq_false_of_ne hselect, bne_self_eq_false, Bool.not_true, decide_false,
    Bool.or_self, Bool.false_eq_true, if_false]

theorem enterLow_of_awake {s : State} (ps : Nat) (hawake : s.power.ps = 0) :
    enterLow ps s = { s with
      power := { s.power with ps := ps, lowSince := nowNs s }
      fabric := (lowPorts ps (List.range 32) s.fabric).1
      out := s.out ++ (lowPorts ps (List.range 32) s.fabric).2 } := by
  simp only [enterLow, hawake, beq_self_eq_true, if_true]

/-- Sources 1 to 7 wake the module. -/
theorem wakeEventSt_of_source {s : State} {source : Nat} (hready : ready s = true) (hfirst : 1 ≤ source) (hlast : source ≤ 7) :
    wakeEventSt source s = wakeUp (some source) s := by
  simp only [wakeEventSt, hready, beq_false_of_ne (Nat.ne_of_gt hfirst), hlast.not_gt, decide_false, Bool.not_true, Bool.or_self,
    Bool.false_eq_true, if_false]

/-- The lead of a departure wakes a module in a low state. -/
theorem wakeLeadSt_of_due {s : State} {d : Nat} (hnext : nextDeparture s = some d) (hlow : s.power.ps ≠ 0)
    (hdue : d ≤ (nowNs s + 3264) * 65536) : wakeLeadSt s = wakeUp (some 4) s := by
  simp only [wakeLeadSt, hnext, wakeLead, hdue, bne_iff_ne, ne_eq, hlow, not_false_eq_true, decide_true, Bool.and_true, if_true]

theorem holdExpirySt_of_due {s : State} {t : Nat} (hhold : s.power.holdEnd = some t) (hdue : t ≤ nowNs s) :
    holdExpirySt s = { s with power := { s.power with holdEnd := none, idleSince := nowNs s } } := by
  simp only [holdExpirySt, hhold, hdue, if_true]

/-- Settles O29: entry after the dwell, and the wakes. That an entry is one act is the choice of log entry 21. -/
theorem powerStatesChange : Obligations.PowerStatesChange := by
  unfold Obligations.PowerStatesChange
  refine ⟨?enter, ?wake, ?lead, ?hold⟩
  case enter =>
    intro s hready hawake hidle hdwell hselect
    exact congrArg Host.Outcome.next ((dwellSt_of_idle hready hawake hidle hdwell hselect).trans (enterLow_of_awake _ hawake))
  case wake =>
    intro s source hready hfirst hlast hlow
    exact congrArg Host.Outcome.next ((wakeEventSt_of_source hready hfirst hlast).trans (wakeUp_of_low _ hlow))
  case lead =>
    intro s d hnext hlow hdue
    exact congrArg Host.Outcome.next ((wakeLeadSt_of_due hnext hlow hdue).trans (wakeUp_of_low _ hlow))
  case hold =>
    intro s t hhold hdue
    exact congrArg Host.Outcome.next (holdExpirySt_of_due hhold hdue)

/-! The hold of a `WAKE` action (R465). -/

/-- While a hold is in force the module is not idle. -/
theorem moduleIdle_of_held {s : State} {t : Nat} (hhold : s.power.holdEnd = some t) (hforce : nowNs s < t) : moduleIdle s = false := by
  have hheld : holdInForce s = true := by simp only [holdInForce, hhold, hforce, decide_true]
  simp only [moduleIdle, hheld, Bool.not_true, Bool.and_false, Bool.false_and]

theorem dwellSt_of_busy {s : State} (hbusy : moduleIdle s = false) : dwellSt s = s := by
  simp only [dwellSt, hbusy, Bool.not_false, Bool.or_true, Bool.true_or, if_true]

theorem holdExpirySt_of_early {s : State} {t : Nat} (hhold : s.power.holdEnd = some t) (hforce : nowNs s < t) :
    holdExpirySt s = s := by
  simp only [holdExpirySt, hhold, hforce.not_ge, if_false]

/-- Settles O57: the departure extends the hold, and a hold in force bars idleness, by which neither the dwell nor the hold ends. -/
theorem wakeHoldKeepsPs0 : Obligations.WakeHoldKeepsPs0 := by
  unfold Obligations.WakeHoldKeepsPs0
  refine ⟨?departure, ?force⟩
  case departure =>
    intro s e step ns haction
    simp only [carAction, haction]
  case force =>
    intro s t hhold hforce
    have hbusy := moduleIdle_of_held hhold hforce
    exact ⟨hbusy, congrArg Host.Outcome.next (dwellSt_of_busy hbusy), congrArg Host.Outcome.next (holdExpirySt_of_early hhold hforce)⟩

/-! Operating points (R470 to R474, R540 to R544). -/

/-- Power above the cap, with no sensor warm, lowers the cap's point by one from the point in force. -/
theorem capEvalSt_of_above {s : State} {r : Sensors} (hready : ready s = true)
    (habove : effectiveCap s.power.capW r.inletC < r.powerW) (hcool : r.warnAny = false) :
    capEvalSt r s = applyPoints { s with power := { s.power with
      powerW := min r.powerW 0xFFFF, capPoint := min s.power.capPoint s.power.hotPoint - 1, underCap := 0, hotHold := false,
      idleSince := if s.power.hotHold then nowNs s else s.power.idleSince } } := by
  simp only [capEvalSt, hready, habove, hcool, decide_true, Bool.true_or, Bool.not_true, Bool.not_false, Bool.and_false, Bool.and_true,
    Bool.or_false, Nat.reduceLeDiff, decide_false, Bool.false_eq_true, if_false, if_true]

/-- A voltage within 5 mV of the target, while the rails keep their hands, sets the die's frequency. -/
theorem settledSt_of_near {s : State} {die mv : Nat} (hdie : die < 2) (hkeeps : s.power.toCompat = none)
    (habove : mv ≤ voltOf s die (dieTarget s.power die) + 5) (hbelow : voltOf s die (dieTarget s.power die) ≤ mv + 5) :
    settledSt die mv s = { s with power := { setDiePoint s.power die (dieTarget s.power die) with
      avsWait := s.power.avsWait.filter (· != die) } } := by
  simp only [settledSt, hdie.not_ge, habove.not_gt, hbelow.not_gt, hkeeps, decide_false, Bool.or_self, Bool.false_eq_true, if_false]

/-- A move up that the regulator does not acknowledge is a fault, and its write waits for a retry. -/
theorem avsTimeoutSt_of_raising {s : State} {die : Nat} (hdie : die < 2) (hcompat : s.power.compat = true)
    (hraising : diePoint s.power die < dieTarget s.power die) :
    avsTimeoutSt die s = addFault 12 12 (3 * die) 0 0xFFFF (pack [(0, 8, 3 * die)]) 8
      { s with power := { s.power with avsWait := (s.power.avsWait ++ [die]).eraseDups } } := by
  simp only [avsTimeoutSt, hdie.not_ge, hcompat, hraising.not_ge, decide_false, Bool.not_true, Bool.or_self, Bool.false_eq_true, if_false]

theorem avsRetrySt_of_waiting {s : State} {die : Nat} (hwaits : s.power.avsWait.contains die = true) :
    avsRetrySt die s = emit [.avsWrite die (voltOf s die (dieTarget s.power die))]
      { s with power := { s.power with avsWait := s.power.avsWait.filter (· != die) } } := by
  simp only [avsRetrySt, hwaits, Bool.not_true, Bool.false_eq_true, if_false]

theorem pmbAlertSt_of_compat {s : State} {die : Nat} (hdie : die < 2) (hcompat : s.power.compat = true) :
    pmbAlertSt die s = addFault 12 12 (3 * die) 0 0xFFFF (pack [(0, 8, 3 * die)]) 8 s := by
  simp only [pmbAlertSt, hdie.not_ge, hcompat, decide_false, Bool.not_true, Bool.or_self, Bool.false_eq_true, if_false]

/-- At 48 V or more the limit of the input is lifted. -/
theorem reducedCapSt_of_full {s : State} {mv : Nat} (ma : Nat) (hready : ready s = true) (hfull : 48000 ≤ mv) :
    reducedCapSt mv ma s = { s with boot := { s.boot with inputMv := mv }, power := { s.power with reduced := false } } := by
  have hholds : ¬ mv < 42000 := by omega
  simp only [reducedCapSt, hready, hholds, hfull, decide_false, Bool.not_true, Bool.or_self, Bool.false_eq_true, if_false, if_true]

/-- Settles O30: each event past its conditions takes its last branch. That the power shown is that of the last evaluation is log entry
41; event 12 for an alert is the model's, where log entry 6 leaves the number free. -/
theorem operatingPointsChange : Obligations.OperatingPointsChange := by
  unfold Obligations.OperatingPointsChange
  refine ⟨?cap, ?settled, ?timeout, ?retry, ?alert, ?input⟩
  case cap =>
    intro s r hready habove hcool
    exact congrArg Host.Outcome.next (capEvalSt_of_above hready habove hcool)
  case settled =>
    intro s die mv hdie hkeeps habove hbelow
    exact congrArg Host.Outcome.next (settledSt_of_near hdie hkeeps habove hbelow)
  case timeout =>
    intro s die hdie hcompat hraising
    exact congrArg Host.Outcome.next (avsTimeoutSt_of_raising hdie hcompat hraising)
  case retry =>
    intro s die hwaits
    exact congrArg Host.Outcome.next (avsRetrySt_of_waiting hwaits)
  case alert =>
    intro s die status hdie hcompat
    exact congrArg Host.Outcome.next (pmbAlertSt_of_compat hdie hcompat)
  case input =>
    intro s mv ma hready hfull
    exact congrArg Host.Outcome.next (reducedCapSt_of_full ma hready hfull)

/-! Thermal demand (R543, R544). -/

@[simp] theorem wakeUp_thermal (r : Option Nat) (s : State) : (wakeUp r s).power.thermal = s.power.thermal := by
  rcases wakeUp_cases r s with ⟨-, h⟩ | ⟨-, h⟩ <;> rw [h]

@[simp] theorem wakeUp_hotHold (r : Option Nat) (s : State) : (wakeUp r s).power.hotHold = s.power.hotHold := by
  rcases wakeUp_cases r s with ⟨-, h⟩ | ⟨-, h⟩ <;> rw [h]

theorem getLast?_keepLast_append {α : Type} {k : Nat} (hsome : 0 < k) (l : List α) (a : α) :
    (keepLast k (l ++ [a])).getLast? = some a := by
  have hcut : (l ++ [a]).length - k ≤ l.length := by
    rw [List.length_append, List.length_singleton]
    omega
  rw [keepLast, List.drop_append_of_le_length hcut, List.getLast?_concat]

/-- A fault's entry is the log's last. -/
theorem addFault_getLast (ev k sc p l b n : Nat) (s : State) :
    (addFault ev k sc p l b n s).faultLog.entries.getLast? =
      some { seq := s.faultLog.next + 1, event := ev, kind := k, scope := sc, phys := p, logical := l, time := nowNs s,
             step := stepInForce s, body := b, bodyLen := n } := by
  have hsome : 0 < 65536 := by norm_num
  simp only [addFault_faultLog, getLast?_keepLast_append hsome]

/-- The module after a warning and before the fault's entry. -/
def warned (s : State) : State :=
  { wakeUp (some 5) s with power := { (wakeUp (some 5) s).power with
      thermal := true, hotHold := (wakeUp (some 5) s).power.hotHold || s.power.ps != 0 } }

/-- A sensor above its threshold enters a fault of a free event number after the wake. -/
theorem thermalWarnSt_of_hot {s : State} {kind tempC : Nat} (index : Nat) (hready : ready s = true) (hhot : warnTemp kind < tempC) :
    thermalWarnSt kind index tempC s =
      addOpenEvent (if kind == 1 then 9 else 0) 0 (if kind == 1 then index else 0) 0xFFFF (warned s) := by
  simp only [thermalWarnSt, hready, hhot.not_ge, decide_false, Bool.not_true, Bool.or_self, Bool.false_eq_true, if_false]
  rfl

theorem thermalReleaseSt_of_demand {s : State} (hdemand : s.power.thermal = true) :
    thermalReleaseSt s = { s with power := { s.power with
      thermal := false, capPoint := min s.power.capPoint s.power.hotPoint, hotPoint := 15, hotHold := false,
      idleSince := if s.power.hotHold then nowNs s else s.power.idleSince } } := by
  simp only [thermalReleaseSt, hdemand, Bool.not_true, Bool.false_eq_true, if_false]

/-- Settles O31: a warning wakes, demands and enters its fault, whose event number is a free value (log entry 6). -/
theorem thermalDemandRisesAndFalls : Obligations.ThermalDemandRisesAndFalls := by
  unfold Obligations.ThermalDemandRisesAndFalls
  refine ⟨?warning, ?release⟩
  case warning =>
    intro s kind index tempC hready hhot
    have hfree : (warned s).free = s.free := wakeUp_free _ s
    have hlog : (warned s).faultLog = s.faultLog := wakeUp_faultLog _ s
    have hnow : nowNs (warned s) = nowNs s := nowNs_wakeUp (some 5) s
    refine ⟨_, congrArg Host.Outcome.next (thermalWarnSt_of_hot index hready hhot), ?_⟩
    refine ⟨?thermal, ?awake, ?held, ?free, ?next, ?entry, ?memory, ?run, ?sessions⟩
    case thermal => exact (wakeUp_thermal _ _)
    case awake => exact wakeUp_ps _ _
    case held =>
      intro hlow
      refine (wakeUp_hotHold _ _).trans ?_
      show ((wakeUp (some 5) s).power.hotHold || s.power.ps != 0) = true
      rw [bne_iff_ne.2 hlow, Bool.or_true]
    case free =>
      rw [addOpenEvent, addFault_free, takeFree_free, hfree]
    case next =>
      rw [addOpenEvent, addFault_next, takeFree_faultLog, hlog]
    case entry =>
      rw [addOpenEvent, addFault_getLast, takeFree_fst, takeFree_faultLog, hlog, hfree]
      exact congrArg (fun t => some (s.faultLog.next + 1, Config.free s.free % 256, t)) hnow
    case memory => rw [addOpenEvent, addFault_memory, takeFree_memory]; exact wakeUp_memory _ s
    case run => rw [addOpenEvent, addFault_run, takeFree_run]; exact wakeUp_run _ s
    case sessions => rw [addOpenEvent, addFault_sessions, takeFree_sessions]; exact wakeUp_sessions _ s
  case release =>
    intro s hdemand
    exact congrArg Host.Outcome.next (thermalReleaseSt_of_demand hdemand)

end Sys2Proof.Proofs
end

section
/-! PROOFS. The audit log's chain (R515). -/

namespace Sys2Proof.Proofs
open Sys2Proof.Machine Sys2Proof.Safety Sys2Proof.Laws

/-- What stands from bit `k` upward takes no part in a field below it. -/
theorem bits_add_shiftLeft {h c lo w k : Nat} (hbelow : lo + w ≤ k) : bits (h + (c <<< k)) lo w = bits h lo w := by
  obtain ⟨j, rfl⟩ := Nat.exists_eq_add_of_le hbelow
  have hsplit : c <<< (lo + w + j) = 2 ^ lo * (2 ^ w * (2 ^ j * c)) := by
    rw [Nat.shiftLeft_eq, pow_add, pow_add, Nat.mul_comm c, Nat.mul_assoc, Nat.mul_assoc]
  rw [bits, bits, hsplit, Nat.shiftRight_eq_div_pow, Nat.shiftRight_eq_div_pow, Nat.add_mul_div_left _ _ (Nat.two_pow_pos lo),
    Nat.add_mul_mod_self_left]

theorem add_shiftLeft_shiftRight {h c k : Nat} (hlow : h < 2 ^ k) : (h + (c <<< k)) >>> k = c := by
  rw [Nat.shiftLeft_eq, Nat.shiftRight_eq_div_pow, hash_of_entry hlow]

theorem add_shiftLeft_mod {h c k : Nat} (hlow : h < 2 ^ k) : (h + (c <<< k)) % 2 ^ k = h := by
  rw [Nat.shiftLeft_eq, Nat.add_mul_mod_self_right, Nat.mod_eq_of_lt hlow]

/-- The fields of an entry before its `CHAIN`, the reserved ones among them (Table 20.4). -/
def auditFields (opc code index time sid role event cert arg : Nat) : List (Nat × Nat × Nat) :=
  [(0, 16, 1), (16, 16, 128), (32, 16, opc), (48, 16, code), (64, 64, index), (128, 64, time), (192, 32, sid), (224, 2, role),
   (226, 6, 0), (232, 8, event), (240, 16, 0), (256, 64, cert), (320, 256, arg)]

section
variable (opc code index time sid role event cert arg : Nat)

theorem auditHead_eq_pack :
    auditHead opc code index time sid role event cert arg = pack (auditFields opc code index time sid role event cert arg) := by
  simp only [auditHead, auditFields, pack, Nat.zero_mod, Nat.zero_shiftLeft, Nat.zero_add]

theorem auditFields_inOrder : fieldsInOrder 0 (auditFields opc code index time sid role event cert arg) = true := rfl

theorem auditHead_lt : auditHead opc code index time sid role event cert arg < 2 ^ 576 := by
  rw [auditHead_eq_pack]
  refine pack_lt (auditFields_inOrder _ _ _ _ _ _ _ _ _) ?_
  simp [auditFields]

/-- A field of an entry is read back from under its `CHAIN`. -/
theorem bits_auditEntry {lo w v : Nat} (c : Nat) (hmem : (lo, w, v) ∈ auditFields opc code index time sid role event cert arg)
    (hbelow : lo + w ≤ 576) (hv : v < 2 ^ w) :
    bits (auditHead opc code index time sid role event cert arg + (c <<< 576)) lo w = v := by
  rw [bits_add_shiftLeft hbelow, auditHead_eq_pack, bits_pack (auditFields_inOrder _ _ _ _ _ _ _ _ _) hmem, Nat.mod_eq_of_lt hv]

end

/-- Entry 0 chains to 32 zero bytes. -/
theorem chain0_eq : Audit.chain0 = shaNat (List.replicate 32 0 ++ leBytes 72 0x00800001) := by decide +kernel

/-- The `CHAIN` of an entry that is appended. -/
def auditChain (a : Audit) (opc code time sid role event cert arg : Nat) : Nat :=
  shaNat (leBytes 32 a.chain ++ leBytes 72 (auditHead opc code a.next time sid role event cert arg))

theorem auditPush_eq (a : Audit) (opc code time sid role event cert arg : Nat) :
    auditPush a opc code time sid role event cert arg = { a with
      entries := keepLast 524288 (a.entries ++ [auditHead opc code a.next time sid role event cert arg +
        (auditChain a opc code time sid role event cert arg <<< 576)])
      next := a.next + 1
      chain := auditChain a opc code time sid role event cert arg } := by
  simp only [auditPush, auditChain]

/-- Settles O56: entry 0 by its hash, computed; an entry that is appended by the places of its fields below its chain. -/
theorem auditLogChains : Obligations.AuditLogChains := by
  unfold Obligations.AuditLogChains
  refine ⟨?factory, ?appended⟩
  case factory =>
    have hfields : 0x00800001 < 2 ^ 576 := factoryFields_lt (by decide)
    have hentries : State.reset.audit.entries = [0x00800001 + (Audit.chain0 <<< 576)] := by
      rw [Nat.shiftLeft_eq]
      simp only [State.reset, Audit.factory]
    refine ⟨_, hentries, ?_, ?_, ?_, ?_, (add_shiftLeft_shiftRight hfields).symm⟩
    · rw [bits_add_shiftLeft (by decide)]
      decide
    · rw [bits_add_shiftLeft (by decide)]
      decide
    · rw [bits_add_shiftLeft (by decide)]
      decide
    · rw [add_shiftLeft_shiftRight hfields, add_shiftLeft_mod hfields]
      exact chain0_eq
  case appended =>
    intro a last opc code time sid role event cert arg hlast hchain hopc hcode hnext htime hsid hrole hevent hcert harg
    have hlow := auditHead_lt opc code a.next time sid role event cert arg
    have field {lo w v : Nat} := bits_auditEntry (lo := lo) (w := w) (v := v) opc code a.next time sid role event cert arg
      (auditChain a opc code time sid role event cert arg)
    rw [auditPush_eq]
    refine ⟨_, by dsimp only, (add_shiftLeft_shiftRight hlow).symm, by dsimp only, field ?_ ?_ ?_, field ?_ ?_ ?_, field ?_ ?_ hopc,
      field ?_ ?_ hcode, field ?_ ?_ hnext, field ?_ ?_ htime, field ?_ ?_ hsid, field ?_ ?_ hrole, field ?_ ?_ ?_, field ?_ ?_ hevent,
      field ?_ ?_ ?_, field ?_ ?_ hcert, field ?_ ?_ harg, ?chain⟩
    case chain => rw [add_shiftLeft_shiftRight hlow, add_shiftLeft_mod hlow, hchain, auditChain]
    all_goals simp [auditFields]

end Sys2Proof.Proofs
end

section
/-! PROOFS. Failed units and regulator phases, and the map's write to flash (R479, R481 to R486, R492, R497, R498). -/

namespace Sys2Proof.Proofs
open Sys2Proof.Machine Sys2Proof.Safety Sys2Proof.Laws

/-- A fault of a unit of kinds 1 to 7 that exists is a failure of its part. -/
theorem unitFaultSt_of_unit {s : State} {kind scope phys : Nat} (hready : ready s = true) (hfirst : 1 ≤ kind) (hlast : kind ≤ 7)
    (hscope : scope < kindScopes kind) (hphys : phys < (kindCount kind scope).2) :
    unitFaultSt kind scope phys s = partFails (partKey kind scope phys) s := by
  simp only [unitFaultSt, hready, beq_false_of_ne (Nat.ne_of_gt hfirst), hlast.not_gt, hscope.not_ge, hphys.not_ge, decide_false,
    Bool.not_true, Bool.or_self, Bool.false_eq_true, if_false]

theorem noProgressSt_of_issued {s : State} {kind scope phys : Nat}
    (hissued : flightOf s kind (logicalOf s (partKey kind scope phys)) ≠ []) :
    noProgressSt kind scope phys s = unitFaultSt kind scope phys s := by
  have hissued' : (flightOf s kind (logicalOf s (partKey kind scope phys))).isEmpty = false :=
    List.isEmpty_eq_false_iff.2 hissued
  simp only [noProgressSt, hissued', Bool.false_eq_true, if_false]

/-- What becomes of a part in service that fails: nothing replaces it under the haboob condition, with substitution stopped, or without a
spare. -/
def substituted (k : Nat) (s : State) : State :=
  if s.repair.haboob || subStopped s then unreplaced k s
  else
    match (if partKind k == 7 then (scopeParts 7 0).find? (fun j => j != k && (partIn s j).2 == 0) else spareFor s.mirage.entries k) with
    | none => unreplaced k s
    | some sp => replaced k sp s

/-- A part in service, or one that is being migrated from, has its fault counted. -/
theorem partFails_of_serving {s : State} {k : Nat} (hserves : (partIn s k).2 = 0 ∨ (partIn s k).2 = 4) :
    partFails k s = countedFault (substituted k) s := by
  have hspare : ((partIn s k).2 == 1 || (partIn s k).2 == 3) = false := by
    rcases hserves with h | h <;> rw [h] <;> rfl
  have hserving : ((partIn s k).2 != 0 && (partIn s k).2 != 4) = false := by
    rcases hserves with h | h <;> rw [h] <;> rfl
  simp only [partFails, hspare, hserving, Bool.false_eq_true, if_false]
  rfl

theorem subStopped_countFault (s : State) : subStopped (countFault s) = subStopped s := rfl

/-- A spare takes the place of a part whose fault is not the fifth within the second. -/
theorem substituted_countFault {s : State} {k sp : Nat} (hcalm : s.repair.haboob = false) (hgo : subStopped s = false)
    (hspare : (if partKind k = 7 then (scopeParts 7 0).find? (fun j => j != k && (partIn s j).2 == 0)
      else spareFor s.mirage.entries k) = some sp) :
    substituted k (countFault s) = replaced k sp (countFault s) := by
  have hcalm' : (countFault s).repair.haboob = false := hcalm
  have hspare' : (if partKind k = 7 then (scopeParts 7 0).find? (fun j => j != k && (partIn (countFault s) j).2 == 0)
      else spareFor (countFault s).mirage.entries k) = some sp := hspare
  simp only [substituted, hcalm', subStopped_countFault, hgo, beq_iff_eq, hspare', Bool.or_self, Bool.false_eq_true, if_false]

theorem substituted_of_haboob {s : State} {k : Nat} (hhaboob : s.repair.haboob = true) : substituted k s = unreplaced k s := by
  simp only [substituted, hhaboob, Bool.true_or, if_true]

/-- The fifth fault within the second raises the haboob condition, which stands already when the action is taken. -/
theorem countedFault_at_limit {act : State → State} {s : State} (hcalm : s.repair.haboob = false)
    (hmany : 5 ≤ (countFault s).repair.faultTimes.length) :
    countedFault act s = raiseHaboob (act { countFault s with repair := { (countFault s).repair with haboob := true } }) := by
  simp only [countedFault, hcalm, hmany, Bool.not_false, decide_true, Bool.and_self, if_true]

/-- A serving phase with a free spare hands it its share. -/
theorem phaseOff_of_spare {s : State} {rail phase sp : Nat} (hserves : (partIn s (partKey 12 rail phase)).2 = 0)
    (hspare : freeSpare s.mirage.entries (partKey 12 rail phase) = some sp) :
    phaseOff rail phase s = changeMap (fun m => replacePart m (partKey 12 rail phase) sp)
      (addFault 12 12 rail phase (partIn s (partKey 12 rail phase)).1 (pack [(0, 8, rail), (8, 8, phase)]) 8 s) := by
  simp only [phaseOff, hserves, hspare, beq_self_eq_true, if_true]

theorem phaseFails_of_serving {s : State} {rail phase : Nat} (hready : ready s = true) (hrail : rail < 6)
    (hphase : phase < (railPhases rail).2) (hserves : (partIn s (partKey 12 rail phase)).2 = 0) :
    phaseFails rail phase s = countedFault (phaseOff rail phase) s := by
  simp only [phaseFails, hready, hrail.not_ge, hphase.not_ge, hserves, Nat.reduceBEq, decide_false, Bool.not_true, Bool.or_self,
    Bool.false_eq_true, if_false]

/-- A changed map goes to flash as the next generation. -/
theorem flashWrite_of_dirty {s : State} (hdirty : s.mirage.dirty = true) :
    flashWrite s =
      (let w := s.mirage.written.map (fun w => { w with gen := s.mirage.gen + 2 })
      let st := storeMap s.mirage.stored
        { gen := s.mirage.gen + 1, subStop := s.mirage.subStop, lastFault := s.mirage.lastFault, entries := s.mirage.entries }
      { s with mirage := { s.mirage with
        gen := s.mirage.gen + 1
        dirty := false
        written := w
        stored := match w with
          | some x => storeMap st x
          | none => st } }) := by
  simp only [flashWrite, hdirty, Bool.not_true, Bool.false_eq_true, if_false] <;> rfl

/-- Settles O48: a failure is a counted fault, below the limit or at it; the rest are single acts. -/
theorem unitFaultCommandsComplete : Obligations.UnitFaultCommandsComplete := by
  unfold Obligations.UnitFaultCommandsComplete
  refine ⟨?spare, ?fifth, ?copied, ?phase, ?flash⟩
  case spare =>
    intro s kind scope phys sp hready hfirst hlast hscope hphys k hkind hserves hcalm hfew hgo hspare
    rw [← hkind] at hspare
    have hrun : unitFaultSt kind scope phys s = replaced k sp (countFault s) := by
      rw [unitFaultSt_of_unit hready hfirst hlast hscope hphys, partFails_of_serving hserves, countedFault_below_limit hfew]
      exact substituted_countFault hcalm hgo hspare
    exact ⟨congrArg Host.Outcome.next hrun, fun hissued => congrArg Host.Outcome.next ((noProgressSt_of_issued hissued).trans hrun)⟩
  case fifth =>
    intro s kind scope phys hready hfirst hlast hscope hphys hcalm k s1 _ hserves hmany
    refine congrArg Host.Outcome.next ?_
    rw [unitFaultSt_of_unit hready hfirst hlast hscope hphys, partFails_of_serving hserves, countedFault_at_limit hcalm hmany,
      substituted_of_haboob rfl]
  case copied => exact fun _ _ => rfl
  case phase =>
    intro s rail phase sp hready hrail hphase k hserves hspare hfew
    refine congrArg Host.Outcome.next ?_
    rw [phaseFails_of_serving hready hrail hphase hserves, countedFault_below_limit hfew]
    exact phaseOff_of_spare (s := countFault s) hserves hspare
  case flash =>
    intro s hdirty w st
    exact congrArg Host.Outcome.next (flashWrite_of_dirty hdirty)

end Sys2Proof.Proofs
end

section
/-! PROOFS. Peers that are lost or retire, and power, presence and resets (R493, R520 to R534, R539, R543). -/

namespace Sys2Proof.Proofs
open Sys2Proof.Machine Sys2Proof.Safety Sys2Proof.Laws

/-! Peers (R493, R529, R531, R534). -/

/-- A neighbour all of whose ports have failed is declared lost, once. -/
theorem peerLossSt_of_down {s : State} {m : Nat} (hneighbour : portsToward s.fabric m ≠ [])
    (hdown : (portsToward s.fabric m).all (fun p => !portServes s.fabric p) = true) (hnew : knownAbsent s m = false) :
    peerLossSt m s = declareLost m s := by
  have hdown' : (portsToward s.fabric m).any (portServes s.fabric) = false := any_eq_false_of_all_not hdown
  simp only [peerLossSt, List.isEmpty_eq_false_iff.2 hneighbour, hdown', hnew, Bool.or_self, Bool.false_eq_true, if_false]

/-- A notice of the loss of another module that is not yet absent declares it lost. -/
theorem lossSt_of_new {s : State} {f : Frame} (htype : f.ftype = 7) (hop : tsp f 128 8 = 16)
    (hnew : knownAbsent s (tsp f 136 16) = false) (hother : tsp f 136 16 ≠ myId s.fabric) :
    lossSt f s = declareLost (tsp f 136 16) (takeFrame f s) := by
  simp only [lossSt, htype, hop, hnew, beq_false_of_ne hother, bne_self_eq_false, Bool.or_self, Bool.false_eq_true, if_false]

/-- A notice of retirement: the peer is leaving, a twin owner says what it takes over, and the ports toward the peer fail. -/
theorem retireSt_of_new {s : State} {f : Frame} (htype : f.ftype = 7) (hop : tsp f 128 8 = 17)
    (hnew : knownAbsent s (tsp f 136 16) = false) (hother : tsp f 136 16 ≠ myId s.fabric) :
    retireSt f s =
      (let m := tsp f 136 16
      let s1 := leaveNow (takeFrame f { s with reductions := { s.reductions with
        leaving := s.reductions.leaving ++ [(m, if tsp f 152 32 = 0xFFFFFFFF then s.run.step else tsp f 152 32)] } })
      let n := match envOf s with
        | none => 0
        | some e => ((shardsOwnedBy e m).filter (fun sh => twinOf s m sh == some e.id)).length
      let s2 := if n = 0 then s1
        else (sendFrames [(none, mkFrame s1.fabric 7 false m 0 [(128, 8, 18), (136, 16, m), (152, 32, n)] [])] s1).1
      (portsToward s2.fabric m).foldl (fun t p => if portServes t.fabric p then portFails p t else t) s2) := by
  simp only [retireSt, htype, hop, hnew, beq_false_of_ne hother, bne_self_eq_false, Bool.or_self, Bool.false_eq_true, beq_iff_eq,
    if_false] <;> rfl

/-- An acknowledgement of this module's retirement counts toward its end. -/
theorem retireAckSt_of_retiring {s : State} {f : Frame} {o : Op} (htype : f.ftype = 7) (hop : tsp f 128 8 = 18)
    (hown : tsp f 136 16 = myId s.fabric) (hat : s.run.retireAt ≠ none) (hretires : retireOp s = some o) :
    retireAckSt f s = retireDone (takeFrame f { s with
      sessions := modOp s.sessions o.sid o.handle (fun o => setProgress (o.progress + tsp f 152 32) o) }) := by
  have hat' : s.run.retireAt.isNone = false := Option.isNone_eq_false_iff.2 (Option.isSome_iff_ne_none.2 hat)
  simp only [retireAckSt, htype, hop, hown, hat', hretires, bne_self_eq_false, Bool.or_self, Bool.false_eq_true, if_false]

/-- Settles O50: each notice past its checks. That the twin answers at receipt, before its ports toward the peer fail, is log entry 47. -/
theorem peerCommandsComplete : Obligations.PeerCommandsComplete := by
  unfold Obligations.PeerCommandsComplete
  refine ⟨?down, ?loss, ?retire, ?ack⟩
  case down =>
    intro s m hneighbour hdown hnew
    exact congrArg Host.Outcome.next (peerLossSt_of_down hneighbour hdown hnew)
  case loss =>
    intro s f htype hop hnew hother
    exact congrArg Host.Outcome.next ((ofType_of_operation _ s htype hop).trans (lossSt_of_new htype hop hnew hother))
  case retire =>
    intro s f htype hop m hnew hother
    exact congrArg Host.Outcome.next ((ofType_of_operation _ s htype hop).trans (retireSt_of_new htype hop hnew hother))
  case ack =>
    intro s f o htype hop hown hat hretires
    exact congrArg Host.Outcome.next ((ofType_of_operation _ s htype hop).trans (retireAckSt_of_retiring htype hop hown hat hretires))

/-! Power, presence and resets (R520 to R528, R539, R543). -/

/-- With good input and the identity's own modulus, the module starts from the bank picked. -/
theorem powerGoodSt_of_good {s : State} {b : BootInputs} {i : Nat} {fb : Bool} (hoff : s.boot.stage = 0) (hgood : powerIsGood s = true)
    (hcool : s.boot.critical = false) (hidentity : b.idModulus = s.settings.idN) (hbank : pickBank b s.firmware = some (i, fb)) :
    powerGoodSt b s = bootOn b i fb (coldClear 1 s) := by
  have hidentity' : b.idModulus = (coldClear 1 s).settings.idN := hidentity
  have hbank' : pickBank b (coldClear 1 s).firmware = some (i, fb) := hbank
  simp only [powerGoodSt, hoff, hgood, hcool, bootUp, hidentity', hbank', beq_self_eq_true, bne_self_eq_false, Bool.not_false,
    Bool.and_self, Bool.false_eq_true, if_false, if_true]

/-- Firmware that has not reached command-ready is remembered as failed, and a cold reset follows. -/
theorem watchdogSt_of_starting {s : State} (hon : 0 < s.boot.stage) (hstarting : s.boot.stage < 8) :
    watchdogSt s =
      (let bank := { bankAt s.firmware s.firmware.active with failedBoot := true }
      coldClear 0 { s with firmware := setBank s.firmware s.firmware.active bank }) := by
  simp only [watchdogSt, beq_false_of_ne hon.ne', hstarting.not_ge, decide_false, Bool.or_self, Bool.false_eq_true, if_false]

section
variable {s : State} {lowNs : Nat} (b : BootInputs) (hpresent : s.boot.present = true) (hpowered : 42000 ≤ s.boot.inputMv)
include hpresent hpowered

/-- A pulse of `RST_N` shorter than 1 ms is counted and ignored. -/
theorem rstRise_short (hshort : lowNs < 1000000) (hon : s.boot.stage ≠ 0) (hcool : s.boot.critical = false) :
    rstRise lowNs b s = { s with scales := { s.scales with shortResets := tick64 s.scales.shortResets } } := by
  simp only [rstRise, hpresent, hpowered.not_gt, hshort, beq_false_of_ne hon, hcool, decide_false, Bool.not_true, Bool.or_self,
    Bool.false_eq_true, if_false, if_true]

/-- From 1 ms to 1 s it is a warm reset. -/
theorem rstRise_warm (hleast : 1000000 ≤ lowNs) (hmost : lowNs < 1000000000) (hready : ready s = true) :
    rstRise lowNs b s = warmReset b s := by
  simp only [rstRise, hpresent, hpowered.not_gt, hleast.not_gt, hmost, hready, decide_false, Bool.not_true, Bool.or_self,
    Bool.false_eq_true, if_false, if_true]

/-- From 1 s on it is a cold reset. -/
theorem rstRise_cold (hlong : 1000000000 ≤ lowNs) :
    rstRise lowNs b s = bootUp b (endAll { s with boot := { s.boot with critical := false } }) := by
  have hleast : ¬ lowNs < 1000000 := by omega
  simp only [rstRise, hpresent, hpowered.not_gt, hleast, hlong.not_gt, decide_false, Bool.not_true, Bool.or_self, Bool.false_eq_true,
    if_false]

end

theorem mateSt_of_absent {s : State} (mv : Nat) (habsent : s.boot.present = false) :
    mateSt mv s = { s with boot := { s.boot with present := true, inputMv := mv } } := by
  simp only [mateSt, habsent, Bool.false_eq_true, if_false]

theorem breakSt_of_present {s : State} (hpresent : s.boot.present = true) :
    breakSt s = powerOff 0 { s with boot := { s.boot with present := false } } := by
  simp only [breakSt, hpresent, Bool.not_true, Bool.false_eq_true, if_false]

theorem undervoltSt_of_low {mv : Nat} (s : State) (hlow : mv < 42000) : undervoltSt mv s = powerOff mv s := by
  simp only [undervoltSt, hlow.not_ge, if_false]

theorem overvoltSt_of_high {mv : Nat} (s : State) (hhigh : 56000 < mv) : overvoltSt mv s = powerOff mv s := by
  simp only [overvoltSt, hhigh.not_ge, if_false]

/-- An overcurrent enters its fault, ends what a cold reset ends, and switches the module off. -/
theorem tripSt_of_over {s : State} {ma : Nat} (hover : 96000 < ma) (hon : s.boot.stage ≠ 0) :
    tripSt ma s = powerOff s.boot.inputMv (endAll (addOpenEvent 0 0 0 0xFFFF s)) := by
  simp only [tripSt, hover.not_ge, beq_false_of_ne hon, decide_false, Bool.or_self, Bool.false_eq_true, if_false]

/-- A critical temperature enters its fault and stops the converters until a cold reset. -/
theorem criticalSt_of_hot {s : State} {kind tempC : Nat} (index : Nat) (hon : s.boot.stage ≠ 0) (hhot : criticalTemp kind ≤ tempC) :
    criticalSt kind index tempC s =
      (let s1 := endAll (addOpenEvent (if kind = 1 then 9 else 0) 0 (if kind = 1 then index else 0) 0xFFFF s)
      coldClear 9 { s1 with boot := { s1.boot with critical := true } }) := by
  simp only [criticalSt, beq_false_of_ne hon, hhot.not_gt, beq_iff_eq, decide_false, Bool.or_self, Bool.false_eq_true, if_false]

/-- Settles O51: each event past its conditions. Start-up as one act, what a reset clears, and what is written before one are log entries
39, 85 and 101; the number of a trip's event is free (log entry 6). -/
theorem supplyAndResetCommandsComplete : Obligations.SupplyAndResetCommandsComplete := by
  unfold Obligations.SupplyAndResetCommandsComplete
  refine ⟨?good, ?watchdog, ?reset, ?mate, ?removal, ?undervoltage, ?overvoltage, ?trip, ?critical⟩
  case good =>
    intro s b i fb hoff hgood hcool hidentity hbank
    exact congrArg Host.Outcome.next (powerGoodSt_of_good hoff hgood hcool hidentity hbank)
  case watchdog =>
    intro s hon hstarting
    exact congrArg Host.Outcome.next (watchdogSt_of_starting hon hstarting)
  case reset =>
    intro s lowNs b hpresent hpowered
    refine ⟨?_, ?_, ?_⟩
    · intro hshort hon hcool
      exact congrArg Host.Outcome.next (rstRise_short b hpresent hpowered hshort hon hcool)
    · intro hleast hmost hready
      exact congrArg Host.Outcome.next (rstRise_warm b hpresent hpowered hleast hmost hready)
    · intro hlong
      exact congrArg Host.Outcome.next (rstRise_cold b hpresent hpowered hlong)
  case mate =>
    intro s mv habsent
    exact congrArg Host.Outcome.next (mateSt_of_absent mv habsent)
  case removal =>
    intro s hpresent
    exact congrArg Host.Outcome.next (breakSt_of_present hpresent)
  case undervoltage =>
    intro s mv hlow
    exact congrArg Host.Outcome.next (undervoltSt_of_low s hlow)
  case overvoltage =>
    intro s mv hhigh
    exact congrArg Host.Outcome.next (overvoltSt_of_high s hhigh)
  case trip =>
    intro s ma hover hon
    exact congrArg Host.Outcome.next (tripSt_of_over hover hon)
  case critical =>
    intro s kind index tempC hon hhot
    exact congrArg Host.Outcome.next (criticalSt_of_hot index hon hhot)

end Sys2Proof.Proofs
end
